-- ==== Sys2Proof/Word.lean ====
section
/-!
DEFINITION. Sys2Proof/Word.lean: the word types, the sparse store, and the operand vocabulary shared by the
commands and the state. Numbering of units follows 00_scope.md R3; bit numbering R4; byte order R5.
-/

namespace Sys2Proof

abbrev Byte := BitVec 8
abbrev Word := BitVec 64

/-- Hummock g = 12·s + h, sector s, DZ port p, HBM stack, firmware processor (R3, R362). -/
abbrev Hum := Fin 96
abbrev Sec := Fin 8
abbrev PortIx := Fin 16
abbrev Stack := Fin 24
abbrev Proc := Fin 12

/-- A sparse table: keys strictly rising, no entry equal to the default that an unlisted key reads as. -/
abbrev Store (α : Type) := List (Nat × α)

/-- Who makes a register access (R456). -/
inductive Master where
  | host    -- the host through BAR0: privileged, not secure
  | page    -- the host through a BAR4 page: neither
  | fw      -- SCP, FEP, FCP, PWP: privileged, not secure
  | mgp     -- the MGP, or an authenticated MCTP session through it: privileged and secure
  | seqr    -- a sequencer: neither
  deriving DecidableEq, Repr

/-- The path a Lerkar packet takes (R270, R286, R399), or the MGP that issues it itself (R278). -/
inductive Path where
  | ring | mailbox
  | session (sid : Nat)
  | mgp
  deriving DecidableEq, Repr

/-- The header of a Lerkar packet (R271) as the device reads it; `rsvd` says that some reserved field of the
header or of the parameters is not zero (R276 BAD_PARAM). -/
structure Hdr where
  path : Path
  irq  : Bool
  ctx  : BitVec 6
  seq  : BitVec 64
  len  : Nat
  rsvd : Bool
  deriving DecidableEq, Repr

/-- A packet's header with the opcode that it spells (R272; log 138). -/
structure OpHdr where
  hdr : Hdr
  opc : BitVec 8
  deriving DecidableEq, Repr

/-- Fields of WMOVE, WCONV and WRED (R170). -/
structure WeirFields where
  tds : BitVec 6
  tdd : BitVec 6
  sfmt : BitVec 12
  dfmt : BitVec 12
  srck : BitVec 2
  tile : BitVec 4
  dstk : Bool
  dtile : BitVec 4
  xq : BitVec 5
  shr : Bool
  clr : Bool
  deriving DecidableEq, Repr

/-- Fields of CSEND (R170). -/
structure SendFields where
  tds : BitVec 6
  tdd : BitVec 6
  fmt : BitVec 12
  red : Bool
  xq : BitVec 5
  slu : BitVec 15
  sig : Bool
  deriving DecidableEq, Repr

/-- Fields of ROP other than ROPC (R170, R191). -/
structure RopFields where
  tda : BitVec 6
  tdb : BitVec 6
  tdd : BitVec 6
  xf : BitVec 5
  tdc : BitVec 6
  xs : BitVec 5
  xp : BitVec 5
  srck : BitVec 2
  tile : BitVec 4
  brow : Bool
  p64 : Bool
  deriving DecidableEq, Repr

/-- Fields of LPASS (R80). -/
structure PassFields where
  mask : BitVec 4
  td : BitVec 6
  afmt : BitVec 12
  mm1 : BitVec 16
  tile : BitVec 4
  out : Bool
  ring : BitVec 3
  clr : Bool
  shr : Bool
  dest : Bool
  deriving DecidableEq, Repr

/-- Fields of SCFG (R107). -/
structure ScfgFields where
  tile : BitVec 4
  pslot : BitVec 3
  bind : Bool
  sm1 : BitVec 6
  lsum : Bool
  pclr : Bool
  xk : BitVec 5
  xc : BitVec 5
  deriving DecidableEq, Repr

/-- A commit message (R252); TYPE is the command that carries it. -/
structure CommitMsg where
  info : BitVec 8
  acause : BitVec 8
  att : BitVec 16
  cntm1 : BitVec 16
  mepoch : BitVec 64
  epoch : BitVec 64
  src : BitVec 15
  deriving DecidableEq, Repr

/-- A Causeway packet (R317). `flagRsvd` says that some reserved bit of the header is set (R318). -/
structure Packet where
  type : BitVec 8
  vc : BitVec 2
  cls : Bool
  last : Bool
  sig : Bool
  ord : Bool
  enc : Bool
  flagRsvd : Bool
  len : BitVec 13
  dst : BitVec 15
  src : BitVec 15
  ctx : BitVec 6
  hops : BitVec 8
  att : BitVec 16
  epoch : BitVec 32
  xidx : BitVec 32
  xid : BitVec 16
  slu : BitVec 15
  addr : BitVec 64
  payload : List Byte
  deriving DecidableEq, Repr

/-- What a link frame carries (R321, R331, R336): a packet, or control information. -/
inductive FrameBody where
  | packet (pkt : Packet)
  | credit (vc : BitVec 2) (cls : Bool)
  | mepoch (v : BitVec 64)
  | ackOnly
  deriving DecidableEq, Repr

/-- What a received link frame shows of itself (R331, R337; 16 R419): its CRC, the tag of a port that runs with GCM, and how many
of the FEC codewords that it overlaps were corrected and could not be. -/
structure FrameCheck where
  crc : BitVec 32
  tag : List Byte
  corrected : Nat
  uncorrectable : Nat
  deriving DecidableEq, Repr

/-- The arguments of a log entry, and whether the host takes the write of it to the mirror, where one is made (R392, R394). -/
structure LogIn where
  args : List (BitVec 64)
  taken : Bool
  deriving DecidableEq, Repr

/-- Answers of the host to a DMA or posted write of the device (R284, R308, R462). -/
inductive DmaResp where
  | unsupported | completerAbort
  deriving DecidableEq, Repr

/-- Why a port loses its signal (R332, R447): loss of signal, loss of FEC alignment, or a lane fault (R334). -/
inductive LossKind where
  | signal | fec
  | lane (faulty : BitVec 2)
  deriving DecidableEq, Repr

/-- What the CMIS memory of a cable module answers (R403); none: it cannot be read. -/
structure ModuleInfo where
  ident : List Byte
  maxp : BitVec 8
  deriving DecidableEq, Repr

/-- The monitored points of R345. -/
inductive HangPoint where
  | station (g : Hum) (cls : BitVec 8)  -- an unretired instruction of a station, with its unit class (R362)
  | sequencer (g : Hum)
  | sectorMem (s : Sec)
  | orbFull (s : Sec)
  | translation (s : Sec)
  | meshCrossing (lower upper : Sec)
  | hubRouter (port : PortIx)
  deriving DecidableEq, Repr

/-- A running level of the ladder (R348). -/
inductive LevelKey where
  | context (stuck : List Hum)
  | engine (g : Hum)
  | sector (s : Sec)
  | chip
  deriving DecidableEq, Repr

/-- An access that waits at a bridge: its master, and whether it reads (R365, R366; log 131). -/
structure BridgeAcc where
  m : Master
  read : Bool
  deriving DecidableEq, Repr

/-- The unit behind a bridge (R365, R366). -/
inductive BridgeUnit where
  | hummock (g : Hum) | sector (s : Sec) | hub
  deriving DecidableEq, Repr

/-- The bindings on which MCTP runs (R399, R486), the DOE mailbox (R480), and MGMT packets from another device's MGP (R400). -/
inductive Binding where
  | smbus | i3c | pcie | doe
  | causeway (src : BitVec 15)
  deriving DecidableEq, Repr

/-- Reference clocks (R447). -/
inductive RefClock where
  | sysXtal | pcie | dz
  deriving DecidableEq, Repr

/-- Causes of a host link reset (R482). -/
inductive LinkResetCause where
  | perst | hotReset | linkDisable | dataLinkLoss
  deriving DecidableEq, Repr

/-- What KEY_PUT installs (R409, R415, R419, R479). -/
inductive KeyTarget where
  | xts (kref : BitVec 32)
  | ide (stream : BitVec 2) (tx : Bool) (keySet : Bool)
  | gcm (port : PortIx)
  deriving DecidableEq, Repr

/-- One sensor reading (R401): none when the sensor did not answer. -/
structure Reading where
  value : BitVec 16
  cur : BitVec 16
  deriving DecidableEq, Repr

/-- A BAR2 access (R451, R453, R458): a read, a write of every byte, a write under byte enables, none where a byte is not enabled, or
a write that arrives poisoned (19 R476). -/
inductive Bar2Op where
  | read (len : Nat)
  | write (bytes : List Byte)
  | masked (bytes : List (Option Byte))
  | poisoned (len : Nat)
  deriving DecidableEq, Repr

/-- Where a register access goes: BAR0, a BAR4 page offset, PCIe configuration space and the state of it that R475 to R477, R479 and
R480 name, or a processor's own always-on status word (14 R367), with the processor as its offset. -/
inductive RegSpace where
  | bar0 | bar4 | config | linkStatus | bar2Size | ideEnable | powerState | doeStatus | procStatus
  deriving DecidableEq, Repr

/-- A read, a write of a value, a read or write of another size than 4 or 8 bytes (R453), or a write that arrives poisoned (19 R476). -/
inductive RegOp where
  | read
  | write (v : BitVec 64)
  | oddRead | oddWrite | poisoned
  deriving DecidableEq, Repr

/-- The contact faults of R501 found on one contact. -/
structure ContactFault where
  code : BitVec 8
  isOpen : Bool
  low : Bool
  high : Bool
  deriving DecidableEq, Repr

/-- What the board presents when standby power becomes good (R500, R502, R404). -/
structure BoardIn where
  strapBist : Bool
  strapTest : Bool
  smbAddr : BitVec 2
  fru : Option (List Byte)               -- the FRU EEPROM's bytes, where it can be read (R404)
  slotAOk : Bool                         -- slot A verifies (R385)
  slotBOk : Bool
  deriving DecidableEq, Repr

/-- One BIST unit's outcome (R420, R421). -/
structure BistUnit where
  misr : BitVec 256
  fails : BitVec 32
  deriving DecidableEq, Repr

/-- The ten core rails, by the number of their monitor (R493). -/
abbrev CoreRail := Fin 10

/-- What a core rail does (R494, R495): it passes 10 % of nominal on its way up, it comes within tolerance, it falls below 10 %. -/
inductive RailMove where
  | rises | settles | falls
  deriving DecidableEq, Repr

/-- Core power is applied (R495): what its rails do, in order, and the results of a strap BIST where one runs. -/
structure PowerUp where
  rails : List (CoreRail × RailMove)
  bist : List BistUnit
  deriving DecidableEq, Repr

/-- Buses with a clock-low timeout (R501). -/
inductive SlowBus where
  | smbus | boardI2c
  deriving DecidableEq, Repr

/-- A message within an open session, as its record comes (16 R410): the session, the ciphertext and the tag. What it deciphers to is the
row's other operands, whose layout is the standards' (log 140). -/
structure SessIn where
  id : Nat
  cipher : List Byte
  tag : List Byte
  deriving DecidableEq, Repr

end Sys2Proof
end

