-- ==== Sys2Proof/Syntax.lean ====
section
/-!
DEFINITION. Sys2Proof/Syntax.lean: the commands, one constructor per row of spec/opcode_table.json, in the
table's order. Operands are the row's fields as the rule it names gives them.
-/

namespace Sys2Proof

inductive Instr where
  -- the sequencer (07_stations_and_programs.md R168, R169)
  | nopInstr (g : Hum)
  | endProg (g : Hum)
  | waitp (g : Hum)
  | fence (g : Hum) (mask : BitVec 4)
  | br (g : Hum) (imm : BitVec 32)
  | brc (g : Hum) (xa xb : BitVec 5) (cond : BitVec 3) (imm : BitVec 32)
  | loop (g : Hum) (xd : BitVec 5) (imm : BitVec 32)
  | li (g : Hum) (xd : BitVec 5) (imm : BitVec 32)
  | lui (g : Hum) (xd : BitVec 5) (imm : BitVec 32)
  | add (g : Hum) (xd xa xb : BitVec 5) (imm : BitVec 32)
  | sub (g : Hum) (xd xa xb : BitVec 5) (imm : BitVec 32)
  | and (g : Hum) (xd xa xb : BitVec 5) (imm : BitVec 32)
  | or (g : Hum) (xd xa xb : BitVec 5) (imm : BitVec 32)
  | xor (g : Hum) (xd xa xb : BitVec 5) (imm : BitVec 32)
  | shl (g : Hum) (xd xa xb : BitVec 5) (imm : BitVec 32)
  | shr (g : Hum) (xd xa xb : BitVec 5) (imm : BitVec 32)
  | mul (g : Hum) (xd xa xb : BitVec 5) (imm : BitVec 32)
  | pld (g : Hum) (xd xa : BitVec 5) (imm : BitVec 32)
  | srd (g : Hum) (xd : BitVec 5) (imm : BitVec 32)
  | swr (g : Hum) (xa : BitVec 5) (imm : BitVec 32)
  | dset (g : Hum) (td : BitVec 6) (imm : BitVec 32)
  | dpatch (g : Hum) (td : BitVec 6) (field : BitVec 4) (xa : BitVec 5)
  | dadd (g : Hum) (td : BitVec 6) (xa xb : BitVec 5)
  | signal (g : Hum) (slu : BitVec 15) (inc : BitVec 16) (rem : Bool) (rank : BitVec 15) (wmask : BitVec 4)
  | wait (g : Hum) (slu : BitVec 15) (thr : BitVec 32) (cons : Bool)
  -- station instructions (R79, R80, R107, R170, R191)
  | lload (g : Hum) (lat : BitVec 2) (td : BitVec 6) (wfmt : BitVec 12) (km1 : BitVec 9) (nm1 : BitVec 8)
  | lpass (g : Hum) (f : PassFields)
  | scfg (g : Hum) (f : ScfgFields)
  | sspill (g : Hum) (tile : BitVec 4)
  | sclr (g : Hum) (tile : BitVec 4) (cpeat : Bool)
  | wmove (g : Hum) (f : WeirFields)
  | wconv (g : Hum) (f : WeirFields)
  | wred (g : Hum) (f : WeirFields)
  | csend (g : Hum) (f : SendFields)
  | ropAdd (g : Hum) (f : RopFields)
  | ropSub (g : Hum) (f : RopFields)
  | ropMul (g : Hum) (f : RopFields)
  | div (g : Hum) (f : RopFields)
  | fma (g : Hum) (f : RopFields)
  | axpb (g : Hum) (f : RopFields)
  | sqrt (g : Hum) (f : RopFields)
  | recip (g : Hum) (f : RopFields)
  | rsqrt (g : Hum) (f : RopFields)
  | exp (g : Hum) (f : RopFields)
  | exp2 (g : Hum) (f : RopFields)
  | log (g : Hum) (f : RopFields)
  | log2 (g : Hum) (f : RopFields)
  | tanh (g : Hum) (f : RopFields)
  | sigmoid (g : Hum) (f : RopFields)
  | gelu (g : Hum) (f : RopFields)
  | max (g : Hum) (f : RopFields)
  | min (g : Hum) (f : RopFields)
  | maxnum (g : Hum) (f : RopFields)
  | minnum (g : Hum) (f : RopFields)
  | cvt (g : Hum) (f : RopFields)
  | rope (g : Hum) (f : RopFields)
  | rsum (g : Hum) (f : RopFields)
  | rmax (g : Hum) (f : RopFields)
  | rssq (g : Hum) (f : RopFields)
  | lnorm (g : Hum) (f : RopFields)
  | rmsn (g : Hum) (f : RopFields)
  | smxr (g : Hum) (f : RopFields)
  | smxb (g : Hum) (f : RopFields)
  | aupd (g : Hum) (f : RopFields)
  | amrg (g : Hum) (f : RopFields)
  | anorm (g : Hum) (f : RopFields)
  | xent (g : Hum) (f : RopFields)
  -- steps of the hummock's engines
  | instructionRetire (g : Hum) (pos : Fin 32)
  | signalAtHome (g : Hum)
  | lloadStart (g : Hum) (lat : BitVec 2)
  | lloadComplete (g : Hum) (lat : BitVec 2)
  | lpassStart (g : Hum)
  | lpassCommit (g : Hum)
  | spillComplete (g : Hum) (tile : BitVec 4)
  | streamGroupCommit (g : Hum)
  | streamGroupAck (g : Hum) (tile : BitVec 4)
  | placement (g : Hum) (lhum : BitVec 7)
  -- the commit protocol (10_epoch_memory_and_commit.md)
  | dispatch
  | localPrepare
  | prepare (m : CommitMsg)
  | commit (m : CommitMsg)
  | abort (m : CommitMsg)
  | abortReq (m : CommitMsg)
  | query (m : CommitMsg)
  | answer (m : CommitMsg)
  | prepareTimeout
  | decideTimeout
  | sweepDone
  | frameCopyDone (sec : Sec) (frame : BitVec 18)
  -- base dies (09_memory.md)
  | srefEntry (stack : Stack)
  | patrolScrubStep (sec : Sec)
  | trInvalidate (m : Master)
  | trInvalidateDone
  | orbCommit (m : Master) (sec : Sec)
  | orbChangeTakesEffect (sec : Sec)
  | ownMapWrite (m : Master) (sec : Sec)
  | frameZeroDone (sec : Sec) (frame : BitVec 18)
  | epLookup (m : Master) (sec : Sec) (frame : BitVec 18)
  | reduceContribution (pos : Nat)
  -- the Causeway (13_causeway_fabric.md)
  | packetForward (ingress : Option PortIx) (pkt : Packet)
  | writePacket (pkt : Packet)
  | reducePacket (pkt : Packet)
  | signalPacket (pkt : Packet)
  | ackPacket (pkt : Packet)
  | mgmtPacket (pkt : Packet)
  | linkFrame (p : PortIx) (seq : BitVec 12) (chk : FrameCheck) (ack : Option (BitVec 12)) (body : FrameBody)
  | nak (p : PortIx) (seq : BitVec 12)
  | linkAckTimeout (p : PortIx)
  | lossOfSignal (p : PortIx) (kind : LossKind)
  | moduleInsert (p : PortIx) (info : Option ModuleInfo)
  | moduleRemove (p : PortIx)
  | detectDone (p : PortIx) (opens shorts rxlos : BitVec 2)
  | trainingDone (p : PortIx) (polinv : BitVec 2) (lswap : Bool) (failed : BitVec 2)
  | exchangeDone (p : PortIx) (pid : BitVec 15) (pport : BitVec 4) (sizes : BitVec 15) (mepoch : BitVec 64)
  | portRetryTimeout (p : PortIx)
  | portEnable (m : Master) (p : PortIx) (en : Bool)
  | portDrain (m : Master) (p : PortIx)
  | portResume (m : Master) (p : PortIx)
  | portDrained (p : PortIx)
  | rtCommit (m : Master)
  | rtCommitTakesEffect
  | cwyIdWrite (m : Master) (v : BitVec 64)
  | highWaterWindow
  -- Lerkar packets (11_command_packets.md R279) and the rings
  | nop (h : OpHdr)
  | ctxOpen (h : Hdr) (tctx : BitVec 8)
  | ctxClose (h : Hdr) (tctx : BitVec 8)
  | ctxAbort (h : Hdr) (tctx : BitVec 8)
  | sluiceRange (h : Hdr) (tctx : BitVec 8) (base count : BitVec 16)
  | sluiceSet (h : Hdr) (slu : BitVec 16) (count : BitVec 32)
  | sluiceSignal (h : Hdr) (slu : BitVec 16) (inc : BitVec 32)
  | sluiceRead (h : Hdr) (slu : BitVec 16)
  | watchArm (h : Hdr) (tag : BitVec 32) (p n : BitVec 16)
  | completionFlush (h : Hdr) (fail : Option (BitVec 16 × DmaResp))
  | launch (h : Hdr) (image params watch seed : BitVec 64) (deadline : BitVec 32) (inline : List Byte)
  | doorbellLaunch (ctx : BitVec 6) (slot : BitVec 4)
  | graphRegister (h : Hdr) (gid : BitVec 16) (ctxmask image params : BitVec 64)
  | graphPatch (h : Hdr) (gid : BitVec 16) (offset size : BitVec 32) (src : BitVec 64) (inline : List Byte)
  | graphRetire (h : Hdr) (gid : BitVec 16)
  | membership (h : Hdr) (rec : BitVec 64)
  | quiesce (h : Hdr)
  | admitLaunch (h : Hdr)
  | reset (h : Hdr) (level target : BitVec 8)
  | sensorRead (h : Hdr) (first count : BitVec 8) (dst : BitVec 64)
  | logRead (h : Hdr) (offset : BitVec 64) (size : BitVec 32) (dst : BitVec 64)
  | bistRun (h : Hdr) (kind scope target : BitVec 8) (dst : BitVec 64)
  | fwActivate (h : Hdr) (slot : BitVec 8)
  | sealCtx (h : Hdr) (tctx : BitVec 8) (kref : BitVec 32)
  | unsealCtx (h : Hdr) (tctx : BitVec 8)
  | frameOwn (h : Hdr) (sector tctx fl : BitVec 8) (first count : BitVec 32)
  | feRingEnable (m : Master) (v : BitVec 64)
  | ringDmaFailed (reply : Bool) (resp : DmaResp)
  | ringResume (m : Master)
  | completionRecordWrite (ctx : BitVec 6)
  | completionWriteFailed (ctx : BitVec 6) (resp : DmaResp)
  | cplRingEnable (m : Master) (ctx : BitVec 6) (v : BitVec 64)
  | deadlineExpiry (launch : Nat)
  -- hangs, resets and recovery (14_hangs_resets_recovery.md)
  | hangDeclared (pt : HangPoint)
  | levelEscalation (k : LevelKey)
  | contextAbortComplete (us : BitVec 32)
  | engineResetComplete (g : Hum) (us : BitVec 32)
  | sectorResetComplete (sec : Sec) (us : BitVec 32)
  | chipResetComplete (us : BitVec 32)
  | containmentTimeout (stuck : List Hum)
  | bridgeTimeout (acc : BridgeAcc) (unit : BridgeUnit)
  | errResetChip (m : Master)
  | errResetPwrcyc (m : Master)
  -- firmware (15_firmware.md)
  | watchdogFire (i : Proc) (pc tcause : BitVec 64) (codeOk : Bool)
  | fwReady (i : Proc) (us : BitVec 32)
  | fwRecoveryTimeout (i : Proc)
  | activationStart
  | handoffTimeout
  | logEntry (idx sev : BitVec 8) (tp : BitVec 16) (code : BitVec 32) (lcnt : BitVec 64) (args : LogIn)
  | logMirrorEnable (m : Master) (v : BitVec 64)
  -- management (16_management_security_test.md, 19_host_and_sideband.md)
  | sensorSample (readings : List (Option Reading))
  | moduleReadRetry (p : PortIx) (info : Option ModuleInfo)
  | queryDeviceIdentifiers (b : Binding)
  | getFirmwareParameters (b : Binding)
  | requestUpdate (b : Binding)
  | passComponentTable (b : Binding) (comp : BitVec 16)
  | updateComponent (b : Binding) (comp : BitVec 16) (size : BitVec 32)
  | requestFirmwareData (b : Binding) (offset : BitVec 32) (data : List Byte)
  | activateFirmware (b : Binding)
  | getStatus (b : Binding)
  | cancelUpdateComponent (b : Binding)
  | cancelUpdate (b : Binding)
  | getVersion (b : Binding)
  | getCapabilities (b : Binding)
  | negotiateAlgorithms (b : Binding)
  | getDigests (b : Binding)
  | getCertificate (b : Binding)
  | challenge (b : Binding)
  | getMeasurements (b : Binding)
  | sessOpen (b : Binding) (nonce : BitVec 256)
  | sessKey (b : Binding) (sid : Nat) (ct : List Byte) (sig : Option (List Byte))
  | sessClose (b : Binding) (sid : SessIn)
  | sessionTimeout (sid : Nat)
  | getReport (b : Binding) (nonce : BitVec 256)
  | getChain (b : Binding) (offset length : BitVec 32)
  | keyPut (b : Binding) (sid : SessIn) (tgt : KeyTarget) (key : BitVec 512)
  | fmkeySet (b : Binding) (sid : SessIn) (key : BitVec 512) (sig : Option (List Byte))
  | fmkeyClear (b : Binding) (sid : SessIn)
  | egress (b : Binding) (sid : SessIn) (ctx : BitVec 6) (sec : Sec) (first count : BitVec 18) (addr : BitVec 64)
  | ingress (b : Binding) (sid : SessIn) (ctx : BitVec 6) (sec : Sec) (first count : BitVec 18) (addr : BitVec 64)
  | cmd (b : Binding) (sid : SessIn) (packet : List Byte)
  | setEndpointId (b : Binding) (eid : BitVec 8)
  | getEndpointId (b : Binding)
  | getEndpointUuid (b : Binding)
  | getMctpVersionSupport (b : Binding) (msgType : BitVec 8)
  | getMessageTypeSupport (b : Binding)
  | getVendorDefinedMessageSupport (b : Binding) (selector : BitVec 8)
  | mctpRelay (b : Binding) (eid : BitVec 8) (dst : BitVec 16) (payload : List Byte)
  | doeDiscovery (index : BitVec 8)
  | doeAbort
  -- power and clocks (17_power_and_clocks.md)
  | opPointRequest (m : Master) (point : BitVec 2)
  | pacedRequest (m : Master) (paced : Bool)
  | opLowerTakesEffect
  | pacedTakesEffect
  | setpointRampDone
  | pacePermit (sec : Sec)
  | capWrite (m : Master) (w : BitVec 13)
  | capTick (watts coreA : BitVec 16)
  | idleGateTimeout (g : Hum)
  | wakeRequest (g : Hum)
  | wakeTokenGrant
  | wakeComplete (g : Hum)
  | prochotN (level : Bool)
  | powerOverLimit (isOver : Bool)
  | clampRelease (us : BitVec 32)
  | clockLoss (clk : RefClock)
  -- configuration integrity, events and the host (18_register_interface.md, 19_host_and_sideband.md)
  | cipCfgOpen (m : Master) (mask : BitVec 10)
  | cipCfgCommit (m : Master) (mask : BitVec 10)
  | configCheckPass (region : Fin 10)
  | driftRewriteDone (region : Fin 10)
  | eventQueueWrite (q : Fin 2)
  | eventWriteFailed (q : Fin 2) (resp : DmaResp)
  | eqHeadWrite (m : Master) (q : Fin 2) (idx : BitVec 16)
  | eqEnable (m : Master) (q : Fin 2) (v : BitVec 64)
  | hostLinkReset (cause : LinkResetCause)
  | hostLinkUp
  | bar2Access (offset : BitVec 42) (op : Bar2Op)
  | bar2StallTimeout
  | humBlockRead (m : Master) (g : Hum) (offset : BitVec 19)
  | msixUnmask (vec : BitVec 11)
  | ideIntegrityFailure (stream : BitVec 2)
  | registerWrite (m : Master) (space : RegSpace) (offset : BitVec 26) (half : Option Bool) (op : RegOp)
  -- board and start-up (20_board_and_start_up.md)
  | standbyPowerGood (b : BoardIn)
  | powerOnHoldRelease (up : PowerUp)
  | corePowerLoss (rail : CoreRail)
  | standbyPowerLoss
  | contactCheck (faults : List ContactFault)
  | smbusTimeout (bus : SlowBus)
  | localCommitComplete
  | localRollbackComplete
  | hbmTrainingDone (failed : BitVec 24)
  | discoveryTimeout
  | verifyComplete (sigOk : Bool)
  | bistComplete (units : List BistUnit)
  | egressIngressDone (done : BitVec 18) (data : List Byte)
  | entdaa (addr : BitVec 7)
  | setdasa (addr : BitVec 7)
  deriving DecidableEq, Repr

end Sys2Proof
end

