-- ==== Sys2Proof/Decode.lean ====
section
/-!
DEFINITION. Sys2Proof/Decode.lean: decodeTableWord over the rows of spec/opcode_table.json that give bits (none does),
and the 64-bit words of the sequencer (07 R167 to R170, R176, R177; 03 R79, R80; 04 R107; 08 R191, R194): a decoder,
total on any word, and an encoder.
-/

namespace Sys2Proof

/-- No row of spec/opcode_table.json gives bits, so no word spells a command. -/
def decodeTableWord (_nbits _w : Nat) : Option Instr := none

/-- Fields [55:0] of WMOVE, WCONV and WRED (R170). -/
def weirOfWord (w : BitVec 64) : WeirFields :=
  { tds := w.extractLsb' 50 6, tdd := w.extractLsb' 44 6, sfmt := w.extractLsb' 32 12, dfmt := w.extractLsb' 20 12
    srck := w.extractLsb' 18 2, tile := w.extractLsb' 14 4, dstk := w.getLsbD 13, dtile := w.extractLsb' 9 4
    xq := w.extractLsb' 4 5, shr := w.getLsbD 3, clr := w.getLsbD 2 }

def sendOfWord (w : BitVec 64) : SendFields :=
  { tds := w.extractLsb' 50 6, tdd := w.extractLsb' 44 6, fmt := w.extractLsb' 32 12, red := w.getLsbD 31
    xq := w.extractLsb' 26 5, slu := w.extractLsb' 11 15, sig := w.getLsbD 10 }

/-- R170 [55:30] and R191 [29:0]; ROPC is [37:30]. -/
def ropOfWord (w : BitVec 64) : RopFields :=
  { tda := w.extractLsb' 50 6, tdb := w.extractLsb' 44 6, tdd := w.extractLsb' 38 6, xf := w.extractLsb' 25 5
    tdc := w.extractLsb' 19 6, xs := w.extractLsb' 14 5, xp := w.extractLsb' 9 5, srck := w.extractLsb' 7 2
    tile := w.extractLsb' 3 4, brow := w.getLsbD 2, p64 := w.getLsbD 1 }

def passOfWord (w : BitVec 64) : PassFields :=
  { mask := w.extractLsb' 52 4, td := w.extractLsb' 46 6, afmt := w.extractLsb' 34 12, mm1 := w.extractLsb' 18 16
    tile := w.extractLsb' 14 4, out := w.getLsbD 13, ring := w.extractLsb' 10 3, clr := w.getLsbD 9
    shr := w.getLsbD 8, dest := w.getLsbD 7 }

def scfgOfWord (w : BitVec 64) : ScfgFields :=
  { tile := w.extractLsb' 52 4, pslot := w.extractLsb' 49 3, bind := w.getLsbD 48, sm1 := w.extractLsb' 42 6
    lsum := w.getLsbD 41, pclr := w.getLsbD 40, xk := w.extractLsb' 35 5, xc := w.extractLsb' 30 5 }

/-- The Reed operation of an ROPC (R194); none for a reserved code. -/
def decodeRopc (g : Hum) (c : BitVec 8) (f : RopFields) : Option Instr :=
  if c = 0x00 then some (.ropAdd g f) else if c = 0x01 then some (.ropSub g f)
  else if c = 0x02 then some (.ropMul g f) else if c = 0x03 then some (.div g f)
  else if c = 0x04 then some (.fma g f) else if c = 0x05 then some (.axpb g f)
  else if c = 0x06 then some (.sqrt g f) else if c = 0x07 then some (.recip g f)
  else if c = 0x08 then some (.rsqrt g f) else if c = 0x09 then some (.exp g f)
  else if c = 0x0A then some (.exp2 g f) else if c = 0x0B then some (.log g f)
  else if c = 0x0C then some (.log2 g f) else if c = 0x0D then some (.tanh g f)
  else if c = 0x0E then some (.sigmoid g f) else if c = 0x0F then some (.gelu g f)
  else if c = 0x10 then some (.max g f) else if c = 0x11 then some (.min g f)
  else if c = 0x12 then some (.maxnum g f) else if c = 0x13 then some (.minnum g f)
  else if c = 0x14 then some (.cvt g f) else if c = 0x18 then some (.rope g f)
  else if c = 0x20 then some (.rsum g f) else if c = 0x21 then some (.rmax g f)
  else if c = 0x22 then some (.rssq g f) else if c = 0x24 then some (.lnorm g f)
  else if c = 0x25 then some (.rmsn g f) else if c = 0x28 then some (.smxr g f)
  else if c = 0x29 then some (.smxb g f) else if c = 0x2A then some (.aupd g f)
  else if c = 0x2B then some (.amrg g f) else if c = 0x2C then some (.anorm g f)
  else if c = 0x30 then some (.xent g f) else none

/-- The command that hummock g's sequencer carries out for the word w (R167, R168); none for a reserved opcode or a
reserved ROPC. -/
def decodeSeqWord (g : Hum) (w : BitVec 64) : Option Instr :=
  let opc := w.extractLsb' 56 8
  let xd := w.extractLsb' 51 5
  let xa := w.extractLsb' 46 5
  let xb := w.extractLsb' 41 5
  let imm := w.extractLsb' 0 32
  let td := w.extractLsb' 50 6
  if opc = 0x00 then some (.nopInstr g)
  else if opc = 0x01 then some (.endProg g)
  else if opc = 0x02 then some (.waitp g)
  else if opc = 0x03 then some (.fence g (w.extractLsb' 52 4))
  else if opc = 0x08 then some (.br g imm)
  else if opc = 0x09 then some (.brc g xa xb (w.extractLsb' 38 3) imm)
  else if opc = 0x0A then some (.loop g xd imm)
  else if opc = 0x10 then some (.li g xd imm)
  else if opc = 0x11 then some (.lui g xd imm)
  else if opc = 0x12 then some (.add g xd xa xb imm)
  else if opc = 0x13 then some (.sub g xd xa xb imm)
  else if opc = 0x14 then some (.and g xd xa xb imm)
  else if opc = 0x15 then some (.or g xd xa xb imm)
  else if opc = 0x16 then some (.xor g xd xa xb imm)
  else if opc = 0x17 then some (.shl g xd xa xb imm)
  else if opc = 0x18 then some (.shr g xd xa xb imm)
  else if opc = 0x19 then some (.mul g xd xa xb imm)
  else if opc = 0x1A then some (.pld g xd xa imm)
  else if opc = 0x1B then some (.srd g xd imm)
  else if opc = 0x1C then some (.swr g xa imm)
  else if opc = 0x20 then some (.dset g td imm)
  else if opc = 0x21 then some (.dpatch g td (w.extractLsb' 46 4) (w.extractLsb' 41 5))
  else if opc = 0x22 then some (.dadd g td (w.extractLsb' 45 5) (w.extractLsb' 40 5))
  else if opc = 0x30 then
    some (.signal g (w.extractLsb' 41 15) (w.extractLsb' 25 16) (w.getLsbD 24) (w.extractLsb' 9 15) (w.extractLsb' 5 4))
  else if opc = 0x31 then some (.wait g (w.extractLsb' 41 15) (w.extractLsb' 9 32) (w.getLsbD 8))
  else if opc = 0x40 then
    some (.lload g (w.extractLsb' 54 2) (w.extractLsb' 48 6) (w.extractLsb' 36 12) (w.extractLsb' 27 9) (w.extractLsb' 19 8))
  else if opc = 0x41 then some (.lpass g (passOfWord w))
  else if opc = 0x48 then some (.scfg g (scfgOfWord w))
  else if opc = 0x49 then some (.sspill g (w.extractLsb' 52 4))
  else if opc = 0x4A then some (.sclr g (w.extractLsb' 52 4) (w.getLsbD 51))
  else if opc = 0x50 then some (.wmove g (weirOfWord w))
  else if opc = 0x51 then some (.wconv g (weirOfWord w))
  else if opc = 0x52 then some (.wred g (weirOfWord w))
  else if opc = 0x60 then decodeRopc g (w.extractLsb' 30 8) (ropOfWord w)
  else if opc = 0x70 then some (.csend g (sendOfWord w))
  else none

/-- One bit as a word of width 1. -/
def bit1 (b : Bool) : BitVec 1 := BitVec.ofBool b

/-- A word whose fields stand in [55:0] under opcode opc (R167). -/
def opWord (opc : BitVec 8) (body : BitVec 56) : BitVec 64 := opc ++ body

/-- XD, XA, XB, COND and IMM in their places (R169); [37:32] reserved. -/
def scalarBody (xd xa xb : BitVec 5) (cond : BitVec 3) (imm : BitVec 32) : BitVec 56 :=
  xd ++ xa ++ xb ++ cond ++ (0 : BitVec 6) ++ imm

def weirBody (f : WeirFields) : BitVec 56 :=
  f.tds ++ f.tdd ++ f.sfmt ++ f.dfmt ++ f.srck ++ f.tile ++ bit1 f.dstk ++ f.dtile ++ f.xq ++ bit1 f.shr ++
    bit1 f.clr ++ (0 : BitVec 2)

def sendBody (f : SendFields) : BitVec 56 :=
  f.tds ++ f.tdd ++ f.fmt ++ bit1 f.red ++ f.xq ++ f.slu ++ bit1 f.sig ++ (0 : BitVec 10)

def ropBody (ropc : BitVec 8) (f : RopFields) : BitVec 56 :=
  f.tda ++ f.tdb ++ f.tdd ++ ropc ++ f.xf ++ f.tdc ++ f.xs ++ f.xp ++ f.srck ++ f.tile ++ bit1 f.brow ++ bit1 f.p64 ++
    (0 : BitVec 1)

def passBody (f : PassFields) : BitVec 56 :=
  f.mask ++ f.td ++ f.afmt ++ f.mm1 ++ f.tile ++ bit1 f.out ++ f.ring ++ bit1 f.clr ++ bit1 f.shr ++ bit1 f.dest ++
    (0 : BitVec 7)

def scfgBody (f : ScfgFields) : BitVec 56 :=
  f.tile ++ f.pslot ++ bit1 f.bind ++ f.sm1 ++ bit1 f.lsum ++ bit1 f.pclr ++ f.xk ++ f.xc ++ (0 : BitVec 30)

/-- The sequencer word of a command, written from the same tables; none for a command that is no sequencer
instruction. Reserved bits are 0 (R167). -/
def encodeSeqWord : Instr → Option (BitVec 64)
  | .nopInstr _ => some (opWord 0x00 0)
  | .endProg _ => some (opWord 0x01 0)
  | .waitp _ => some (opWord 0x02 0)
  | .fence _ mask => some (opWord 0x03 (mask ++ (0 : BitVec 52)))
  | .br _ imm => some (opWord 0x08 (scalarBody 0 0 0 0 imm))
  | .brc _ xa xb cond imm => some (opWord 0x09 (scalarBody 0 xa xb cond imm))
  | .loop _ xd imm => some (opWord 0x0A (scalarBody xd 0 0 0 imm))
  | .li _ xd imm => some (opWord 0x10 (scalarBody xd 0 0 0 imm))
  | .lui _ xd imm => some (opWord 0x11 (scalarBody xd 0 0 0 imm))
  | .add _ xd xa xb imm => some (opWord 0x12 (scalarBody xd xa xb 0 imm))
  | .sub _ xd xa xb imm => some (opWord 0x13 (scalarBody xd xa xb 0 imm))
  | .and _ xd xa xb imm => some (opWord 0x14 (scalarBody xd xa xb 0 imm))
  | .or _ xd xa xb imm => some (opWord 0x15 (scalarBody xd xa xb 0 imm))
  | .xor _ xd xa xb imm => some (opWord 0x16 (scalarBody xd xa xb 0 imm))
  | .shl _ xd xa xb imm => some (opWord 0x17 (scalarBody xd xa xb 0 imm))
  | .shr _ xd xa xb imm => some (opWord 0x18 (scalarBody xd xa xb 0 imm))
  | .mul _ xd xa xb imm => some (opWord 0x19 (scalarBody xd xa xb 0 imm))
  | .pld _ xd xa imm => some (opWord 0x1A (scalarBody xd xa 0 0 imm))
  | .srd _ xd imm => some (opWord 0x1B (scalarBody xd 0 0 0 imm))
  | .swr _ xa imm => some (opWord 0x1C (scalarBody 0 xa 0 0 imm))
  | .dset _ td imm => some (opWord 0x20 (td ++ (0 : BitVec 18) ++ imm))
  | .dpatch _ td field xa => some (opWord 0x21 (td ++ field ++ xa ++ (0 : BitVec 41)))
  | .dadd _ td xa xb => some (opWord 0x22 (td ++ xa ++ xb ++ (0 : BitVec 40)))
  | .signal _ slu inc rem rank wmask =>
    some (opWord 0x30 (slu ++ inc ++ bit1 rem ++ rank ++ wmask ++ (0 : BitVec 5)))
  | .wait _ slu thr cons => some (opWord 0x31 (slu ++ thr ++ bit1 cons ++ (0 : BitVec 8)))
  | .lload _ lat td wfmt km1 nm1 => some (opWord 0x40 (lat ++ td ++ wfmt ++ km1 ++ nm1 ++ (0 : BitVec 19)))
  | .lpass _ f => some (opWord 0x41 (passBody f))
  | .scfg _ f => some (opWord 0x48 (scfgBody f))
  | .sspill _ tile => some (opWord 0x49 (tile ++ (0 : BitVec 52)))
  | .sclr _ tile cpeat => some (opWord 0x4A (tile ++ bit1 cpeat ++ (0 : BitVec 51)))
  | .wmove _ f => some (opWord 0x50 (weirBody f))
  | .wconv _ f => some (opWord 0x51 (weirBody f))
  | .wred _ f => some (opWord 0x52 (weirBody f))
  | .ropAdd _ f => some (opWord 0x60 (ropBody 0x00 f))
  | .ropSub _ f => some (opWord 0x60 (ropBody 0x01 f))
  | .ropMul _ f => some (opWord 0x60 (ropBody 0x02 f))
  | .div _ f => some (opWord 0x60 (ropBody 0x03 f))
  | .fma _ f => some (opWord 0x60 (ropBody 0x04 f))
  | .axpb _ f => some (opWord 0x60 (ropBody 0x05 f))
  | .sqrt _ f => some (opWord 0x60 (ropBody 0x06 f))
  | .recip _ f => some (opWord 0x60 (ropBody 0x07 f))
  | .rsqrt _ f => some (opWord 0x60 (ropBody 0x08 f))
  | .exp _ f => some (opWord 0x60 (ropBody 0x09 f))
  | .exp2 _ f => some (opWord 0x60 (ropBody 0x0A f))
  | .log _ f => some (opWord 0x60 (ropBody 0x0B f))
  | .log2 _ f => some (opWord 0x60 (ropBody 0x0C f))
  | .tanh _ f => some (opWord 0x60 (ropBody 0x0D f))
  | .sigmoid _ f => some (opWord 0x60 (ropBody 0x0E f))
  | .gelu _ f => some (opWord 0x60 (ropBody 0x0F f))
  | .max _ f => some (opWord 0x60 (ropBody 0x10 f))
  | .min _ f => some (opWord 0x60 (ropBody 0x11 f))
  | .maxnum _ f => some (opWord 0x60 (ropBody 0x12 f))
  | .minnum _ f => some (opWord 0x60 (ropBody 0x13 f))
  | .cvt _ f => some (opWord 0x60 (ropBody 0x14 f))
  | .rope _ f => some (opWord 0x60 (ropBody 0x18 f))
  | .rsum _ f => some (opWord 0x60 (ropBody 0x20 f))
  | .rmax _ f => some (opWord 0x60 (ropBody 0x21 f))
  | .rssq _ f => some (opWord 0x60 (ropBody 0x22 f))
  | .lnorm _ f => some (opWord 0x60 (ropBody 0x24 f))
  | .rmsn _ f => some (opWord 0x60 (ropBody 0x25 f))
  | .smxr _ f => some (opWord 0x60 (ropBody 0x28 f))
  | .smxb _ f => some (opWord 0x60 (ropBody 0x29 f))
  | .aupd _ f => some (opWord 0x60 (ropBody 0x2A f))
  | .amrg _ f => some (opWord 0x60 (ropBody 0x2B f))
  | .anorm _ f => some (opWord 0x60 (ropBody 0x2C f))
  | .xent _ f => some (opWord 0x60 (ropBody 0x30 f))
  | .csend _ f => some (opWord 0x70 (sendBody f))
  | _ => none

/-- The hummock of a sequencer instruction. -/
def seqHum : Instr → Option Hum
  | .nopInstr g | .endProg g | .waitp g | .fence g _ | .br g _ | .brc g _ _ _ _ | .loop g _ _ | .li g _ _
  | .lui g _ _ | .add g _ _ _ _ | .sub g _ _ _ _ | .and g _ _ _ _ | .or g _ _ _ _ | .xor g _ _ _ _
  | .shl g _ _ _ _ | .shr g _ _ _ _ | .mul g _ _ _ _ | .pld g _ _ _ | .srd g _ _ | .swr g _ _ | .dset g _ _
  | .dpatch g _ _ _ | .dadd g _ _ _ | .signal g _ _ _ _ _ | .wait g _ _ _ | .lload g _ _ _ _ _ | .lpass g _
  | .scfg g _ | .sspill g _ | .sclr g _ _ | .wmove g _ | .wconv g _ | .wred g _ | .csend g _ | .ropAdd g _
  | .ropSub g _ | .ropMul g _ | .div g _ | .fma g _ | .axpb g _ | .sqrt g _ | .recip g _ | .rsqrt g _ | .exp g _
  | .exp2 g _ | .log g _ | .log2 g _ | .tanh g _ | .sigmoid g _ | .gelu g _ | .max g _ | .min g _ | .maxnum g _
  | .minnum g _ | .cvt g _ | .rope g _ | .rsum g _ | .rmax g _ | .rssq g _ | .lnorm g _ | .rmsn g _ | .smxr g _
  | .smxb g _ | .aupd g _ | .amrg g _ | .anorm g _ | .xent g _ => some g
  | _ => none

end Sys2Proof
end

