-- ==== Sys2Proof/Machine/Store.lean ====
section
/-!
DEFINITION. Sys2Proof/Machine/Store.lean: the sparse tables in canonical form (keys strictly rising, no entry equal to
the default an unlisted key reads as), byte ranges over them, and little-endian bytes (R5).
-/

namespace Sys2Proof.Machine

variable {α : Type}

/-- The value at key k; d where nothing is listed. -/
def sget (d : α) : Store α → Nat → α
  | [], _ => d
  | (j, v) :: m, k => if j = k then v else sget d m k

/-- m without key k. -/
def sdel : Store α → Nat → Store α
  | [], _ => []
  | (j, v) :: m, k => if j = k then sdel m k else (j, v) :: sdel m k

/-- m with v listed at k. -/
def sins : Store α → Nat → α → Store α
  | [], k, v => [(k, v)]
  | (j, w) :: m, k, v =>
    if j = k then (k, v) :: m else if k < j then (k, v) :: (j, w) :: m else (j, w) :: sins m k v

/-- m with value v at key k; an entry equal to the default is not listed. -/
def sset [DecidableEq α] (d : α) (m : Store α) (k : Nat) (v : α) : Store α :=
  if v = d then sdel m k else sins m k v

/-- The canonical form. -/
def swf [DecidableEq α] (d : α) : Store α → Bool
  | [] => true
  | [(_, v)] => v ≠ d
  | (j, v) :: (k, w) :: m => (v ≠ d) && (j < k) && swf d ((k, w) :: m)

/-- The entries of m with lo ≤ key < hi. -/
def srange (m : Store α) (lo hi : Nat) : Store α := m.filter fun p => lo ≤ p.1 && p.1 < hi

/-- m without the keys of lo ≤ key < hi. -/
def sclear (m : Store α) (lo hi : Nat) : Store α := m.filter fun p => !(lo ≤ p.1 && p.1 < hi)

/-- The entries of lo ≤ key < lo + n moved to start at dst, over whatever stood there. -/
def scopy [DecidableEq α] (d : α) (m : Store α) (lo n dst : Nat) : Store α :=
  (srange m lo (lo + n)).foldl (fun acc p => sset d acc (p.1 - lo + dst) p.2) (sclear m dst (dst + n))

/-- Byte memories: an unlisted byte reads 0x00. -/
def bget (m : List Host.Cell) (a : Nat) : Byte := sget 0 m a

def bset (m : List Host.Cell) (a : Nat) (b : Byte) : List Host.Cell := sset 0 m a b

/-- n bytes from address a upward. -/
def bread (m : List Host.Cell) (a : Nat) : Nat → List Byte
  | 0 => []
  | n + 1 => bget m a :: bread m (a + 1) n

def bwrite (m : List Host.Cell) (a : Nat) : List Byte → List Host.Cell
  | [] => m
  | b :: bs => bwrite (bset m a b) (a + 1) bs

/-- Little-endian bytes as a number (R5). -/
def leNat : List Byte → Nat
  | [] => 0
  | b :: bs => b.toNat + 256 * leNat bs

/-- n little-endian bytes of v. -/
def leBytes : Nat → Nat → List Byte
  | 0, _ => []
  | n + 1, v => BitVec.ofNat 8 v :: leBytes n (v / 256)

/-- Bytes [off, off + n) of a list, zeros beyond its end. -/
def slice (bs : List Byte) (off n : Nat) : List Byte :=
  let t := (bs.drop off).take n
  t ++ List.replicate (n - t.length) 0

/-- A little-endian field of n bytes at offset off. -/
def field (bs : List Byte) (off n : Nat) : Nat := leNat (slice bs off n)

/-- Replace the element at position i. -/
def setAt (l : List α) (i : Nat) (v : α) : List α := l.set i v

/-- Saturating increments of counters (R457, R288, R337). -/
def satAdd {w : Nat} (x : BitVec w) (n : Nat) : BitVec w :=
  if x.toNat + n < 2 ^ w then BitVec.ofNat w (x.toNat + n) else BitVec.allOnes w

def satInc {w : Nat} (x : BitVec w) : BitVec w := satAdd x 1

end Sys2Proof.Machine
end

