-- ==== Sys2Proof/Machine/Cipher.lean ====
section
/-!
DEFINITION. Sys2Proof/Machine/Cipher.lean: AES-256 (FIPS 197) and the two modes that the specification names by their standards:
XTS for frames of sealed contexts (09 R231) and GCM for the payloads of a port (16 R419).
-/

namespace Sys2Proof.Machine

/-! ### AES-256 -/

def xtime (b : Byte) : Byte := (b <<< 1) ^^^ (if b.getLsbD 7 then 0x1B else 0)

/-- The product of a byte with a small constant in GF(2^8), bit by bit of the constant. -/
def gfMul : Nat → Byte → Nat → Byte
  | 0, _, _ => 0
  | n + 1, b, c => (if c % 2 = 1 then b else 0) ^^^ gfMul n (xtime b) (c / 2)

/-- The rows of a substitution table, 16 bytes each with the first lowest. -/
def subByte (t : List Nat) (b : Byte) : Byte := BitVec.ofNat 8 ((t[b.toNat / 16]?).getD 0 / 256 ^ (b.toNat % 16))

def sbox : List Nat :=
  [0x76abd7fe2b670130c56f6bf27b777c63, 0xc072a49cafa2d4adf04759fa7dc982ca, 0x1531d871f1e5a534ccf73f362693fdb7,
   0x75b227ebe28012079a059618c323c704, 0x842fe329b3d63b52a05a6e1b1a2c8309, 0xcf584c4a39becb6a5bb1fc20ed00d153,
   0xa89f3c507f02f94585334d43fbaaefd0, 0xd2f3ff1021dab6bcf5389d928f40a351, 0x73195d643d7ea7c41744975fec130ccd,
   0xdb0b5ede14b8ee4688902a22dc4f8160, 0x79e4959162acd3c25c2406490a3a32e0, 0x08ae7a65eaf4566ca94ed58d6d37c8e7,
   0x8a8bbd4b1f74dde8c6b4a61c2e2578ba, 0x9e1dc186b95735610ef6034866b53e70, 0xdf2855cee9871e9b948ed9691198f8e1,
   0x16bb54b00f2d99416842e6bf0d89a18c]

def sboxInv : List Nat :=
  [0xfbd7f3819ea340bf38a53630d56a0952, 0xcbe9dec444438e3487ff2f9b8239e37c, 0x4ec3fa420b954cee3d23c2a632947b54,
   0x25d18b6d49a25b76b224d92866a12e08, 0x92b6655dcc5ca4d41698688664f6f872, 0x849d8da75746155edab9edfd5048706c,
   0x0645b3b80558e4f70ad3bc8c00abd890, 0x6b8a130103bdafc1020f3fca8f1e2cd0, 0x73e6b4f0cecff297eadc674f4111913a,
   0x6edf751ce837f9e28535ade72274ac96, 0x1bbe18aa0e62b76f89c5291d711af147, 0xf45acd78fec0db9a2079d2c64b3e56fc,
   0x5fec8027591012b131c7078833a8dd1f, 0xef9cc9939f7ae52d0d4ab519a97f5160, 0x619953833cbbebc8b0f52aae4d3be0a0,
   0x7d0c2155631469e126d677ba7e042b17]

def xorBytes (a b : List Byte) : List Byte := a.zipWith (· ^^^ ·) b

def byteAt (l : List Byte) (i : Nat) : Byte := (l[i]?).getD 0

/-- The 60 words of the key schedule, the latest first; `n` words are still to be made. -/
def aesExpand : Nat → List (List Byte) → List (List Byte)
  | 0, ws => ws
  | n + 1, ws =>
    let i := ws.length
    let t := ws.headD []
    let rot := [byteAt t 1, byteAt t 2, byteAt t 3, byteAt t 0]
    let x :=
      if i % 8 = 0 then xorBytes (rot.map (subByte sbox)) [BitVec.ofNat 8 (2 ^ (i / 8 - 1)), 0, 0, 0]
      else if i % 8 = 4 then t.map (subByte sbox) else t
    aesExpand n (xorBytes ((ws[7]?).getD []) x :: ws)

/-- The 15 round keys of a 32-byte key. -/
def aesKeys (key : List Byte) : List (List Byte) :=
  let ws := (aesExpand 52 ((List.range 8).map fun i => slice key (4 * i) 4).reverse).reverse
  (List.range 15).map fun r => ((ws.drop (4 * r)).take 4).flatten

/-- Row r of the state moves r columns to the left, or back. -/
def shiftRows (s : List Byte) : List Byte := (List.range 16).map fun i => byteAt s ((i + 4 * (i % 4)) % 16)
def unshiftRows (s : List Byte) : List Byte := (List.range 16).map fun i => byteAt s ((i + 12 * (i % 4)) % 16)

/-- Each column times a circulant matrix, whose first row is given. -/
def mixColumns (row : List Nat) (s : List Byte) : List Byte :=
  (List.range 16).map fun i =>
    (List.range 4).foldl (fun acc j => acc ^^^ gfMul 4 (byteAt s (4 * (i / 4) + (i + j) % 4)) ((row[j]?).getD 0)) 0

/-- One block of 16 bytes enciphered. -/
def aesEncrypt (key block : List Byte) : List Byte :=
  let ks := aesKeys key
  let rk (r : Nat) : List Byte := (ks[r]?).getD []
  let sub (s : List Byte) : List Byte := shiftRows (s.map (subByte sbox))
  let mid := (List.range 13).foldl (fun s r => xorBytes (mixColumns [2, 3, 1, 1] (sub s)) (rk (r + 1))) (xorBytes block (rk 0))
  xorBytes (sub mid) (rk 14)

/-- One block deciphered. -/
def aesDecrypt (key block : List Byte) : List Byte :=
  let ks := aesKeys key
  let rk (r : Nat) : List Byte := (ks[r]?).getD []
  let sub (s : List Byte) : List Byte := (unshiftRows s).map (subByte sboxInv)
  let mid := (List.range 13).foldl (fun s r => mixColumns [14, 11, 13, 9] (xorBytes (sub s) (rk (13 - r))))
    (xorBytes block (rk 14))
  xorBytes (sub mid) (rk 0)

/-! ### XTS (R231) -/

/-- The tweak of the next block: times α in GF(2^128), byte 0 lowest. -/
def xtsNext (t : BitVec 128) : BitVec 128 := (t <<< 1) ^^^ (if t.getLsbD 127 then 0x87 else 0)

/-- A data unit of two blocks under a key pair and a 128-bit tweak; the first 32 bytes of the pair are the data key (log 119). -/
def xtsUnit (cipher : List Byte → List Byte → List Byte) (pair : BitVec 512) (tweak : BitVec 128) (unit : List Byte) : List Byte :=
  let kb := leBytes 64 pair.toNat
  let t0 := BitVec.ofNat 128 (leNat (aesEncrypt (kb.drop 32) (leBytes 16 tweak.toNat)))
  let one (t : BitVec 128) (x : List Byte) : List Byte :=
    let m := leBytes 16 t.toNat
    xorBytes (cipher (kb.take 32) (xorBytes x m)) m
  one t0 (slice unit 0 16) ++ one (xtsNext t0) (slice unit 16 16)

def xtsEncrypt : BitVec 512 → BitVec 128 → List Byte → List Byte := xtsUnit aesEncrypt
def xtsDecrypt : BitVec 512 → BitVec 128 → List Byte → List Byte := xtsUnit aesDecrypt

/-! ### GCM (R419) -/

/-- A number whose byte 0 is the highest. -/
def beNat (bs : List Byte) : Nat := leNat bs.reverse
def beBytes (n v : Nat) : List Byte := (leBytes n v).reverse

/-- The product of GF(2^128) as GCM numbers its bits; `n` bits of x remain. -/
def gcmMul : Nat → BitVec 128 → BitVec 128 → BitVec 128
  | 0, _, _ => 0
  | n + 1, x, v =>
    (if x.getLsbD n then v else 0) ^^^ gcmMul n x ((v >>> 1) ^^^ (if v.getLsbD 0 then 0xE1#128 <<< 120 else 0))

/-- Bytes in blocks of 16, the last filled with zeros. -/
def blocks (bs : List Byte) : List (List Byte) := (List.range ((bs.length + 15) / 16)).map fun i => slice bs (16 * i) 16

def ghash (h : BitVec 128) (aad ct : List Byte) : BitVec 128 :=
  let bs := blocks aad ++ blocks ct ++ [beBytes 8 (8 * aad.length) ++ beBytes 8 (8 * ct.length)]
  bs.foldl (fun y b => gcmMul 128 (y ^^^ BitVec.ofNat 128 (beNat b)) h) 0

/-- Counter mode under a 32-byte key and a 12-byte IV, from block counter 2. -/
def gcmCtr (key iv bs : List Byte) : List Byte :=
  ((blocks bs).zipIdx.flatMap fun p => xorBytes p.1 (aesEncrypt key (iv ++ beBytes 4 (p.2 + 2)))).take bs.length

/-- The 16-byte tag over the additional data and the ciphertext. -/
def gcmTag (key iv aad ct : List Byte) : List Byte :=
  let h := BitVec.ofNat 128 (beNat (aesEncrypt key (List.replicate 16 0)))
  xorBytes (beBytes 16 (ghash h aad ct).toNat) (aesEncrypt key (iv ++ beBytes 4 1))

end Sys2Proof.Machine
end

