-- ==== Sys2Proof/Machine/EccCode.lean ====
section
/-!
DEFINITION. Sys2Proof/Machine/EccCode.lean: the Reed–Solomon code of a 32-byte data unit: its check bytes and its decoder
(09_memory.md R224).
-/

namespace Sys2Proof.Machine

/-- Times α = x in GF(2^8) under x^8 + x^4 + x^3 + x^2 + 1. -/
def alphaMul (b : Byte) : Byte := (b <<< 1) ^^^ (if b.getLsbD 7 then 0x1D else 0)

/-- Times α^n. -/
def alphaPow : Nat → Byte → Byte
  | 0, b => b
  | n + 1, b => alphaPow n (alphaMul b)

/-- The product of two bytes, over the n lowest bits of the second. -/
def rsMul : Nat → Byte → Nat → Byte
  | 0, _, _ => 0
  | n + 1, a, c => (if c % 2 = 1 then a else 0) ^^^ rsMul n (alphaMul a) (c / 2)

/-- The remainder after one more data byte; the generator polynomial with roots α^0 to α^3 is
x^4 + 0x0F x^3 + 0x36 x^2 + 0x78 x + 0x40. -/
def rsStep (r : Byte × Byte × Byte × Byte) (b : Byte) : Byte × Byte × Byte × Byte :=
  let f := b ^^^ r.1
  (r.2.1 ^^^ rsMul 8 f 0x0F, r.2.2.1 ^^^ rsMul 8 f 0x36, r.2.2.2 ^^^ rsMul 8 f 0x78, rsMul 8 f 0x40)

/-- The 4 check bytes of a unit, coefficients of x^3 down to x^0. -/
def rsCheck (data : List Byte) : List Byte :=
  let r := data.foldl rsStep (0, 0, 0, 0)
  [r.1, r.2.1, r.2.2.1, r.2.2.2]

/-- The codeword of a unit: 36 bytes, byte i the coefficient of x^(35 − i). -/
def rsCodeword (data : List Byte) : List Byte := data ++ rsCheck data

/-- Syndrome j of 36 bytes: their polynomial at α^j. -/
def rsSyndrome (word : List Byte) (j : Nat) : Byte := word.foldl (fun acc b => alphaPow j acc ^^^ b) 0

/-- What the decoder makes of a stored word: a codeword, an error that it takes to lie in byte `at` with the given
value, or an error that it only detects. -/
inductive UnitErr where
  | none
  | correctable (pos : Nat) (value : Byte)
  | uncorrectable
  deriving DecidableEq, Repr

/-- The decoder. The code is linear: a stored word that differs from a codeword by a pattern has that pattern's syndromes. -/
def rsDecode (word : List Byte) : UnitErr :=
  let s0 := rsSyndrome word 0
  let s1 := rsSyndrome word 1
  let s2 := rsSyndrome word 2
  let s3 := rsSyndrome word 3
  if s0 = 0 ∧ s1 = 0 ∧ s2 = 0 ∧ s3 = 0 then .none
  else
    match (List.range 36).find? fun i =>
      s0 != 0 && alphaPow (35 - i) s0 == s1 && alphaPow (35 - i) s1 == s2 && alphaPow (35 - i) s2 == s3 with
    | some i => .correctable i s0
    | none => .uncorrectable

/-- The verdict on a unit whose stored word differs from its codeword by a pattern, byte i at bits 8i. -/
def errVerdict (e : BitVec 288) : UnitErr := rsDecode (leBytes 36 e.toNat)

/-- What is left of a pattern once the decoder has corrected the byte that it names: nothing, or the codeword of a
miscorrection (R224). -/
def errFix (e : BitVec 288) (pos : Nat) (value : Byte) : BitVec 288 := e ^^^ BitVec.ofNat 288 (value.toNat * 256 ^ pos)

end Sys2Proof.Machine
end

