-- ==== Sys2Proof/Config.lean ====
section
/-!
DEFINITION. Sys2Proof/Config.lean: what the specification leaves open (free values) and what it names from other
standards (uninterpreted functions). None of these has a body: nothing can be proved of a value of theirs.
-/

namespace Sys2Proof.Config

/-- A free value per draw: State.freeCtr numbers the draws (log 2). -/
opaque freeNat : Nat → Nat

/-- Whether an access that may use an old or a new translation uses the old one (R223). -/
opaque freeOld : Nat → Bool

/-- Bytes of a response, an image or an identity whose content the specification leaves to another standard or to
manufacture: `what` names it, the number is the draw (log 12). -/
opaque freeBytes : String → Nat → List Byte

/-- The transmission unit of PCIe vendor-defined messages, which R486 leaves between 64 and 1,024 bytes. -/
opaque pcieUnit : Nat

/-- The tag of the tensor that a reduction of a context makes at a device virtual address: a REDUCE packet carries none (06 R146). -/
opaque reduceTag : BitVec 6 → BitVec 52 → BitVec 31

/-- The per-tensor scale of an FP8 operand in V40 mode: R139 puts it in the descriptor, and R157 gives it no field. -/
opaque v40Scale : BitVec 256 → BitVec 32

/-- TYPE and body of a journal record, which the image defines (R379), from what the record describes. -/
opaque recordType {α : Type} : α → BitVec 16
opaque recordBody {α : Type} : α → List Byte

/-- A processor's state in the format of a HOVER, which the image defines (R391): the processor, the version, and the draw. -/
opaque handoffBody : Nat → BitVec 16 → Nat → List Byte

/-- The vendor ID of PCIe configuration space: Holiskari's (R475). -/
opaque vendorId : BitVec 16

/-- SLH-DSA-SHAKE-256f verification of a signature over a message under a 64-byte public key (R263, R410, R412). -/
opaque slhVerify : BitVec 512 → List Byte → List Byte → Bool

/-- The 256-bit unique device secret in the fuses, made at manufacture (R407). -/
opaque deviceSecret : BitVec 256

/-- The SLH-DSA-SHAKE-256f signature over a message with the key pair that key generation makes of SK.seed, SK.prf and PK.seed, 96 bytes
(R407, R410, R413). -/
opaque dikSign : List Byte → List Byte → List Byte

/-- SHAKE256 (FIPS 202) with the given number of output bytes (R407, R410, R413). -/
opaque shake256 : List Byte → Nat → List Byte

/-- ML-KEM-1024 (FIPS 203): the encapsulation key made for a session (R410), by its number. -/
opaque kemKey : Nat → List Byte

/-- ML-KEM-1024 decapsulation of a ciphertext with the key of a session (R410). -/
opaque kemDecap : Nat → List Byte → List Byte

/-- The certificate chain written at manufacture (R408). -/
opaque certChain : List Byte

end Sys2Proof.Config
end

