-- ==== Sys2Proof/Machine/Num.lean ====
section
/-!
DEFINITION. Sys2Proof/Machine/Num.lean: number formats, exact values, rounding and arithmetic
(02_number_formats.md). A value between roundings is exact: a magnitude m·2^e, or, where the exact result has no
finite binary expansion, a magnitude strictly between m·2^e and (m + 1)·2^e (`sticky`) with m long enough that no
rounding of R39 can tell it from the exact result.
-/

namespace Sys2Proof.Machine

/-- An exact value. For `fin`, m is not 0. -/
inductive Val where
  | nan
  | inf (neg : Bool)
  | zero (neg : Bool)
  | fin (neg : Bool) (m : Nat) (e : Int) (sticky : Bool)
  deriving DecidableEq, Repr

/-- Special encodings of a format (R31): none, E4M3's single NaN, or IEEE 754. -/
inductive SpecialKind where
  | none | e4m3 | ieee
  deriving DecidableEq, Repr

/-- A floating-point format (R29, R31, R37). -/
structure Format where
  width : Nat
  man : Nat
  bias : Nat
  kind : SpecialKind
  sub : Bool      -- subnormals are supported (R36, R37)
  deriving DecidableEq, Repr

/-- The format of a CODE (R26, R29); none for INT8 and the reserved codes. -/
def formatOf (code : BitVec 4) : Option Format :=
  if code = 0 then some ⟨4, 1, 1, .none, true⟩
  else if code = 1 then some ⟨6, 3, 1, .none, true⟩
  else if code = 2 then some ⟨6, 2, 3, .none, true⟩
  else if code = 3 then some ⟨8, 3, 7, .e4m3, true⟩
  else if code = 4 then some ⟨8, 2, 15, .ieee, true⟩
  else if code = 5 then some ⟨16, 7, 127, .ieee, true⟩
  else if code = 6 then some ⟨16, 10, 15, .ieee, true⟩
  else if code = 7 then some ⟨32, 23, 127, .ieee, false⟩
  else if code = 8 then some ⟨64, 52, 1023, .ieee, false⟩
  else none

def f32 : Format := ⟨32, 23, 127, .ieee, false⟩
def f64 : Format := ⟨64, 52, 1023, .ieee, false⟩

def Format.expBits (f : Format) : Nat := f.width - 1 - f.man
def Format.expMax (f : Format) : Nat := 2 ^ f.expBits - 1
/-- The exponent of the smallest normal. -/
def Format.emin (f : Format) : Int := 1 - (f.bias : Int)

/-- The encoding of the largest finite magnitude (R32). -/
def Format.maxBits (f : Format) : Nat :=
  match f.kind with
  | .none => 2 ^ (f.width - 1) - 1
  | .e4m3 => 2 ^ (f.width - 1) - 2
  | .ieee => f.expMax * 2 ^ f.man - 1

/-- The canonical NaN (R32, R34); a format without NaN has none and answers its zero. -/
def Format.nanBits (f : Format) : Nat :=
  match f.kind with
  | .none => 0
  | .e4m3 => 0x7F
  | .ieee => f.expMax * 2 ^ f.man + 2 ^ (f.man - 1)

def Format.infBits (f : Format) : Nat := f.expMax * 2 ^ f.man

/-- The exact value of an encoding (R30, R31), and whether a subnormal binary32 or binary64 operand was taken as zero
(R37, R38). -/
def Format.decode (f : Format) (bits : Nat) : Val × Bool :=
  let neg := bits / 2 ^ (f.width - 1) % 2 = 1
  let mag := bits % 2 ^ (f.width - 1)
  let e := mag / 2 ^ f.man
  let m := mag % 2 ^ f.man
  let special :=
    match f.kind with
    | .none => none
    | .e4m3 => if mag = 0x7F then some Val.nan else none
    | .ieee => if e = f.expMax then some (if m = 0 then .inf neg else .nan) else none
  match special with
  | some v => (v, false)
  | none =>
    if e = 0 then
      if m = 0 then (.zero neg, false)
      else if f.sub then (.fin neg m (f.emin - f.man) false, false)
      else (.zero neg, true)
    else (.fin neg (2 ^ f.man + m) ((e : Int) - f.bias - f.man) false, false)

/-- ⌊log2⌋ of the magnitude m·2^e. -/
def magLog (m : Nat) (e : Int) : Int := (Nat.log2 m : Int) + e

/-- The rounding modes of R39. -/
inductive Rm where
  | rne | rz
  | sr (r : BitVec 16)
  deriving DecidableEq, Repr

/-- The integer n with n·2^q the rounding of the magnitude m·2^e (plus the sticky part) at quantum 2^q (R39, R40). -/
def roundQ (rm : Rm) (m : Nat) (e : Int) (sticky : Bool) (q : Int) : Nat :=
  if q ≤ e then m * 2 ^ (e - q).toNat
  else
    let sh := (q - e).toNat
    let n := m / 2 ^ sh
    let rem := m % 2 ^ sh
    match rm with
    | .rz => n
    | .rne =>
      let half := 2 ^ (sh - 1)
      if half < rem ∨ (rem = half ∧ (sticky = true ∨ n % 2 = 1)) then n + 1 else n
    | .sr r =>
      let bits := if 16 ≤ sh then rem / 2 ^ (sh - 16) else rem * 2 ^ (16 - sh)
      if 65536 ≤ bits + r.toNat then n + 1 else n

/-- Is n·2^q exactly the magnitude m·2^e with no sticky part? -/
def exactQ (m : Nat) (e : Int) (sticky : Bool) (q : Int) : Bool :=
  !sticky && (decide (q ≤ e) || m % 2 ^ (q - e).toNat == 0)

/-- What happened in a rounding: beyond range, flushed (R38). -/
structure Ev where
  beyond : Bool := false
  flush : Bool := false
  sat : Bool := false
  invalid : Bool := false
  deriving DecidableEq, Repr

def Ev.or (a b : Ev) : Ev := ⟨a.beyond || b.beyond, a.flush || b.flush, a.sat || b.sat, a.invalid || b.invalid⟩

/-- The quantum at which a magnitude is rounded into a format (R37, R39): for a format with subnormals not below its
smallest subnormal. -/
def Format.quantum (f : Format) (m : Nat) (e : Int) : Int :=
  let q := magLog m e - f.man
  if f.sub then Max.max q (f.emin - f.man) else q

/-- The largest finite magnitude is top·2^q. -/
def Format.top (f : Format) : Nat × Int :=
  let e := f.maxBits / 2 ^ f.man
  (2 ^ f.man + f.maxBits % 2 ^ f.man, (e : Int) - f.bias - f.man)

/-- a·2^p < b·2^q for magnitudes. -/
def magLt (a : Nat) (p : Int) (b : Nat) (q : Int) : Bool :=
  if p ≤ q then a < b * 2 ^ (q - p).toNat else a * 2 ^ (p - q).toNat < b

/-- One rounding of an exact value into a format with unbounded range above (R39, R41): the rounded value, whether it
lies beyond range, and whether a nonzero value became zero (R37, R38). -/
def Format.roundVal (f : Format) (rm : Rm) (v : Val) : Val × Ev :=
  match v with
  | .fin neg m e st =>
    let q := f.quantum m e
    let n := roundQ rm m e st q
    if n = 0 then (.zero neg, { flush := true })
    else if !f.sub && magLt n q 1 f.emin then (.zero neg, { flush := true })
    else
      let (t, tq) := f.top
      (.fin neg n q false, { beyond := magLt t tq n q })
  | w => (w, {})

/-- The encoding of a value that the format represents exactly, and not beyond range. -/
def Format.encode (f : Format) (v : Val) : Nat :=
  let s (neg : Bool) : Nat := if neg then 2 ^ (f.width - 1) else 0
  match v with
  | .nan => f.nanBits
  | .inf neg => s neg + f.infBits
  | .zero neg => s neg
  | .fin neg m e _ =>
    let lg := magLog m e
    if lg < f.emin then s neg + m * 2 ^ (e - (f.emin - f.man)).toNat
    else
      let sig := if lg - f.man ≤ e then m * 2 ^ (e - (lg - f.man)).toNat else m / 2 ^ ((lg - f.man) - e).toNat
      s neg + (lg + f.bias).toNat * 2 ^ f.man + (sig - 2 ^ f.man)

/-- Conversion of an exact value into an unscaled floating format under SAT and RM (R52). The value of a block-scaled element
that lies outside the target's range is treated as R52 and R37 say, as an infinity or a counted flush, though R53 calls the
conversions of those formats exact: a choice of the model (log 114). -/
def Format.convert (f : Format) (sat : Bool) (rm : Rm) (v : Val) : Nat × Ev :=
  let s (neg : Bool) : Nat := if neg then 2 ^ (f.width - 1) else 0
  match v with
  | .nan => (f.nanBits, {})
  | .inf neg =>
    match f.kind with
    | .ieee => (s neg + f.infBits, {})
    | _ => (f.nanBits, { invalid := true })
  | .zero neg => (s neg, {})
  | .fin neg _ _ _ =>
    let (r, ev) := f.roundVal rm v
    if ev.beyond then
      match f.kind with
      | .ieee => if sat || rm == .rz then (s neg + f.maxBits, { sat := true }) else (s neg + f.infBits, {})
      | _ => (s neg + f.maxBits, { sat := true })
    else (f.encode r, ev)

/-- Conversion to INT8 (R54): the two's-complement byte. -/
def convertInt8 (rm : Rm) (v : Val) : Nat × Ev :=
  match v with
  | .nan => (0, { invalid := true })
  | .inf neg => (if neg then 0x80 else 0x7F, { sat := true })
  | .zero _ => (0, {})
  | .fin neg m e st =>
    let n := roundQ rm m e st 0
    if neg then
      if 128 < n then (0x80, { sat := true }) else ((256 - n) % 256, { flush := n == 0 })
    else if 127 < n then (0x7F, { sat := true }) else (n, { flush := n == 0 })

/-- The exact value of a two's-complement byte (R33). -/
def int8Val (b : Nat) : Val :=
  if b % 256 = 0 then .zero false
  else if 128 ≤ b % 256 then .fin true (256 - b % 256) 0 false else .fin false (b % 256) 0 false

/-- The exact value of an element of any CODE (R30 to R33), and whether it was flushed on input (R38). -/
def decodeCode (code : BitVec 4) (bits : Nat) : Val × Bool :=
  match formatOf code with
  | some f => f.decode bits
  | none => (int8Val bits, false)

/-! ### Exact arithmetic -/

/-- Multiply a value by 2^k exactly. -/
def Val.scale (v : Val) (k : Int) : Val :=
  match v with
  | .fin n m e st => .fin n m (e + k) st
  | w => w

def Val.neg : Val → Val
  | .nan => .nan
  | .inf n => .inf (!n)
  | .zero n => .zero (!n)
  | .fin n m e st => .fin (!n) m e st

def Val.isNan : Val → Bool
  | .nan => true
  | _ => false

def Val.isInf : Val → Bool
  | .inf _ => true
  | _ => false

def Val.isZero : Val → Bool
  | .zero _ => true
  | _ => false

def Val.sign : Val → Bool
  | .nan => false
  | .inf n | .zero n | .fin n _ _ _ => n

/-- A signed magnitude as an integer at exponent e. -/
def signed (neg : Bool) (m : Nat) : Int := if neg then -(m : Int) else m

def ofSigned (z : Int) (e : Int) (sticky : Bool) : Val :=
  if z = 0 then .zero false else .fin (z < 0) z.natAbs e sticky

/-- The exact sum, and whether it is invalid (R35, R55). An operand with a sticky part is kept in front. -/
def Val.add (a b : Val) : Val × Bool :=
  match a, b with
  | .nan, _ => (.nan, false)
  | _, .nan => (.nan, false)
  | .inf n, .inf k => if n = k then (.inf n, false) else (.nan, true)
  | .inf n, _ => (.inf n, false)
  | _, .inf n => (.inf n, false)
  | .zero n, .zero k => (.zero (n && k), false)
  | .zero _, v => (v, false)
  | v, .zero _ => (v, false)
  | .fin n m e st, .fin n' m' e' st' =>
    let q := Min.min e e'
    (ofSigned (signed n (m * 2 ^ (e - q).toNat) + signed n' (m' * 2 ^ (e' - q).toNat)) q (st || st'), false)

def Val.sub (a b : Val) : Val × Bool := a.add b.neg

/-- The exact product (R35, R55). -/
def Val.mul (a b : Val) : Val × Bool :=
  let n := a.sign != b.sign
  match a, b with
  | .nan, _ => (.nan, false)
  | _, .nan => (.nan, false)
  | .inf _, .zero _ => (.nan, true)
  | .zero _, .inf _ => (.nan, true)
  | .inf _, _ => (.inf n, false)
  | _, .inf _ => (.inf n, false)
  | .zero _, _ => (.zero n, false)
  | _, .zero _ => (.zero n, false)
  | .fin _ m e st, .fin _ m' e' st' => (.fin n (m * m') (e + e') (st || st'), false)

/-- Bits kept of a result with no finite expansion: more than any rounding of R39 or R40 looks at. -/
def keepBits : Nat := 192

/-- The quotient a / b: exact, or kept to keepBits bits and sticky. -/
def Val.div (a b : Val) : Val × Bool :=
  let n := a.sign != b.sign
  match a, b with
  | .nan, _ => (.nan, false)
  | _, .nan => (.nan, false)
  | .inf _, .inf _ => (.nan, true)
  | .zero _, .zero _ => (.nan, true)
  | .inf _, _ => (.inf n, false)
  | _, .inf _ => (.zero n, false)
  | .zero _, _ => (.zero n, false)
  | _, .zero _ => (.inf n, false)
  | .fin _ m e _, .fin _ m' e' _ =>
    let k := keepBits + Nat.log2 m'
    let num := m * 2 ^ k
    (.fin n (num / m') (e - e' - k) (num % m' != 0), false)

/-- Integer square root by Newton steps from above, with fuel. -/
def isqrtLoop : Nat → Nat → Nat → Nat
  | 0, _, x => x
  | fuel + 1, n, x =>
    let y := (x + n / x) / 2
    if y < x then isqrtLoop fuel n y else x

def isqrt (n : Nat) : Nat :=
  if n = 0 then 0 else isqrtLoop (Nat.log2 n + 8) n (2 ^ (Nat.log2 n / 2 + 1))

/-- The square root (R35, R195): of a negative number NaN, invalid; of ±0 itself. -/
def Val.sqrt (a : Val) : Val × Bool :=
  match a with
  | .nan => (.nan, false)
  | .inf true => (.nan, true)
  | .inf false => (.inf false, false)
  | .zero n => (.zero n, false)
  | .fin true _ _ _ => (.nan, true)
  | .fin false m e _ =>
    let k := 2 * keepBits + (if (e - 2 * keepBits) % 2 = 0 then 0 else 1)
    let n := m * 2 ^ k
    let r := isqrt n
    (.fin false r ((e - k) / 2) (r * r != n), false)

/-- IEEE 754 order of two values that are not NaN; −0 and +0 are equal (R56). -/
def Val.lt (a b : Val) : Bool :=
  match a, b with
  | .nan, _ => false
  | _, .nan => false
  | .inf n, .inf k => n && !k
  | .inf n, _ => n
  | _, .inf n => !n
  | .zero _, .zero _ => false
  | .zero _, .fin n _ _ _ => !n
  | .fin n _ _ _, .zero _ => n
  | .fin n m e _, .fin n' m' e' _ =>
    if n != n' then n else if n then magLt m' e' m e else magLt m e m' e'

/-- maximum (R57): NaN where an operand is NaN; −0 is less than +0. -/
def Val.maximum (a b : Val) : Val :=
  if a.isNan || b.isNan then .nan
  else if a.lt b then b else if b.lt a then a
  else match a with
    | .zero true => b
    | _ => a

def Val.minimum (a b : Val) : Val :=
  if a.isNan || b.isNan then .nan
  else if a.lt b then a else if b.lt a then b
  else match a with
    | .zero false => b
    | _ => a

/-- maximumNumber (R57): the other operand where one is NaN. -/
def Val.maximumNumber (a b : Val) : Val :=
  if a.isNan then b else if b.isNan then a else a.maximum b

def Val.minimumNumber (a b : Val) : Val :=
  if a.isNan then b else if b.isNan then a else a.minimum b

/-! ### binary32 and binary64 words -/

/-- Events a piece of arithmetic may raise (R35, R38, R96): counts. -/
structure Cnt where
  sat : Nat := 0
  flush : Nat := 0
  invalid : Nat := 0
  replay : Nat := 0
  ovf : Nat := 0
  deriving DecidableEq, Repr

def Cnt.add (a b : Cnt) : Cnt :=
  ⟨a.sat + b.sat, a.flush + b.flush, a.invalid + b.invalid, a.replay + b.replay, a.ovf + b.ovf⟩

def bcnt (b : Bool) : Nat := if b then 1 else 0

def Ev.cnt (e : Ev) : Cnt := { sat := bcnt e.sat, flush := bcnt e.flush, invalid := bcnt e.invalid }

/-- round32 and round64: one RNE rounding with flushing (R37); a finite value beyond range becomes ±Inf and `over`
says so. -/
def Format.round (f : Format) (rm : Rm) (v : Val) : Val × Ev :=
  let (r, ev) := f.roundVal rm v
  if ev.beyond then (.inf v.sign, ev) else (r, ev)

def val32 (b : BitVec 32) : Val := (f32.decode b.toNat).1
def val64 (b : BitVec 64) : Val := (f64.decode b.toNat).1
def enc32 (v : Val) : BitVec 32 := BitVec.ofNat 32 (f32.encode v)
def enc64 (v : Val) : BitVec 64 := BitVec.ofNat 64 (f64.encode v)

/-! ### Block scaling (R42 to R48) -/

/-- emax of an element format (R47). -/
def emax (code : BitVec 4) : Int :=
  if code = 0 ∨ code = 1 then 2 else if code = 2 then 4 else if code = 3 then 8 else 15

/-- BSZ as a number (R26). -/
def bszOf (b : BitVec 2) : Nat := 16 * 2 ^ b.toNat

/-- The largest of the exponents of the finite nonzero values, with their magnitudes compared exactly. -/
def amaxLog (xs : List Val) : Option Int :=
  xs.foldl (fun acc v =>
    match v with
    | .fin _ m e _ => match acc with
      | none => some (magLog m e)
      | some a => some (Max.max a (magLog m e))
    | _ => acc) none

/-- choose_scale (R47). -/
def chooseScale (code : BitVec 4) (xs : List Val) : BitVec 8 :=
  if xs.any Val.isNan then 0xFF
  else if xs.any Val.isInf && code != 4 then 0xFF
  else match amaxLog xs with
    | none => 0x00
    | some e =>
      let sh := Min.min (Max.max (e - emax code) (-127)) 127
      BitVec.ofInt 8 (sh + 127)

/-- Write one element of a block with scale code x ≠ 0xFF (R48): out-of-range magnitudes saturate whatever SAT is. -/
def scaledElem (code : BitVec 4) (x : BitVec 8) (rm : Rm) (v : Val) : Nat × Ev :=
  match formatOf code with
  | none => (0, {})
  | some f =>
    match v with
    | .inf neg => ((if neg then 2 ^ (f.width - 1) else 0) + f.infBits, {})
    | w => f.convert true rm (w.scale (127 - x.toNat))

/-- Read one element under scale code x (R43). -/
def readScaled (code : BitVec 4) (x : BitVec 8) (bits : Nat) : Val :=
  if x = 0xFF then .nan else (decodeCode code bits).1.scale ((x.toNat : Int) - 127)

/-! ### The random generator (R132) -/

def fmix (z0 : BitVec 64) : BitVec 64 :=
  let z := z0 ^^^ (z0 >>> 31)
  let z := z * 0xC3A59E1764D28B3F#64
  let z := z ^^^ (z >>> 29)
  let z := z * 0x94E327BD1F6AC5D7#64
  z ^^^ (z >>> 32)

/-- sr16 of R132: the top 16 bits. -/
def sr16 (seed : BitVec 64) (tag : BitVec 32) (row col idx : BitVec 64) : BitVec 16 :=
  let z := fmix (seed ^^^ (tag.setWidth 64 * 0xA5C31E9B6D074F29#64))
  let z := fmix (z ^^^ row)
  let z := fmix (z ^^^ col)
  let z := fmix (z ^^^ idx)
  (z >>> 48).setWidth 16

end Sys2Proof.Machine
end

