-- ==== Sys2Proof/Machine/State.lean ====
section
/-!
DEFINITION. Sys2Proof/Machine/State.lean: the state of the block as plain data, and its value right after power-on,
before start-up (20_board_and_start_up.md R502). Each group names the file of spec/ that gives it.
-/

namespace Sys2Proof.Machine

/-! ### The hummock (03, 04, 07) -/

/-- HUM_SEQ_STATUS.STATE (R187). -/
inductive SeqSt where
  | idle | issuing | waitSluice | waitQueue | still | gated | faulted | ended
  deriving DecidableEq, Repr

/-- A station instruction as it stands in a station's queue (R164). -/
inductive StOp where
  | lload (lat : BitVec 2) (wfmt : BitVec 12) (km1 : BitVec 9) (nm1 : BitVec 8)
  | lpass (f : PassFields)
  | scfg (f : ScfgFields)
  | sspill (tile : BitVec 4)
  | sclr (tile : BitVec 4) (cpeat : Bool)
  | wmove (f : WeirFields)
  | wconv (f : WeirFields)
  | wred (f : WeirFields)
  | csend (f : SendFields)
  | rop (ropc : BitVec 8) (f : RopFields)
  deriving DecidableEq, Repr

/-- A descriptor (R157) with its origin (R166), as captured at issue. -/
structure DescCap where
  raw : BitVec 256
  org : BitVec 64
  deriving DecidableEq, Repr

/-- One Lattice (R58, R69, R70). Weight (k, n) is kept as its element code at key k·256 + n, the scale code of block
j of column n at key j·256 + n; the load-staging register of a cell, and the scale code staged with it, has the same key.
`loading` names the LLOAD whose wavefront runs. -/
structure Lattice where
  w : Store (BitVec 16)
  sc : Store (BitVec 8)
  stage : Store (BitVec 16)
  stageSc : Store (BitVec 8)
  fmt : BitVec 12
  km1 : BitVec 9
  nm1 : BitVec 8
  sw : BitVec 32
  loaded : Bool
  loading : Option Nat
  src : Option (DescCap × BitVec 12)   -- the weight tile that it was loaded from, with its FMT (R75)
  hold : Option Nat                    -- the LLOAD whose weight tile is held open for the pass that will use it (R75)
  deriving DecidableEq, Repr

/-- R70: +0 everywhere, INT8, K = 256, N = 256. The V40 weight scale is 1, and the staging registers hold +0 (log 104). -/
def Lattice.reset : Lattice := ⟨[], [], [], [], 9, 255, 255, 0x3F800000#32, true, none, none, none⟩

/-- How far a station instruction has come: waiting for its operands, running, ended while its shared set has not
committed (R109), finished and ready to retire. -/
inductive OpPhase where
  | queued | running | ended | done
  deriving DecidableEq, Repr

/-- An issued, unretired station instruction (R162) with what it captured at issue (R75, R166). -/
structure Issued where
  id : Nat
  op : StOp
  pc : BitVec 23
  da : DescCap
  db : DescCap
  dc : DescCap
  dd : DescCap
  va : BitVec 64      -- XQ, XF or XK
  vb : BitVec 64      -- XS or XC
  vc : BitVec 64      -- XP
  phase : OpPhase
  tries : Nat         -- LPASS: replays made (R99)
  mask : BitVec 4     -- LPASS: the Lattices still to commit (R76)
  groups : Nat        -- STREAM: groups committed
  held : BitVec 24    -- Sump tiles, then Peat slots from bit 16, acquired and not yet released (R108)
  wts : Store Lattice -- LPASS: the weights that it met at its start (R75, R76)
  outstanding : Nat   -- contributions or packets not yet accepted or acknowledged (R164)
  since : Nat         -- the hummock's paced steps when it was issued, or began its load, pass or replay (17 R432)
  deriving DecidableEq, Repr

/-- What a stalled sequencer waits for (R168, R171, R172, R177, R166). -/
inductive Stall where
  | fence (mask : BitVec 4)
  | ended
  | waitp
  | sluice (slu : BitVec 15) (thr : BitVec 32) (cons : Bool)
  | queue
  deriving DecidableEq, Repr

/-- A SIGNAL that waits for the stations of WMASK, or is on its way (R176); `after` holds the ids it waits for. -/
structure Sig where
  slu : BitVec 15
  inc : BitVec 16
  rem : Bool
  rank : BitVec 15
  ctx : BitVec 6
  launch : Nat
  att : BitVec 16
  after : List Nat
  pc : BitVec 23
  deriving DecidableEq, Repr

structure Sequencer where
  st : SeqSt
  wake : Bool
  pc : BitVec 23
  x : Store (BitVec 64)
  desc : Store (BitVec 256)
  org : Store (BitVec 64)
  stall : Option Stall
  sigs : List Sig
  deriving DecidableEq, Repr

def Sequencer.reset : Sequencer := ⟨.idle, false, 0, [], [], [], none, []⟩

/-- What a spill in progress would leave if it were cut off (R106): the row boundary at which it would stop, and the tile's
committed elements, row offsets, slot, OFF and CNT as they stood before it. `chased` counts the operations that have committed
while it ran (R102, R104). -/
structure SpillCut where
  row : Nat
  rows : Store (BitVec 32)
  roff : Store (BitVec 8)
  slot : Store (BitVec 64)
  off : BitVec 8
  cnt : BitVec 7
  chased : Nat
  deriving DecidableEq, Repr

/-- One Sump tile (R85 to R93); an element (r, c) has key r·256 + c, a row r has bit r in `sel` and `written`. `off` is the
tile's committed offset; a row that the last operation did not write keeps its own in `roff` (R88). -/
structure SumpTile where
  bank0 : Store (BitVec 32)
  bank1 : Store (BitVec 32)
  sel : BitVec 256
  written : BitVec 256
  off : BitVec 8
  roff : Store (BitVec 8)
  woff : BitVec 8
  cnt : BitVec 7
  sm1 : BitVec 6
  pslot : BitVec 3
  bind : Bool
  lsum : Bool
  spilling : Bool
  cut : Option SpillCut
  rpl : BitVec 2
  tag : BitVec 31
  orgRow : BitVec 32
  orgCol : BitVec 32
  lidx : BitVec 32
  ovf : Store (BitVec 2)   -- overflowed elements: 1 positive, 2 negative (R96)
  fresh : Bool             -- the operation in progress started its bank from +0 (R87)
  begun : Bool             -- an operation has begun its working bank (R87)
  evs : Cnt                -- events not yet charged to a tag (06 R146)
  deriving DecidableEq, Repr

/-- R90, R91. -/
def SumpTile.reset : SumpTile :=
  ⟨[], [], 0, 0, 0, [], 0, 0, 15, 0, false, false, false, none, 0, 0, 0, 0, 0, [], false, false, {}⟩

/-- The launch that holds a hummock, and the program placed on it (R183, R184, R187). -/
structure Holder where
  launch : Nat
  att : BitVec 16
  ctx : BitVec 6
  lhum : BitVec 7
  nhum : Nat
  mode : BitVec 2
  seed : BitVec 64
  imgCtx : BitVec 6
  code : BitVec 64
  codeLen : Nat
  descBase : BitVec 64
  ndesc : Nat
  entry : BitVec 23
  isSealed : Bool
  deriving DecidableEq, Repr

/-- PWC_HUM.STATE (R450). -/
inductive HumPower where
  | running | still | gated | waking | inReset
  deriving DecidableEq, Repr

/-- A committed STREAM group of one Lattice (R71, R165): its tile, and whether it goes to Weir. -/
structure Group where
  tile : BitVec 4
  toWeir : Bool
  pass : Nat
  idx : Nat
  rank : Nat
  taken : Bool
  deriving DecidableEq, Repr

structure Hummock where
  seq : Sequencer
  lats : Store Lattice
  sump : Store SumpTile
  peat : Store (Store (BitVec 64))
  peatEvs : Store Cnt          -- events of a slot not yet charged to a tag (06 R146)
  mere : List Host.Cell
  pmode : Bool
  wslu : BitVec 15
  wsen : Bool
  wvec : BitVec 23
  mwin : BitVec 8
  holder : Option Holder
  power : HumPower
  vset : BitVec 10
  capg : Bool
  unret : List Issued
  groups : List Group
  nextId : Nat
  sealedLast : Option (BitVec 6)
  ue : Option Nat              -- the launch in whose attempts its SRAM reported an uncorrectable error (09 R226)
  steps : Nat                  -- steps that its pacing permits have let it take (17 R432)
  deriving DecidableEq, Repr

/-- A Gated hummock that holds nothing (R171, R187, R502 step 5). -/
def Hummock.reset : Hummock :=
  { seq := Sequencer.reset, lats := [], sump := [], peat := [], peatEvs := [], mere := [], pmode := false, wslu := 0, wsen := false
    wvec := 0, mwin := 0, holder := none, power := .gated, vset := 0, capg := false, unret := [], groups := []
    nextId := 0, sealedLast := none, ue := none, steps := 0 }

/-! ### Sluices (07) -/

/-- Who waits at a sluice (R177). -/
structure Waiter where
  hum : Option (Fin 96)
  thr : BitVec 32
  cons : Bool
  deriving DecidableEq, Repr

/-- One sluice (R176, R181): count, waiters in order of arrival, recorded launch and attempt. -/
structure Sluice where
  count : BitVec 32
  waiters : List Waiter
  launch : Option Nat
  att : BitVec 16
  deriving DecidableEq, Repr

def Sluice.reset : Sluice := ⟨0, [], none, 0⟩

/-! ### Stacked memory and epoch memory (09, 10) -/

structure EccCount where
  ce : BitVec 32
  ue : BitVec 16
  deriving DecidableEq, Repr

/-- An ownership map entry (R229). -/
structure OwnEntry where
  ctx : BitVec 6
  isSealed : Bool
  egress : Bool
  deriving DecidableEq, Repr

/-- A page record (R239). -/
structure PageRec where
  cf : Bool
  stamp : BitVec 64
  gen : BitVec 8
  fb : BitVec 18
  deriving DecidableEq, Repr

/-- Settled, CF = 0 (R249). -/
def PageRec.reset : PageRec := ⟨false, 0, 0xFF, 0⟩

/-- SEC_MC_STAT.STATE (R238). -/
inductive StackSt where
  | untrained | training | ready | srefIdle | srefReset | failed
  deriving DecidableEq, Repr

structure StackReg where
  st : StackSt
  hot : Bool
  spares : BitVec 8
  deriving DecidableEq, Repr

/-- A cached translation (R223): context, page base, and the leaf that was read. -/
structure TlbEntry where
  ctx : BitVec 6
  va : BitVec 52
  leaf : BitVec 64
  big : Bool
  deriving DecidableEq, Repr

/-- The scope of an invalidation (R223, R238). -/
structure InvScope where
  ctx : BitVec 6
  allVa : Bool
  allCtx : Bool
  va2m : BitVec 31
  deriving DecidableEq, Repr

/-- A contribution on its way to a memory-side reduction unit (R111, R128). `src` names the Weir instruction that
sent it; a packet's contributions carry none. `dpa` names the element: its place in frame A for a protected page. -/
structure Contrib where
  src : Option (Fin 96 × Nat)
  xfer : Option (BitVec 15 × BitVec 16)
  ctx : BitVec 6
  va : BitVec 52
  dpa : Nat
  code : BitVec 4
  bits : BitVec 64
  ordered : Bool
  q : BitVec 15
  p : BitVec 17
  round : BitVec 32
  launch : Nat
  att : BitVec 16
  epoch : BitVec 64
  mode : BitVec 2
  tag : BitVec 31
  leaf : TlbEntry
  stalled : Bool := false   -- it has met a full ordered reduction buffer (R129, R235)
  deriving DecidableEq, Repr

/-- An Ordered round of one element (R128), open or waiting to open. -/
structure Round where
  dpa : Nat
  round : BitVec 32
  p : BitVec 17
  opened : Option (BitVec 32)
  parts : List (BitVec 15 × BitVec 4 × BitVec 64)
  mode : BitVec 2
  tag : BitVec 31
  ctx : BitVec 6
  va : BitVec 52
  leaf : TlbEntry
  deriving DecidableEq, Repr

/-- A sector's ordered reduction buffer in use (R235). -/
structure Orb where
  base : BitVec 21
  frames : BitVec 16
  pend : Option (BitVec 21 × BitVec 16)
  deriving DecidableEq, Repr

def Orb.reset : Orb := ⟨0, 0, none⟩

/-- A sweep of the base dies (R246): true commit, false rollback, with its list of records. -/
structure Sweep where
  commit : Bool
  recs : List Nat
  deriving DecidableEq, Repr

/-- Scrub progress of a sector (R227, R238). -/
structure Scrub where
  pos : BitVec 24
  passes : BitVec 16
  deriving DecidableEq, Repr

structure MemState where
  hbm : List Host.Cell
  err : Store (BitVec 288)   -- by unit: what its stored 36-byte word differs in from its codeword, byte i at bits 8i (R224)
  chEcc : Store EccCount
  sramEcc : Store EccCount
  stackRegs : Store StackReg
  scrub : Store Scrub
  tlb : List (Nat × TlbEntry)   -- by the sector whose translation unit caches it (R222)
  invs : List InvScope
  own : Store OwnEntry
  zeroing : List Nat
  keys : Store (BitVec 512)
  loaded : BitVec 64
  recs : Store PageRec
  firsts : List Nat
  copying : List Nat
  sweep : Option Sweep
  sweepQ : List Sweep
  orb : Store Orb
  contribs : List Contrib
  rounds : List Round
  closed : Store (Option (BitVec 32))
  cnt : Store (BitVec 32 × BitVec 32)
  deriving DecidableEq, Repr

def MemState.reset : MemState :=
  { hbm := [], err := [], chEcc := [], sramEcc := [], stackRegs := [], scrub := [], tlb := [], invs := [], own := []
    zeroing := [], keys := [], loaded := 0, recs := [], firsts := [], copying := [], sweep := none, sweepQ := []
    orb := [], contribs := [], rounds := [], closed := [], cnt := [] }

/-- SEC_EP_STATE.STATE (R259). -/
inductive EpSt where
  | idle | running | prepared | committing | rollingBack | sundered | doubt
  deriving DecidableEq, Repr

/-- The coordinator's last decision (R254, R258). -/
structure Decision where
  epoch : BitVec 64
  att : BitVec 16
  commit : Bool
  cause : BitVec 8
  deriving DecidableEq, Repr

/-- The commit messages (R252). -/
inductive MsgType where
  | prepare | commit | abort | abortReq | query | answer
  deriving DecidableEq, Repr

structure EpochState where
  c : BitVec 64
  genOpen : BitVec 8
  genLast : BitVec 8
  st : EpSt
  sent : Bool
  att : BitVec 16
  launch : Option Nat
  mepoch : BitVec 64
  members : List (BitVec 15)
  rank : BitVec 15
  localPrep : Bool
  reports : List (BitVec 15 × Nat)
  prepTimer : Bool
  decideTimer : Bool
  decision : Option Decision
  oldDecision : Bool             -- that decision was of a launch before the one now dispatched (log 28)
  lastCommit : Option Decision   -- the coordinator's decision for epoch C, held until it commits the next (R258)
  held : List (MsgType × CommitMsg)
  acted : Option (BitVec 64 × BitVec 16)
  after : Option (BitVec 8)     -- what follows the local rollback in progress: the cause acted on (R256)
  afterSunder : Bool            -- the rollback ends in SUNDERED (R260)
  contained : Bool              -- every writer of the failed attempt has stopped (R355)
  failedAtt : Option (BitVec 16) -- the attempt that has failed on this device (R355, R356)
  rejoin : Bool                 -- QUERY is to be answered before the replay is dispatched (R360)
  waitMsgs : List (MsgType × CommitMsg)  -- VC2 messages that wait by handshake while the FCP restarts (15 R375)
  commits : BitVec 32
  aborts : BitVec 32
  deriving DecidableEq, Repr

/-- R251, R269: membership epoch 0, a group of one. -/
def EpochState.reset : EpochState :=
  { c := 0, genOpen := 1, genLast := 0, st := .idle, sent := false, att := 0, launch := none, mepoch := 0
    members := [], rank := 0, localPrep := false, reports := [], prepTimer := false, decideTimer := false
    decision := none, oldDecision := false, lastCommit := none, held := [], acted := none, after := none, afterSunder := false, contained := false
    failedAtt := none, rejoin := false, waitMsgs := [], commits := 0, aborts := 0 }

/-! ### The front end (11, 12) and the numeric watch (06) -/

/-- Event counters and bins of one tag (R144, R146). Bins 0 to 255 are exponent bins, 256 NAN, 257 INF, 258 ZERO,
259 FLUSHED. -/
structure TagCount where
  elems : BitVec 64
  bins : Store (BitVec 32)
  sat : BitVec 32
  flush : BitVec 32
  replay : BitVec 32
  invalid : BitVec 32
  ovf : BitVec 32
  deriving DecidableEq, Repr

def TagCount.reset : TagCount := ⟨0, [], 0, 0, 0, 0, 0⟩

/-- An armed watch entry (R152, R153). -/
structure Armed where
  tag : BitVec 31
  p : BitVec 16
  n : BitVec 16
  run : BitVec 16
  deriving DecidableEq, Repr

/-- A context's state (R275). -/
inductive CtxSt where
  | free | opened | blocked | aborting
  deriving DecidableEq, Repr

/-- Completion record contents (R306) without PHASE. -/
structure CplRec where
  status : BitVec 16
  numev : Bool
  late : Bool
  held : Bool
  att : BitVec 16
  gid : BitVec 16
  seq : BitVec 64
  epoch : BitVec 64
  ver : BitVec 32
  ntag : BitVec 31
  deriving DecidableEq, Repr

/-- A launch in the journal (R304). -/
inductive JState where
  | admitted | dispatched | prepared | committed | ended
  deriving DecidableEq, Repr

structure Launch where
  id : Nat
  ctx : BitVec 6
  seq : BitVec 64
  gid : BitVec 16
  ver : BitVec 32
  image : BitVec 64
  imgCtx : BitVec 6
  mode : BitVec 2
  nhum : Nat
  params : List Byte
  watch : BitVec 64
  seed : BitVec 64
  deadline : BitVec 32
  d : Nat
  rate : Nat
  paced : Bool
  js : JState
  att : BitVec 16
  epoch : BitVec 64
  numOvf : Bool
  cause : Option (BitVec 8)   -- the cause with which this member has ended the launch (R256)
  fired : Option (BitVec 31)
  late : Bool
  abortAsked : Bool           -- CTX_ABORT has named its context (R357)
  ended : Nat                 -- hummocks that have executed END (R172)
  record : Option CplRec
  pos : Option (BitVec 16 × Bool)  -- recorded ring position and PHASE (R305)
  deriving DecidableEq, Repr

/-- A launch's entry in the launch journal (R304, R305). -/
structure JLaunch where
  id : Nat
  js : JState
  att : BitVec 16
  epoch : BitVec 64
  record : Option CplRec
  pos : Option (BitVec 16 × Bool)
  deriving DecidableEq, Repr

structure GVersion where
  num : BitVec 32
  bytes : List Byte
  deriving DecidableEq, Repr

structure Graph where
  gid : BitVec 16
  image : BitVec 64
  ctxmask : BitVec 64
  paramsz : Nat
  nhum : Nat
  mode : BitVec 2
  wsteps : Nat
  wfixed : Nat
  slus : List Nat            -- relative sluices that its image declares (07 R184)
  versions : List GVersion
  current : BitVec 32
  retiring : Bool
  deriving DecidableEq, Repr

structure Ctx where
  st : CtxSt
  sluBase : BitVec 16
  sluCount : BitVec 16
  dbSeq : BitVec 64
  slots : List Host.Cell        -- BAR4 page bytes of DB_SLOT entries and replies
  submitted : BitVec 16
  tail : BitVec 16
  phase : Bool
  armed : List Armed
  deriving DecidableEq, Repr

def Ctx.reset : Ctx := ⟨.free, 0, 0, 0, [], 0, 0, true, []⟩

/-- A reply record (R274) held back by a failed write (R284). -/
structure Reply where
  status : BitVec 16
  opc : BitVec 8
  state : BitVec 32
  seq : BitVec 64
  data : BitVec 128
  irq : Bool
  path : Path
  deriving DecidableEq, Repr

structure FrontEnd where
  head : BitVec 16
  rplTail : BitVec 16
  phase : Bool
  seq : BitVec 64
  rdblk : Bool
  wrblk : Bool
  heldReply : Option Reply
  wait : Option Reply          -- the reply of a command whose effect is still running (R283, R420)
  mbSeq : BitVec 64
  mgpSeq : BitVec 64           -- the expected SEQ of the MGP's own path (R286)
  quiesced : Bool
  ctxs : Store Ctx
  launches : List Launch
  nextLaunch : Nat
  graphs : List Graph
  dbq : List (BitVec 6 × BitVec 4 × Nat)   -- doorbells by arrival, each with the ring slots that came before it (R296)
  violCmd : BitVec 32
  violSluice : BitVec 16
  violMember : BitVec 16
  watch : Store TagCount
  deriving DecidableEq, Repr

def FrontEnd.reset : FrontEnd :=
  { head := 0, rplTail := 0, phase := true, seq := 0, rdblk := false, wrblk := false, heldReply := none, wait := none
    mbSeq := 0, mgpSeq := 0, quiesced := false, ctxs := [(0, { Ctx.reset with st := .opened })], launches := [], nextLaunch := 1
    graphs := [], dbq := [], violCmd := 0, violSluice := 0, violMember := 0, watch := [] }

/-! ### The Causeway (13) -/

/-- CWY_P_STAT.LSTATE and DSTATE (R343). -/
inductive LSt where
  | off | detect | training | exchange | up | miswired | down
  deriving DecidableEq, Repr

inductive DSt where
  | active | draining | drained
  deriving DecidableEq, Repr

/-- A frame of the replay buffer (R331), as first sent: sequence number, resend count, the packet as it goes on the wire, its
CRC, and the tag of a port that runs with GCM (16 R419). -/
structure Frame where
  seq : BitVec 12
  resent : Nat
  pkt : Packet
  crc : BitVec 32
  tag : List Byte
  deriving DecidableEq, Repr

/-- Per-VC counters (R337): packets and bytes sent and received, stall time, present depth, high-water of the window
in progress and of the previous one. -/
structure VcCount where
  txp : BitVec 64
  txb : BitVec 64
  rxp : BitVec 64
  rxb : BitVec 64
  stall : BitVec 64
  highNow : Nat
  high : Nat
  starved : Bool           -- in this window a packet met the port with no credit (R337)
  deriving DecidableEq, Repr

def VcCount.reset : VcCount := ⟨0, 0, 0, 0, 0, 0, 0, false⟩

structure Port where
  ls : LSt
  ds : DSt
  width1 : Bool
  polinv : BitVec 2
  lswap : Bool
  dcause : BitVec 3
  modp : Bool
  noid : Bool
  pid : BitVec 15
  pval : Bool
  pport : BitVec 4
  pmep : BitVec 64
  lopen : BitVec 2
  lshort : BitVec 2
  rxlos : BitVec 2
  vcs : Store VcCount
  replays : BitVec 32
  naks : BitVec 32
  corr : BitVec 64
  unc : BitVec 32
  crc : BitVec 32
  lost : BitVec 32
  downs : BitVec 16
  misw : BitVec 16
  txSeq : BitVec 12
  rxSeq : BitVec 12
  replay : List Frame
  inbuf : List Packet       -- packets received and not yet forwarded, delivered or discarded (R321)
  credits : Store Nat       -- free buffers at the partner by 2·VC + class (R321)
  key : Option (BitVec 512)   -- 32 bytes of key, then 4 of salt (16 R419)
  frames : BitVec 64          -- frames sent under the key
  rxFrames : BitVec 64        -- frames accepted under it
  deriving DecidableEq, Repr

def Port.reset : Port :=
  { ls := .off, ds := .active, width1 := false, polinv := 0, lswap := false, dcause := 0, modp := false, noid := false
    pid := 0, pval := false, pport := 0, pmep := 0, lopen := 0, lshort := 0, rxlos := 0, vcs := [], replays := 0
    naks := 0, corr := 0, unc := 0, crc := 0, lost := 0, downs := 0, misw := 0, txSeq := 0, rxSeq := 0, replay := []
    inbuf := [], credits := [], key := none, frames := 0, rxFrames := 0 }

/-- An inbound transfer in progress (R319). `left` counts contributions not yet accepted. -/
structure Inbound where
  src : BitVec 15
  xid : BitVec 16
  next : BitVec 32
  bad : Bool
  lastSeen : Bool
  left : Nat
  ctx : BitVec 6
  sig : Bool
  slu : BitVec 15
  att : BitVec 16
  xlatErr : Bool
  deriving DecidableEq, Repr

/-- A transfer this device has sent and whose ACK has not come (R319). -/
structure Outbound where
  xid : BitVec 16
  dst : BitVec 15
  hum : Fin 96
  id : Nat
  deriving DecidableEq, Repr

structure Fabric where
  rtAct : Store (BitVec 12)
  ltAct : Store (BitVec 12)
  pend : Bool
  ports : Store Port
  idInForce : BitVec 15
  sizes : BitVec 15          -- WM1, XM1, YM1 and ZM1 in force (R315)
  stale : BitVec 32
  gap : BitVec 16
  localdrop : BitVec 16
  noroute : BitVec 32
  hoplim : BitVec 16
  malf : BitVec 16
  inject : List Packet
  later : List Packet        -- packets that came by no port's buffer and wait (R319, R320; log 95)
  linkWait : List (List Byte)  -- link events that wait for the FCP (R375)
  inbound : List Inbound
  outbound : List Outbound
  nextXid : BitVec 16
  deriving DecidableEq, Repr

def Fabric.reset : Fabric :=
  { rtAct := [], ltAct := [], pend := false, ports := [], idInForce := 0, sizes := 0, stale := 0, gap := 0
    localdrop := 0, noroute := 0, hoplim := 0, malf := 0, inject := [], later := [], linkWait := [], inbound := [], outbound := []
    nextXid := 0 }

/-! ### Error and recovery (14) and event queues (18) -/

/-- A level in progress (R348): its code (R361) and the launch concerned. -/
structure LevelRun where
  code : BitVec 32
  ctx : BitVec 8
  att : BitVec 16
  seq : BitVec 64
  deriving DecidableEq, Repr

structure EventQ where
  tail : BitVec 16
  phase : Bool
  backlog : List (BitVec 8 × BitVec 32 × BitVec 16 × List Byte)  -- TYPE, ESEQ, LOST before it, payload
  blkd : Bool
  retry : Bool              -- a write of HEAD has asked for the blocked write again (R462)
  lost : BitVec 32
  eseq : BitVec 32
  lostNow : BitVec 16
  deriving DecidableEq, Repr

def EventQ.reset : EventQ := ⟨0, true, [], false, false, 0, 0, 0⟩

/-- The always-on latches of one processor (R367, R368). -/
structure Latch where
  fired : Bool
  restarts : BitVec 16
  pc : BitVec 64
  tcause : BitVec 64
  status : BitVec 64
  deriving DecidableEq, Repr

def Latch.reset : Latch := ⟨false, 0, 0, 0, 0⟩

/-- An assembled crash dump (R368). -/
structure Dump where
  trig : BitVec 32
  last : List (BitVec 32)
  procs : List (Bool × Bool × Latch)   -- FIRED, RUN, latch
  deriving DecidableEq, Repr

/-- ERR_DUMP before any dump: every field 0 (R370). -/
def Dump.reset : Dump := ⟨0, [], []⟩

structure ErrBlock where
  ctxab : Option (BitVec 6 × LevelRun)
  engines : Store (Option LevelRun)
  sectors : Store (Option LevelRun)
  chip : Option LevelRun
  chipNoHold : Bool            -- the chip reset is taken with HOLD as 0 (R345)
  pcreq : Bool
  halted : Bool
  last : Store (BitVec 32)
  nCtxab : BitVec 16
  nEng : BitVec 16
  nSec : BitVec 16
  nChip : BitVec 16
  latches : Store Latch
  dumps : BitVec 32
  dump : Dump
  eq0 : EventQ
  eq1 : EventQ
  deriving DecidableEq, Repr

def ErrBlock.reset : ErrBlock :=
  { ctxab := none, engines := [], sectors := [], chip := none, chipNoHold := false, pcreq := false, halted := false
    last := [], nCtxab := 0, nEng := 0, nSec := 0, nChip := 0, latches := [], dumps := 0, dump := Dump.reset
    eq0 := EventQ.reset, eq1 := EventQ.reset }

/-! ### Firmware (15) -/

/-- FW_PROC.STATE (R398). -/
inductive ProcSt where
  | off | starting | rebuilding | ready | quiescing | handingOff | notRecovered
  deriving DecidableEq, Repr

structure ProcReg where
  st : ProcSt
  restarts : BitVec 16
  fires : List Nat      -- watchdog firings within the last second, by the model's ms clock (R359)
  since : Nat           -- when it was last reset, by the same clock (R374)
  deriving DecidableEq, Repr

def ProcReg.reset : ProcReg := ⟨.off, 0, [], 0⟩

/-- The RV64IMAC core of a processor and its SRAMs (R371): pc, registers x1 to x31 by number, instruction and data SRAM by byte,
and what their units' stored words differ in from their codewords (R224), data units from 2^32. -/
structure Core where
  pc : BitVec 64
  x : Store (BitVec 64)
  isram : Store Byte
  dsram : Store Byte
  err : Store (BitVec 288)
  deriving DecidableEq, Repr

def Core.reset : Core := ⟨0, [], [], [], []⟩

/-- A handoff record (R391). -/
structure HandRec where
  hover : BitVec 16
  idx : BitVec 8
  body : List Byte
  damage : BitVec 32         -- what its stored CRC differs in from the right one
  jseq : BitVec 32
  slot : BitVec 8
  deriving DecidableEq, Repr

/-- An image slot as the flash directory records it (R384, R385). -/
structure Slot where
  verified : Bool
  fwver : BitVec 64
  svn : BitVec 32
  numrev : BitVec 32
  hover : BitVec 16
  homin : BitVec 16
  digest : BitVec 512
  svnlock : Bool
  deriving DecidableEq, Repr

def Slot.reset : Slot := ⟨false, 0, 0, 0, 0, 0, 0, false⟩

/-- A log entry (R392). -/
structure LogEnt where
  seq : BitVec 64
  idx : BitVec 8
  sev : BitVec 8
  tp : BitVec 16
  code : BitVec 32
  lcnt : BitVec 64
  args : List (BitVec 64)
  deriving DecidableEq, Repr

structure Firmware where
  procs : Store ProcReg
  cores : Store Core
  hand : Store (Option HandRec)   -- the handoff area of the journal SRAM, by processor (R391)
  actSlot : Bool
  slotA : Slot
  slotB : Slot
  svnMin : BitVec 32
  pend : Option Bool
  handoff : Option (Nat × Bool)   -- step of R388 in progress, and the slot
  reverting : Bool
  logSeq : BitVec 64
  log : Store LogEnt              -- by ring position (R393)
  flash : Store Byte              -- the flash by offset (R383), an erased byte reads 0xFF; its directory and management data are fields
  flashPos : Nat                  -- next unit of 64 bytes of the persistent log section to be written (R395)
  unsaved : List (List (List Byte))   -- entries for the section that wait while the MGP restarts
  bseq : Nat                      -- next block sequence number
  ms : Nat                        -- the model's clock: sensor samples since power-on, one per ms (R401)
  minuteStart : Nat
  minuteUnits : Nat
  drop : BitVec 32
  pdrop : BitVec 32
  htail : BitVec 20
  deriving DecidableEq, Repr

/-- The flash as shipped: slot A active and verified, image fields 0 (log 8). -/
def Firmware.reset : Firmware :=
  { procs := [], cores := [], hand := [], actSlot := false, slotA := { Slot.reset with verified := true }, slotB := Slot.reset, svnMin := 0
    pend := none, handoff := none, reverting := false, logSeq := 0, log := [], flash := [], unsaved := []
    flashPos := 0, bseq := 1, ms := 0, minuteStart := 0, minuteUnits := 0, drop := 0, pdrop := 0, htail := 0 }

/-! ### Management (16), host link and sideband (19), board (20) -/

/-- A session (R410, R411). -/
structure Session where
  id : Nat                 -- the number by which rows name the session
  binding : Binding
  opened : Bool              -- SESS_KEY has completed
  auth : Bool
  th : List Byte             -- the exchange so far
  secret : List Byte         -- the 88 bytes derived at step 4
  keys : List (BitVec 32 × BitVec 512)
  seq : BitVec 64            -- next expected SEQ of CMD packets (R286)
  sendSeq : BitVec 64        -- messages sent under the response key, and heard under the request key
  recvSeq : BitVec 64
  deriving DecidableEq, Repr

/-- The PLDM update state (R405). -/
inductive UpdSt where
  | idle | learn | ready | download | verify | apply | activate
  deriving DecidableEq, Repr

/-- An EGRESS or INGRESS request accepted (R416, R417). -/
structure XferReq where
  egress : Bool
  binding : Binding
  sid : Nat
  ctx : BitVec 6
  sec : Fin 8
  first : BitVec 18
  count : BitVec 18
  addr : BitVec 64
  deriving DecidableEq, Repr

/-- A request that waits for the MGP: a DOE object or a mailbox packet while it restarts, a report during a handoff (R413,
R480). -/
inductive MgmtReq where
  | version | capabilities | algorithms | unsupported (code : BitVec 8)
  | report (nonce : BitVec 256)
  | chain (offset length : BitVec 32)
  | mailbox
  | cmd (i : Instr)
  deriving DecidableEq, Repr

/-- A BIST run (R420): kind, scope, target, where the records go, and the reply. -/
structure BistRun where
  kind : BitVec 8
  scope : BitVec 8
  target : BitVec 8
  ctx : BitVec 6
  dst : BitVec 64
  reply : Reply
  deriving DecidableEq, Repr

structure ModReg where
  read : Bool
  highpwr : Bool
  maxp : BitVec 8
  ident : List Byte
  told : Bool               -- the event of its being unreadable has been placed
  deriving DecidableEq, Repr

def ModReg.reset : ModReg := ⟨false, false, 0, [], false⟩

/-- A relay sent and not yet answered (R487). -/
structure Relay where
  binding : Binding
  eid : BitVec 8
  dst : BitVec 15
  deriving DecidableEq, Repr

structure Mss where
  sens : Store (BitVec 64)
  bistRan : Bool
  bistDiff : BitVec 8
  lastBist : BitVec 32
  withheld : BitVec 96         -- its BIST differed (R423)
  withheldUe : BitVec 96       -- withheld under R226 until its memory BIST matches
  mods : Store ModReg
  viol : BitVec 32
  mbReq : List Host.Cell
  mbRpl : List Host.Cell
  mbBusy : Bool
  ownRpl : List Byte           -- the reply to the last command that the MGP issued itself (R286)
  sessions : List Session
  nextSess : Nat
  dik : List Byte             -- the DIK's 96 seed bytes in MGP SRAM (R407)
  fmkey : Option (BitVec 512)
  upd : UpdSt
  updOn : Binding              -- the path of the update in progress
  updOff : BitVec 32
  updSize : BitVec 32
  xfers : List XferReq
  bist : List BistRun          -- runs in progress, oldest first
  trip : Option (BitVec 8)
  eids : Store (BitVec 8)
  i3c : Option (BitVec 7)
  relays : List Relay
  contacts : List ContactFault
  waiting : List (Binding × MgmtReq)
  askers : List (BitVec 15)    -- devices whose requests have come in MGMT packets (R400)
  deriving DecidableEq, Repr

def Mss.reset : Mss :=
  { sens := [], bistRan := false, bistDiff := 0, lastBist := 0, withheld := 0, withheldUe := 0, mods := [], viol := 0, mbReq := []
    mbRpl := [], mbBusy := false, ownRpl := [], sessions := [], nextSess := 1, dik := [], fmkey := none, upd := .idle, updOn := .smbus, updOff := 0, updSize := 0
    xfers := [], bist := [], trip := none, eids := [], i3c := none, relays := [], contacts := [], waiting := [], askers := [] }

/-! ### Power (17) -/

/-- A wake request (R438): hummock and class 1 (true) or 2. -/
structure WakeReq where
  g : Fin 96
  cls1 : Bool
  deriving DecidableEq, Repr

structure Power where
  active : BitVec 2
  admitPt : BitVec 2
  pend : Option (BitVec 2)
  paceAct : Bool
  pacePend : Bool
  ramp : Bool
  clamp : Bool
  eProchot : Bool
  eTherm : Bool
  ePower : Bool
  eRail : Bool
  clearMs : BitVec 8
  common : Nat
  shared : Nat                -- the setpoint of the sector dies' and the hub die's regulators, in mV; 0 while off (R430)
  actRate : BitVec 2
  pkgW : BitVec 16
  coreA : BitVec 16
  energy : BitVec 64
  wakeQ : List WakeReq
  granted : List WakeReq
  wakes : BitVec 32
  rates : List (BitVec 16 × BitVec 16 × BitVec 16)   -- PWC_CAL[0..2]: RATE, CAPRATE, VSET (fuses)
  dcnt : Store (BitVec 64)
  crossed : BitVec 8          -- sensor channel that raised the emergency, 0xFF none
  deriving DecidableEq, Repr

/-- R450; PWC_CAL at the floors of R428 (log 11). -/
def Power.reset : Power :=
  { active := 1, admitPt := 1, pend := none, paceAct := false, pacePend := false, ramp := false, clamp := false
    eProchot := false, eTherm := false, ePower := false, eRail := false, clearMs := 0, common := 0, shared := 0, actRate := 0
    pkgW := 0, coreA := 0, energy := 0, wakeQ := [], granted := [], wakes := 0
    rates := [(950, 950, 620), (1200, 1200, 720), (1360, 1200, 800)], dcnt := [], crossed := 0xFF }

/-! ### The journal SRAM (15) -/

/-- What a journal record describes: the state of R378 that its processor keeps, as it stands once the action is taken. The body's
format is the image's (R379). An SCP: the hummocks placed in its sector, its pending wake requests, and the sector's recovery where one runs. The FEP: each launch's entry
(12 R304, R305), SEQ and the reply not yet written (11 R285), contexts, graphs, armed entries. The FCP: C and the generations,
the commit state and its attempt, decisions, membership, the next XID. The PWP: operating point, Paced, tokens. The MGP: the activation,
the flash directory (active slot, slot states, least SVN), and the log position. -/
inductive JBody where
  | scp (placed : List (Nat × Holder)) (wakes : List WakeReq) (recovery : Option LevelRun)
  | fep (launches : List JLaunch) (seq : BitVec 64) (reply : Option Reply) (ctxs : Store Ctx) (graphs : List Graph)
  | fcp (c : BitVec 64) (genOpen genLast : BitVec 8) (decision lastCommit : Option Decision) (mepoch : BitVec 64)
      (members : List (BitVec 15)) (rank : BitVec 15) (nextXid : BitVec 16)
      (st : EpSt) (att : BitVec 16)
  | pwp (active : BitVec 2) (pend : Option (BitVec 2)) (paced : Bool) (cap : BitVec 64) (granted : List WakeReq)
  | mgp (actSlot : Bool) (pend : Option Bool) (handoff : Option (Nat × Bool)) (flashPos : Nat) (slots : Slot × Slot) (svnMin : BitVec 32)
  deriving DecidableEq, Repr

/-- A journal record (R379): its sequence number, what its stored CRC differs in from the right one, and what it describes. -/
structure JRec where
  seq : BitVec 32
  damage : BitVec 32
  body : JBody
  deriving DecidableEq, Repr

/-- A processor's partition of the journal SRAM (R378 to R380, R382): the checkpoint and the SEQ up to which it goes, the records
after it, and whether an uncorrectable error lies in them. -/
structure Partition where
  base : Option JBody
  baseSeq : BitVec 32
  recs : List JRec
  bad : Bool
  deriving DecidableEq, Repr

def Partition.reset : Partition := ⟨none, 0, [], false⟩

/-! ### Configuration integrity (18) -/

structure Cip where
  serial : BitVec 128
  feat : BitVec 6
  modeActive : Bool
  cur : Store (BitVec 32)
  isOpen : BitVec 10
  drift : BitVec 10
  copies : Store (Store (BitVec 64))
  persists : Store Nat          -- resets already taken for a drift that persists (R470)
  violReg : BitVec 32
  violClosed : BitVec 16
  violFrame : BitVec 16
  deriving DecidableEq, Repr

def Cip.reset : Cip :=
  { serial := 0, feat := 0x3F, modeActive := true, cur := [], isOpen := 0x3FF, drift := 0, copies := [], persists := []
    violReg := 0, violClosed := 0, violFrame := 0 }

/-- An IDE stream (R479): keys by direction, enable, Secure. -/
structure IdeStream where
  keys : Store (Option (BitVec 512))   -- by 2·direction + key set, direction 0 receive
  enabled : Bool
  secure : Bool
  deriving DecidableEq, Repr

def IdeStream.reset : IdeStream := ⟨[], false, false⟩

/-- An access of 4 or 8 bytes to a register of BAR0, or to the Mere window of a hummock's block: `half` is the half that one of 4
bytes names. -/
structure RegAcc where
  m : Master
  off : BitVec 26
  half : Option Bool
  op : RegOp
  deriving DecidableEq, Repr

structure HostLink where
  up : Bool
  lanes : BitVec 16          -- lanes in use (R477)
  width : BitVec 6           -- trained width and rate, as Link Status reads them (R477)
  rate : BitVec 4
  perst : Bool
  d3 : Bool                  -- the function is in D3hot (R476)
  bar2Log2 : Nat
  unmasked : Store Bool
  pba : Store Bool
  ide : Store IdeStream
  stalls : List (BitVec 42 × Bar2Op)
  regStalls : List RegAcc    -- accesses that stall at a hummock's boundary or behind a sector's bridge (07 R171; 14 R365, R366)
  deriving DecidableEq, Repr

/-- Before the link has trained, width and rate read 0 (log 128). -/
def HostLink.reset : HostLink :=
  { up := false, lanes := 0, width := 0, rate := 0, perst := true, d3 := false, bar2Log2 := 28, unmasked := [], pba := [], ide := []
    stalls := [], regStalls := [] }

/-- How far start-up has come (R502). -/
structure Board where
  standby : Bool
  coreOn : Bool              -- the power-on hold has released
  step : Nat                 -- the last completed step of R502
  released : Bool
  strapBist : Bool
  strapTest : Bool
  smbAddr : BitVec 2
  fru : Option (List Byte)   -- the FRU EEPROM's bytes (R404), read at each start
  risen : BitVec 10          -- core rails above 10 % of nominal, and those within tolerance (R494, R495)
  settled : BitVec 10
  offender : Option CoreRail -- the first rail found out of sequence or lost: the hold keeps until every rail has fallen
  stopped : Bool             -- start-up has stopped (R503)
  alertN : Bool              -- pin levels, true high
  thermtripN : Bool
  pwrcycN : Bool
  prochotN : Bool
  dzClock : Bool
  pcieClock : Bool
  xtal : Bool
  deriving DecidableEq, Repr

def Board.reset : Board :=
  { standby := false, coreOn := false, step := 0, released := false, strapBist := false, strapTest := false, smbAddr := 0, fru := none
    risen := 0, settled := 0, offender := none
    stopped := false, alertN := true, thermtripN := true, pwrcycN := true, prochotN := true, dzClock := true
    pcieClock := true, xtal := true }

/-! ### What the block sends -/

/-- An output of the block. -/
inductive Out where
  | hostWrite (addr : BitVec 64) (bytes : List Byte)      -- a posted PCIe memory write
  | hostRead (addr : BitVec 64) (len : Nat)               -- a DMA read of host memory
  | msix (vec : BitVec 11) (addr : BitVec 64) (data : BitVec 32)   -- an interrupt message, a posted write
  | completion (bytes : List Byte) (poisoned : Bool)       -- completion of a host read
  | regData (m : Master) (v : BitVec 64) (timedOut : Bool) -- the bus response of a processor's register read (14 R365)
  | configData (v : BitVec 32)                             -- completion of a configuration read
  | retryStatus                                            -- Request Retry Status (19 R483)
  | frame (p : PortIx) (seq : BitVec 12) (pkt : Packet) (crc : BitVec 32) (tag : List Byte)   -- a link frame sent (13 R331)
  | exchange (p : PortIx) (id : BitVec 15) (sizes : BitVec 15) (mepoch : BitVec 64)   -- what a port sends at EXCHANGE (13 R333)
  | linkAck (p : PortIx) (next : BitVec 12)
  | linkNak (p : PortIx) (next : BitVec 12)
  | mep (p : PortIx) (v : BitVec 64)
  | credit (p : PortIx) (vc : BitVec 2) (cls : Bool)
  | mctp (b : Binding) (bytes : List Byte)                 -- a response on a management path
  | pin (code : BitVec 8) (high : Bool)                    -- an output contact of R499
  | drs                                                    -- Device Readiness Status message
  | aer (stream : BitVec 2)
  | aerPoison                                              -- a poisoned write received (19 R476)
  | ibi                                                    -- an in-band interrupt on I3C (19 R485)
  | flashWrite (bytes : List Byte)
  deriving DecidableEq, Repr

/-! ### The whole block -/

structure State where
  pending : List Instr
  freeCtr : Nat
  regs : Store (BitVec 64)
  hums : Store Hummock
  sluices : Store Sluice
  flight : List (Fin 96 × Sig)
  mem : MemState
  ep : EpochState
  fe : FrontEnd
  cwy : Fabric
  err : ErrBlock
  fw : Firmware
  jnl : Store Partition     -- the journal SRAM, by processor (15 R378)
  mss : Mss
  pwc : Power
  cip : Cip
  link : HostLink
  board : Board
  out : List Out
  deriving DecidableEq, Repr

/-- Why the model stops with a fault. No meaning of this model raises it: every behaviour the specification gives is
a next state. -/
inductive Fault where
  /-- Raised by nobody. Safe. -/
  | unreachable
  deriving DecidableEq, Repr

/-- Why the model refuses a command. -/
inductive Refusal where
  /-- Raised by an arm of exec whose command has no meaning yet. Safe. -/
  | notModelled (mnemonic : String)
  deriving DecidableEq, Repr

/-- Power-on, before standby power is good: every register at its Reset value (R502). -/
def State.reset : State :=
  { pending := [], freeCtr := 0, regs := [], hums := [], sluices := [], flight := [], mem := MemState.reset
    ep := EpochState.reset, fe := FrontEnd.reset, cwy := Fabric.reset, err := ErrBlock.reset, fw := Firmware.reset, jnl := []
    mss := Mss.reset, pwc := Power.reset, cip := Cip.reset, link := HostLink.reset, board := Board.reset, out := [] }

end Sys2Proof.Machine
end

