-- ==== Sys2Proof/Machine/Ops.lean ====
section
/-!
DEFINITION. Sys2Proof/Machine/Ops.lean: reading and updating the parts of the state, what the block sends, free draws,
register storage by BAR0 offset, and the two event queues (18_register_interface.md R459 to R466).
-/

namespace Sys2Proof.Machine

/-! ### Parts of the state -/

def State.hum (s : State) (g : Nat) : Hummock := sget Hummock.reset s.hums g
def State.setHum (s : State) (g : Nat) (h : Hummock) : State := { s with hums := sset Hummock.reset s.hums g h }
def State.modHum (s : State) (g : Nat) (f : Hummock → Hummock) : State := s.setHum g (f (s.hum g))

def Hummock.tile (h : Hummock) (t : Nat) : SumpTile := sget SumpTile.reset h.sump t
def Hummock.setTile (h : Hummock) (t : Nat) (x : SumpTile) : Hummock :=
  { h with sump := sset SumpTile.reset h.sump t x }
def Hummock.lat (h : Hummock) (l : Nat) : Lattice := sget Lattice.reset h.lats l
def Hummock.setLat (h : Hummock) (l : Nat) (x : Lattice) : Hummock := { h with lats := sset Lattice.reset h.lats l x }
def Hummock.slot (h : Hummock) (p : Nat) : Store (BitVec 64) := sget [] h.peat p
def Hummock.setSlot (h : Hummock) (p : Nat) (x : Store (BitVec 64)) : Hummock := { h with peat := sset [] h.peat p x }

def State.sluice (s : State) (n : Nat) : Sluice := sget Sluice.reset s.sluices n
def State.setSluice (s : State) (n : Nat) (x : Sluice) : State := { s with sluices := sset Sluice.reset s.sluices n x }

def State.ctx (s : State) (c : Nat) : Ctx := sget Ctx.reset s.fe.ctxs c
def State.setCtx (s : State) (c : Nat) (x : Ctx) : State :=
  { s with fe := { s.fe with ctxs := sset Ctx.reset s.fe.ctxs c x } }
def State.modCtx (s : State) (c : Nat) (f : Ctx → Ctx) : State := s.setCtx c (f (s.ctx c))

def State.modLink (s : State) (f : HostLink → HostLink) : State := { s with link := f s.link }

def State.port (s : State) (p : Nat) : Port := sget Port.reset s.cwy.ports p
def State.setPort (s : State) (p : Nat) (x : Port) : State :=
  { s with cwy := { s.cwy with ports := sset Port.reset s.cwy.ports p x } }
def State.modPort (s : State) (p : Nat) (f : Port → Port) : State := s.setPort p (f (s.port p))

def State.proc (s : State) (i : Nat) : ProcReg := sget ProcReg.reset s.fw.procs i
def State.setProc (s : State) (i : Nat) (x : ProcReg) : State :=
  { s with fw := { s.fw with procs := sset ProcReg.reset s.fw.procs i x } }

def stackReset : StackReg := ⟨.untrained, false, 0⟩
def State.stack (s : State) (k : Nat) : StackReg := sget stackReset s.mem.stackRegs k
def State.setStack (s : State) (k : Nat) (x : StackReg) : State :=
  { s with mem := { s.mem with stackRegs := sset stackReset s.mem.stackRegs k x } }

def ownReset : OwnEntry := ⟨0, false, false⟩
/-- Ownership map entry of a frame by global index, DPA / 2^21 (R229). -/
def State.owner (s : State) (f : Nat) : OwnEntry := sget ownReset s.mem.own f
/-- Page record of frame A by global index (R239). -/
def State.pageRec (s : State) (f : Nat) : PageRec := sget PageRec.reset s.mem.recs f

def State.orbOf (s : State) (x : Nat) : Orb := sget Orb.reset s.mem.orb x
def State.setOrb (s : State) (x : Nat) (o : Orb) : State :=
  { s with mem := { s.mem with orb := sset Orb.reset s.mem.orb x o } }

/-- A context is sealed while its keys are loaded (R229). -/
def State.isSealed (s : State) (c : Nat) : Bool := s.mem.loaded.getLsbD c

/-- The sector of a hummock (R3). -/
def secOf (g : Nat) : Nat := g / 12

def allHums : List Nat := List.range 96
def allPorts : List Nat := List.range 16

/-! ### Outputs and free draws -/

def State.emit (s : State) (o : Out) : State := { s with out := s.out ++ [o] }

/-- Take the next free draw (log 2). -/
def State.draw (s : State) : Nat × State := (s.freeCtr, { s with freeCtr := s.freeCtr + 1 })

/-! ### Register storage: an offset that nothing has written reads its Reset column -/

/-- Reset values of the RW fields, by BAR0 offset (R238, R269, R288, R312, R343, R370, R398, R427, R450, R466,
R474). -/
def regReset (off : Nat) : BitVec 64 :=
  if off = 0x08 ∨ off = 0x28 then 0x06
  else if off = 0x68 then 0x0BB8
  else if 0x2000 ≤ off ∧ off < 0x2800 then (if off % 32 = 8 then 0x07#64 <<< 1 else 0)
  else if off = 0x100028 then 1
  else if off = 0x200000 then 1
  else if off = 0x200010 then 0x15E0
  else if off = 0x200018 then 0x03E8
  else if off = 0x300000 then 0x32
  else if off = 0x300008 then 1
  else if off = 0x300200 then 0x64
  else if off = 0x301008 ∨ off = 0x301108 then 0x0A#64 <<< 1
  else if off = 0x301028 ∨ off = 0x301128 then 0xFFFFFFFF
  else if off = 0x400010 then 1
  else if off = 0x400028 then 0x03E8
  else if off = 0x503180 then 0x64
  else if off = 0x508210 then 0x0C#64 <<< 1
  else if 0x800000 ≤ off ∧ off < 0x1000000 ∧ off % 0x100000 = 0x2000 then 0x18
  else if off = 0x840020 then 0x01F400C8
  else 0

def State.reg (s : State) (off : Nat) : BitVec 64 := sget (regReset off) s.regs off
def State.setReg (s : State) (off : Nat) (v : BitVec 64) : State :=
  { s with regs := sset (regReset off) s.regs off v }

/-- A field of a stored register. -/
def State.regField (s : State) (off lo w : Nat) : Nat := (s.reg off).toNat / 2 ^ lo % 2 ^ w

/-- The message of a vector: the address and the data of its entry in the table (R478). -/
def State.msixMsg (s : State) (v : BitVec 11) : Out :=
  .msix v (s.reg (0x600000 + 16 * v.toNat)) ((s.reg (0x600008 + 16 * v.toNat)).setWidth 32)

/-- Raise an MSI-X vector (R478): a masked vector sets its pending bit; with the host link down nothing is sent. -/
def State.msix (s : State) (v : BitVec 11) : State :=
  if sget false s.link.unmasked v.toNat && s.link.up && !s.link.d3 then s.emit (s.msixMsg v)
  else { s with link := { s.link with pba := sset false s.link.pba v.toNat true } }

/-! ### The host and the firmware processors -/

/-- The host reaches the device once it is released, the link is up and the function is in D0 (R502, R482, R476); a halted device
answers management alone (14 R354). -/
def State.hostOk (s : State) : Bool := s.board.released && s.link.up && !s.link.d3 && !s.err.halted

/-- A register access of a master to BAR0 can arrive at all: the host's through the link, the processors' while the core
has power; a BAR4 page and a sequencer reach BAR0 registers only as R294 and R168 say. -/
def State.arrives (s : State) (m : Master) : Bool :=
  match m with
  | .host => s.hostOk
  | .page | .seqr => false
  | _ => s.board.coreOn

def fepIx : Nat := 8
def fcpIx : Nat := 9
def pwpIx : Nat := 10
def mgpIx : Nat := 11

/-- The processor runs and has reported ready; domain 15 stops without SYS_XTAL (R447). -/
def State.procReady (s : State) (i : Nat) : Bool := (s.proc i).st == .ready && s.board.xtal

/-- Masters that may write /P fields and /S fields (R456). -/
def masterPriv : Master → Bool
  | .host | .fw | .mgp => true
  | _ => false

def masterSecure : Master → Bool
  | .mgp => true
  | _ => false

/-- Count an access refused for lack of privilege (R9, R457). -/
def State.violReg (s : State) : State := { s with cip := { s.cip with violReg := satInc s.cip.violReg } }
def State.violFrame (s : State) : State := { s with cip := { s.cip with violFrame := satInc s.cip.violFrame } }
def State.violCmd (s : State) : State := { s with fe := { s.fe with violCmd := satInc s.fe.violCmd } }

/-! ### Launches -/

def State.launchOf (s : State) (id : Nat) : Option Launch := s.fe.launches.find? fun l => l.id == id

/-- The launch whose attempt holds the open epoch (R250). -/
def State.running (s : State) : Option Launch := s.ep.launch.bind s.launchOf

def State.modLaunch (s : State) (id : Nat) (f : Launch → Launch) : State :=
  { s with fe := { s.fe with launches := s.fe.launches.map fun l => if l.id == id then f l else l } }

def State.runSeq (s : State) : Nat :=
  match s.running with
  | some l => l.seq.toNat
  | none => 0

/-- Sequence number of the launch that an access for a context affects, or 0 (09 R236): the running attempt's, for an
access of its own context or of the one its image is read in (12 R290; log 100). -/
def State.seqFor (s : State) (ctx : Nat) : Nat :=
  match s.running with
  | some l => if l.ctx.toNat = ctx ∨ l.imgCtx.toNat = ctx then l.seq.toNat else 0
  | none => 0

/-! ### The journal SRAM (15 R378 to R380) -/

def State.part (s : State) (i : Nat) : Partition := sget Partition.reset s.jnl i

/-- What the partition of processor i says in the end: its last record, or its checkpoint. -/
def Partition.last (p : Partition) : Option JBody := (p.recs.getLast?.map fun r => r.body).orElse fun _ => p.base

def Partition.nextSeq (p : Partition) : BitVec 32 := p.baseSeq + BitVec.ofNat 32 p.recs.length + 1

/-- Records of the greatest LEN that fit a partition beside its checkpoint (R378, R379). -/
def recRoom (i : Nat) : Nat := if i = 8 then 127 else if i = 9 then 31 else if i = 11 then 15 else 3

/-- Append a record; where the room for records is used up, a checkpoint takes the place of those written (log 121). -/
def Partition.put (p : Partition) (room : Nat) (b : JBody) : Partition :=
  if p.last = some b then p
  else if p.recs.length < room then { p with recs := p.recs ++ [⟨p.nextSeq, 0, b⟩] }
  else { p with base := p.last, baseSeq := p.nextSeq - 1, recs := [⟨p.nextSeq, 0, b⟩] }

/-- What processor i keeps in its partition, as it stands. -/
def State.jview (s : State) (i : Nat) : JBody :=
  if i < 8 then
    .scp (s.hums.filterMap fun p => if secOf p.1 = i then p.2.holder.map fun x => (p.1, x) else none)
      (s.pwc.wakeQ.filter fun w => secOf w.g = i) (sget none s.err.sectors i)
  else if i = fepIx then
    .fep (s.fe.launches.map fun l => ⟨l.id, l.js, l.att, l.epoch, l.record, l.pos⟩) s.fe.seq s.fe.heldReply
      (s.fe.ctxs.map fun p => (p.1, { p.2 with slots := [] })) s.fe.graphs
  else if i = fcpIx then
    .fcp s.ep.c s.ep.genOpen s.ep.genLast s.ep.decision s.ep.lastCommit s.ep.mepoch s.ep.members s.ep.rank s.cwy.nextXid s.ep.st s.ep.att
  else if i = pwpIx then .pwp s.pwc.active s.pwc.pend s.pwc.paceAct (s.reg 0x200010) s.pwc.granted
  else .mgp s.fw.actSlot s.fw.pend s.fw.handoff s.fw.flashPos (s.fw.slotA, s.fw.slotB) s.fw.svnMin

/-- Processor i runs, and so writes its partition, which stands on core power (R378). -/
def State.jots (s : State) (i : Nat) : Bool :=
  s.board.coreOn && match (s.proc i).st with
    | .ready | .quiescing => true
    | _ => false

/-- The record of an action in partition i: it describes the state that the action makes (R380). Nothing is written while the
processor restarts; what hardware does then is recorded once it has rebuilt (log 121). -/
def State.jot (s : State) (i : Nat) : State :=
  { s with jnl := if s.jots i then sset Partition.reset s.jnl i ((s.part i).put (recRoom i) (s.jview i)) else s.jnl }

/-- A launch has ended once its record is made (R307). -/
def Launch.live (l : Launch) : Bool :=
  match l.js with
  | .admitted | .dispatched | .prepared => true
  | _ => false

/-! ### Event queues (R459 to R463) -/

def State.eq (s : State) (q : Nat) : EventQ := if q = 0 then s.err.eq0 else s.err.eq1
def State.setEq (s : State) (q : Nat) (x : EventQ) : State :=
  if q = 0 then { s with err := { s.err with eq0 := x } } else { s with err := { s.err with eq1 := x } }

/-- Place an event: it takes the next ESEQ, and with a full backlog it is discarded and counted (R461). -/
def EventQ.place (e : EventQ) (ty : Nat) (payload : List Byte) : EventQ :=
  if e.backlog.length < 4096 then
    { e with
      backlog := e.backlog ++ [(BitVec.ofNat 8 ty, e.eseq, e.lostNow, slice payload 0 24)]
      eseq := e.eseq + 1, lostNow := 0 }
  else { e with eseq := e.eseq + 1, lost := satInc e.lost, lostNow := satInc e.lostNow }

def State.event (s : State) (q ty : Nat) (payload : List Byte) : State := s.setEq q ((s.eq q).place ty payload)

/-- R236. -/
def State.memEvent (s : State) (kind sector chan src ctx addr seq : Nat) : State :=
  s.event 0 0x01 (leBytes 1 kind ++ leBytes 1 sector ++ leBytes 1 chan ++ leBytes 1 src ++ leBytes 1 ctx ++
    leBytes 3 0 ++ leBytes 8 addr ++ leBytes 8 seq)

/-- R341; while the FCP restarts, a link event waits in hardware (15 R375). -/
def State.linkEvent (s : State) (kind port cause lanes pid pport aux : Nat) : State :=
  let bs := leBytes 1 kind ++ leBytes 1 port ++ leBytes 1 cause ++ leBytes 1 lanes ++ leBytes 2 pid ++
    leBytes 1 pport ++ leBytes 1 0 ++ leBytes 8 s.runSeq ++ leBytes 8 aux
  if s.procReady fcpIx then s.event 0 0x02 bs
  else { s with cwy := { s.cwy with linkWait := s.cwy.linkWait ++ [bs] } }

/-- The link events that waited for the FCP are placed. -/
def State.placeLinkEvents (s : State) : State :=
  let s1 := s.cwy.linkWait.foldl (fun (acc : State) bs => acc.event 0 0x02 bs) s
  { s1 with cwy := { s1.cwy with linkWait := [] } }

/-- R364: `flags` 1 started, 2 done, 0 recorded under R356. -/
def State.recEvent (s : State) (code : BitVec 32) (flags : Nat) (ctx : BitVec 8) (att : BitVec 16) (seq us : Nat) :
    State :=
  s.event 0 0x03 (leBytes 4 code.toNat ++ leBytes 1 flags ++ leBytes 1 ctx.toNat ++ leBytes 2 att.toNat ++
    leBytes 8 seq ++ leBytes 4 us ++ leBytes 4 0)

/-- R464. -/
def State.commitEvent (s : State) (kind cause : Nat) : State :=
  s.event 0 0x07 (leBytes 1 kind ++ leBytes 1 cause ++ leBytes 2 s.ep.att.toNat ++ leBytes 4 0 ++
    leBytes 8 (s.ep.c.toNat + 1) ++ leBytes 8 s.runSeq)

/-- R471. -/
def State.driftEvent (s : State) (kind region ndiff exp found : Nat) : State :=
  s.event 0 0x08 (leBytes 1 kind ++ leBytes 1 region ++ leBytes 2 ndiff ++ leBytes 4 exp ++ leBytes 4 found)

/-- R465, ring and completion events. -/
def State.feEvent (s : State) (ty kind ctx resp count addr seq : Nat) : State :=
  s.event 1 ty (leBytes 1 kind ++ leBytes 1 ctx ++ leBytes 1 resp ++ leBytes 1 0 ++ leBytes 4 count ++
    leBytes 8 addr ++ leBytes 8 seq)

/-- R425. -/
def State.mgmtEvent (s : State) (kind inst arg : Nat) : State :=
  s.event 0 0x05 (leBytes 1 kind ++ leBytes 1 inst ++ leBytes 2 0 ++ leBytes 4 arg)

def respCode : DmaResp → Nat
  | .unsupported => 0
  | .completerAbort => 1

end Sys2Proof.Machine
end

