-- ==== Sys2Proof/Machine/Registers.lean ====
section
/-!
DEFINITION. Sys2Proof/Machine/Registers.lean: which fields of which register are stored and who may write them (R7, R9,
R453, R456), the in-scope fields of the ten configuration regions (R467), their checksum (R468), and a write to stored
fields (R469).
-/

namespace Sys2Proof.Machine

/-- Access codes of fields that a write can act on (R7). -/
inductive Acc where
  | rw | rwp | rws | cmp | cms
  deriving DecidableEq, Repr

structure Fld where
  lo : Nat
  w : Nat
  acc : Acc
  deriving DecidableEq, Repr

/-- Shared sector registers are the storage of the sector 0 block (R237, R268, R467). -/
def canonOff (off : Nat) : Nat :=
  if 0x800000 ≤ off ∧ off < 0x1000000 then
    let r := off % 0x100000
    if (0x20000 ≤ r ∧ r < 0x20220) ∨ r = 0x30018 ∨ (0x40000 ≤ r ∧ r ≤ 0x40020) ∨ r = 0x40040 then 0x800000 + r else off
  else off

/-- The writable fields of a register, by BAR0 offset; none where the offset names no such register. -/
def regFlds (off : Nat) : List Fld :=
  let p (lo w : Nat) : Fld := ⟨lo, w, .rwp⟩
  if off < 0x100000 then
    if off = 0x00 ∨ off = 0x20 then [p 12 52]
    else if off = 0x08 ∨ off = 0x28 then [p 0 5]
    else if off = 0x10 ∨ off = 0x30 then [p 0 16]
    else if off = 0x40 then [p 0 1, p 4 11]
    else if off = 0x48 then [p 0 64]
    else if off = 0x58 then [⟨0, 1, .cmp⟩]
    else if off = 0x68 then [p 0 16]
    else if 0x2000 ≤ off ∧ off < 0x2800 then
      if off % 32 = 0 then [p 12 52]
      else if off % 32 = 8 then [p 0 1, p 1 5, p 6 11]
      else if off % 32 = 16 then [p 0 16] else []
    else []
  else if off < 0x200000 then
    if off = 0x100028 then [p 0 1]
    else if off = 0x100030 then [p 28 14]
    else if 0x100100 ≤ off ∧ off < 0x100150 then [p 0 32]
    else if off = 0x100300 ∨ off = 0x100308 then [⟨0, 10, .cmp⟩]
    else []
  else if off < 0x300000 then
    if off = 0x200000 then [p 0 2, p 2 1]
    else if off = 0x200010 then [p 0 13]
    else if off = 0x200018 then [p 0 16]
    else if off = 0x200020 then [p 0 2]
    else []
  else if off < 0x400000 then
    if off = 0x300000 then [p 0 14]
    else if off = 0x300008 then [p 0 1]
    else if off = 0x300030 then [⟨0, 2, .cmp⟩]
    else if off = 0x300200 then [p 0 16]
    else if 0x301000 ≤ off ∧ off < 0x301200 then
      let r := off % 0x100
      if r = 0 then [p 12 52] else if r = 8 then [p 0 1, p 1 5, p 6 11] else if r = 0x10 then [p 0 16]
      else if r = 0x28 then [p 0 32] else []
    else []
  else if off < 0x500000 then
    if off = 0x400000 then [p 0 15, p 15 1, p 16 4, p 20 4, p 24 4, p 28 3]
    else if off = 0x400010 then [p 0 1]
    else if off = 0x400018 then [⟨0, 1, .cmp⟩]
    else if off = 0x400028 then [p 0 16]
    else if 0x410000 ≤ off ∧ off < 0x420000 then
      if off % 0x1000 = 0 then [p 0 1, p 1 1, p 2 1, ⟨3, 1, .rws⟩]
      else if off % 0x1000 = 0x20 then [p 0 15, p 16 4, p 31 1] else []
    else if (0x480000 ≤ off ∧ off < 0x484000) ∨ (0x484000 ≤ off ∧ off < 0x484080) then
      [p 0 4, p 4 4, p 8 1, p 9 1, p 10 2]
    else []
  else if off < 0x600000 then
    if off = 0x501020 then [⟨0, 1, .cmp⟩]
    else if off = 0x503180 then [p 0 8]
    else if off = 0x504000 then [p 0 10]
    else if off = 0x508200 then [p 0 12]
    else if off = 0x508208 then [p 12 52]
    else if off = 0x508210 then [p 0 1, p 1 5, p 6 11]
    else if off = 0x508218 then [p 0 20]
    else []
  else if 0x800000 ≤ off ∧ off < 0x1000000 then
    let r := off % 0x100000
    if r = 0x200 ∨ r = 0x208 ∨ r = 0x210 then [p 0 1]
    else if r = 0x2000 then [p 0 5]
    else if r = 0x3000 then [p 21 21]
    else if r = 0x3008 then [p 0 16]
    else if r = 0x3010 then [⟨0, 1, .cmp⟩]
    else if 0x20000 ≤ r ∧ r < 0x20200 then [p 0 1, p 16 26]
    else if r = 0x20200 then [p 0 6, p 6 1, p 7 1]
    else if r = 0x20208 then [p 21 31]
    else if r = 0x20210 then [⟨0, 1, .cmp⟩]
    else if r = 0x30000 then [⟨0, 18, .rws⟩, ⟨18, 6, .rws⟩, ⟨24, 1, .rws⟩, ⟨25, 1, .rws⟩]
    else if r = 0x30008 then [⟨0, 1, .cms⟩]
    else if r = 0x40020 then [p 0 16, p 16 16]
    else if r = 0x40028 then [p 0 18]
    else []
  else if 0x1000000 ≤ off ∧ off < 0x4000000 then
    let r := off % 0x80000
    if r = 0x1008 then [⟨0, 1, .rw⟩, ⟨16, 15, .rw⟩, ⟨31, 1, .rw⟩]
    else if r = 0x1010 then [⟨0, 23, .rw⟩]
    else if r = 0x1020 then [⟨0, 8, .rw⟩]
    else []
  else []

def fldMask (f : Fld) : BitVec 64 := BitVec.ofNat 64 ((2 ^ f.w - 1) * 2 ^ f.lo)

/-- A 4-byte write reaches only the fields that lie wholly in its half (R453). -/
def Fld.inHalf (f : Fld) (half : Option Bool) : Bool :=
  match half with
  | none => true
  | some false => f.lo + f.w ≤ 32
  | some true => 32 ≤ f.lo

/-- May this master write this field (R9, R456)? -/
def Fld.allowed (f : Fld) (m : Master) : Bool :=
  match f.acc with
  | .rw => true
  | .rwp | .cmp => masterPriv m
  | .rws | .cms => masterSecure m

def Fld.strobe (f : Fld) : Bool :=
  match f.acc with
  | .cmp | .cms => true
  | _ => false

/-- The written value as 64 bits: a 4-byte write to the upper half carries its value there. -/
def placeHalf (half : Option Bool) (v : BitVec 64) : BitVec 64 :=
  match half with
  | none => v
  | some false => v &&& 0xFFFFFFFF#64
  | some true => v <<< 32

/-! ### Configuration regions -/

/-- The region and the in-scope bits of a register (R467). -/
def cfgScope (off : Nat) : Option (Nat × BitVec 64) :=
  if off < 0x100000 then
    if off = 0x00 ∨ off = 0x20 then some (8, 0xFFFFFFFFFFFFF000)
    else if off = 0x08 ∨ off = 0x28 then some (8, 0x1F)
    else if off = 0x40 then some (8, 0x7FF0)
    else if off = 0x68 then some (8, 0xFFFF)
    else if 0x2000 ≤ off ∧ off < 0x2800 then
      if off % 32 = 0 then some (8, 0xFFFFFFFFFFFFF000)
      else if off % 32 = 8 then some (8, 0x1FFFE) else none
    else none
  else if off = 0x100028 then some (9, 1)
  else if off = 0x100030 then some (9, 0x3FFF#64 <<< 28)
  else if off = 0x200000 then some (9, 7)
  else if off = 0x200010 then some (9, 0x1FFF)
  else if off = 0x200018 then some (9, 0xFFFF)
  else if off = 0x200020 then some (9, 3)
  else if off = 0x300000 then some (9, 0x3FFF)
  else if off = 0x300008 then some (9, 1)
  else if off = 0x300200 then some (9, 0xFFFF)
  else if off = 0x400000 then some (9, 0x7FFFFFFF)
  else if off = 0x400010 then some (9, 1)
  else if off = 0x400028 then some (9, 0xFFFF)
  else if 0x410000 ≤ off ∧ off < 0x420000 then
    if off % 0x1000 = 0 then some (9, 5)
    else if off % 0x1000 = 0x20 then some (9, 0x800F7FFF) else none
  else if off = 0x503180 then some (9, 0xFF)
  else if 0x800000 ≤ off ∧ off < 0x1000000 then
    let r := off % 0x100000
    let s := (off - 0x800000) / 0x100000
    if r = 0x200 ∨ r = 0x208 ∨ r = 0x210 then some (s, 1)
    else if r = 0x2000 then some (s, 0x1F)
    else if r = 0x3000 then some (s, 0x1FFFFF#64 <<< 21)
    else if r = 0x3008 then some (s, 0xFFFF)
    else if off < 0x900000 ∧ 0x20000 ≤ r ∧ r < 0x20200 then some (9, 1 ||| (0x3FFFFFF#64 <<< 16))
    else if off = 0x840020 then some (9, 0xFFFFFFFF)
    else none
  else none

/-- The registers of a region in ascending offset (R468). -/
def regionOffs (r : Nat) : List Nat :=
  if r < 8 then
    let b := 0x800000 + r * 0x100000
    [b + 0x200, b + 0x208, b + 0x210, b + 0x2000, b + 0x3000, b + 0x3008]
  else if r = 8 then
    [0x00, 0x08, 0x20, 0x28, 0x40, 0x68] ++
      (List.range 64).flatMap fun c => [0x2000 + 32 * c, 0x2008 + 32 * c]
  else
    [0x100028, 0x100030, 0x200000, 0x200010, 0x200018, 0x200020, 0x300000, 0x300008, 0x300200, 0x400000, 0x400010,
      0x400028] ++ ((List.range 16).flatMap fun p => [0x410000 + 0x1000 * p, 0x410020 + 0x1000 * p]) ++
      [0x503180] ++ ((List.range 64).map fun c => 0x820000 + 8 * c) ++ [0x840020]

def crcBits : Nat → BitVec 32 → BitVec 32
  | 0, c => c
  | n + 1, c => crcBits n (if c.getLsbD 0 then (c >>> 1) ^^^ 0x82F63B78#32 else c >>> 1)

/-- CRC-32C of a list of bytes (R468). -/
def crc32c (bs : List Byte) : BitVec 32 :=
  (bs.foldl (fun c b => crcBits 8 (c ^^^ b.setWidth 32)) 0xFFFFFFFF#32) ^^^ 0xFFFFFFFF#32

/-- In-scope value of a register. -/
def State.scoped (s : State) (off : Nat) : BitVec 64 :=
  match cfgScope off with
  | some (_, m) => s.reg off &&& m
  | none => 0

/-- The checksum of region r as the registers stand (R468). -/
def State.regionCrc (s : State) (r : Nat) : BitVec 32 :=
  crc32c ((regionOffs r).flatMap fun o => leBytes 8 (s.scoped o).toNat)

def State.regionOpen (s : State) (r : Nat) : Bool := s.cip.isOpen.getLsbD r

/-! ### A write to stored fields -/

/-- What the fields that a write reaches become, before R469. -/
def mergeFlds (m : Master) (half : Option Bool) (fs : List Fld) (old v : BitVec 64) : BitVec 64 :=
  fs.foldl (fun acc f =>
    if !f.strobe && f.allowed m && f.inHalf half then (acc &&& ~~~(fldMask f)) ||| (v &&& fldMask f) else acc) old

/-- Is the access one that R457 counts: it covers a field beyond the master's privilege (log 13). -/
def refusedWrite (m : Master) (half : Option Bool) (fs : List Fld) : Bool := fs.any fun f => f.inHalf half && !f.allowed m

/-- A write's result under R469: the new stored value, and whether a closed region refused a change. -/
def closeCheck (s : State) (off : Nat) (old new : BitVec 64) : BitVec 64 × Bool :=
  match cfgScope off with
  | none => (new, false)
  | some (r, mask) =>
    if s.regionOpen r || (new ^^^ old) &&& mask == 0 then (new, false)
    else ((new &&& ~~~mask) ||| (old &&& mask), true)

/-- Write the stored fields of a register; the second component is the value they had. `off` is canonical. -/
def State.regStore (s : State) (m : Master) (off : Nat) (half : Option Bool) (v0 : BitVec 64) : State × BitVec 64 :=
  let v := placeHalf half v0
  let fs := regFlds off
  let old := s.reg off
  let s := if refusedWrite m half fs then s.violReg else s
  let new := mergeFlds m half fs old v
  let new := if 0x100100 ≤ off ∧ off < 0x100150 ∧ !s.regionOpen ((off - 0x100100) / 8) then old else new
  let (new, closed) := closeCheck s off old new
  let s := if closed then { s with cip := { s.cip with violClosed := satInc s.cip.violClosed } } else s
  (s.setReg off new, old)

/-- The strobe bits that a write commits, 0 where the master may not (R7, R453). -/
def strobeBits (m : Master) (half : Option Bool) (off : Nat) (v : BitVec 64) : BitVec 64 :=
  (regFlds off).foldl (fun acc f =>
    if f.strobe && f.allowed m && f.inHalf half then acc ||| (placeHalf half v &&& fldMask f) else acc) 0

/-! ### Bridges (14 R365, R366) -/

def State.engineRun (s : State) (g : Nat) : Option LevelRun := sget none s.err.engines g
def State.sectorRun (s : State) (x : Nat) : Option LevelRun := sget none s.err.sectors x

/-- A chip reset holds every sector in reset (14 R353). -/
def State.inReset (s : State) (x : Nat) : Bool := s.err.chip.isSome || (s.sectorRun x).isSome

/-- The bridge before the register at an offset of BAR0: a hummock's, a sector's, or the hub's. -/
def bridgeOf (off : Nat) : BridgeUnit :=
  if h : 0x800000 ≤ off ∧ off < 0x1000000 then .sector ⟨(off - 0x800000) / 0x100000, by omega⟩
  else if h : 0x1000000 ≤ off ∧ off < 0x4000000 then .hummock ⟨(off - 0x1000000) / 0x80000, by omega⟩
  else .hub

def RegAcc.unit (a : RegAcc) : BridgeUnit := bridgeOf a.off.toNat

/-- The access waits behind its bridge, in order. -/
def State.stallReg (s : State) (a : RegAcc) : State := s.modLink fun l => { l with regStalls := l.regStalls ++ [a] }

/-- A write of v to a register of a sector in reset waits at the bridge (18 R454); any other goes on as `act` says. -/
def State.atBridge (s : State) (m : Master) (off : Nat) (v : BitVec 64) (act : State → State) : State :=
  match bridgeOf off with
  | .sector x => if s.inReset x then s.stallReg ⟨m, BitVec.ofNat 26 off, none, .write v⟩ else act s
  | _ => act s

/-- Is a strobe row's write accepted: the master reaches the register and may strobe it; a refusal is counted. -/
def State.strobe (s : State) (m : Master) (off : Nat) (act : State → State) : State :=
  if !s.arrives m then s
  else s.atBridge m off 1 fun s =>
    if strobeBits m none off 1 != 0 then act s
    else s.violReg

end Sys2Proof.Machine
end

