-- ==== Sys2Proof/Machine/Memory.lean ====
section
/-!
DEFINITION. Sys2Proof/Machine/Memory.lean: device physical addresses (09 R213, R214), error correction (R225), the frame
ownership map and inline encryption (R230, R231), translation (R218 to R223), and protected pages: the record, the first
write and the frame it lands in (10 R239 to R243).
-/

namespace Sys2Proof.Machine

def sectorBytes : Nat := 0x4800000000
def installedEnd : Nat := 0x24000000000
def framesPerSector : Nat := 147456
def frameBytes : Nat := 0x200000

def dpaSector (a : Nat) : Nat := a / sectorBytes
def dpaFrame (a : Nat) : Nat := a / frameBytes

/-- Reserved or not installed (R213). -/
def dpaReserved (a : Nat) : Bool := installedEnd ≤ a || 0x47C0000000 ≤ a % sectorBytes

/-- Channel within the sector (R214). -/
def dpaChan (a : Nat) : Nat := a % sectorBytes / 256 % 96

/-- Global stack index 3·s + k of a DPA (R214). -/
def dpaStack (a : Nat) : Nat := 3 * dpaSector a + dpaChan a / 32

/-- Who makes an access to device memory (R230). -/
inductive Accessor where
  | ctx (c : Nat)
  | bar2 | fw | mgp
  deriving DecidableEq, Repr

/-! ### Data units -/

/-- The key under which a frame's data stands (R231); none for a frame that is not sealed. -/
def State.frameKey (s : State) (f : Nat) : Option (BitVec 512) :=
  let o := s.owner f
  if o.isSealed then some (sget 0 s.mem.keys o.ctx.toNat) else none

def tweakOf (u : Nat) : BitVec 128 := BitVec.ofNat 128 u

/-- Plain bytes of data unit u, address 32·u. -/
def unitPlain (hbm : List Host.Cell) (key : Option (BitVec 512)) (u : Nat) : List Byte :=
  let c := bread hbm (32 * u) 32
  match key with
  | none => c
  | some k => xtsDecrypt k (tweakOf u) c

def unitWrite (hbm : List Host.Cell) (key : Option (BitVec 512)) (u : Nat) (plain : List Byte) : List Host.Cell :=
  match key with
  | none => bwrite hbm (32 * u) plain
  | some k => bwrite hbm (32 * u) (xtsEncrypt k (tweakOf u) plain)

/-- n plain bytes at a, all in one frame. -/
def plainRead (hbm : List Host.Cell) (key : Option (BitVec 512)) (a n : Nat) : List Byte :=
  match key with
  | none => bread hbm a n
  | some _ =>
    let u0 := a / 32
    let us := (List.range ((a % 32 + n + 31) / 32)).flatMap fun i => unitPlain hbm key (u0 + i)
    slice us (a % 32) n

/-- Store plain bytes at a, all in one frame. -/
def plainWrite (hbm : List Host.Cell) (key : Option (BitVec 512)) (a : Nat) (bs : List Byte) : List Host.Cell :=
  match key with
  | none => bwrite hbm a bs
  | some _ =>
    let u0 := a / 32
    let cnt := (a % 32 + bs.length + 31) / 32
    let old := (List.range cnt).flatMap fun i => unitPlain hbm key (u0 + i)
    let new := old.take (a % 32) ++ bs ++ old.drop (a % 32 + bs.length)
    (List.range cnt).foldl (fun h i => unitWrite h key (u0 + i) (slice new (32 * i) 32)) hbm

/-! ### Error correction (R225) -/

/-- Key of an on-die data unit in the error table: kind 1 Mere, 2 Sump, 3 Peat. -/
def sramUnit (g kind unit : Nat) : Nat := 2 ^ 40 + g * 2 ^ 34 + kind * 2 ^ 32 + unit

def countEcc (s : State) (sec chan ce ue : Nat) : State :=
  if sec < 8 then
    let k := 96 * sec + chan
    let c := sget ⟨0, 0⟩ s.mem.chEcc k
    { s with mem := { s.mem with chEcc := sset ⟨0, 0⟩ s.mem.chEcc k ⟨satAdd c.ce ce, satAdd c.ue ue⟩ } }
  else s

def countSram (s : State) (sec ce ue : Nat) : State :=
  let c := sget ⟨0, 0⟩ s.mem.sramEcc sec
  { s with mem := { s.mem with sramEcc := sset ⟨0, 0⟩ s.mem.sramEcc sec ⟨satAdd c.ce ce, satAdd c.ue ue⟩ } }

def State.setErr (s : State) (u : Nat) (e : BitVec 288) : State :=
  { s with mem := { s.mem with err := sset 0 s.mem.err u e } }

/-- Data units as they are stored: hbm holds what was written, ps the patterns that stored words differ by. -/
def errOver (ps : Store (BitVec 288)) (hbm : List Host.Cell) : List Host.Cell :=
  ps.foldl (fun h p => bwrite h (32 * p.1) (xorBytes (bread h (32 * p.1) 32) (leBytes 32 p.2.toNat))) hbm

/-- Units of [lo, hi) whose stored word is a codeword although it is not the one written: the decoder sees nothing (R224). -/
def errSilent (err : Store (BitVec 288)) (lo hi : Nat) : Store (BitVec 288) :=
  (srange err lo hi).filter fun p => errVerdict p.2 == .none

/-- A write that reaches such units meets what they spell. -/
def State.settleErr (s : State) (lo hi : Nat) : State :=
  match errSilent s.mem.err lo hi with
  | [] => s
  | ps => { s with mem := { s.mem with
      hbm := errOver ps s.mem.hbm, err := ps.foldl (fun e p => sset 0 e p.1 0) s.mem.err } }

/-- An on-die unit of hummock g, by its number within the kind, with a pattern over its data. -/
def Hummock.mixUnit (h : Hummock) (kind u : Nat) (e : BitVec 288) : Hummock :=
  let part (w j : Nat) : Nat := e.toNat / 2 ^ (w * j) % 2 ^ w
  if kind = 1 then { h with mere := bwrite h.mere (32 * u) (xorBytes (bread h.mere (32 * u) 32) (leBytes 32 e.toNat)) }
  else if kind = 2 then
    let x := h.tile (u / 8192)
    let k := u % 8192 * 8
    let mix (b : Store (BitVec 32)) : Store (BitVec 32) :=
      (List.range 8).foldl (fun b j => sset 0 b (k + j) (sget 0 b (k + j) ^^^ BitVec.ofNat 32 (part 32 j))) b
    h.setTile (u / 8192)
      (if x.sel.getLsbD (k / 256) then { x with bank1 := mix x.bank1 } else { x with bank0 := mix x.bank0 })
  else
    let k := u % 16384 * 4
    h.setSlot (u / 16384) ((List.range 4).foldl (fun b j =>
      sset 0 b (k + j) (sget 0 b (k + j) ^^^ BitVec.ofNat 64 (part 64 j))) (h.slot (u / 16384)))

/-- The same for on-die units [lo, hi) of a kind. -/
def State.settleSram (s : State) (g kind lo hi : Nat) : State :=
  let b := sramUnit g kind 0
  match errSilent s.mem.err (b + lo) (b + hi) with
  | [] => s
  | ps => ps.foldl (fun (acc : State) p =>
      { acc.setErr p.1 0 with hums := sset Hummock.reset acc.hums g ((acc.hum g).mixUnit kind (p.1 - b) p.2) }) s

/-- The errors that a read of HBM units [lo, hi) meets: those that the decoder corrects are written back as it corrects them and
counted; uncorrectable ones are counted, place a memory event of kind 0, and the first is answered. -/
def State.eccHbm (s : State) (lo hi ctx : Nat) : State × Option Nat :=
  (srange s.mem.err lo hi).foldl (fun (acc : State × Option Nat) p =>
    let a := 32 * p.1
    match errVerdict p.2 with
    | .correctable i v => (countEcc (acc.1.setErr p.1 (errFix p.2 i v)) (dpaSector a) (dpaChan a) 1 0, acc.2)
    | .uncorrectable =>
      let s' := countEcc acc.1 (dpaSector a) (dpaChan a) 0 1
      (s'.memEvent 0 (dpaSector a) (dpaChan a) 0 ctx a (s.seqFor ctx), acc.2.orElse fun _ => some a)
    | .none => acc) (s, none)

/-- The same for on-die SRAM of hummock g, units [lo, hi) of a kind: event SRC names the kind. -/
def State.eccSram (s : State) (g kind lo hi ctx : Nat) : State × Bool :=
  let b := sramUnit g kind 0
  let r := (srange s.mem.err (b + lo) (b + hi)).foldl (fun (acc : State × Bool) p =>
    match errVerdict p.2 with
    | .correctable i v => (countSram (acc.1.setErr p.1 (errFix p.2 i v)) (secOf g) 1 0, acc.2)
    | .uncorrectable =>
      let s' := countSram acc.1 (secOf g) 0 1
      (s'.memEvent 0 (secOf g) 0xFF kind ctx (g + (p.1 - b) * 32 * 256) (s.seqFor ctx), true)
    | .none => acc) (s, false)
  (r.1.settleSram g kind lo hi, r.2)

/-- A write replaces the units that it covers whole. -/
def State.eccWrite (s : State) (a n : Nat) : State :=
  { s with mem := { s.mem with err := sclear s.mem.err ((a + 31) / 32) ((a + n) / 32) } }

def State.eccSramWrite (s : State) (g kind a n : Nat) : State :=
  let b := sramUnit g kind 0
  { s with mem := { s.mem with err := sclear s.mem.err (b + (a + 31) / 32) (b + (a + n) / 32) } }

/-! ### Physical accesses -/

/-- R230. -/
def State.ownOk (s : State) (who : Accessor) (f : Nat) (write : Bool) : Bool :=
  let o := s.owner f
  match who with
  | .mgp => true
  | .ctx c => if o.isSealed then o.ctx.toNat == c else !(write && s.isSealed c)
  | _ => !o.isSealed

/-- An access makes each stack it reaches leave the self-refresh that SREF gave it (R216). -/
def State.wakeStacks (s : State) (a n : Nat) : State :=
  let cnt := Nat.min ((a % 256 + n + 255) / 256) 96
  (List.range cnt).foldl (fun acc i =>
    let k := dpaStack (a + 256 * i)
    let r := acc.stack k
    if r.st == .srefIdle then acc.setStack k { r with st := .ready } else acc) s

/-- An access to a frame that is being zeroed stalls until that is done (R232). Stations, contributions, packets and BAR2 wait by
themselves; any other access is taken as coming after the zeroing. -/
def State.awaitZero (s : State) (f : Nat) : State :=
  if s.mem.zeroing.contains f then
    { s with mem := { s.mem with zeroing := s.mem.zeroing.filter fun x => x != f } }
  else s

structure ReadRes where
  s : State
  bytes : List Byte
  poison : Option Nat
  deriving Repr

/-- A read of n bytes at DPA a, all in one frame. -/
def State.physRead (s : State) (who : Accessor) (a n : Nat) (ctx : Nat) : ReadRes :=
  if dpaReserved a then ⟨s, List.replicate n 0, none⟩
  else if !s.ownOk who (dpaFrame a) false then ⟨s.violFrame, List.replicate n 0, none⟩
  else
    let s := (s.awaitZero (dpaFrame a)).wakeStacks a n
    let (s', bad) := s.eccHbm (a / 32) ((a + n + 31) / 32) ctx
    let hbm := match srange s'.mem.err (a / 32) ((a + n + 31) / 32) with
      | [] => s.mem.hbm
      | ps => errOver ps s.mem.hbm
    ⟨s', plainRead hbm (s.frameKey (dpaFrame a)) a n, bad⟩

/-- A write at DPA a, all in one frame. -/
def State.physWrite (s : State) (who : Accessor) (a : Nat) (bs : List Byte) : State :=
  if dpaReserved a then s
  else if !s.ownOk who (dpaFrame a) true then s.violFrame
  else
    let s := ((s.awaitZero (dpaFrame a)).wakeStacks a bs.length).settleErr (a / 32) ((a + bs.length + 31) / 32)
    let s' := { s with mem := { s.mem with hbm := plainWrite s.mem.hbm (s.frameKey (dpaFrame a)) a bs } }
    s'.eccWrite a bs.length

/-! ### Translation (R218 to R223) -/

/-- Lies in the ordered reduction buffer in use of its sector (R221, R235). -/
def State.inOrb (s : State) (a : Nat) : Bool :=
  let o := s.orbOf (dpaSector a)
  o.base.toNat ≤ dpaFrame a && dpaFrame a < o.base.toNat + o.frames.toNat

def State.badTarget (s : State) (a : Nat) : Bool := dpaReserved a || s.inOrb a

inductive Xlat where
  | ok (e : TlbEntry)
  | fault
  | poison (dpa : Nat)
  deriving DecidableEq, Repr

def bitsOf (e : BitVec 64) (lo w : Nat) : Nat := e.toNat / 2 ^ lo % 2 ^ w

/-- A pointer entry's reserved bits are clear (R220). -/
def ptrOk (e : BitVec 64) (level : Nat) : Bool :=
  e.getLsbD 0 && !e.getLsbD 1 && bitsOf e 2 6 == 0 && bitsOf e 42 22 == 0 && (2 ≤ level || bitsOf e 8 4 == 0)

def leaf64Ok (e : BitVec 64) : Bool :=
  e.getLsbD 0 && e.getLsbD 1 && bitsOf e 3 13 == 0 && bitsOf e 42 22 == 0

def leaf2mOk (e : BitVec 64) : Bool :=
  e.getLsbD 0 && e.getLsbD 1 && bitsOf e 4 17 == 0 && !e.getLsbD 63 && (e.getLsbD 3 || bitsOf e 42 21 == 0)

def leafFA (e : BitVec 64) : Nat := bitsOf e 21 21
def leafFB (e : BitVec 64) : Nat := bitsOf e 42 21

/-- Is a 2 MiB leaf's target legal (R221)? -/
def State.leaf2mTarget (s : State) (e : BitVec 64) : Bool :=
  let fa := leafFA e * frameBytes
  let fb := leafFB e * frameBytes
  !s.badTarget fa && (!e.getLsbD 3 || (leafFA e != leafFB e && dpaSector fa == dpaSector fb && !s.badTarget fb))

/-- Read the table entry with index i of the table at DPA t, on behalf of context c. -/
def State.readEntry (s : State) (c t i : Nat) : State × BitVec 64 × Option Nat :=
  let r := s.physRead (.ctx c) (t + 8 * i) 8 c
  (r.s, BitVec.ofNat 64 (leNat r.bytes), r.poison)

/-- The walk of VA va in context c from the table at DPA t of the given level (R219); `fuel` bounds the levels. -/
def State.walk (s : State) (c va : Nat) : Nat → Nat → Nat → State × Xlat
  | 0, _, _ => (s, .fault)
  | fuel + 1, level, t =>
    if s.badTarget t then (s, .fault)
    else
      let ix :=
        if level = 0 then va / 2 ^ 39 % 8192 else if level = 1 then va / 2 ^ 30 % 512
        else if level = 2 then va / 2 ^ 21 % 512 else va / 2 ^ 16 % 32
      let (s1, e, bad) := s.readEntry c t ix
      match bad with
      | some d => (s1, .poison d)
      | none =>
        if level = 3 then
          if leaf64Ok e && !s.badTarget (bitsOf e 16 26 * 65536) then
            (s1, .ok ⟨BitVec.ofNat 6 c, BitVec.ofNat 52 (va / 65536 * 65536), e, false⟩)
          else (s1, .fault)
        else if level = 2 && e.getLsbD 1 then
          if leaf2mOk e && s.leaf2mTarget e then
            (s1, .ok ⟨BitVec.ofNat 6 c, BitVec.ofNat 52 (va / frameBytes * frameBytes), e, true⟩)
          else (s1, .fault)
        else if ptrOk e level then State.walk s1 c va fuel (level + 1) (bitsOf e 8 34 * 256)
        else (s1, .fault)

/-- Does a cached leaf cover va in context c? -/
def tlbHit (c va : Nat) (e : TlbEntry) : Bool :=
  e.ctx.toNat == c && (if e.big then e.va.toNat / frameBytes == va / frameBytes else e.va.toNat / 65536 == va / 65536)

/-- Sector whose unit translates for commands and inbound requests (R222). -/
def vaSector (va : Nat) : Nat := va / 2 ^ 21 % 8

/-- Translate va for context c in the unit of sector u. Where its cache holds another leaf than the tables, either may be used
(R223), a free choice: with the cached one there is no walk; a walk that meets poison makes no access (R505). A write or contribution
needs W (R221). -/
def State.xlate (s : State) (u c va : Nat) (write : Bool) : State × Xlat :=
  let root := s.reg (0x820000 + 8 * c)
  if !root.getLsbD 0 then (s, .fault)
  else
    let (s1, fresh) := s.walk c va 4 0 (bitsOf root 16 26 * 65536)
    let (s2, used) :=
      match s.mem.tlb.find? (fun t => t.1 == u && tlbHit c va t.2) with
      | some (_, old) =>
        if fresh == Xlat.ok old then (s1, fresh)
        else
          let (k, s') := s.draw
          if Config.freeOld k then (s', .ok old) else (s1.draw.2, fresh)
      | none => (s1, fresh)
    match used with
    | .ok e =>
      let s3 := { s2 with mem := { s2.mem with tlb := (s2.mem.tlb.filter fun t => !(t.1 == u && tlbHit c va t.2)) ++ [(u, e)] } }
      if write && !e.leaf.getLsbD 2 then (s3, .fault) else (s3, .ok e)
    | r => (s2, r)

/-! ### Protected pages (10 R239 to R243) -/

def PageRec.isOpen (r : PageRec) (s : State) : Bool := r.stamp == s.ep.c + 1 && r.gen == s.ep.genOpen
def PageRec.isPending (r : PageRec) (s : State) : Bool := r.stamp == s.ep.c && r.gen == s.ep.genLast

/-- The reference frame after the settling of R241: true names B. -/
def PageRec.committedB (r : PageRec) (s : State) : Bool :=
  if r.isOpen s then r.cf else if r.isPending s then !r.cf else r.cf

/-- The committed frame and the open frame of a protected leaf, by global index. -/
def State.framesOf (s : State) (leaf : BitVec 64) : Nat × Nat :=
  let b := (s.pageRec (leafFA leaf)).committedB s
  if b then (leafFB leaf, leafFA leaf) else (leafFA leaf, leafFB leaf)

/-- The DPA that a read of va uses under a leaf, and whether it lies in an open frame. -/
def State.readDpa (s : State) (e : TlbEntry) (va : Nat) : Nat × Bool :=
  if !e.big then (bitsOf e.leaf 16 26 * 65536 + va % 65536, false)
  else if !e.leaf.getLsbD 3 then (leafFA e.leaf * frameBytes + va % frameBytes, false)
  else
    let (com, opn) := s.framesOf e.leaf
    if (s.pageRec (leafFA e.leaf)).isOpen s then (opn * frameBytes + va % frameBytes, true)
    else (com * frameBytes + va % frameBytes, false)

/-- What an access or a first write meets: nothing, poisoned data with its DPA and whether it lies in committed or
unprotected data (R226), or poisoned committed data in a first-write copy (R242). -/
inductive Trouble where
  | none
  | poisoned (dpa : Nat) (lost : Bool)
  | copyPoison (dpa : Nat)
  deriving DecidableEq, Repr

def Trouble.or (a b : Trouble) : Trouble :=
  match a with
  | .none => b
  | _ => a

def epCntOf (s : State) (sec : Nat) : BitVec 32 × BitVec 32 := sget (0, 0) s.mem.cnt sec

/-- Frame g takes the data of frame f, deciphered and enciphered (R231), poison with it. -/
def State.moveFrame (s : State) (f g : Nat) : State :=
  let kf := s.frameKey f
  let kg := s.frameKey g
  let hbm :=
    match kf, kg with
    | none, none => scopy 0 s.mem.hbm (f * frameBytes) frameBytes (g * frameBytes)
    | _, _ => (List.range 65536).foldl (fun h i =>
        unitWrite h kg (g * 65536 + i) (unitPlain s.mem.hbm kf (f * 65536 + i))) s.mem.hbm
  { s with mem := { s.mem with hbm := hbm, err := scopy 0 s.mem.err (f * 65536) 65536 (g * 65536) } }

/-- Copy frame f into frame g: every unit is read (R242). -/
def State.copyFrame (s : State) (f g : Nat) : State :=
  let s0 := (s.wakeStacks (f * frameBytes) frameBytes).wakeStacks (g * frameBytes) frameBytes
  let ctx := match s.running with
    | some l => l.ctx.toNat
    | none => 0xFF
  ((s0.eccHbm (f * 65536) ((f + 1) * 65536) ctx).1.settleErr (f * 65536) ((f + 1) * 65536)).moveFrame f g

/-- The first uncorrectable unit of a frame. -/
def State.framePoison (s : State) (f : Nat) : Option Nat :=
  ((srange s.mem.err (f * 65536) ((f + 1) * 65536)).find? fun p => errVerdict p.2 == .uncorrectable).map fun p => 32 * p.1

/-- The copy of a page is under way until FRAME_COPY_DONE (R242). -/
def State.noteCopy (s : State) (fa : Nat) : State := { s with mem := { s.mem with copying := s.mem.copying ++ [fa] } }

/-- A write to the protected page of a leaf: its first write of the attempt opens it, by redirect for a whole-page write
and by copy otherwise (R242). A redirect copies nothing, but what the open frame shows before all of it is written is what a copy
would show (R243): an operation that works in place on the whole page still reads its own operand (08 R190, R202, R203; log 144).
The Bool says that the write may proceed (R230). -/
def State.openPage (s : State) (leaf : BitVec 64) (whole : Bool) : State × Bool × Trouble :=
  let fa := leafFA leaf
  let r := s.pageRec fa
  if r.isOpen s then (s, true, .none)
  else
    let oa := s.owner fa
    let ob := s.owner (leafFB leaf)
    if !(oa.ctx == ob.ctx && oa.isSealed == ob.isSealed) then (s.violFrame, false, .none)
    else
      let cf := r.committedB s
      let r' : PageRec := ⟨cf, s.ep.c + 1, s.ep.genOpen, BitVec.ofNat 18 (leafFB leaf % framesPerSector)⟩
      let sec := dpaSector (fa * frameBytes)
      let (redir, copy) := epCntOf s sec
      let cnt := if whole then (satInc redir, copy) else (redir, satInc copy)
      let s1 := { s with mem := { s.mem with
        recs := sset PageRec.reset s.mem.recs fa r', firsts := s.mem.firsts ++ [fa]
        cnt := sset (0, 0) s.mem.cnt sec cnt } }
      let com := if cf then leafFB leaf else fa
      let opn := if cf then fa else leafFB leaf
      if whole then (s1.moveFrame com opn, true, .none)
      else
        let bad := s.framePoison com
        ((s1.copyFrame com opn).noteCopy fa, true, match bad with
          | some d => .copyPoison d
          | none => .none)

/-! ### Accesses by device virtual address -/

/-- Split [a, a + n) at 64 KiB boundaries; device virtual addresses wrap at 2^52 (07 R168). -/
def pieces : Nat → Nat → Nat → List (Nat × Nat)
  | 0, _, _ => []
  | fuel + 1, a, n =>
    if n = 0 then []
    else
      let k := Nat.min n (65536 - a % 65536)
      (a % 2 ^ 52, k) :: pieces fuel (a + k) (n - k)

def piecesOf (a n : Nat) : List (Nat × Nat) := pieces (n / 65536 + 2) a n

/-- Translate every page of a span; the leaves found, in order. The unit is that of a hummock's own sector, or for commands and
inbound requests the one that each address gives (R222). -/
def State.xlateVia (s : State) (unit : Option Nat) (c a n : Nat) (write : Bool) : State × List TlbEntry × Xlat :=
  (piecesOf a n).foldl (fun (acc : State × List TlbEntry × Xlat) p =>
    match acc.2.2 with
    | .ok _ =>
      if acc.2.1.any (tlbHit c p.1) && !write then acc
      else
        match acc.1.xlate (unit.getD (vaSector p.1)) c p.1 write with
        | (s', .ok e) => (s', acc.2.1 ++ [e], .ok e)
        | (s', x) => (s', acc.2.1, x)
    | _ => acc) (s, [], .ok ⟨0, 0, 0, false⟩)

/-- The same for a command or an inbound request. -/
def State.xlateSpan (s : State) (c a n : Nat) (write : Bool) : State × List TlbEntry × Xlat := s.xlateVia none c a n write

/-- The leaf that covers va among those found; an empty one where none does. -/
def leafAt (m : List TlbEntry) (c va : Nat) : TlbEntry := (m.find? (tlbHit c va)).getD ⟨0, 0, 0, false⟩

/-- The element's own address under a leaf: in frame A for a protected page. -/
def elemDpa (e : TlbEntry) (va : Nat) : Nat :=
  if e.big then leafFA e.leaf * frameBytes + va % frameBytes else bitsOf e.leaf 16 26 * 65536 + va % 65536

/-- The faulting VA of a span: where its first page that no leaf covers is first touched (R222). -/
def faultVa (m : List TlbEntry) (c a n : Nat) : Nat :=
  (((piecesOf a n).find? fun p => !(m.any (tlbHit c p.1))).map fun p => p.1).getD a

structure Access where
  s : State
  bytes : List Byte
  trouble : Trouble
  deriving Repr

/-- Read n bytes at va in context c under leaves already found; a page that none of them covers reads zero. -/
def State.vaRead (s : State) (m : List TlbEntry) (c a n : Nat) : Access :=
  (piecesOf a n).foldl (fun (acc : Access) p =>
    match m.find? (tlbHit c p.1) with
    | none => { acc with bytes := acc.bytes ++ List.replicate p.2 0 }
    | some e =>
      let (d, opn) := acc.s.readDpa e p.1
      let r := acc.s.physRead (.ctx c) d p.2 c
      let t := match r.poison with
        | some x => Trouble.poisoned x (!opn)
        | none => .none
      ⟨r.s, acc.bytes ++ r.bytes, acc.trouble.or t⟩) ⟨s, [], .none⟩

/-- Write bytes at va in context c under leaves already found. A write that the ownership map refuses opens no page (R230). `whole` lists the 2 MiB pages (VA / 2^21) that the same
station instruction writes whole. -/
def State.vaWrite (s : State) (m : List TlbEntry) (c a : Nat) (bs : List Byte) (whole : List Nat) : State × Trouble :=
  let r := (piecesOf a bs.length).foldl (fun (acc : State × Trouble × List Byte) p =>
    let now := acc.2.2.take p.2
    let rest := acc.2.2.drop p.2
    match m.find? (tlbHit c p.1) with
    | none => (acc.1, acc.2.1, rest)
    | some e =>
      if e.big && e.leaf.getLsbD 3 then
        if !(acc.1.ownOk (.ctx c) (leafFA e.leaf) true && acc.1.ownOk (.ctx c) (leafFB e.leaf) true) then
          (acc.1.violFrame, acc.2.1, rest)
        else
          let (s1, ok, t) := acc.1.openPage e.leaf (whole.contains (p.1 / frameBytes))
          match t with
          | .none =>
            if ok then
              let (_, opn) := s1.framesOf e.leaf
              (s1.physWrite (.ctx c) (opn * frameBytes + p.1 % frameBytes) now, acc.2.1, rest)
            else (s1, acc.2.1, rest)
          | _ => (s1, acc.2.1.or t, rest)
      else (acc.1.physWrite (.ctx c) (acc.1.readDpa e p.1).1 now, acc.2.1, rest)) (s, .none, bs)
  (r.1, r.2.1)

/-- The frames that a span's leaves name, for the stalls of R232 and R242. -/
def leafFrames (e : TlbEntry) : List Nat :=
  if !e.big then [bitsOf e.leaf 16 26 / 32]
  else if e.leaf.getLsbD 3 then [leafFA e.leaf, leafFB e.leaf] else [leafFA e.leaf]

/-- An access under these leaves stalls: a frame is being zeroed, its page is being copied, its sector is in reset (R232, R242; 14
R352), or the controllers have lost their clock (17 R444, R447). -/
def State.framesBusy (s : State) (m : List TlbEntry) : Bool :=
  m.any fun e => (leafFrames e).any fun f =>
    s.mem.zeroing.contains f || s.mem.copying.contains f || s.inReset (f / framesPerSector) || !s.board.xtal

/-- A translation fault's memory event (R222, R236). -/
def State.xlatEvent (s : State) (sec ctx va : Nat) : State := s.memEvent 2 sec 0xFF 0 ctx va (s.seqFor ctx)

end Sys2Proof.Machine
end

