-- ==== Sys2Proof/Machine/Journal.lean ====
section
/-!
DEFINITION. Sys2Proof/Machine/Journal.lean: journal records and the rebuild of a processor's state from its partition (15 R379 to
R382), handoff records (R391), and loading a component of an image into a processor (R371, R384, R388).
-/

namespace Sys2Proof.Machine

def State.modFw (s : State) (f : Firmware → Firmware) : State := { s with fw := f s.fw }

def Firmware.slot (f : Firmware) (b : Bool) : Slot := if b then f.slotB else f.slotA
def Firmware.setSlot (f : Firmware) (b : Bool) (x : Slot) : Firmware :=
  if b then { f with slotB := x } else { f with slotA := x }
def Firmware.active (f : Firmware) : Slot := f.slot f.actSlot

/-- Bytes of the flash from an offset. -/
def flashRead (m : Store Byte) (a : Nat) : Nat → List Byte
  | 0 => []
  | n + 1 => sget 0xFF m a :: flashRead m (a + 1) n

/-! ### Journal records -/

/-- The body of a record as the image writes it, to a multiple of 8 bytes within the greatest LEN (R379). -/
def JBody.bytes (b : JBody) : List Byte :=
  let d := (Config.recordBody b).take 65512
  slice d 0 ((d.length + 7) / 8 * 8)

/-- A record but for its CRC: LEN, TYPE, SEQ, CRC as the given number, 4 zero bytes, and the body (R379). -/
def JRec.framed (r : JRec) (crc : Nat) : List Byte :=
  leBytes 2 (16 + r.body.bytes.length) ++ leBytes 2 (Config.recordType r.body).toNat ++ leBytes 4 r.seq.toNat ++ leBytes 4 crc ++
    leBytes 4 0 ++ r.body.bytes

/-- CRC-32C over the whole record with the field as 0; what is stored differs from it by the record's damage. -/
def JRec.crc (r : JRec) : BitVec 32 := crc32c (r.framed 0) ^^^ r.damage

/-- A record as it stands in the journal SRAM. -/
def JRec.bytes (r : JRec) : List Byte := r.framed r.crc.toNat

/-- The CRC of a record checks. -/
def JRec.crcOk (r : JRec) : Bool := r.damage == 0

/-- The records up to the first whose CRC fails or whose SEQ is not the next in order (R380). -/
def Partition.valid (p : Partition) : List JRec :=
  (p.recs.zipIdx.takeWhile fun x => x.1.crcOk && x.1.seq == p.baseSeq + BitVec.ofNat 32 x.2 + 1).map fun x => x.1

/-- A launch as its journal entry has it. -/
def Launch.restore (l : Launch) (j : JLaunch) : Launch :=
  { l with js := j.js, att := j.att, epoch := j.epoch, record := j.record, pos := j.pos }

def Ctx.restore (c j : Ctx) : Ctx := { c with st := j.st, sluBase := j.sluBase, sluCount := j.sluCount, dbSeq := j.dbSeq }

/-- What a record of processor i describes is put in place. Doing so twice makes the same state, and repeats no effect (R380). How far
a sector's recovery is, the always-on block holds. -/
def State.applyBody (s : State) (i : Nat) (b : JBody) : State :=
  match b with
  | .scp placed wakes _ =>
    { s with
      hums := s.hums.map fun p => if secOf p.1 = i then
        (p.1, { p.2 with holder := (placed.find? fun x => x.1 == p.1).map fun x => x.2 }) else p
      pwc := { s.pwc with wakeQ := (s.pwc.wakeQ.filter fun w => secOf w.g != i) ++ wakes } }
  | .fep ls seq reply ctxs graphs =>
    { s with fe := { s.fe with
        launches := s.fe.launches.filterMap fun l => (ls.find? fun j => j.id == l.id).map l.restore
        seq := seq, heldReply := reply, graphs := graphs
        ctxs := ctxs.foldl (fun m p => sset Ctx.reset m p.1 ((sget Ctx.reset m p.1).restore p.2)) s.fe.ctxs } }
  | .fcp c genOpen genLast decision lastCommit mepoch members rank nextXid st att =>
    { s with
      ep := { s.ep with
        c := c, genOpen := genOpen, genLast := genLast, decision := decision, lastCommit := lastCommit, mepoch := mepoch
        members := members, rank := rank, st := st, att := att }
      cwy := { s.cwy with nextXid := nextXid } }
  | .pwp active pend paced cap granted =>
    { s with
      regs := sset 0 s.regs 0x200010 cap
      pwc := { s.pwc with active := active, pend := pend, paceAct := paced, granted := granted } }
  | .mgp actSlot pend handoff flashPos slots svnMin =>
    { s with fw := { s.fw with
        actSlot := actSlot, pend := pend, handoff := handoff, flashPos := flashPos, slotA := slots.1, slotB := slots.2
        svnMin := svnMin } }

/-- No record is cut off: every one written is one that a rebuild applies. -/
def Partition.intact (p : Partition) : Bool := p.valid.length == p.recs.length

/-- Processor i rebuilds its state from its partition: the checkpoint and each record in order, up to the first bad one; without
any, from nothing. A record describes all that its processor keeps, so the last one stands. Where none is cut off that is the present
state, less what hardware did during the restart, which the processor finds in that hardware; what was cut off is discarded with the
action that it describes (R380, R381). -/
def State.rebuild (s : State) (i : Nat) : State :=
  let p := { s.part i with recs := (s.part i).valid }
  let s1 := { s with jnl := sset Partition.reset s.jnl i p }
  if (s.part i).intact then s1 else s1.applyBody i (p.last.getD (State.reset.jview i))

/-! ### Handoff records (R391) -/

/-- A record's header, with its CRC field as the given number, and body. -/
def HandRec.framed (r : HandRec) (crc : Nat) : List Byte :=
  leBytes 4 0x46484F48 ++ leBytes 2 r.hover.toNat ++ [r.idx, 0] ++ leBytes 4 r.body.length ++ leBytes 4 crc ++
    leBytes 4 r.jseq.toNat ++ [r.slot] ++ leBytes 11 0 ++ r.body

def HandRec.crc (r : HandRec) : BitVec 32 := crc32c (r.framed 0) ^^^ r.damage

/-- A record as it stands in the handoff area. -/
def HandRec.bytes (r : HandRec) : List Byte := r.framed r.crc.toNat

/-- Does a reader of an image take the record: its CRC checks, and its version is one that the image reads? -/
def HandRec.readable (r : HandRec) (x : Slot) : Bool :=
  r.damage == 0 && decide (x.homin.toNat ≤ r.hover.toNat) && decide (r.hover.toNat ≤ x.hover.toNat)

def State.handOf (s : State) (i : Nat) : Option HandRec := sget none s.fw.hand i

/-- Processor i writes its handoff record in the format of the active image, at most 128 KiB of body; the MGP's names a slot. -/
def State.writeHand (s : State) (i : Nat) (slot : Option Bool) : State :=
  let (k, s1) := s.draw
  let r : HandRec :=
    { hover := s.fw.active.hover, idx := BitVec.ofNat 8 i, body := (Config.handoffBody i s.fw.active.hover k).take 131072
      damage := 0, jseq := (s.part i).nextSeq - 1
      slot := match slot with
        | some b => if b then 1 else 0
        | none => 0xFF }
  s1.modFw fun f => { f with hand := sset none f.hand i (some r) }

/-! ### Components (R384) -/

/-- The kind of a processor's component. -/
def compKind (i : Nat) : Nat := if i < 8 then 0 else i - 7

/-- Bytes of a processor's instruction SRAM (R371). -/
def isramBytes (i : Nat) : Nat := if i < 8 then 0x100000 else 0x200000

/-- Where slot b, and the persistent log section, lie in the flash (R383). -/
def slotBase (b : Bool) : Nat := if b then 0x06010000 else 0x00010000
def logBase : Nat := 0x0C010000

/-- Offset, size and entry address of the component for processor i in the image of slot b. -/
def Firmware.component (f : Firmware) (b : Bool) (i : Nat) : Nat × Nat × Nat :=
  let hdr := flashRead f.flash (slotBase b) 0x90
  let k := ((List.range 5).find? fun k => field hdr (0x40 + 16 * k) 1 == compKind i).getD 5
  (field hdr (0x44 + 16 * k) 4, field hdr (0x48 + 16 * k) 4, field hdr (0x4C + 16 * k) 4)

def State.coreOf (s : State) (i : Nat) : Core := sget Core.reset s.fw.cores i

/-- The digest check of a component that the MGP loads from slot b (R385). A slot reads verified from the check of its digest to the
first write into it, so it passes exactly there. -/
def State.digestOk (s : State) (b : Bool) : Bool := (s.fw.slot b).verified

/-- The code check of the instruction SRAM: no unit of it is uncorrectable (R224, R374). -/
def Core.codeOk (c : Core) : Bool := !c.err.any fun e => decide (e.1 < 2 ^ 32) && errVerdict e.2 == .uncorrectable

/-- The component of slot b is loaded into processor i's instruction SRAM. -/
def State.loadCore (s : State) (b : Bool) (i : Nat) : State :=
  let (off, size, _) := s.fw.component b i
  let code := flashRead s.fw.flash (slotBase b + off) (Nat.min size (isramBytes i))
  let c := { s.coreOf i with isram := bwrite [] 0 code, err := sclear (s.coreOf i).err 0 (2 ^ 32) }
  s.modFw fun f => { f with cores := sset Core.reset f.cores i c }

/-- The processor is reset and starts at the entry address of slot b's component (R374, R388); since when, its clock says. -/
def State.startCore (s : State) (b : Bool) (i : Nat) : State :=
  let (_, _, entry) := s.fw.component b i
  s.modFw fun f =>
    { f with
      cores := sset Core.reset f.cores i { s.coreOf i with pc := BitVec.ofNat 64 entry, x := [] }
      procs := sset ProcReg.reset f.procs i { s.proc i with st := .starting, since := f.ms } }

/-- The processor restarts: its instruction SRAM is loaded again from slot b only where the code check fails (R374, R377). -/
def State.restartCore (s : State) (b : Bool) (i : Nat) : State :=
  (if (s.coreOf i).codeOk then s else s.loadCore b i).startCore b i

/-- The MGP loads the components of slot b into some processors, which start (R384, R388). -/
def State.loadImage (s : State) (b : Bool) (is : List Nat) : State :=
  is.foldl (fun (acc : State) i => (acc.loadCore b i).startCore b i) s

/-- A handoff or revert has put components of another image in place of the marker's (R388, R389). -/
def State.newImage (s : State) : Bool :=
  match s.fw.handoff with
  | some (k, _) => decide (3 ≤ k)
  | none => false

end Sys2Proof.Machine
end

