-- ==== Sys2Proof/Machine/Flags.lean ====
section
/-!
DEFINITION. Sys2Proof/Machine/Flags.lean: the numeric watch's bins and event counters (06 R144 to R146), kept per tag for
the running attempt.
-/

namespace Sys2Proof.Machine

/-- The bin of a value before conversion (R145): `zeroed` says that it is written as a zero, `nanBlock` that its block's
scale is written as 0xFF. 256 NAN, 257 INF, 258 ZERO, 259 FLUSHED. -/
def binOf (v : Val) (zeroed nanBlock : Bool) : Nat :=
  if nanBlock then 256
  else match v with
    | .nan => 256
    | .inf _ => 257
    | .zero _ => 258
    | .fin _ m e _ => if zeroed then 259 else (Min.min (Max.max (magLog m e + 127) 0) 255).toNat

/-- One element written under a tag. -/
def TagCount.elem (t : TagCount) (bin : Nat) : TagCount :=
  { t with elems := t.elems + 1, bins := sset 0 t.bins bin (satInc (sget 0 t.bins bin)) }

def TagCount.charge (t : TagCount) (c : Cnt) : TagCount :=
  { t with
    sat := satAdd t.sat c.sat, flush := satAdd t.flush c.flush, replay := satAdd t.replay c.replay
    invalid := satAdd t.invalid c.invalid, ovf := satAdd t.ovf c.ovf }

def State.modTag (s : State) (tag : Nat) (f : TagCount → TagCount) : State :=
  { s with fe := { s.fe with watch := sset TagCount.reset s.fe.watch tag (f (sget TagCount.reset s.fe.watch tag)) } }

/-- Charge events to the tag of the tensor that an operation produces (R146). -/
def State.charge (s : State) (tag : Nat) (c : Cnt) : State := s.modTag tag fun t => t.charge c

/-- Elements written under a tag, by their bins. -/
def State.countElems (s : State) (tag : Nat) (bins : List Nat) : State :=
  s.modTag tag fun t => bins.foldl TagCount.elem t

/-- The launch that holds the open epoch reports NUM_OVF (R99, R112). -/
def State.numOvf (s : State) : State :=
  match s.ep.launch with
  | some id => s.modLaunch id fun l => { l with numOvf := true }
  | none => s

/-- Charge, and report a final overflow (R99, R110, R112, R140). -/
def State.chargeOvf (s : State) (tag : Nat) (c : Cnt) : State :=
  let s1 := s.charge tag c
  if c.ovf = 0 then s1 else s1.numOvf

end Sys2Proof.Machine
end

