-- ==== Sys2Proof/Machine/Tiles.lean ====
section
/-!
DEFINITION. Sys2Proof/Machine/Tiles.lean: the banks of a Sump tile and what a reader receives (04 R85 to R88), the sum of a
spill (R103), and a tile or a spill that is cut off (R88, R106).
-/

namespace Sys2Proof.Machine

/-- Element (r, c) of the committed bank. -/
def SumpTile.com (t : SumpTile) (r c : Nat) : BitVec 32 :=
  sget 0 (if t.sel.getLsbD r then t.bank1 else t.bank0) (256 * r + c)

/-- Element (r, c) of the working bank. -/
def SumpTile.work (t : SumpTile) (r c : Nat) : BitVec 32 :=
  sget 0 (if t.sel.getLsbD r then t.bank0 else t.bank1) (256 * r + c)

/-- The committed elements that are not +0. -/
def SumpTile.entries (t : SumpTile) : Store (BitVec 32) :=
  (t.bank0.filter fun p => !t.sel.getLsbD (p.1 / 256)) ++ t.bank1.filter fun p => t.sel.getLsbD (p.1 / 256)

/-- The offset at which committed row r stands (R86, R88; log 105). -/
def SumpTile.rowOff (t : SumpTile) (r : Nat) : BitVec 8 := sget 0 t.roff r

/-- What a reader of the committed bank receives (R86). -/
def SumpTile.value (t : SumpTile) (r c : Nat) : Val := (val32 (t.com r c)).scale (-(t.rowOff r).toInt)

/-- A spill adds every element to its slot in binary64 and clears the tile (R103). -/
def SumpTile.spill (t : SumpTile) (slot : Store (BitVec 64)) : SumpTile × Store (BitVec 64) × Cnt :=
  let es := t.entries
  let keys := (es.map fun p => p.1) ++ (slot.map fun p => p.1).filter fun k => !(es.any fun p => p.1 == k)
  let r := keys.foldl (fun (acc : Store (BitVec 64) × Cnt) k =>
    let y := (val64 (sget 0 slot k)).add (t.value (k / 256) (k % 256))
    let z := f64.round .rne y.1
    (sset 0 acc.1 k (enc64 z.1), acc.2.add { flush := bcnt z.2.flush, invalid := bcnt y.2 })) (slot, {})
  ({ t with bank0 := [], bank1 := [], roff := [] }, r.1, r.2)

/-- The entries of a below key n, and those of b from it on. -/
def joinAt {α : Type} (a b : Store α) (n : Nat) : Store α := (a.filter fun p => p.1 < n) ++ b.filter fun p => n ≤ p.1

/-- A spill that is cut off stops at a row boundary: rows from there on hold their Sump values, and their Peat values are those
of before the spill; OFF and CNT are as before it (R106). -/
def SumpTile.cutSpill (t : SumpTile) (slot : Store (BitVec 64)) : SumpTile × Store (BitVec 64) :=
  match t.cut with
  | none => (t, slot)
  | some c =>
    let back (m : Store (BitVec 32)) (b : Bool) : Store (BitVec 32) :=
      joinAt m (c.rows.filter fun p => t.sel.getLsbD (p.1 / 256) == b) (256 * c.row)
    ({ t with
        bank0 := back t.bank0 false, bank1 := back t.bank1 true, cut := none, roff := joinAt t.roff c.roff c.row
        off := c.off, woff := c.off, cnt := c.cnt },
     joinAt slot c.slot (256 * c.row))

/-- A squashed operation clears its written bits and changes nothing else (R88). -/
def SumpTile.squash (t : SumpTile) : SumpTile :=
  { t with written := 0, woff := t.off, ovf := [], fresh := false, begun := false, spilling := false, rpl := 0 }

/-- No events are kept with it (06 R150). -/
def SumpTile.bare (t : SumpTile) : SumpTile := { t with evs := {} }

/-- The events that an attempt has left with tiles and slots are no part of another's records (06 R150). -/
def Hummock.dropEvs (h : Hummock) : Hummock :=
  { h with sump := h.sump.foldl (fun m p => sset SumpTile.reset m p.1 p.2.bare) [], peatEvs := [] }

/-- The tiles and slots of a hummock whose work is cut off (R88, R106). -/
def Hummock.cutTiles (h : Hummock) : Hummock :=
  h.sump.foldl (fun (acc : Hummock) p =>
    let (t, slot) := p.2.squash.cutSpill (sget [] acc.peat p.2.pslot.toNat)
    { acc with
      sump := sset SumpTile.reset acc.sump p.1 t
      peat := if p.2.cut.isSome then sset [] acc.peat p.2.pslot.toNat slot else acc.peat }) h

end Sys2Proof.Machine
end

