-- ==== Sys2Proof/Machine/Protocol.lean ====
section
/-!
DEFINITION. Sys2Proof/Machine/Protocol.lean: hummocks held by a launch, the end of a launch and its completion record
(12 R304 to R307), the group tree and commit messages (10 R251, R252), local commit and rollback (R244 to R246), and what
decisions and faults make a member do (R253 to R262).
-/

namespace Sys2Proof.Machine

/-! ### Hummocks of a launch -/

def Hummock.heldBy (h : Hummock) (id : Nat) : Bool :=
  match h.holder with
  | some x => x.launch == id
  | none => false

def State.humsOf (s : State) (id : Nat) : List Nat := allHums.filter fun g => (s.hum g).heldBy id

/-- The sealed context that held the hummock last, where none has held it since and it has not been Gated (16). -/
def Hummock.lastSealed (h : Hummock) : Option (BitVec 6) :=
  match h.holder with
  | some x => if x.isSealed then some x.ctx else none
  | none => h.sealedLast

/-- Stop issue and discard what the stations have not finished (R350, R175). A load cut off leaves its Lattice in the
state of R70 (03 R78). -/
def Hummock.stop (h : Hummock) : Hummock :=
  { h.cutTiles with
    seq := { h.seq with st := .idle, stall := none, sigs := [] }
    unret := [], groups := []
    lats := h.lats.filter fun p => p.2.loading.isNone }

/-- Gated: nothing within the hummock is kept but what stands outside its power domain (R171, R187). -/
def Hummock.gate (h : Hummock) : Hummock :=
  { Hummock.reset with
    pmode := h.pmode, wslu := h.wslu, wsen := h.wsen, wvec := h.wvec, capg := h.capg, nextId := h.nextId
    ue := h.ue }

/-- The launch no longer holds the hummock; events that its operations left uncharged go to no later attempt's tag (06 R150). -/
def Hummock.release (h : Hummock) : Hummock :=
  { h.dropEvs with holder := none, sealedLast := h.lastSealed, seq := { h.seq with st := .idle, wake := false, stall := none } }

/-- A WAIT that is cut off leaves its sluice's queue (07 R177). -/
def State.unwait (s : State) (gone : Nat → Bool) : State :=
  let keep (w : Waiter) : Bool := match w.hum with
    | some g => !gone g
    | none => true
  { s with sluices :=
      if s.sluices.all fun p => p.2.waiters.all keep then s.sluices
      else s.sluices.foldr (fun p m => sset Sluice.reset m p.1 { p.2 with waiters := p.2.waiters.filter keep }) [] }

/-- The wake requests and the ramps of hummocks that are powered off and that no launch holds any longer end; one at whose boundary
an access waits asks again, in class 2 (17 R438; log 150). -/
def State.dropWakes (s : State) (gone : Nat → Bool) : State :=
  let ws := s.pwc.granted ++ s.pwc.wakeQ
  if ws.any fun w => gone w.g then
    let again := (ws.filter fun w : WakeReq => gone w.g && s.link.regStalls.any fun a => a.unit == .hummock w.g).map fun w =>
      { w with cls1 := false }
    let kept (w : WakeReq) : Bool := !gone w.g
    ({ s with pwc := { s.pwc with granted := s.pwc.granted.filter kept, wakeQ := s.pwc.wakeQ.filter kept ++ again } }).jot pwpIx
  else s

/-- Every hummock of launch id stops, is gated and is released. -/
def State.gateHums (s : State) (id : Nat) : State :=
  let hums := s.hums.map fun p => if p.2.heldBy id then (p.1, p.2.gate) else p
  let s1 := { s with hums := hums }
  (s1.unwait fun g => (s.hum g).heldBy id).dropWakes fun g => (s.hum g).heldBy id

def State.stopHums (s : State) (id : Nat) : State :=
  let hums := s.hums.map fun p => if p.2.heldBy id && p.2.seq.st != .ended then (p.1, p.2.stop) else p
  let s1 := { s with hums := hums }
  s1.unwait fun g => (s.hum g).heldBy id

def State.releaseHums (s : State) (id : Nat) : State :=
  { s with hums := s.hums.map fun p => if p.2.heldBy id then (p.1, p.2.release) else p }

/-- Every writer of the attempt has stopped (R355): each hummock it holds has ended. -/
def State.quiet (s : State) (id : Nat) : Bool :=
  s.hums.all fun p => !(p.2.heldBy id) || p.2.seq.st == .ended

/-! ### Graph versions (12 R292, R293) -/

def State.versionLive (s : State) (g : Graph) (v : BitVec 32) : Bool :=
  v == g.current || s.fe.launches.any fun l => l.live && l.gid == g.gid && l.ver == v

/-- Versions that stop being live retire, and so does a retiring graph without launches. -/
def State.pruneGraphs (s : State) : State :=
  let gs := s.fe.graphs.filterMap fun g =>
    if g.retiring && !(s.fe.launches.any fun l => l.live && l.gid == g.gid) then none
    else some { g with versions := g.versions.filter fun v => s.versionLive g v.num }
  { s with fe := { s.fe with graphs := gs } }

/-! ### Status codes (R276) and the end of a launch -/

def stOK : BitVec 16 := 0x0000
def stBadOpcode : BitVec 16 := 0x0001
def stBadLength : BitVec 16 := 0x0002
def stBadSeq : BitVec 16 := 0x0003
def stBadParam : BitVec 16 := 0x0004
def stNotCapable : BitVec 16 := 0x0005
def stBadState : BitVec 16 := 0x0006
def stNoSpace : BitVec 16 := 0x0007
def stAddrFault : BitVec 16 := 0x0008
def stRefusedLate : BitVec 16 := 0x0010
def stBackpressure : BitVec 16 := 0x0011
def stBusyVersions : BitVec 16 := 0x0012
def stExpired : BitVec 16 := 0x0020
def stNumOvf : BitVec 16 := 0x0021
def stProgramFault : BitVec 16 := 0x0022
def stDataLost : BitVec 16 := 0x0023
def stAborted : BitVec 16 := 0x0024

/-- Entries of context c's completion ring; none where LOG2 leaves EN without effect (R312). -/
def State.cplSize (s : State) (c : Nat) : Option Nat :=
  let log2 := s.regField (0x2008 + 32 * c) 1 5
  if 7 ≤ log2 ∧ log2 ≤ 16 then some (2 ^ log2) else none

/-- Context c's completion ring takes a record now: enabled, and not full (R307). -/
def State.cplRoom (s : State) (c : Nat) : Bool :=
  match s.cplSize c with
  | some n => (s.reg (0x2008 + 32 * c)).getLsbD 0 &&
      ((s.ctx c).tail.toNat + 1) % n != s.regField (0x2010 + 32 * c) 0 16 % n
  | none => false

/-- The launches of context c whose records are not yet written, in admission order. -/
def State.unpublished (s : State) (c : Nat) : List Launch := s.fe.launches.filter fun l => l.ctx.toNat == c

/-- A launch holds a journal entry until its record is published: written, or retained (R304). -/
def Launch.journalled (l : Launch) : Bool :=
  match l.record with
  | some r => !r.held
  | none => true

/-- The record of launch id waits in the retained store (R307). -/
def State.mustWait (s : State) (id c : Nat) : Bool :=
  !(s.cplRoom c) || (s.ctx c).st == .blocked ||
    (match s.unpublished c with
     | l :: _ => l.id != id
     | [] => true)

/-- End a launch with a status: its record is made, and takes its ring position if it need not wait (R305 to R307). -/
def State.endLaunch (s : State) (id : Nat) (status : BitVec 16) (committed : Bool) : State :=
  let s1 := s.modLaunch id fun l =>
    let c := l.ctx.toNat
    { l with
      js := if committed then .committed else .ended
      pos := if s.mustWait id c then none else some ((s.ctx c).tail, (s.ctx c).phase)
      record := some
        { status := status, numev := committed && l.fired.isSome, late := committed && l.late, held := s.mustWait id c
          att := l.att, gid := l.gid, seq := l.seq, epoch := s.ep.c, ver := l.ver
          ntag := if committed then l.fired.getD 0 else 0 } }
  s1.pruneGraphs.jot fepIx

/-! ### The commit group (10 R251) -/

def State.ownId (s : State) : BitVec 15 := s.cwy.idInForce
def State.groupSize (s : State) : Nat := Nat.max 1 s.ep.members.length
def State.isCoord (s : State) : Bool := s.ep.rank == 0
def State.memberDev (s : State) (r : Nat) : BitVec 15 := (s.ep.members[r]?).getD s.ownId

/-- Ranks 16r + 1 to 16r + 16 that exist. -/
def State.children (s : State) : List Nat :=
  ((List.range 16).map fun i => 16 * s.ep.rank.toNat + 1 + i).filter fun k => k < s.groupSize

def State.parentRank (s : State) : Nat := (s.ep.rank.toNat - 1) / 16

/-- Members of the subtree whose present level spans ranks [lo, hi]. -/
def subtreeFrom (n : Nat) : Nat → Nat → Nat → Nat
  | 0, _, _ => 0
  | fuel + 1, lo, hi =>
    if n ≤ lo then 0 else (Nat.min hi (n - 1) - lo + 1) + subtreeFrom n fuel (16 * lo + 1) (16 * hi + 16)

def State.subtree (s : State) : Nat := subtreeFrom s.groupSize 6 s.ep.rank.toNat s.ep.rank.toNat

/-! ### Commit messages (R252) -/

def msgCode : MsgType → BitVec 8
  | .prepare => 1 | .commit => 2 | .abort => 3 | .abortReq => 4 | .query => 5 | .answer => 6

def msgBytes (t : MsgType) (m : CommitMsg) : List Byte :=
  [msgCode t, m.info, m.acause, 0] ++ leBytes 2 m.att.toNat ++ leBytes 2 m.cntm1.toNat ++ leBytes 8 m.mepoch.toNat ++
    leBytes 8 m.epoch.toNat ++ leBytes 2 m.src.toNat ++ leBytes 6 0

/-- The open epoch (R240). -/
def State.openEpoch (s : State) : BitVec 64 := s.ep.c + 1

def State.runCtx (s : State) : BitVec 6 :=
  match s.running with
  | some l => l.ctx
  | none => 0

/-- A packet of this device with the header fields of R317 that every packet of it carries. -/
def State.ownPacket (s : State) (ty : BitVec 8) (vc : BitVec 2) (dst : BitVec 15) : Packet :=
  { type := ty, vc := vc, cls := false, last := false, sig := false, ord := false, enc := false, flagRsvd := false
    len := 0, dst := dst, src := s.ownId, ctx := s.runCtx, hops := 63, att := s.ep.att
    epoch := s.openEpoch.setWidth 32, xidx := 0, xid := 0, slu := 0, addr := 0, payload := [] }

def State.inject (s : State) (p : Packet) : State := { s with cwy := { s.cwy with inject := s.cwy.inject ++ [p] } }

/-- Send a commit message to a rank on VC2 (R251, R318). -/
def State.sendMsg (s : State) (t : MsgType) (m : CommitMsg) (rank : Nat) : State :=
  s.inject { s.ownPacket 0x10 2 (s.memberDev rank) with len := 32, payload := msgBytes t m }

def State.ownMsg (s : State) : CommitMsg :=
  { info := 0, acause := 0, att := s.ep.att, cntm1 := 0, mepoch := s.ep.mepoch, epoch := s.openEpoch, src := s.ep.rank }

def State.toChildren (s : State) (t : MsgType) (m : CommitMsg) : State :=
  s.children.foldl (fun acc k => acc.sendMsg t m k) s

/-! ### Local commit and rollback (R244 to R246) -/

def genNext (g : BitVec 8) : BitVec 8 := BitVec.ofNat 8 ((g.toNat + 1) % 255)

def State.modEp (s : State) (f : EpochState → EpochState) : State := { s with ep := f s.ep }
def State.modMem (s : State) (f : MemState → MemState) : State := { s with mem := f s.mem }

/-- A sweep starts with the list of records first-written in the attempt; one that finds a sweep running waits. -/
def State.startSweep (s : State) (commit : Bool) : State :=
  s.modMem fun m =>
    let w : Sweep := ⟨commit, m.firsts⟩
    match m.sweep with
    | none => { m with sweep := some w, firsts := [], copying := [] }
    | some _ => { m with sweepQ := m.sweepQ ++ [w], firsts := [], copying := [] }

/-- The threshold test and the run of one armed entry at a commit (R153): new run, and whether the event is raised. -/
def armedStep (a : Armed) (t : TagCount) : BitVec 16 × Bool :=
  if t.elems = 0 then (a.run, false)
  else
    let zeros := (sget 0 t.bins 258).toNat + (sget 0 t.bins 259).toNat
    if a.p.toNat * t.elems.toNat < zeros * 65536 then
      if a.run.toNat + 1 = a.n.toNat then (0, true) else (a.run + 1, false)
    else (0, false)

def State.watchOf (s : State) (tag : Nat) : TagCount := sget TagCount.reset s.fe.watch tag

/-- Armed tags of the launch's context are updated at local commit, from the counts that the records hold: an armed tag that the
watch list does not name counts as not written. An entry that WATCH_ARM has put in place after the records were written is tested
with these counts too (log 122). -/
def State.updateArmed (s : State) (c : Nat) : State :=
  s.modCtx c fun x => { x with armed := x.armed.map fun a => { a with run := (armedStep a (s.watchOf a.tag.toNat)).1 } }

/-- Local commit of epoch E (R244) and the end of its launch (R255); a member that rejoined has its decision (R360). A round of the
attempt that is still open stays in its buffer (log 143). -/
def State.localCommit (s : State) : State :=
  let s1 := s.modEp fun e =>
    { e with
      genLast := e.genOpen, genOpen := genNext e.genOpen, c := e.c + 1, st := .committing, commits := satInc e.commits
      sent := false, localPrep := false, reports := [], prepTimer := false, decideTimer := false, rejoin := false }
  let s2 := ((s1.startSweep true).modMem fun m => { m with closed := [] }).jot fcpIx
  match s2.running with
  | none => s2
  | some l =>
    let s3 := s2.updateArmed l.ctx.toNat
    s3.endLaunch l.id (if l.numOvf then stNumOvf else stOK) true

/-- What the failed attempt left on its way is discarded (R129, R245, R355). -/
def State.dropAttempt (s : State) : State :=
  let s1 := s.modMem fun m =>
    { m with contribs := [], rounds := [], closed := [] }
  { s1 with
    flight := [], cwy := { s1.cwy with
      inject := s1.cwy.inject.filter fun p => p.vc != 0, outbound := [], inbound := [] }
    fe := { s1.fe with watch := [] } }

/-- Local rollback (R245): the event of R464 carries the cause of the ABORT, or 0xFF with none yet received. -/
def State.localRollback (s : State) : State :=
  let s1 := s.commitEvent 0 (match s.ep.after with | some c => c.toNat | none => 0xFF)
  let s2 := (s1.dropAttempt).modEp fun e =>
    { e with
      genOpen := genNext e.genOpen, st := .rollingBack, aborts := satInc e.aborts, sent := false, localPrep := false
      reports := [], prepTimer := false, decideTimer := false, contained := true }
  let s3 := (s2.startSweep false).jot fcpIx
  match s3.ep.launch with
  | some id => s3.gateHums id
  | none => s3

/-- The attempt has failed here: its writers stop (R355). -/
def State.failAttempt (s : State) : State :=
  let s1 := s.modEp fun e => { e with failedAtt := some e.att, prepTimer := false, decideTimer := false }
  match s1.ep.launch with
  | some id => s1.stopHums id
  | none => s1

/-- Roll back once every writer has stopped (R355). -/
def State.tryRollback (s : State) : State :=
  match s.ep.st, s.ep.launch with
  | .running, some id | .prepared, some id =>
    if s.ep.failedAtt == some s.ep.att && s.err.ctxab.isNone && s.quiet id then s.localRollback else s
  | _, _ => s

/-- An engine, sector or chip reset that replaces a context abort contains the failed attempt at its start (R355). -/
def State.contain (s : State) : State :=
  match s.ep.launch with
  | some id => if s.ep.failedAtt == some s.ep.att then (s.gateHums id).tryRollback else s
  | none => s

/-! ### Acting on a decision (R256) -/

/-- The attempt has left the open epoch. No attempt of the next launch has been dispatched, so a message of any attempt then counts as
one for a later attempt (R257; log 28). -/
def State.leaveEpoch (s : State) : State :=
  s.modEp fun e => { e with launch := none, att := 0, failedAtt := none, contained := false }

/-- The launch that a decision concerns: the one of the open epoch, or for a member that rejoins its oldest launch
(R360). -/
def State.decidedLaunch (s : State) : Option Nat :=
  match s.ep.launch with
  | some id => some id
  | none => if s.ep.rejoin then (s.fe.launches.find? Launch.live).map fun l => l.id else none

/-- The launch waits for its next attempt, on which this member requests ABORT with the cause given, if there is one (R256). -/
def State.requeue (s : State) (id : Nat) (att : BitVec 16) (cause : Option (BitVec 8)) : State :=
  let s1 := s.modLaunch id fun l =>
    { l with js := .admitted, att := att + 1, ended := 0, fired := none, numOvf := false, cause := l.cause.orElse fun _ => cause }
  { s1 with ep := { s1.ep with launch := none, failedAtt := none, contained := false } }.jot fepIx

/-- Act on the cause of an ABORT of attempt att after the rollback (R256): replay with the next attempt number, or end the launch. A
launch that this member has ended runs on only to request its own cause. One that CTX_ABORT has named ends ABORTED whatever the cause
(R357), and after a split one whose deadline has passed ends EXPIRED (R262). -/
def State.actOn (s : State) (cause : BitVec 8) (att : BitVec 16) : State :=
  match s.decidedLaunch with
  | none => s
  | some id =>
    let asked := (s.launchOf id).any fun l => l.abortAsked
    let late := (s.launchOf id).any fun l => l.late
    let fin (st : BitVec 16) : State :=
      ((((s.modLaunch id fun l => { l with att := att }).endLaunch id (if asked then stAborted else st) false)).gateHums id).leaveEpoch
    if cause = 0 ∨ cause = 1 then s.requeue id att (if asked then some 6 else if late then some 2 else none)
    else if cause = 2 then fin stExpired
    else if cause = 4 then fin stProgramFault
    else if cause = 5 then fin stDataLost
    else if cause = 6 then fin stAborted
    else if asked || late then fin stExpired
    else s.requeue id att none

/-- Enter SUNDERED (R261, R262), acting first on what f says; the event names the launch that the split concerns (18 R464). -/
def State.sunder (s : State) (f : State → State) : State :=
  (f (s.commitEvent 1 3)).modEp fun e => { e with st := .sundered, afterSunder := false }

/-- Enter SUNDERED with nothing to act on. -/
def State.enterSundered (s : State) : State := s.sunder id

/-- A decision ABORT for the running attempt (R256): roll back, and act on the cause afterwards. -/
def State.abortHere (s : State) (cause : BitVec 8) (att : BitVec 16) : State :=
  let s1 := s.modEp fun e => { e with acted := some (e.c + 1, att), after := some cause }
  let s2 := if cause = 3 then s1.modEp fun e => { e with afterSunder := true } else s1
  match s2.ep.st with
  | .running | .prepared => s2.failAttempt.tryRollback
  | .idle =>
    let act (t : State) : State := ((t.modEp fun e => { e with after := none }).actOn cause att).modEp fun e => { e with rejoin := false }
    if cause = 3 then s2.sunder act else act s2
  | _ => s2

/-- The coordinator decides ABORT (R254, R256): the decision is journalled before anything is sent. -/
def State.decideAbort (s : State) (cause : BitVec 8) : State :=
  let s1 := (s.modEp fun e => { e with decision := some ⟨e.c + 1, e.att, false, cause⟩, oldDecision := false }).jot fcpIx
  let s2 := s1.toChildren .abort { s1.ownMsg with info := cause }
  s2.abortHere cause s2.ep.att

/-- Has the coordinator decided the running attempt? -/
def State.decided (s : State) : Bool :=
  match s.ep.decision with
  | some d => d.epoch == s.openEpoch && d.att == s.ep.att && !s.ep.oldDecision
  | none => false

/-- A member faults (R256): before it has sent PREPARE it fails its attempt and requests ABORT; the coordinator decides.
After PREPARE it sends nothing. -/
def State.memberFault (s : State) (cause : BitVec 8) : State :=
  match s.ep.st with
  | .running | .prepared =>
    if s.isCoord then (if s.decided then s else s.decideAbort cause)
    else if s.ep.sent || s.ep.failedAtt == some s.ep.att then s
    else
      let s1 := s.failAttempt
      (s1.sendMsg .abortReq { s1.ownMsg with info := cause } 0).tryRollback
  | _ => s

/-- A launch of this device records the cause with which it has ended it (R256, last paragraph). -/
def State.recordCause (s : State) (cause : BitVec 8) : State :=
  match s.ep.launch with
  | some id => s.modLaunch id fun l => { l with cause := l.cause.orElse fun _ => some cause }
  | none => s

/-- The coordinator's COMMIT, once PREPARE covers all members; a member's PREPARE to its parent (R253 to R255). An attempt that has
failed here sends none (R355). -/
def State.checkPrepared (s : State) : State :=
  let sum := s.ep.reports.foldl (fun acc r => acc + r.2) 1
  let heard := s.children.all fun k => s.ep.reports.any fun r => r.1.toNat == k
  if !(s.ep.localPrep && s.ep.st == .prepared && s.ep.failedAtt != some s.ep.att && heard && sum == s.subtree) then s
  else if s.isCoord then
    if s.decided then s
    else
      let s1 := (s.modEp fun e =>
        { e with
          decision := some ⟨e.c + 1, e.att, true, 0⟩, oldDecision := false, lastCommit := some ⟨e.c + 1, e.att, true, 0⟩
          acted := some (e.c + 1, e.att) }).jot fcpIx
      (s1.toChildren .commit s1.ownMsg).localCommit
  else if s.ep.sent then s
  else
    let s1 := s.sendMsg .prepare { s.ownMsg with cntm1 := BitVec.ofNat 16 (sum - 1) } s.parentRank
    let s2 := s1.modEp fun e => { e with sent := true, decideTimer := true }
    match s2.ep.launch with
    | some id => (s2.modLaunch id fun l => { l with js := .prepared }).jot fepIx
    | none => s2

/-! ### Reachability (13 R326; R261) -/

/-- The active entry that a destination selects (R324). -/
def State.routeOf (s : State) (dst : BitVec 15) : BitVec 12 :=
  let g := dst.toNat / 16
  if g = s.ownId.toNat / 16 then sget 0 s.cwy.ltAct (dst.toNat % 16) else sget 0 s.cwy.rtAct g

/-- A member is unreachable from a device whose active entry for it has VALID = 0. -/
def State.reachable (s : State) (dst : BitVec 15) : Bool := (s.routeOf dst).getLsbD 8

/-- A member finds a group member unreachable (R260, R261). One whose own attempt has rolled back, or rolls back, and that awaits its
ABORT takes the split as its cause. -/
def State.checkReach (s : State) : State :=
  if s.ep.members.all s.reachable then s
  else
    match s.ep.st with
    | .idle =>
      match s.ep.launch with
      | some _ => (s.sunder fun t => t.actOn 3 t.ep.att).modEp fun e => { e with rejoin := false }
      | none => s.enterSundered
    | .running | .prepared =>
      if s.isCoord then (if s.decided then s else s.decideAbort 3)
      else if !s.ep.sent then
        (s.modEp fun e => { e with after := some 3, afterSunder := true }).failAttempt.tryRollback
      else if s.reachable (s.memberDev 0) then s
      else (s.commitEvent 2 0xFF).modEp fun e => { e with st := .doubt, decideTimer := false }
    | .rollingBack => s.modEp fun e => { e with after := e.after.orElse fun _ => some 3, afterSunder := true }
    | _ => s

/-- After every RESUME the coordinator re-sends its last decision down the tree (R258). -/
def State.resendDecision (s : State) : State :=
  match s.isCoord, s.ep.decision with
  | true, some d =>
    s.toChildren (if d.commit then .commit else .abort)
      { s.ownMsg with info := d.cause, att := d.att, epoch := d.epoch }
  | _, _ => s

/-! ### A message at its member (R257) -/

def State.sendQuery (s : State) : State := s.sendMsg .query s.ownMsg 0

/-- The decision for an epoch that the coordinator's journal holds: its last one, and the one for epoch C (R258). -/
def State.decisionFor (s : State) (e : BitVec 64) : Option Decision :=
  let of (o : Option Decision) : Option Decision := o.filter fun d => d.epoch == e
  (of s.ep.decision).orElse fun _ => of s.ep.lastCommit

/-- The coordinator's ANSWER from its journal (R258). -/
def State.answerQuery (s : State) (m : CommitMsg) : State :=
  if !s.isCoord || s.ep.rank.toNat == m.src.toNat then s
  else
    let a : CommitMsg := { s.ownMsg with epoch := m.epoch }
    match s.decisionFor m.epoch with
    | some d =>
      s.sendMsg .answer { a with
        info := if d.commit then 1 else 2, acause := if d.commit then 0 else d.cause, att := d.att } m.src.toNat
    | none => s.sendMsg .answer a m.src.toNat

/-- The coordinator has decided the attempt that an ABORT_REQ names, or a later one of its launch (R256). -/
def State.requestLate (s : State) (m : CommitMsg) : Bool :=
  s.isCoord && !s.ep.oldDecision && match s.ep.decision with
    | some d => d.epoch == m.epoch && m.att.toNat ≤ d.att.toNat
    | none => false

/-- This member has acted on the decision for attempt att of the open epoch: on that one, or on a later attempt's. -/
def State.actedOn (s : State) (att : BitVec 16) : Bool :=
  match s.ep.acted with
  | some (e, a) => e == s.openEpoch && att.toNat ≤ a.toNat
  | none => false

/-- Was this decision already acted on (R257)? -/
def State.applied (s : State) (t : MsgType) (m : CommitMsg) : Bool :=
  match t with
  | .commit => m.epoch.toNat ≤ s.ep.c.toNat
  | .abort => s.actedOn m.att && m.epoch == s.openEpoch
  | .answer => m.info == 2 && s.actedOn m.att && m.epoch == s.openEpoch
  | _ => false

/-- One message from each child and one from the parent is held for each attempt. -/
def State.holdMsg (s : State) (t : MsgType) (m : CommitMsg) : State :=
  if s.ep.held.any (fun h => h.2.src == m.src && h.2.att == m.att) then s
  else s.modEp fun e => { e with held := e.held ++ [(t, m)] }

/-- Act on a message for the running attempt, or on one that this member awaits (R253 to R260). -/
def State.actMsg (s : State) (t : MsgType) (m : CommitMsg) : State :=
  match t with
  | .prepare =>
    if s.children.contains m.src.toNat && (s.ep.st == .running || s.ep.st == .prepared) then
      (s.modEp fun e => { e with reports := e.reports ++ [(m.src, m.cntm1.toNat + 1)] }).checkPrepared
    else s
  | .commit => if s.ep.st == .prepared && !s.isCoord then (s.toChildren .commit m).localCommit else s
  | .abort =>
    if s.isCoord then s
    else
      match s.ep.st with
      | .running | .prepared | .rollingBack | .idle => (s.toChildren .abort m).abortHere m.info m.att
      | _ => s
  | .abortReq => if s.isCoord && !s.decided then s.memberFault m.info else s
  | .query => s.answerQuery m
  | .answer =>
    let t := if m.info = 1 ∨ m.info = 2 then s.modEp fun e => { e with rejoin := false } else s
    if m.info = 1 then
      (if s.ep.st == .prepared then (t.toChildren .commit { m with info := 0, acause := 0 }).localCommit else t)
    else if m.info = 2 then
      ((s.toChildren .abort { m with info := m.acause, acause := 0 }).abortHere m.acause m.att).modEp fun e => { e with rejoin := false }
    else s

/-- The last attempt of the open epoch that this member has dispatched. -/
def State.lastAtt (s : State) : BitVec 16 := if s.ep.st == .committing then 0 else s.ep.att

/-- Each commit message is treated by the first case of R257 that matches. -/
def State.onMessage (s : State) (t : MsgType) (m : CommitMsg) : State :=
  if m.mepoch != s.ep.mepoch then s
  else if t == .query then s.answerQuery m
  else if t == .abortReq && s.requestLate m then s
  else if t == .prepare && m.epoch == s.openEpoch && m.att == s.ep.att && s.ep.reports.any (fun r => r.1 == m.src) then s
  else if s.applied t m then
    (if t == .answer then s.modEp fun e => { e with rejoin := false } else s.toChildren t m)
  else if m.epoch == s.openEpoch && s.lastAtt.toNat < m.att.toNat && !(t == .answer && s.ep.rejoin) then s.holdMsg t m
  else if m.epoch != s.openEpoch || (m.att.toNat < s.lastAtt.toNat) then s
  else s.actMsg t m

/-- A commit message reaches the FCP, or waits by handshake while it restarts (15 R375). -/
def State.takeMsg (s : State) (t : MsgType) (m : CommitMsg) : State :=
  if s.procReady fcpIx then s.onMessage t m else s.modEp fun e => { e with waitMsgs := e.waitMsgs ++ [(t, m)] }

/-- The FCP runs again: the link events that waited are placed, and the messages that waited are treated in order. -/
def State.takeWaiting (s : State) : State :=
  let ms := s.ep.waitMsgs
  ms.foldl (fun (acc : State) x => acc.onMessage x.1 x.2) (s.placeLinkEvents.modEp fun e => { e with waitMsgs := [] })

/-! ### Front-end accesses by device virtual address (11 R279) -/

/-- Where a command's access to va lies under a leaf: commands address frames and take no part in epochs, so a protected page is
accessed in its committed frame (R249). -/
def State.cmdDpa (s : State) (e : TlbEntry) (va : Nat) : Nat :=
  if e.big && e.leaf.getLsbD 3 then (s.framesOf e.leaf).1 * frameBytes + va % frameBytes else elemDpa e va

/-- How a read of the front end goes: the bytes, a translation fault, poison met in a walk, or in the data. -/
inductive FeGet where
  | bytes (bs : List Byte)
  | fault
  | walk (va : Nat)
  | poison
  deriving DecidableEq, Repr

/-- A command's access of n bytes at va of context c stalls: a sector whose translation unit or memory it needs is in reset (14
R352). -/
def State.spanHeld (s : State) (r : Nat × Nat × Nat) : Bool :=
  s.err.sectors != [] && ((piecesOf r.2.1 r.2.2).any (fun p => s.inReset (vaSector p.1)) ||
    (s.xlateSpan r.1 r.2.1 r.2.2 false).2.1.any fun e => (leafFrames e).any fun f => s.inReset (f / framesPerSector))

/-- Read n bytes in the space of context c; a translation fault has its memory event. -/
def State.feGet (s : State) (c va n : Nat) : State × FeGet :=
  match s.xlateSpan c va n false with
  | (s1, m, .ok _) =>
    let r := (piecesOf va n).foldl (fun (acc : State × Option (List Byte)) p =>
      let x := acc.1.physRead (.ctx c) (acc.1.cmdDpa (leafAt m c p.1) p.1) p.2 c
      (x.s, if x.poison.isSome then none else acc.2.map fun b => b ++ x.bytes)) (s1, some [])
    (r.1, match r.2 with
      | some bs => .bytes bs
      | none => .poison)
  | (s1, m, .fault) => (s1.xlatEvent (vaSector (faultVa m c va n)) c (faultVa m c va n), .fault)
  | (s1, m, .poison _) => (s1, .walk (faultVa m c va n))

/-- The same for a command: none for an input fault (R279). -/
def State.feRead (s : State) (c va n : Nat) : State × Option (List Byte) :=
  match s.feGet c va n with
  | (s1, .bytes bs) => (s1, some bs)
  | (s1, _) => (s1, none)

/-- The pieces of a write in the space of context c that come before the first page without a leaf. -/
def State.writePieces (s : State) (m : List TlbEntry) (c va : Nat) (bs : List Byte) : State :=
  (((piecesOf va bs.length).takeWhile fun p => m.any (tlbHit c p.1)).foldl (fun (acc : State × List Byte) p =>
    (acc.1.physWrite (.ctx c) (acc.1.cmdDpa (leafAt m c p.1) p.1) (acc.2.take p.2), acc.2.drop p.2)) (s, bs)).1

/-- Write bytes in the space of context c. One that faults has written what comes before the page that it faults on (R279). -/
def State.feWrite (s : State) (c va : Nat) (bs : List Byte) : State × Bool :=
  match s.xlateSpan c va bs.length true with
  | (s1, m, .ok _) => (s1.writePieces m c va bs, true)
  | (s1, m, .fault) =>
    ((s1.xlatEvent (vaSector (faultVa m c va bs.length)) c (faultVa m c va bs.length)).writePieces m c va bs, false)
  | (s1, m, .poison _) => (s1.writePieces m c va bs, false)

/-- How a write of the running attempt goes: done, not known, a translation fault, poison met in a walk, or in the write itself. -/
inductive OpenWrite where
  | done
  | unread             -- the list of what to write cannot be read
  | fault (va : Nat)
  | walk (va : Nat)
  | trouble (t : Trouble)
  deriving DecidableEq, Repr

/-- Write bytes of the running attempt in context c: a protected page is written in the open epoch (R150). -/
def State.feWriteOpen (s : State) (c va : Nat) (bs : List Byte) : State × OpenWrite :=
  match s.xlateSpan c va bs.length true with
  | (s1, m, .ok _) =>
    match s1.vaWrite m c va bs [] with
    | (s2, .none) => (s2, .done)
    | (s2, t) => (s2, .trouble t)
  | (s1, m, .fault) =>
    (s1.xlatEvent (vaSector (faultVa m c va bs.length)) c (faultVa m c va bs.length), .fault (faultVa m c va bs.length))
  | (s1, m, .poison _) => (s1, .walk (faultVa m c va bs.length))

end Sys2Proof.Machine
end

