-- ==== Sys2Proof/Machine/LogStore.lean ====
section
/-!
DEFINITION. Sys2Proof/Machine/LogStore.lean: the persistent log section of the flash (15 R395), firmware events (R396), and
the bytes of a crash dump (14 R368).
-/

namespace Sys2Proof.Machine

def flashWrite (m : Store Byte) (a : Nat) : List Byte → Store Byte
  | [] => m
  | b :: bs => flashWrite (sset 0xFF m a b) (a + 1) bs

def blockMagic : Nat := 0x474C5050

/-- Take the next block: it is erased if it was used before, and gets its header. -/
def Firmware.newBlock (f : Firmware) : Firmware :=
  let base := logBase + 64 * f.flashPos
  let old := flashRead f.flash base 20
  let erased := if field old 0 4 = blockMagic then field old 16 4 + 1 else 0
  let hdr := leBytes 4 blockMagic ++ leBytes 4 0 ++ leBytes 8 f.bseq ++ leBytes 4 erased ++ leBytes 44 0
  { f with
    flash := flashWrite (sclear f.flash base (base + 65536)) base hdr, flashPos := f.flashPos + 1, bseq := f.bseq + 1 }

/-- Write one unit of 64 bytes. -/
def Firmware.putUnit (f : Firmware) (u : List Byte) : Firmware :=
  let f1 := if f.flashPos % 1024 = 0 then f.newBlock else f
  { f1 with flash := flashWrite f1.flash (logBase + 64 * f1.flashPos) (slice u 0 64), flashPos := (f1.flashPos + 1) % 262144 }

/-- Write an entry of some units, within 4,096 units a minute (R395). -/
def Firmware.persist (f : Firmware) (us : List (List Byte)) : Firmware :=
  let f1 := if f.minuteStart + 60000 ≤ f.ms then { f with minuteStart := f.ms, minuteUnits := 0 } else f
  if 4096 < f1.minuteUnits + us.length then { f1 with pdrop := satInc f1.pdrop }
  else us.foldl Firmware.putUnit { f1 with minuteUnits := f1.minuteUnits + us.length }

/-- The MGP writes an entry to the section; while it does not run the entry waits (R395, R375). -/
def State.save (s : State) (us : List (List Byte)) : State :=
  if s.procReady mgpIx then (s.modFw fun f => f.persist us).jot mgpIx
  else s.modFw fun f => { f with unsaved := f.unsaved ++ [us] }

/-- What waited for the MGP is written, in order of arrival. -/
def State.saveWaiting (s : State) : State :=
  match s.fw.unsaved with
  | [] => s
  | ws => (s.modFw fun f => ws.foldl Firmware.persist { f with unsaved := [] }).jot mgpIx

/-- R368. -/
def procBytes (i : Nat) (p : Bool × Bool × Latch) : List Byte :=
  leBytes 1 i ++ leBytes 1 ((if p.1 then 1 else 0) + (if p.2.1 then 2 else 0)) ++ leBytes 2 p.2.2.restarts.toNat ++
    leBytes 4 0 ++ leBytes 8 p.2.2.pc.toNat ++ leBytes 8 p.2.2.tcause.toNat ++ leBytes 8 p.2.2.status.toNat

def dumpBytes (d : Dump) (count : BitVec 32) : List Byte :=
  leBytes 4 0x504D5544 ++ leBytes 4 count.toNat ++ (d.last.flatMap fun c => leBytes 4 c.toNat) ++ leBytes 4 d.trig.toNat ++
    leBytes 32 0 ++ (List.range 12).flatMap fun i => procBytes i ((d.procs[i]?).getD (false, false, Latch.reset))

/-- A crash dump in the section: one entry whose CODE is TRIG and whose ARG[0] is 448, then the dump in seven units. What
else the entry holds is not stated (log 12). -/
def State.persistDump (s : State) (d : Dump) : State :=
  let (k, s1) := s.draw
  let free := Config.freeBytes "dump-entry" k
  let ent := slice free 0 12 ++ leBytes 4 d.trig.toNat ++ slice free 16 8 ++ leBytes 8 448 ++ slice free 32 32
  let bs := dumpBytes d s1.err.dumps
  s1.save (ent :: (List.range 7).map fun i => slice bs (64 * i) 64)

/-- A firmware event (R396); an ACT event goes to the persistent log too (R395), as an entry whose ARG begins with it (log 12). -/
def State.fwEvent (s : State) (kind idx slot us pc : Nat) : State :=
  let bs := leBytes 1 kind ++ leBytes 1 idx ++ leBytes 1 slot ++ leBytes 1 0 ++ leBytes 4 us ++
    leBytes 8 s.fw.active.fwver.toNat ++ leBytes 8 pc
  let s1 := s.event 0 0x04 bs
  if 2 ≤ kind then
    let (k, s2) := s1.draw
    let free := Config.freeBytes "act-entry" k
    s2.save [slice free 0 24 ++ bs ++ slice free 48 16]
  else s1

def slotCode (b : Bool) : Nat := if b then 1 else 0

/-- A chip reset in a handoff starts from the slot that the marker names, the MGP too where the new one was booting (R389). -/
def State.oldImage (s : State) : State :=
  if !s.newImage then s
  else
    let s1 : State := (List.range 11).foldl (fun (acc : State) i => acc.loadCore acc.fw.actSlot i) s
    match s.fw.handoff with
    | some (5, _) => { s1.loadImage s1.fw.actSlot [mgpIx] with mss := { s1.mss with sessions := [] } }
    | _ => s1

/-- A chip reset discards a pending activation, and ends a handoff (R386, R389). -/
def State.dropActivation (s : State) : State :=
  let s1 := match s.fw.pend with
    | some b => s.fwEvent 5 0xFF (slotCode b) 0 0
    | none => s
  (s1.modFw fun f => { f with pend := none, handoff := none, reverting := false }).jot mgpIx

end Sys2Proof.Machine
end

