-- ==== Sys2Proof/Machine/Ladder.lean ====
section
/-!
DEFINITION. Sys2Proof/Machine/Ladder.lean: the levels of the reset ladder (14 R348 to R359), their codes (R361 to R363),
crash dumps (R367, R368), containment (R355 to R358), and what the other modules enter it with (R349).
-/

namespace Sys2Proof.Machine

/-- R361. -/
def errCode (level cls inst cause : Nat) : BitVec 32 :=
  BitVec.ofNat 32 (level * 2 ^ 28 + cls % 256 * 2 ^ 20 + inst % 256 * 2 ^ 12 + cause % 2 ^ 12)

/-- The same cause at another level: CLASS and INST stay those of the original cause (R361). -/
def recode (code : BitVec 32) (level cause : Nat) : BitVec 32 :=
  errCode level (code.toNat / 2 ^ 20 % 256) (code.toNat / 2 ^ 12 % 256) cause

def codeLevel (code : BitVec 32) : Nat := code.toNat / 2 ^ 28

/-- A level that concerns no launch. -/
def noRun (code : BitVec 32) : LevelRun := ⟨code, 0xFF, 0, 0⟩

/-- The launch concerned, as recovery events name it (R364). -/
def State.levelRun (s : State) (code : BitVec 32) : LevelRun :=
  match s.running with
  | some l => ⟨code, l.ctx.setWidth 8, s.ep.att, l.seq⟩
  | none => noRun code

def State.recAt (s : State) (r : LevelRun) (flags us : Nat) : State :=
  s.recEvent r.code flags r.ctx r.att r.seq.toNat us

/-- An event recorded without a level (R356, R366). -/
def State.recOnly (s : State) (code : BitVec 32) : State := s.recAt (s.levelRun code) 0 0

def State.modErr (s : State) (f : ErrBlock → ErrBlock) : State := { s with err := f s.err }

/-- Assemble a crash dump from the always-on domain (R367, R368). -/
def State.assembleDump (s : State) (trig : BitVec 32) : State :=
  let procs := (List.range 12).map fun i =>
    let l := sget Latch.reset s.err.latches i
    let run := match (s.proc i).st with
      | .off | .notRecovered => false
      | _ => true
    (l.fired, run, l)
  let d : Dump := ⟨trig, (List.range 5).map fun i => sget 0 s.err.last (i + 1), procs⟩
  let s1 := s.modErr fun e =>
    { e with
      dump := d, dumps := satInc e.dumps
      latches := e.latches.map fun (p : Nat × Latch) => (p.1, { p.2 with fired := false }) }
  s1.persistDump d

/-- The start of a level: its code is latched and an event placed (R361, R364); the level's count rises (R370). -/
def State.startMark (s : State) (r : LevelRun) : State :=
  let lv := codeLevel r.code
  let s1 := s.modErr fun e =>
    let e1 := { e with last := sset 0 e.last lv r.code }
    if lv = 1 then { e1 with nCtxab := satInc e.nCtxab }
    else if lv = 2 then { e1 with nEng := satInc e.nEng }
    else if lv = 3 then { e1 with nSec := satInc e.nSec }
    else if lv = 4 then { e1 with nChip := satInc e.nChip } else e1
  s1.recAt r 1 0


/-- Is the running attempt one that a level fails: it has not sent PREPARE (R355, R357)? -/
def State.failable (s : State) : Bool :=
  match s.ep.st with
  | .running | .prepared => !s.ep.sent
  | _ => false

/-- The front end's ABORT_REQ when a level starts (R355), with the cause for the members. -/
def State.levelFault (s : State) (cause : BitVec 8) : State :=
  if s.failable then s.memberFault cause else s

/-- The running attempt has failed here (R356). -/
def State.attemptFailed (s : State) : Bool := s.ep.launch.isSome && s.ep.failedAtt == some s.ep.att

/-! ### Chip reset and power cycle -/

/-- The registers of the command ring that a chip reset restores (R472, R288). -/
def chipResetRegs : List Nat := [0x00, 0x08, 0x10, 0x20, 0x28, 0x30, 0x40]

def dropRegs (m : Store (BitVec 64)) (p : Nat → Bool) : Store (BitVec 64) := m.filter fun e => !p e.1

/-- The sector's on-die state is reset (R352 step 3): hummocks, caches, reduction units and counters; sluices homed there
become 0 with no waiter. HBM, records, map and keys survive, and a stack that has FAILED stays so (R217). -/
def State.sectorWipe (s : State) (x : Nat) : State :=
  let hums := s.hums.map fun p =>
    if secOf p.1 = x then
      (p.1, { Hummock.reset with power := .inReset, nextId := p.2.nextId, sealedLast := p.2.lastSealed, ue := p.2.ue })
    else p
  let s1 := { s with hums := hums, sluices := sclear s.sluices (4096 * x) (4096 * (x + 1)) }.unwait fun g => secOf g == x
  let s2 := s1.modMem fun m =>
    { m with
      chEcc := sclear m.chEcc (96 * x) (96 * (x + 1)), sramEcc := sdel m.sramEcc x
      rounds := m.rounds.filter fun r => dpaSector r.dpa != x
      contribs := m.contribs.filter fun c => dpaSector c.dpa != x
      scrub := sdel m.scrub x
      tlb := m.tlb.filter fun e => e.1 != x
      stackRegs := [0, 1, 2].foldl (fun acc k =>
        let r := sget stackReset acc (3 * x + k)
        match r.st with
        | .failed => acc
        | _ => sset stackReset acc (3 * x + k) { r with st := .srefReset }) m.stackRegs }
  let s3 := { s2 with regs := dropRegs s2.regs fun o => o = 0x830000 + 0x100000 * x ∨ o = 0x840028 + 0x100000 * x }
  s3.restartCore s3.fw.actSlot x

/-- A port is OFF, its buffers empty (R333). -/
def Port.off (x : Port) : Port := { x with ls := .off, dcause := 0, replay := [], inbuf := [], credits := [], width1 := false, noid := false }

/-- A port is taken to OFF; one that was draining is DRAINED at once (R328). -/
def State.portOff (s : State) (p : Nat) : State :=
  let x := s.port p
  if x.ds == .draining then
    (s.setPort p { x.off with ds := .drained }).linkEvent 5 p 0 0 (if x.pval then x.pid.toNat else 0x8000)
      (if x.pval then x.pport.toNat else 0xFF) 0
  else s.setPort p x.off

/-- The lower levels are abandoned (R358), and the core goes into the reset that run r names (R353); the state that survives
stays. -/
def State.coreReset (s : State) (r : LevelRun) (noHold : Bool) : State :=
    let s2 := s.modErr fun e =>
      { e with ctxab := none, engines := [], sectors := [], chip := some r, chipNoHold := noHold }
    let s3 := (s2.levelFault 1).oldImage
    let s4 : State := (List.range 8).foldl (fun acc x => acc.sectorWipe x) s3
    let s5 : State := [8, 9, 10].foldl (fun acc i => acc.restartCore acc.fw.actSlot i) s4
    let s6 := { s5 with
      regs := dropRegs s5.regs fun o => chipResetRegs.contains o
      fe := { s5.fe with
        head := 0, rplTail := 0, phase := true, rdblk := false, wrblk := false, heldReply := none, wait := none
        dbq := s5.fe.dbq.map fun d => (d.1, d.2.1, 0) }
      cip := { s5.cip with isOpen := s5.cip.isOpen ||| 0x100#10 } }
    let hold := (s6.reg 0x400010).getLsbD 0 && !noHold
    let s7 := if hold then s6 else allPorts.foldl (fun (acc : State) p => acc.portOff p) s6
    let s7 := { s7 with cwy := { s7.cwy with later := [], localdrop := satAdd s7.cwy.localdrop s7.cwy.later.length } }
    let s8 := { s7 with mss := { s7.mss with bist := [], mbBusy := s7.mss.mbBusy && !s7.mss.bist.any fun b => b.reply.path == Path.mailbox } }
    ((s8.modMem fun m => { m with invs := [] }).modEp fun e => { e with waitMsgs := [] }).dropActivation.contain.jot fepIx

/-- A level above chip reset runs or waits for the tray: it contains every other (R354, R358). -/
def State.beyond (s : State) : Bool := s.err.pcreq || s.err.halted

/-- Start a chip reset (R353); one that runs already takes the request in (R358). -/
def State.chipReset (s : State) (code : BitVec 32) (noHold : Bool) : State :=
  match s.err.chip with
  | some _ => s
  | none =>
   if s.beyond then s
   else
    let r := s.levelRun code
    ((s.startMark r).assembleDump code).coreReset r noHold

/-- Escalation beyond a chip reset (R354): the request to the tray, before which a dump is assembled (R367), or under PCEN = 0 a
halt, with the core held in reset. -/
def State.powerCycleReq (s : State) (code : BitVec 32) : State :=
 if s.beyond then s
 else
  let r := s.levelRun code
  let s1 := (s.startMark r).levelFault 1
  if (s1.reg 0x300008).getLsbD 0 then
    let s2 := (s1.assembleDump code).modErr fun e => { e with ctxab := none, engines := [], sectors := [], pcreq := true }
    { s2 with board := { s2.board with pwrcycN := false } }.emit (.pin 4 false)
  else
    let s2 := match s1.err.chip with
      | some _ => s1
      | none => s1.coreReset r false
    s2.modErr fun e => { e with halted := true }

/-! ### Sector reset -/

/-- A RESET that waits follows the level that continues or takes in its own (R283, R358): its DATA holds level code plus 256 times
the target. -/
def State.raiseWait (s : State) (level target level' target' : Nat) : State :=
  match s.fe.wait with
  | some r =>
    if r.opc = 0x23 && r.data.toNat == level + 256 * target then
      { s with fe := { s.fe with wait := some { r with data := BitVec.ofNat 128 (level' + 256 * target') } } }
    else s
  | none => s

/-- Sector x is reset under run r, whose code and launch its events name (R352, R364). -/
def State.sectorResetAs (s : State) (x : Nat) (r : LevelRun) : State :=
  match s.err.chip, s.sectorRun x with
  | some _, _ => s
  | _, some _ => s
  | none, none =>
   if s.beyond then s
   else
    let s1 := (s.startMark r).assembleDump r.code
    let s2 := s1.modErr fun e =>
      { e with
        sectors := sset none e.sectors x (some r)
        engines := sclear e.engines (12 * x) (12 * (x + 1)) }
    let s3 := ((List.range 12).foldl (fun (acc : State) h => acc.raiseWait 2 (12 * x + h) 3 x) s2).levelFault 1
    (s3.sectorWipe x).contain

def State.sectorReset (s : State) (x : Nat) (code : BitVec 32) : State := s.sectorResetAs x (s.levelRun code)

/-! ### Engine reset -/

/-- A launch holds hummock g, and it is the one that runs. -/
def State.heldRunning (s : State) (g : Nat) : Bool :=
  match s.ep.launch with
  | some id => (s.hum g).heldBy id
  | none => false

/-- Hummock g is reset under run r (R351, R364); the attempt fails where it holds the hummock. -/
def State.engineResetAs (s : State) (g : Nat) (r : LevelRun) : State :=
  match s.err.chip, s.sectorRun (secOf g), s.engineRun g with
  | none, none, none =>
   if s.beyond then s
   else
    let held := s.heldRunning g
    let s1 := (s.startMark r).modErr fun e => { e with engines := sset none e.engines g (some r) }
    let s2 := if held then s1.levelFault 1 else s1
    let s3 := s2.modHum g fun h =>
      { Hummock.reset with power := .inReset, nextId := h.nextId, sealedLast := h.lastSealed, ue := h.ue }
    (s3.unwait fun k => k == g).contain
  | _, _, _ => s

def State.engineReset (s : State) (g : Nat) (code : BitVec 32) : State :=
  s.engineResetAs g (if s.heldRunning g then s.levelRun code else noRun code)

/-! ### Context abort -/

/-- Start a context abort of the running attempt (R350) with the cause that goes to the members (R355). A hang or fault of an
attempt that has already failed takes no new level (R356), a request that a running level contains merges with it (R358), and
an attempt that has sent PREPARE is not failed (R357). -/
def State.contextAbort (s : State) (code : BitVec 32) (cause : BitVec 8) : State :=
  if s.attemptFailed && cause != 6 then s.recOnly code
  else if s.beyond then s
  else
    match s.err.ctxab, s.err.chip with
    | some _, _ => s
    | _, some _ => s
    | none, none =>
      let r := s.levelRun code
      let s1 := (s.startMark r).modErr fun e => { e with ctxab := some (s.runCtx, r) }
      let s2 := if s1.failable && (cause = 4 ∨ cause = 5 ∨ cause = 6) then s1.recordCause cause else s1
      -- the rollback waits for the level to complete: its hummocks stop first
      s2.levelFault cause

/-- The level that a hang enters (R345, R349). -/
def State.hangContext (s : State) (cls inst cause : Nat) : State := s.contextAbort (errCode 1 cls inst cause) 1

/-- A hummock's program fault (R175): the event of the front end's queue, the context abort, ABORT_REQ with cause 4. -/
def State.programFault (s : State) (g cause opc cls : Nat) (pc : BitVec 23) : State :=
  let h := s.hum g
  let lhum := match h.holder with
    | some x => x.lhum.toNat
    | none => 0x7F
  let s1 := s.event 1 0x10 (leBytes 1 cause ++ leBytes 1 opc ++ leBytes 1 lhum ++ leBytes 1 0 ++
    leBytes 4 pc.toNat ++ leBytes 8 s.runSeq)
  let s2 := s1.contextAbort (errCode 1 cls g (0x100 + cause)) 4
  (s2.modHum g fun h => { h.stop with seq := { h.stop.seq with st := .faulted } }).unwait fun k => k == g

/-- Data lost in committed or unprotected data (R226): the launch ends DATA_LOST on every member. -/
def State.dataLost (s : State) (cls inst : Nat) : State := s.contextAbort (errCode 1 cls inst 0x010) 5

/-- Poisoned data in an open frame or on-die SRAM (R226): the launch is replayed. -/
def State.poisoned (s : State) (cls inst : Nat) : State := s.contextAbort (errCode 1 cls inst 0x011) 1

/-- A hummock's SRAM has reported an uncorrectable error: the second within the attempts of one launch withholds the
hummock until its memory BIST matches (09 R226). -/
def State.sramUe (s : State) (k : Nat) : State :=
  match (s.hum k).holder with
  | none => s
  | some x =>
    if (s.hum k).ue == some x.launch then
      { s with mss := { s.mss with withheldUe := s.mss.withheldUe ||| 1#96 <<< k } }
    else s.modHum k fun h => { h with ue := some x.launch }

/-- What a station does with trouble of an access (R226, R242, R505): hummock g stops issuing. -/
def State.onTrouble (s : State) (g cls : Nat) (t : Trouble) : State :=
  let stop (x : State) : State := (x.modHum g fun h => h.stop).unwait fun k => k == g
  match t with
  | .none => s
  | .poisoned _ true => stop (s.dataLost cls g)
  | .poisoned _ false => stop (s.poisoned cls g)
  | .copyPoison d => stop (s.dataLost 0x10 (dpaSector d))

/-- A firmware processor enters the ladder (R359). -/
def State.fwNotRecovered (s : State) (i : Nat) : State :=
  if i < 8 then s.sectorReset i (errCode 3 0x20 i 0x030)
  else if i = 8 then s.chipReset (errCode 4 0x21 8 0x030) false
  else if i = 9 then s.chipReset (errCode 4 0x22 9 0x030) false
  else if i = 10 then s.chipReset (errCode 4 0x23 10 0x030) false
  else s

end Sys2Proof.Machine
end

