-- ==== Sys2Proof/Machine/Sluices.lean ====
section
/-!
DEFINITION. Sys2Proof/Machine/Sluices.lean: wake events (07 R171, R509; 17 R437, R438) and sluices: a context's range, a
signal at its home, and the waiters served in order (R176 to R181).
-/

namespace Sys2Proof.Machine

/-- Raise a wake request for a Gated hummock, once, of class 1 or 2 (R437, R438). One that stands already takes the higher class
(R509). -/
def State.requestWake (s : State) (g : Fin 96) (cls1 : Bool) : State :=
  let up (w : WakeReq) : WakeReq := if w.g == g then { w with cls1 := w.cls1 || cls1 } else w
  let asked := s.pwc.wakeQ.any (fun w => w.g == g) || s.pwc.granted.any fun w => w.g == g
  let q := if asked then s.pwc.wakeQ.map up else s.pwc.wakeQ ++ [⟨g, cls1⟩]
  let s1 := { s with pwc := { s.pwc with wakeQ := q, granted := s.pwc.granted.map up } }
  s1.jot (secOf g)

/-- A wake event at hummock g (R171): Still resumes at the next instruction, Gated asks for a token. -/
def State.wakeEvent (s : State) (g : Fin 96) : State :=
  match (s.hum g).power with
  | .still => s.modHum g fun h => { h with power := .running, seq := { h.seq with st := .issuing } }
  | .gated => s.requestWake g (s.hum g).holder.isSome
  | _ => s

/-- Physical sluice of a relative one in a context's range; none outside it (R178). -/
def State.sluiceOf (s : State) (c rel : Nat) : Option Nat :=
  let x := s.ctx c
  if rel < x.sluCount.toNat then some (x.sluBase.toNat + rel) else none

/-- The sequencer of hummock g goes on after its WAIT (R177). -/
def Hummock.resume (h : Hummock) : Hummock :=
  { h with seq := { h.seq with st := .issuing, stall := none } }

/-- Serve the waiters at the head while their thresholds are met (R177); `fuel` is at least their number. -/
def State.serve (s : State) (n : Nat) : Nat → State
  | 0 => s
  | fuel + 1 =>
    let x := s.sluice n
    match x.waiters with
    | [] => s
    | w :: rest =>
      if w.thr.toNat ≤ x.count.toNat then
        let x' := { x with count := if w.cons then x.count - w.thr else x.count, waiters := rest }
        let s1 := s.setSluice n x'
        let s2 := match w.hum with
          | some g => s1.modHum g Hummock.resume
          | none => s1
        State.serve s2 n fuel
      else s

def State.serveAll (s : State) (n : Nat) : State := s.serve n ((s.sluice n).waiters.length)

/-- A signal to sluice n is a wake event for each hummock whose WSLU names it (R171). -/
def State.wakeBySluice (s : State) (n : Nat) : State :=
  (List.finRange 96).foldl (fun (acc : State) (g : Fin 96) =>
    let h := acc.hum g
    match h.holder with
    | some x => if h.wsen && acc.sluiceOf x.ctx.toNat h.wslu.toNat == some n then acc.wakeEvent g else acc
    | none => acc) s

/-- Add inc to physical sluice n and serve its waiters; the Bool says that the count would have passed 2^32 - 1
(R176). -/
def State.addSluice (s : State) (n inc : Nat) : State × Bool :=
  let x := s.sluice n
  let ovf : Bool := 2 ^ 32 ≤ x.count.toNat + inc
  let s1 := s.setSluice n { x with count := satAdd x.count inc }
  ((s1.serveAll n).wakeBySluice n, ovf)

/-- A signal outside the context's range is ignored and counted (R178). -/
def State.violSluice (s : State) : State := { s with fe := { s.fe with violSluice := satInc s.fe.violSluice } }

end Sys2Proof.Machine
end

