-- ==== Sys2Proof/Machine/Fabric.lean ====
section
/-!
DEFINITION. Sys2Proof/Machine/Fabric.lean: the Causeway's packets, routing, links, ports and tables
(13_causeway_fabric.md R315 to R341), and what a packet does at its destination (R318 to R320).
-/

namespace Sys2Proof.Machine

/-! ### Packets at their destination -/

def State.modCwy (s : State) (f : Fabric → Fabric) : State := { s with cwy := f s.cwy }

def State.countMalf (s : State) : State := s.modCwy fun c => { c with malf := satInc c.malf }
def State.countStale (s : State) : State := s.modCwy fun c => { c with stale := satInc c.stale }

/-- The virtual channel of a packet type (R318); none for a reserved type. -/
def vcOfType (t : BitVec 8) : Option (BitVec 2) :=
  if t = 0x01 ∨ t = 0x02 ∨ t = 0x03 then some 0
  else if t = 0x08 then some 1
  else if t = 0x10 then some 2
  else if t = 0x18 then some 3
  else none

/-- R318, R400. -/
def malformed (p : Packet) : Bool :=
  vcOfType p.type != some p.vc || p.flagRsvd || 2 ^ 56 ≤ p.addr.toNat || 4096 < p.len.toNat || p.payload.length != p.len.toNat ||
    (p.type == 0x18 && !(4 ≤ p.len.toNat && p.len.toNat ≤ 1028 && p.ctx == 0 && p.att == 0 && p.epoch == 0 &&
      p.xidx == 0 && p.xid == 0 && p.slu == 0 && p.addr == 0))

/-- Signed difference of a packet's EPOCH and the open epoch (R320). -/
def State.epochDiff (s : State) (p : Packet) : Int := (p.epoch - s.openEpoch.setWidth 32).toInt

inductive Freshness where
  | stale | now | later
  deriving DecidableEq, Repr

/-- R320, and R355 for an attempt that has failed here: from its rollback on, what carries it is discarded. -/
def State.freshness (s : State) (p : Packet) : Freshness :=
  let d := s.epochDiff p
  if d < 0 then .stale
  else if 0 < d then .later
  else
    let a := s.lastAtt.toNat
    if p.att.toNat < a then .stale
    else if a < p.att.toNat then (if s.actedOn p.att then .stale else .later)
    else match s.ep.st with
      | .running | .prepared | .doubt => if s.ep.contained then .stale else .now
      | _ => .stale

/-- One ACK on VC1 to the source of a transfer (R319). -/
def State.sendAck (s : State) (dst : BitVec 15) (xid : BitVec 16) (status : Nat) : State :=
  s.inject { s.ownPacket 0x08 1 dst with xid := xid, addr := BitVec.ofNat 64 status }

def sameXfer (src : BitVec 15) (xid : BitVec 16) (t : Inbound) : Bool := t.src == src && t.xid == xid

def State.setXfer (s : State) (t : Inbound) : State :=
  s.modCwy fun c => { c with inbound := (c.inbound.filter fun x => !sameXfer t.src t.xid x) ++ [t] }

def State.dropXfer (s : State) (src : BitVec 15) (xid : BitVec 16) : State :=
  s.modCwy fun c => { c with inbound := c.inbound.filter fun x => !sameXfer src xid x }

/-- A signal from another device or from the end of a transfer (R179). A count carried beyond 2^32 - 1 is a program fault
that no hummock of this device raised (log 14). -/
def State.remoteSignal (s : State) (c rel inc : Nat) : State :=
  match s.sluiceOf c rel with
  | none => s.violSluice
  | some n =>
    let (s1, ovf) := s.addSluice n inc
    if ovf then
      (s1.event 1 0x10 (leBytes 1 6 ++ leBytes 1 0x30 ++ leBytes 1 0x7F ++ leBytes 5 0 ++ leBytes 8 s1.runSeq)).contextAbort
        (errCode 1 0x30 0 0x106) 4
    else s1

/-- The transfer is complete: its signal, then its ACK (R319). -/
def State.endXfer (s : State) (t : Inbound) : State :=
  let s1 := s.dropXfer t.src t.xid
  let s2 := if t.sig then s1.remoteSignal t.ctx.toNat t.slu.toNat 1 else s1
  s2.sendAck t.src t.xid 0

/-- Bytes of a contribution format (R111, R128). -/
def contribBytes (code : BitVec 4) : Nat :=
  if code = 5 ∨ code = 6 then 2 else if code = 7 then 4 else if code = 8 then 8 else 0

/-- Elements that a REDUCE packet carries (R318): an Ordered packet's payload begins with 8 bytes of XQ. -/
def reduceCount (p : Packet) : Nat :=
  let b := contribBytes (p.addr.extractLsb' 52 4)
  if b = 0 then 0 else (p.payload.length - if p.ord then 8 else 0) / b

/-- The contributions of a REDUCE packet (R318, R128): one per element, to consecutive binary32 targets. -/
def State.packetContribs (s : State) (p : Packet) (m : List TlbEntry) : List Contrib :=
  let code : BitVec 4 := p.addr.extractLsb' 52 4
  let va := p.addr.toNat % 2 ^ 52
  let xq := BitVec.ofNat 64 (field p.payload 0 8)
  let body := if p.ord then p.payload.drop 8 else p.payload
  let b := contribBytes code
  let one (i : Nat) : Contrib :=
    let a := (va + 4 * i) % 2 ^ 52
    { src := none, xfer := some (p.src, p.xid), ctx := p.ctx, va := BitVec.ofNat 52 a
      dpa := elemDpa (leafAt m p.ctx.toNat a) a
      code := code, bits := BitVec.ofNat 64 (field body (b * i) b), ordered := p.ord
      q := xq.extractLsb' 0 15, p := (xq.extractLsb' 16 16).setWidth 17, round := xq.extractLsb' 32 32
      launch := s.ep.launch.getD 0, att := p.att, epoch := s.openEpoch
      mode := match s.running with
        | some l => l.mode
        | none => 0
      tag := Config.reduceTag p.ctx (BitVec.ofNat 52 a), leaf := leafAt m p.ctx.toNat a }
  (List.range (reduceCount p)).map one

/-! ### The ordered reduction buffer (09 R235; 05 R128, R129) -/

def sameElem (d : Nat) (r : Round) : Bool := r.dpa == d

/-- What a unit does with an Ordered contribution before it looks for room (R129). -/
inductive Verdict where
  | discard | refuse | hold
  deriving DecidableEq, Repr

/-- R129 settles a differing P, and a second contribution of one q, for an open round; for a round held and not yet open the model
does the same, which is its choice (log 117). -/
def State.verdict (s : State) (c : Contrib) : Verdict :=
  let rs := s.mem.rounds.filter (sameElem c.dpa)
  let late : Bool := match sget none s.mem.closed c.dpa with
    | some n => c.round.toNat ≤ n.toNat
    | none => false
  if late then .discard
  else
    match rs.find? fun r => r.round == c.round with
    | some r => if r.p != c.p then .refuse else if r.parts.any fun p => p.1 == c.q then .discard else .hold
    | none => if rs.any fun r => r.opened.isSome && decide (c.round.toNat < r.round.toNat) then .refuse else .hold

/-- The round and the 32-byte unit that a contribution falls in. -/
def Contrib.unit (c : Contrib) : BitVec 32 × Nat := (c.round, c.dpa / 32)

/-- The rounds and 32-byte units of a sector's open rounds. -/
def State.openUnits (s : State) (x : Nat) : List (BitVec 32 × Nat) :=
  ((s.mem.rounds.filter fun r => r.opened.isSome && dpaSector r.dpa == x).map fun r => (r.round, r.dpa / 32)).eraseDups

/-- Bytes of a sector's buffer in use (R235): 8 per buffered contribution, and 16 per open round and 32-byte unit. -/
def State.orbUse (s : State) (x : Nat) : Nat :=
  (s.mem.rounds.filter fun r => dpaSector r.dpa == x).foldl (fun n r => n + 8 * r.parts.length) 0 + 16 * (s.openUnits x).length

/-- A contribution that opens its round when it is taken: no round of its element has its number or a lower one (R128). -/
def State.opensRound (s : State) (c : Contrib) : Bool :=
  s.mem.rounds.all fun r => !sameElem c.dpa r || decide (c.round.toNat < r.round.toNat)

/-- Bytes that contributions to sector x take: 8 each, and 16 for each round and unit that they open. -/
def State.orbNeeds (s : State) (x : Nat) (cs : List Contrib) : Nat :=
  8 * cs.length +
    16 * (((cs.filter s.opensRound).map Contrib.unit).eraseDups.filter fun u => !(s.openUnits x).contains u).length

/-- The buffer of sector x has room for these contributions. -/
def State.orbFits (s : State) (x : Nat) (cs : List Contrib) : Bool :=
  s.orbUse x + s.orbNeeds x cs ≤ (s.orbOf x).frames.toNat * frameBytes

/-- The buffer has room for a contribution. -/
def State.orbRoom (s : State) (c : Contrib) : Bool := s.orbFits (dpaSector c.dpa) [c]

/-- A contribution that its unit would hold in sector x's buffer. -/
def State.forOrb (s : State) (x : Nat) (c : Contrib) : Bool :=
  c.ordered && dpaSector c.dpa == x && s.verdict c == .hold

/-- A Fast contribution waits while a round of its element is open (R129). -/
def State.behindRound (s : State) (c : Contrib) : Bool :=
  !c.ordered && s.mem.rounds.any fun r => sameElem c.dpa r && r.opened.isSome

/-- The first contribution of these that needs sector x's buffer finds no room behind those of earlier packets: a packet is taken
while those before it fit (01 R19; log 147). -/
def State.orbLacks (s : State) (x : Nat) (cs : List Contrib) : Bool :=
  match cs.find? (s.forOrb x) with
  | none => false
  | some c => !s.orbFits x ((s.mem.contribs.filter fun k => k.xfer.isSome && s.forOrb x k) ++ [c])

/-- The transfer that a packet continues, or the gap (R319): none when the packet is to be discarded. -/
def State.trackXfer (s : State) (p : Packet) : State × Option Inbound :=
  match s.cwy.inbound.find? (sameXfer p.src p.xid) with
  | none =>
    if p.xidx = 0 then
      (s, some ⟨p.src, p.xid, 0, false, false, 0, p.ctx, p.sig, p.slu, p.att, false⟩)
    else
      let s1 := s.modCwy fun c => { c with gap := satInc c.gap }
      let s2 := s1.linkEvent 4 0xFF 0 0 p.src.toNat 0xFF (p.xid.toNat)
      (s2.setXfer ⟨p.src, p.xid, p.xidx, true, false, 0, p.ctx, false, 0, p.att, false⟩, none)
  | some t =>
    if t.bad || t.xlatErr then (s, none)
    else if p.xidx = t.next then (s, some t)
    else if t.next.toNat < p.xidx.toNat then
      let s1 := s.modCwy fun c => { c with gap := satInc c.gap }
      let s2 := s1.linkEvent 4 0xFF 0 0 p.src.toNat 0xFF (p.xid.toNat + 65536 * t.next.toNat)
      (s2.setXfer { t with bad := true }, none)
    else (s, none)

/-- After a packet of a transfer has been applied: expect the next, and end the transfer when all is done. -/
def State.advanceXfer (s : State) (t : Inbound) (p : Packet) (more : Nat) : State :=
  let t1 := { t with
    next := p.xidx + 1, lastSeen := t.lastSeen || p.last, left := t.left + more
    sig := t.sig || p.sig, slu := if p.sig then p.slu else t.slu }
  if t1.lastSeen && t1.left = 0 then (s.setXfer t1).endXfer t1 else s.setXfer t1

/-- The destination answers a translation fault of an inbound request (R222). -/
def State.xferFault (s : State) (t : Inbound) (p : Packet) (va : Nat) : State :=
  let s1 := s.xlatEvent (vaSector va) p.ctx.toNat va
  (s1.setXfer { t with xlatErr := true }).sendAck p.src p.xid 1

/-- The member treats poison that an inbound request met (R505, R242). -/
def State.inboundTrouble (s : State) (t : Trouble) (va : Nat) : State :=
  match t with
  | .none => s
  | .poisoned _ _ => s.dataLost 0x11 (vaSector va)
  | .copyPoison d => s.dataLost 0x10 (dpaSector d)

/-- WRITE at its destination (R318, R319). -/
def State.takeWrite (s : State) (p : Packet) : State :=
  let (s0, tr) := s.trackXfer p
  match tr with
  | none => s0
  | some t =>
    let va := p.addr.toNat % 2 ^ 52
    match s0.xlateSpan p.ctx.toNat va p.payload.length true with
    | (s1, m, .ok _) =>
      let (s2, tb) := s1.vaWrite m p.ctx.toNat va p.payload []
      match tb with
      | .none => s2.advanceXfer t p 0
      | _ => (s2.setXfer { t with bad := true }).inboundTrouble tb va
    | (s1, m, .fault) => s1.xferFault t p (faultVa m p.ctx.toNat va p.payload.length)
    | (s1, _, .poison d) => (s1.setXfer { t with bad := true }).inboundTrouble (.poisoned d true) va

/-- The target bytes of a WRITE or REDUCE packet, translated as its destination translates them. -/
def State.packetSpan (s : State) (p : Packet) : State × List TlbEntry × Xlat :=
  s.xlateSpan p.ctx.toNat (p.addr.toNat % 2 ^ 52) (if p.type == 0x01 then p.payload.length else 4 * reduceCount p) true

/-- REDUCE at its destination: its contributions are on their way to their units (R318, R111, R128). -/
def State.takeReducePkt (s : State) (p : Packet) : State :=
  let (s0, tr) := s.trackXfer p
  match tr with
  | none => s0
  | some t =>
    let va := p.addr.toNat % 2 ^ 52
    let n := reduceCount p
    match s0.xlateSpan p.ctx.toNat va (4 * n) true with
    | (s1, m, .ok _) =>
      (s1.modMem fun mm => { mm with contribs := mm.contribs ++ s1.packetContribs p m }).advanceXfer t p n
    | (s1, m, .fault) => s1.xferFault t p (faultVa m p.ctx.toNat va (4 * n))
    | (s1, _, .poison d) => (s1.setXfer { t with bad := true }).inboundTrouble (.poisoned d true) va

/-- ACK: the CSEND whose transfer it ends may retire, or faults with TRANSLATION (R319, R222). -/
def State.takeAck (s : State) (p : Packet) : State :=
  match s.cwy.outbound.find? fun o => o.xid == p.xid && o.dst == p.src with
  | none => s
  | some o =>
    let s1 := s.modCwy fun c => { c with outbound := c.outbound.filter fun x => !(x.xid == o.xid && x.dst == o.dst) }
    let status := p.addr.toNat % 4
    let h := s1.hum o.hum
    match h.unret.find? fun i => i.id == o.id with
    | none => s1
    | some i =>
      if status = 0 then
        s1.setHum o.hum { h with unret := h.unret.map fun j =>
          if j.id == o.id then { j with outstanding := 0, phase := .done } else j }
      else s1.programFault o.hum (if status = 1 then 7 else 2) 0x70 0x06 i.pc

/-- The commit message in a payload (R252); none for a reserved TYPE. -/
def parseMsg (bs : List Byte) : Option (MsgType × CommitMsg) :=
  let m : CommitMsg :=
    { info := BitVec.ofNat 8 (field bs 1 1), acause := BitVec.ofNat 8 (field bs 2 1), att := BitVec.ofNat 16 (field bs 4 2)
      cntm1 := BitVec.ofNat 16 (field bs 6 2), mepoch := BitVec.ofNat 64 (field bs 8 8)
      epoch := BitVec.ofNat 64 (field bs 16 8), src := BitVec.ofNat 15 (field bs 24 2) }
  match field bs 0 1 with
  | 1 => some (.prepare, m)
  | 2 => some (.commit, m)
  | 3 => some (.abort, m)
  | 4 => some (.abortReq, m)
  | 5 => some (.query, m)
  | 6 => some (.answer, m)
  | _ => none

/-- The bytes of one MCTP packet of a message on a binding (19 R486; 16 R400). An object of a DOE mailbox is not cut. -/
def mctpUnit (b : Binding) (len : Nat) : Nat :=
  match b with
  | .smbus | .i3c => 64
  | .pcie => 64 + Config.pcieUnit % 961
  | .causeway _ => 1024
  | .doe => Nat.max 1 len

/-- A message cut into transmission units. -/
def mctpUnits (b : Binding) (msg : List Byte) : List (List Byte) :=
  let n := mctpUnit b msg.length
  (List.range ((msg.length + n - 1) / n)).map fun i => (msg.drop (n * i)).take n

/-- The flags of the k-th of n packets of a message: SOM, EOM and the sequence of DSP0236 (log 148). -/
def mctpFlags (k n : Nat) : Nat := 128 * (if k = 0 then 1 else 0) + 64 * (if k + 1 = n then 1 else 0) + 16 * (k % 4)

/-- MGMT packets that carry a message to a device, one MCTP packet each (16 R400). -/
def State.mgmtPackets (s : State) (dst : BitVec 15) (msg : List Byte) : List Packet :=
  let us := mctpUnits (.causeway dst) msg
  us.zipIdx.map fun u =>
    let pl := leBytes 3 1 ++ leBytes 1 (mctpFlags u.2 us.length) ++ u.1
    { s.ownPacket 0x18 3 dst with ctx := 0, att := 0, epoch := 0, len := BitVec.ofNat 13 pl.length, payload := pl }

/-- A response on a binding. One for another device leaves as MGMT packets (16 R400), and one for the host is lost while the link is
down (19 R482) or its function in D3hot (R476); on I3C an in-band interrupt says that a packet is ready (R485). -/
def State.respond (s : State) (b : Binding) (msg : List Byte) : State :=
  match b with
  | .causeway d => (s.mgmtPackets d msg).foldl State.inject s
  | .smbus => { s with out := s.out ++ (mctpUnits b msg).map (Out.mctp b) }
  | .i3c => { s with out := s.out ++ (mctpUnits b msg).flatMap fun u => [.ibi, .mctp b u] }
  | .pcie | .doe => if s.link.up && (b == .doe || !s.link.d3) then { s with out := s.out ++ (mctpUnits b msg).map (Out.mctp b) } else s

/-- The MGP returns a reply that came over the Causeway to the binding whose relay it answers, and forgets the relay with the packet
that ends the reply (19 R487). Any other MGMT packet is a request of the device that sent it, whose message comes as its own command
with the binding .causeway (log 21). -/
def State.takeMgmt (s : State) (p : Packet) : State :=
  match s.mss.relays.find? fun r => r.dst == p.src with
  | none => { s with mss := { s.mss with askers := p.src :: s.mss.askers.erase p.src } }
  | some r =>
    let ends := (field p.payload 3 1).testBit 6
    let s1 := if ends then { s with mss := { s.mss with relays := s.mss.relays.erase r } } else s
    s1.respond r.binding ([r.eid] ++ leBytes 4 0x0001B7A4 ++ leBytes 2 p.src.toNat ++ p.payload)

/-- A VC0 or VC1 packet whose epoch and attempt match the running attempt is applied; VC2 and VC3 always. -/
def State.applyPacket (s : State) (p : Packet) : State :=
  if p.type = 0x01 then s.takeWrite p
  else if p.type = 0x02 then s.takeReducePkt p
  else if p.type = 0x03 then s.remoteSignal p.ctx.toNat p.slu.toNat (p.addr.toNat % 65536)
  else if p.type = 0x08 then s.takeAck p
  else if p.type = 0x10 then
    match parseMsg p.payload with
    | some (t, m) => s.takeMsg t m
    | none => s
  else s.takeMgmt p

/-- Transfers in progress: those neither cut by a gap nor ended by a translation fault (R319). -/
def Fabric.tracking (c : Fabric) : Nat := c.inbound.countP fun t => !t.bad && !t.xlatErr

/-- R319: a first packet waits while 1,024 transfers are tracked, and the packets behind it with it. -/
def State.xferWaits (s : State) (p : Packet) : Bool :=
  (p.type == 0x01 || p.type == 0x02) && (s.cwy.inbound.find? (sameXfer p.src p.xid)).isNone &&
    (if p.xidx = 0 then decide (1024 ≤ s.cwy.tracking) else s.cwy.later.any fun x => x.src == p.src && x.xid == p.xid)

/-- A WRITE or a REDUCE whose target is a frame that is being zeroed, a page that is being copied, or in a sector in reset, stalls
(R232, R242; 14 R352); so does a REDUCE that its reduction unit cannot take in (05 R129; 01 R19). -/
def State.targetBusy (s : State) (p : Packet) : Bool :=
  (p.type == 0x01 || p.type == 0x02) && match s.packetSpan p with
    | (_, m, .ok _) =>
      s.framesBusy m || (p.type == 0x02 &&
        ((s.packetContribs p m).any s.behindRound || (List.range 8).any fun x => s.orbLacks x (s.packetContribs p m)))
    | _ => false

/-- A packet that waits at this device, by handshake in its input buffer: for its epoch and attempt, for one of the 1,024 tracked
transfers, for the frame that it writes, or for its reduction unit (R319, R320). -/
def State.waitsHere (s : State) (p : Packet) : Bool :=
  !malformed p && s.err.chip.isNone && (p.vc == 0 || p.vc == 1) &&
    match s.freshness p with
    | .stale => false
    | .later => true
    | .now => s.xferWaits p || s.targetBusy p

/-- One packet that this device takes from its buffer (R318, R319, R320, R340). -/
def State.takePacket (s : State) (p : Packet) : State :=
  if malformed p then s.countMalf
  else if s.err.chip.isSome then s.modCwy fun c => { c with localdrop := satInc c.localdrop }
  else if p.vc = 0 ∨ p.vc = 1 then
    match s.freshness p with
    | .stale => s.countStale
    | _ => s.applyPacket p
  else s.applyPacket p

/-- One packet that comes by a row of its own, not through a port's buffer: it waits in a list (log 95). -/
def State.deliverOne (s : State) (p : Packet) : State :=
  if s.waitsHere p then s.modCwy fun c => { c with later := c.later ++ [p] } else s.takePacket p

/-- Packets that waited in the list for the epoch and attempt now running, for a tracked transfer to end, for a frame, or for a unit,
are taken again (R320, R319). -/
def State.releaseLater (s : State) : State :=
  let ps := s.cwy.later
  ps.foldl (fun acc p => acc.deliverOne p) (s.modCwy fun c => { c with later := [] })

/-- What waited for a place among the 1,024 tracked transfers is taken once `t`, reached from `s`, has one (R319). -/
def State.freed (t s : State) : State :=
  if 1024 ≤ s.cwy.tracking ∧ t.cwy.tracking < 1024 then t.releaseLater else t

def State.deliver (s : State) (p : Packet) : State := (s.deliverOne p).freed s

/-! ### Routing (R322 to R324) -/

def portCtl (p : Nat) : Nat := 0x410000 + 0x1000 * p
def State.portEn (s : State) (p : Nat) : Bool := (s.reg (portCtl p)).getLsbD 0
def State.portDrn (s : State) (p : Nat) : Bool := (s.reg (portCtl p)).getLsbD 1
def State.portUp (s : State) (p : Nat) : Bool := (s.port p).ls == .up

/-- Coordinate of a dimension, and its size in force (R315). -/
def coordOf (id d : Nat) : Nat := id / 2 ^ (4 * d) % (if d = 3 then 8 else 16)
def State.sizeOf (s : State) (d : Nat) : Nat := coordOf s.cwy.sizes.toNat d + 1

/-- Port 4d + j, j < 2, is plus d; 4d + 2 + j is minus d (R316). -/
def portDim (p : Nat) : Nat := p / 4
def portPlus (p : Nat) : Bool := p % 4 < 2

/-- Does a hop through port p cross its dimension's dateline (R322)? -/
def State.dateline (s : State) (p : Nat) : Bool :=
  let d := portDim p
  let c := coordOf s.ownId.toNat d
  if portPlus p then c + 1 == s.sizeOf d else c == 0

/-- The class rule of a route entry (R322); no ingress: injected here. -/
def State.classRule (s : State) (ingress : Option Nat) (p : Nat) (cls : Bool) (rule : Nat) : Bool :=
  if rule = 0 then
    let base := match ingress with
      | some i => if portDim i = portDim p then cls else false
      | none => false
    base || s.dateline p
  else if rule = 1 then true
  else if rule = 2 then false
  else cls

def creditKey (vc : BitVec 2) (cls : Bool) : Nat := 2 * vc.toNat + (if cls then 1 else 0)

def Port.vcOf (x : Port) (v : Nat) : VcCount := sget VcCount.reset x.vcs v
def Port.setVc (x : Port) (v : Nat) (c : VcCount) : Port := { x with vcs := sset VcCount.reset x.vcs v c }

/-- The egress that R324 chooses: discard counters, delivery, wait, or a port. -/
inductive Route where
  | noroute | here | hoplim
  | lost (p : Nat)
  | wait (p : Nat)
  | out (p rule : Nat)
  deriving DecidableEq, Repr

def State.lookup (s : State) (k : Packet) : Route :=
  let e := s.routeOf k.dst
  if !e.getLsbD 8 then .noroute
  else if e.getLsbD 9 then .here
  else if k.hops = 0 then .hoplim
  else
    let pa := (e.extractLsb' 0 4).toNat
    let pb := (e.extractLsb' 4 4).toNat
    let odd := ((k.src.setWidth 16) ^^^ k.xid).getLsbD 0
    let p0 := if odd then pb else pa
    let alt := if odd then pa else pb
    let p := if !s.portUp p0 && s.portUp alt then alt else p0
    if !s.portUp p then .lost p
    else if s.portDrn p then .wait p
    else .out p (e.extractLsb' 10 2).toNat

def State.countLost (s : State) (p n : Nat) : State := s.modPort p fun x => { x with lost := satAdd x.lost n }

def State.portGcm (s : State) (p : Nat) : Bool := (s.reg (portCtl p)).getLsbD 3

def bit1 (b : Bool) (i : Nat) : Nat := if b then 2 ^ i else 0

/-- The 32-byte header of a packet (R317). -/
def packetHeader (k : Packet) : List Byte :=
  [k.type] ++ leBytes 1 (k.vc.toNat + bit1 k.cls 2 + bit1 k.last 3 + bit1 k.sig 4 + bit1 k.ord 5 + bit1 k.enc 6) ++
    leBytes 2 k.len.toNat ++ leBytes 2 k.dst.toNat ++ leBytes 2 k.src.toNat ++ leBytes 1 k.ctx.toNat ++ [k.hops] ++
    leBytes 2 k.att.toNat ++ leBytes 4 k.epoch.toNat ++ leBytes 4 k.xidx.toNat ++ leBytes 2 k.xid.toNat ++ leBytes 2 k.slu.toNat ++
    leBytes 8 k.addr.toNat

/-- A packet as it goes on the wire. -/
def packetBytes (k : Packet) : List Byte := packetHeader k ++ k.payload

/-- The key of a port with its salt; a port to which none was given runs with zeros (log 119). -/
def Port.gcmKey (x : Port) : List Byte := leBytes 64 (x.key.getD 0).toNat

/-- The IV of a frame: the salt, then the frame counter of its direction (16 R419). -/
def Port.gcmIv (x : Port) (n : BitVec 64) : List Byte := slice x.gcmKey 32 4 ++ leBytes 8 n.toNat

/-- A packet with its payload enciphered, or deciphered, as the n-th frame of a direction. -/
def Port.gcm (x : Port) (n : BitVec 64) (k : Packet) : Packet :=
  { k with payload := gcmCtr (x.gcmKey.take 32) (x.gcmIv n) k.payload }

/-- The tag over the header and the enciphered payload. -/
def Port.tagOf (x : Port) (n : BitVec 64) (k : Packet) : List Byte :=
  gcmTag (x.gcmKey.take 32) (x.gcmIv n) (packetHeader k) k.payload

/-- Bytes of the replay buffer, and their bound (R331). -/
def Port.replayBytes (x : Port) : Nat := x.replay.foldl (fun n f => n + 32 + f.pkt.payload.length) 0
def replayBound : Nat := 131072

/-- Start a packet on a port in one link frame, which stays in the replay buffer as it is sent (R331); GCM under R419. -/
def State.sendFrame (s : State) (p : Nat) (k : Packet) : State :=
  if h : p < 16 then
    let x := s.port p
    let on := s.portGcm p
    let c := x.vcOf k.vc.toNat
    let x1 := (x.setVc k.vc.toNat { c with txp := satInc c.txp, txb := satAdd c.txb k.payload.length })
    let key := creditKey k.vc k.cls
    let w := if on then x.gcm x.frames k else k
    let f : Frame := { seq := x.txSeq, resent := 0, pkt := w, crc := crc32c (packetBytes w), tag := if on then x.tagOf x.frames w else [] }
    let x2 := { x1 with
      txSeq := x1.txSeq + 1, replay := x1.replay ++ [f]
      credits := sset 0 x1.credits key (sget 0 x1.credits key - 1)
      frames := if on then x1.frames + 1 else x1.frames }
    (s.setPort p x2).emit (.frame ⟨p, h⟩ f.seq f.pkt f.crc f.tag)
  else s

/-- Route a packet once. The Bool says that it has left its input buffer. -/
def State.route (s : State) (ingress : Option Nat) (k : Packet) : State × Bool :=
  if malformed k then (s.countMalf, true)
  else
    match s.lookup k with
    | .noroute => (s.modCwy fun c => { c with noroute := satInc c.noroute }, true)
    | .here => if s.waitsHere k then (s, false) else ((s.takePacket k).freed s, true)
    | .hoplim => (s.modCwy fun c => { c with hoplim := satInc c.hoplim }, true)
    | .lost p => (s.countLost p 1, true)
    | .wait _ => (s, false)
    | .out p rule =>
      if k.enc && !s.portGcm p then (s.countLost p 1, true)
      else
        let k1 := { k with hops := k.hops - 1, cls := s.classRule ingress p k.cls rule }
        if sget 0 (s.port p).credits (creditKey k1.vc k1.cls) = 0 then
          (s.modPort p fun x => x.setVc k.vc.toNat { x.vcOf k.vc.toNat with starved := true }, false)
        else if replayBound < (s.port p).replayBytes + 32 + k1.payload.length ∨ 4095 ≤ (s.port p).replay.length then (s, false)
        else (s.sendFrame p k1, true)

/-- Packets that wait for port p's output on a virtual channel; the depth saturates at 255 (R337). -/
def State.queueDepth (s : State) (p v : Nat) : Nat :=
  let sel (k : Packet) : Bool := k.vc.toNat == v && (match s.lookup k with
    | .wait q => q == p
    | .out q _ => q == p
    | _ => false)
  Nat.min 255 (((s.cwy.ports.flatMap fun x => x.2.inbuf) ++ s.cwy.inject).countP sel)

/-- The depth that a packet meets is noted before it leaves (R337). -/
def State.noteDepth (s : State) (k : Packet) : State :=
  let note (p : Nat) : State :=
    let x := s.port p
    let c := x.vcOf k.vc.toNat
    s.setPort p (x.setVc k.vc.toNat { c with highNow := Nat.max c.highNow (s.queueDepth p k.vc.toNat) })
  match s.lookup k with
  | .wait p => note p
  | .out p _ => note p
  | _ => s

/-- The router takes packet k: the first of its virtual channel and class in the input buffers of the ingress port, or
among the packets that this device injects, or one that waits at this device in its list. A packet that waits stays where it is
(R328, R321). -/
def execPacketForward (ingress : Option PortIx) (k : Packet) (s : State) : Host.Outcome State Fault Refusal :=
  let same (x : Packet) : Bool := x.vc == k.vc && x.cls == k.cls
  match ingress with
  | none =>
    if s.cwy.inject.find? same == some k then
      let (s1, gone) := (s.noteDepth k).route none k
      .next (if gone then s1.modCwy fun c => { c with inject := c.inject.erase k } else s1)
    else if s.cwy.later.contains k then .next ((s.modCwy fun c => { c with later := c.later.erase k }).deliver k)
    else .next s
  | some p =>
    if (s.port p).inbuf.find? same == some k then
      let (s1, gone) := (s.noteDepth k).route (some p.val) k
      .next (if gone then
        (s1.modPort p fun x => { x with inbuf := x.inbuf.erase k }).emit (.credit p k.vc k.cls) else s1)
    else .next s

def execWritePacket (k : Packet) (s : State) : Host.Outcome State Fault Refusal :=
  .next (if k.type = 0x01 then s.deliver k else s)

def execReducePacket (k : Packet) (s : State) : Host.Outcome State Fault Refusal :=
  .next (if k.type = 0x02 then s.deliver k else s)

def execSignalPacket (k : Packet) (s : State) : Host.Outcome State Fault Refusal :=
  .next (if k.type = 0x03 then s.deliver k else s)

def execAckPacket (k : Packet) (s : State) : Host.Outcome State Fault Refusal :=
  .next (if k.type = 0x08 then s.deliver k else s)

def execMgmtPacket (k : Packet) (s : State) : Host.Outcome State Fault Refusal :=
  .next (if k.type = 0x18 then s.deliver k else s)

/-! ### Links (R331, R332) -/

/-- A port goes DOWN (R332): replay buffer and packets partly sent are lost and counted. -/
def State.portDown (s : State) (p : Nat) (cause : BitVec 3) (lanes : Nat) : State :=
  let x := s.port p
  let s1 := s.setPort p { x with
    ls := .down, dcause := cause, downs := satInc x.downs, lost := satAdd x.lost x.replay.length, replay := []
    inbuf := [], credits := [], txSeq := 0, rxSeq := 0, width1 := false, noid := false
    ds := if s.portDrn p then .drained else x.ds }
  let pid := if x.pval then x.pid.toNat else 0x8000
  let pport := if x.pval then x.pport.toNat else 0xFF
  let s2 := s1.linkEvent 0 p cause.toNat lanes pid pport 0
  if x.ds == .draining then s2.linkEvent 5 p 0 0 pid pport 0 else s2

/-- Unacknowledged frames before sequence number n: the replay buffer holds fewer than 4,096, in order (log 147). -/
def Port.before (x : Port) (n : BitVec 12) : Nat :=
  let k := (n - (x.txSeq - BitVec.ofNat 12 x.replay.length)).toNat
  if k ≤ x.replay.length then k else 0

/-- Every frame from sequence number n is resent, each counted; a frame resent 8 times takes the port DOWN (R331,
R332). -/
def State.resend (s : State) (p : PortIx) (n : BitVec 12) : State :=
  let x := s.port p
  let again := (x.replay.drop (x.before n)).map fun f => { f with resent := f.resent + 1 }
  let s1 := s.setPort p { x with replay := x.replay.take (x.before n) ++ again, replays := satAdd x.replays again.length }
  let s2 := again.foldl (fun acc f => acc.emit (.frame p f.seq f.pkt f.crc f.tag)) s1
  if again.any fun f => 8 ≤ f.resent then s2.portDown p 3 0 else s2

def ackFrames (x : Port) (a : Option (BitVec 12)) : Port :=
  match a with
  | none => x
  | some n => { x with replay := x.replay.drop (x.before n) }

/-- A frame fails its CRC: a codeword that it overlaps could not be corrected, or the packet's CRC is another (R331). -/
def frameFails (chk : FrameCheck) (body : FrameBody) : Bool :=
  chk.uncorrectable != 0 || match body with
    | .packet k => chk.crc != crc32c (packetBytes k)
    | _ => false

/-- A frame fails the tag check of a port that runs with GCM, as the next one of its direction (16 R419). -/
def State.tagFails (s : State) (p : PortIx) (chk : FrameCheck) (k : Packet) : Bool :=
  s.portGcm p && chk.tag != (s.port p).tagOf (s.port p).rxFrames k

/-- A frame that fails is counted and answered with a NAK. -/
def State.badFrame (s : State) (p : PortIx) (x : Port) : State :=
  (s.setPort p { x with crc := satInc x.crc }).emit (.linkNak p x.rxSeq)

/-- A link frame arrives (R331): its codewords are counted (R337); the cumulative acknowledgement it carries names the next frame
that the partner expects; a frame that fails its CRC or its tag, or is out of order, is discarded with a NAK. -/
def execLinkFrame (p : PortIx) (seq : BitVec 12) (chk : FrameCheck) (ack : Option (BitVec 12)) (body : FrameBody) (s : State) :
    Host.Outcome State Fault Refusal :=
  let x := { s.port p with corr := satAdd (s.port p).corr chk.corrected, unc := satAdd (s.port p).unc chk.uncorrectable }
  if x.ls != .up then .next s
  else if frameFails chk body then .next (s.badFrame p x)
  else
    let x := ackFrames x ack
    match body with
    | .ackOnly => .next (s.setPort p x)
    | .credit vc cls =>
      let key := creditKey vc cls
      .next (s.setPort p { x with credits := sset 0 x.credits key (sget 0 x.credits key + 1) })
    | .mepoch v => .next (s.setPort p { x with pmep := v })
    | .packet k =>
      if seq = x.rxSeq then
        if s.tagFails p chk k then .next (s.badFrame p x)
        else
          let c := x.vcOf k.vc.toNat
          let x1 := x.setVc k.vc.toNat { c with rxp := satInc c.rxp, rxb := satAdd c.rxb k.payload.length }
          let k1 := if s.portGcm p then x.gcm x.rxFrames k else k
          .next ((s.setPort p { x1 with
            rxSeq := x1.rxSeq + 1, inbuf := x1.inbuf ++ [k1]
            rxFrames := if s.portGcm p then x1.rxFrames + 1 else x1.rxFrames }).emit (.linkAck p (x1.rxSeq + 1)))
      else if (x.rxSeq - seq).toNat < 2048 then .next ((s.setPort p x).emit (.linkAck p x.rxSeq))
      else .next ((s.setPort p x).emit (.linkNak p x.rxSeq))

def execNak (p : PortIx) (seq : BitVec 12) (s : State) : Host.Outcome State Fault Refusal :=
  let x := s.port p
  if x.ls != .up then .next s
  else .next ((s.setPort p { ackFrames x (some seq) with naks := satInc x.naks }).resend p seq)

def execLinkAckTimeout (p : PortIx) (s : State) : Host.Outcome State Fault Refusal :=
  let x := s.port p
  .next (if x.ls == .up && x.replay != [] then s.portDown p 3 0 else s)

/-- Loss of signal or alignment, or a lane fault that R334 does not permit: an UP port always goes DOWN. -/
def State.lossOfSignal (s : State) (p : PortIx) (kind : LossKind) : State :=
  let x := s.port p
  match x.ls with
  | .off | .down => s
  | .miswired => (s.setPort p { x with ls := .detect })
  | _ =>
    match kind with
    | .signal => ((s.modPort p fun y => { y with rxlos := 3 }).portDown p 1 0)
    | .fec => s.portDown p 2 0
    | .lane f => ((s.modPort p fun y => { y with rxlos := f }).portDown p 5 f.toNat)

/-! ### Modules, discovery and partners (R333 to R336; 16 R403) -/

def State.modReg (s : State) (p : Nat) : ModReg := sget ModReg.reset s.mss.mods p
def State.setMod (s : State) (p : Nat) (m : ModReg) : State :=
  { s with mss := { s.mss with mods := sset ModReg.reset s.mss.mods p m } }

/-- The module's CMIS memory is read; it leaves low-power mode within the allowance, and each hold places an event, a module that stays
unreadable no second one (R403). -/
def State.readModule (s : State) (p : Nat) (info : Option ModuleInfo) : State :=
  match info with
  | none => if (s.modReg p).told then s else (s.setMod p { ModReg.reset with told := true }).mgmtEvent 0 p 0
  | some i =>
    let fits : Bool := i.maxp.toNat ≤ s.regField 0x503180 0 8
    let s1 := s.setMod p ⟨true, fits, i.maxp, i.ident, false⟩
    if fits then s1 else s1.mgmtEvent 1 p i.maxp.toNat

def execModuleInsert (p : PortIx) (info : Option ModuleInfo) (s : State) : Host.Outcome State Fault Refusal :=
  if (s.port p).modp then .next s
  else
    let s0 := if s.procReady mgpIx then (s.setMod p ModReg.reset).readModule p info else s.setMod p ModReg.reset
    let s1 := s0.modPort p fun x => { x with modp := true }
    .next (s1.modPort p fun x =>
      if s1.portEn p && (x.ls == .off || x.ls == .down) then { x with ls := .detect, dcause := 0 } else x)

def State.moduleRemove (s : State) (p : PortIx) : State :=
  let x := s.port p
  if !x.modp then s
  else
    let s1 := (s.setMod p ModReg.reset).setPort p { x with modp := false }
    match x.ls with
    | .off => s1
    | .down => (s1.modPort p fun y => { y with dcause := 4 })
    | _ => (s1.portDown p 4 0)

/-- DETECT ends (R333, R334): both lanes pass, or one under NARROW; a faulty lane is open or shorted. A module held in
low-power mode sends no signal (R403). -/
def State.detectDone (s : State) (p : PortIx) (opens shorts rxlos : BitVec 2) : State :=
  let x := s.port p
  if x.ls != .detect || !x.modp || !s.portEn p || !(s.modReg p).highpwr then s
  else
    let bad := opens ||| shorts
    let s1 := s.setPort p { x with lopen := opens, lshort := shorts, rxlos := rxlos }
    let narrow := (s.reg (portCtl p)).getLsbD 2
    if bad = 0 then (s1.modPort p fun y => { y with ls := .training, width1 := false })
    else if bad != 3 && narrow then
      ((s1.modPort p fun y => { y with ls := .training, width1 := true }).linkEvent 3 p 0 bad.toNat 0x8000 0xFF 0)
    else (s1.portDown p 5 bad.toNat)

/-- CWY_ID is valid and every coordinate lies below its size (R315). -/
def State.idValid (s : State) : Bool :=
  (s.reg 0x400000).getLsbD 15 &&
    (List.range 4).all fun d => decide (coordOf (s.regField 0x400000 0 15) d < coordOf (s.regField 0x400000 16 15) d + 1)

/-- At EXCHANGE a port with a valid own ID sends the ID in force, its number, the sizes and the membership epoch (R333, R315). -/
def State.sendExchange (s : State) (p : PortIx) : State :=
  let x := s.port p
  if x.ls == .exchange && s.idValid then s.emit (.exchange p s.ownId ((s.reg 0x400000).extractLsb' 16 15) s.ep.mepoch) else s

/-- A valid ID has come into force: ports that held for it go on with their EXCHANGE. -/
def State.idArrived (s : State) : State :=
  (List.finRange 16).foldl (fun (acc : State) (p : PortIx) =>
    if (acc.port p).noid then (acc.modPort p fun x => { x with noid := false }).sendExchange p else acc) s

/-- TRAINING ends: polarity and lane order are corrected and reported; failed lanes are faults under R334. -/
def State.trainingDone (s : State) (p : PortIx) (polinv : BitVec 2) (lswap : Bool) (failed : BitVec 2) :
    State :=
  let x := s.port p
  if x.ls != .training then s
  else
    let narrow := (s.reg (portCtl p)).getLsbD 2
    let s1 := s.setPort p { x with polinv := polinv, lswap := lswap }
    let up (y : Port) : Port := { y with ls := .exchange, noid := !s.idValid }
    if failed = 0 then (s1.modPort p up).sendExchange p
    else if failed != 3 && narrow && !x.width1 then
      (((s1.modPort p fun y => { up y with width1 := true }).linkEvent 3 p 0 failed.toNat 0x8000 0xFF 0)).sendExchange p
    else (s1.portDown p 5 failed.toNat)

/-- The plus or minus neighbour of this device through port p (R316). -/
def State.neighbour (s : State) (p : Nat) : Nat :=
  let d := portDim p
  let id := s.ownId.toNat
  let n := s.sizeOf d
  let c := coordOf id d
  let c' := if portPlus p then (c + 1) % n else (c + n - 1) % n
  id - c * 2 ^ (4 * d) + c' * 2 ^ (4 * d)

/-- The expected partner and its port (R335). -/
def State.expected (s : State) (p : Nat) : Nat × Nat :=
  let e := portCtl p + 0x20
  if (s.reg e).getLsbD 31 then (s.regField e 0 15, s.regField e 16 4)
  else (s.neighbour p, 4 * portDim p + (p % 4 + 2) % 4)

/-- EXCHANGE ends in UP or MISWIRED (R335); without a valid own ID the port holds (R333). -/
def State.exchangeDone (s : State) (p : PortIx) (pid : BitVec 15) (pport : BitVec 4) (sizes : BitVec 15) (mep : BitVec 64) :
    State :=
  let x := s.port p
  if x.ls != .exchange then s
  else if !s.idValid then (s.setPort p { x with noid := true })
  else
    let x1 := { x with noid := false, pid := pid, pval := true, pport := pport, pmep := mep, dcause := 0 }
    let (eid, eport) := s.expected p
    let own := (s.reg 0x400000).extractLsb' 16 15
    if pid.toNat = eid && pport.toNat = eport && pid != s.ownId && sizes == own then
      let cr : Store Nat := (List.range 8).map fun i => (i, 1)
      ((s.setPort p { x1 with ls := .up, credits := cr, txSeq := 0, rxSeq := 0, replay := [] }).linkEvent 1 p 0 0
        pid.toNat pport.toNat 0)
    else
      ((s.setPort p { x1 with ls := .miswired, misw := satInc x1.misw }).linkEvent 2 p 0 0 pid.toNat pport.toNat 0)

def execPortRetryTimeout (p : PortIx) (s : State) : Host.Outcome State Fault Refusal :=
  let x := s.port p
  .next (if x.ls == .down && s.portEn p && x.modp then s.setPort p { x with ls := .detect, dcause := 0 } else s)

/-! ### Port control, drain and tables (R327 to R330) -/

/-- What a change of EN does (R333, R335): 0 turns the port off, 1 starts DETECT with a module present. -/
def State.enChanged (s : State) (p : Nat) (was now : Bool) : State :=
  if now == was then s
  else if now then s.modPort p fun x => if x.ls == .off && x.modp then { x with ls := .detect, dcause := 0 } else x
  else s.portOff p

/-- What a change of DRN does: DRAIN of a port that is not UP drains it at once; RESUME re-opens it (R328, R330). After
every RESUME the coordinator re-sends its last decision (R258). -/
def State.drnChanged (s : State) (p : Nat) (was now : Bool) : State :=
  if now == was then s
  else if now then
    if s.portUp p then s.modPort p fun x => { x with ds := .draining }
    else
      let x := s.port p
      (s.setPort p { x with ds := .drained }).linkEvent 5 p 0 0 (if x.pval then x.pid.toNat else 0x8000)
        (if x.pval then x.pport.toNat else 0xFF) 0
  else (s.modPort p fun x => { x with ds := .active }).resendDecision

/-- A write of CWY_P_CTL: its stored fields and what their changes do. -/
def State.portCtlWrite (s : State) (m : Master) (p : Nat) (half : Option Bool) (v : BitVec 64) : State :=
  let (s1, old) := s.regStore m (portCtl p) half v
  let new := s1.reg (portCtl p)
  (s1.enChanged p (old.getLsbD 0) (new.getLsbD 0)).drnChanged p (old.getLsbD 1) (new.getLsbD 1)

/-- Write one bit of CWY_P_CTL, the others as they stand. -/
def State.portBit (s : State) (m : Master) (p : Nat) (bit : Nat) (b : Bool) : State :=
  if !s.arrives m then s
  else
    let old := s.reg (portCtl p)
    let mask : BitVec 64 := 1#64 <<< bit
    s.portCtlWrite m p none (if b then old ||| mask else old &&& ~~~mask)

def execPortEnable (m : Master) (p : PortIx) (en : Bool) (s : State) : Host.Outcome State Fault Refusal :=
  .next (s.portBit m p 0 en)

def execPortDrain (m : Master) (p : PortIx) (s : State) : Host.Outcome State Fault Refusal :=
  .next (s.portBit m p 1 true)

def execPortResume (m : Master) (p : PortIx) (s : State) : Host.Outcome State Fault Refusal :=
  .next (s.portBit m p 1 false)

/-- A draining port becomes DRAINED once nothing is unacknowledged (R328). -/
def execPortDrained (p : PortIx) (s : State) : Host.Outcome State Fault Refusal :=
  let x := s.port p
  .next (if x.ds == .draining && x.replay == [] then
    (s.setPort p { x with ds := .drained }).linkEvent 5 p 0 0 (if x.pval then x.pid.toNat else 0x8000)
      (if x.pval then x.pport.toNat else 0xFF) 0
  else s)

/-- The ports that an entry names (R329). -/
def namedPorts (rt : Bool) (e : BitVec 12) : List Nat :=
  if e.getLsbD 8 && !e.getLsbD 9 && !(rt && e.getLsbD 9) then
    [(e.extractLsb' 0 4).toNat, (e.extractLsb' 4 4).toNat] else []

def State.stgEntry (s : State) (rt : Bool) (i : Nat) : BitVec 12 :=
  ((s.reg ((if rt then 0x480000 else 0x484000) + 8 * i)).extractLsb' 0 12)

/-- The staged tables as sparse tables of this state's registers. -/
def State.stagedTable (s : State) (rt : Bool) : Store (BitVec 12) :=
  let lo := if rt then 0x480000 else 0x484000
  let n := if rt then 2048 else 16
  (srange s.regs lo (lo + 8 * n)).filterMap fun p =>
    if (p.1 - lo) % 8 = 0 then some ((p.1 - lo) / 8, p.2.extractLsb' 0 12) else none

/-- What a commit copies: an RT entry with LOCAL = 1 is taken with VALID 0 (R343). -/
def copyEntry (rt : Bool) (e : BitVec 12) : BitVec 12 :=
  if rt && e.getLsbD 9 then e &&& ~~~(0x100#12) else e

/-- Ports affected by the staged change (R329). -/
def State.affected (s : State) : List Nat :=
  let diff (rt : Bool) (act stg : Store (BitVec 12)) : List Nat :=
    let keys := (act.map fun p => p.1) ++ (stg.map fun p => p.1)
    keys.flatMap fun k =>
      let a := sget 0 act k
      let b := sget 0 stg k
      if a = b then [] else namedPorts rt a ++ namedPorts rt b
  (diff true s.cwy.rtAct (s.stagedTable true) ++ diff false s.cwy.ltAct (s.stagedTable false)).eraseDups

def State.drained (s : State) (p : Nat) : Bool := (s.port p).ds == .drained

/-- The commit takes effect (R329): the staged tables become active, and reachability is evaluated (R326). -/
def State.tablesTake (s : State) : State :=
  let s1 := s.modCwy fun c =>
    { c with
      rtAct := (s.stagedTable true).map fun p => (p.1, copyEntry true p.2)
      ltAct := s.stagedTable false, pend := false }
  (s1.linkEvent 6 0xFF 0 0 0x8000 0xFF 0).checkReach

/-- CWY_RT_COMMIT.GO (R329). -/
def State.rtCommit (s : State) : State :=
  if s.affected.all s.drained then s.tablesTake else s.modCwy fun c => { c with pend := true }

def execRtCommit (m : Master) (s : State) : Host.Outcome State Fault Refusal :=
  .next (s.strobe m 0x400018 State.rtCommit)

def execRtCommitTakesEffect (s : State) : Host.Outcome State Fault Refusal :=
  .next (if s.cwy.pend && s.affected.all s.drained then s.tablesTake else s)

/-- A write of CWY_ID with VALID = 1 puts the ID and the sizes in force at once (R315); with an ID that is not valid, a port at EXCHANGE
holds there (R333). -/
def State.cwyIdStore (s : State) (m : Master) (half : Option Bool) (v : BitVec 64) : State :=
  let (s1, _) := s.regStore m 0x400000 half v
  let r := s1.reg 0x400000
  if r.getLsbD 15 && s1.idValid then
    { s1 with cwy := { s1.cwy with idInForce := r.extractLsb' 0 15, sizes := r.extractLsb' 16 15 } }.idArrived
  else
    allPorts.foldl (fun (acc : State) p => acc.modPort p fun x => if x.ls == .exchange then { x with noid := true } else x) s1

def execCwyIdWrite (m : Master) (v : BitVec 64) (s : State) : Host.Outcome State Fault Refusal :=
  .next (if s.arrives m then s.cwyIdStore m none v else s)

/-- Nanoseconds of the window, which is CWY_HWIN.US µs long; 0 acts as 1,000 (R343). -/
def State.windowNs (s : State) : Nat := 1000 * (if s.regField 0x400028 0 16 = 0 then 1000 else s.regField 0x400028 0 16)

/-- A packet of the virtual channel is ready for the port and holds no credit (R337). -/
def State.lacksCredit (s : State) (p v : Nat) : Bool :=
  let stands (i : Option Nat) (k : Packet) : Bool := k.vc.toNat == v && (match s.lookup k with
    | .out q rule => q == p && sget 0 (s.port p).credits (creditKey k.vc (s.classRule i p k.cls rule)) == 0
    | _ => false)
  s.cwy.inject.any (stands none) || s.cwy.ports.any fun x => x.2.inbuf.any (stands (some x.1))

/-- How long a virtual channel of a port was stalled within the window: a free value, and none where no packet lacked a credit (log
27). -/
def State.stallNs (s : State) (p v : Nat) (starved : Bool) : Nat :=
  if starved then Nat.min (Config.freeNat (s.freeCtr + 4 * p + v)) s.windowNs else 0

/-- The window ends on one port: each virtual channel's largest depth becomes its high-water, and its stall counter grows (R337). -/
def State.endWindow (s : State) (p : Nat) (x : Port) : Port :=
  (List.range 4).foldl (fun (y : Port) v =>
    let c := y.vcOf v
    let d := s.queueDepth p v
    let now := s.lacksCredit p v
    y.setVc v { c with high := Nat.max c.highNow d, highNow := d, starved := now, stall := satAdd c.stall (s.stallNs p v (c.starved || now)) }) x

/-- The high-water window ends on every port, and each stall counter has grown by the time that its virtual channel was stalled
within it (R337). -/
def execHighWaterWindow (s : State) : Host.Outcome State Fault Refusal :=
  .next { (allPorts.foldl (fun (acc : State) p => acc.setPort p (s.endWindow p (s.port p))) s) with freeCtr := s.freeCtr + 64 }

end Sys2Proof.Machine
end

