-- ==== Sys2Proof/Machine/Reduce.lean ====
section
/-!
DEFINITION. Sys2Proof/Machine/Reduce.lean: memory-side reduction units: Fast additions (04 R111, R112), Ordered and V40
rounds (05 R125, R128, R129, R141), the ordered reduction buffer (09 R235), and errors met by a unit (R506).
-/

namespace Sys2Proof.Machine

/-- A contribution's value, and the flushes of its conversion (R111, R128): BF16 subnormals are flushed. -/
def contribVal (code : BitVec 4) (bits : BitVec 64) : Val × Nat :=
  let (v, fl) := decodeCode code bits.toNat
  if code = 5 then
    match v with
    | .fin n m e st => if magLt m e 1 (-126) then (.zero n, 1) else (.fin n m e st, 0)
    | w => (w, 0)
  else (v, bcnt fl)

/-- One addition rounded into f: the sum, and what it counts: a flush, an invalid result, an overflow of finite terms. -/
def addIn (f : Format) (a b : Val) : Val × Cnt :=
  let (x, inv) := a.add b
  let (r, ev) := f.round .rne x
  (r, { flush := bcnt ev.flush, invalid := bcnt inv, ovf := bcnt ev.beyond })

/-- The root of an Ordered round (R125): the element when the round opened, then the parts in order of q. -/
def orderedRoot (start : BitVec 32) (parts : List (Val × Nat)) : BitVec 32 × Cnt :=
  let (v0, f0) := f32.decode start.toNat
  let (sum, c) := parts.foldl (fun (acc : Val × Cnt) p =>
    let (r, ev) := addIn f64 acc.1 p.1
    (r, { acc.2 with flush := acc.2.flush + ev.flush + p.2, invalid := acc.2.invalid + ev.invalid
                     ovf := acc.2.ovf + ev.ovf }))
    (v0, { flush := bcnt f0 })
  let (r, ev) := f32.round .rne sum
  (enc32 r, { c with flush := c.flush + bcnt ev.flush, ovf := bcnt (ev.beyond || (r.isInf && c.ovf != 0)) })

/-- R141: the same in binary32, with no further rounding. -/
def v40Root (start : BitVec 32) (parts : List (Val × Nat)) : BitVec 32 × Cnt :=
  let (v0, f0) := f32.decode start.toNat
  let (sum, c) := parts.foldl (fun (acc : Val × Cnt) p =>
    let (r, ev) := addIn f32 acc.1 p.1
    (r, { acc.2 with flush := acc.2.flush + ev.flush + p.2, invalid := acc.2.invalid + ev.invalid
                     ovf := acc.2.ovf + ev.ovf }))
    (v0, { flush := bcnt f0 })
  (enc32 sum, { c with ovf := Nat.min c.ovf 1 })

/-! ### The element -/

/-- Read the target element: its value, and poison met. -/
def State.readElem (s : State) (ctx va : Nat) (e : TlbEntry) : Access := s.vaRead [e] ctx va 4

def State.writeElem (s : State) (ctx va : Nat) (e : TlbEntry) (v : BitVec 32) : State × Trouble :=
  s.vaWrite [e] ctx va (leBytes 4 v.toNat) []

/-- What the member does about poison that a unit met (R506, R242). -/
def State.unitTrouble (s : State) (dpa : Nat) (t : Trouble) : State :=
  match t with
  | .none => s
  | .poisoned _ true => s.dataLost 0x10 (dpaSector dpa)
  | .poisoned _ false => s.poisoned 0x10 (dpaSector dpa)
  | .copyPoison d => s.dataLost 0x10 (dpaSector d)

/-! ### Acceptance and refusal -/

/-- The contribution has been accepted: its sender's count falls, and what waited for the last one completes. -/
def State.accepted (s : State) (c : Contrib) : State :=
  match c.src, c.xfer with
  | some (g, id), _ =>
    s.modHum g fun h => { h with unret := h.unret.map fun i =>
      if i.id == id then
        { i with outstanding := i.outstanding - 1, phase := if i.outstanding ≤ 1 then .done else i.phase }
      else i }
  | none, some (src, xid) =>
    match s.cwy.inbound.find? (sameXfer src xid) with
    | none => s
    | some t =>
      let t1 := { t with left := t.left - 1 }
      (if t1.lastSeen && t1.left = 0 && !t1.bad then s.endXfer t1 else s.setXfer t1).freed s
  | none, none => s

/-- The unit refuses it: the sending station raises the illegal-operand fault (R129). -/
def State.refusedContrib (s : State) (c : Contrib) : State :=
  match c.src, c.xfer with
  | some (g, id), _ =>
    match (s.hum g).unret.find? fun i => i.id == id with
    | some i => s.programFault g 2 0x52 0x02 i.pc
    | none => s
  | none, some (src, xid) => ((s.dropXfer src xid).sendAck src xid 2).freed s
  | none, none => s

def State.dropContrib (s : State) (pos : Nat) : State :=
  s.modMem fun m => { m with contribs := m.contribs.eraseIdx pos }

/-! ### Rounds -/

def insertPart (q : BitVec 15) (code : BitVec 4) (bits : BitVec 64) :
    List (BitVec 15 × BitVec 4 × BitVec 64) → List (BitVec 15 × BitVec 4 × BitVec 64)
  | [] => [(q, code, bits)]
  | p :: ps => if q.toNat < p.1.toNat then (q, code, bits) :: p :: ps else p :: insertPart q code bits ps

/-- The lowest-numbered round of element d. -/
def lowestRound (rs : List Round) (d : Nat) : Option Round :=
  (rs.filter (sameElem d)).foldl (fun acc r =>
    match acc with
    | none => some r
    | some x => if r.round.toNat < x.round.toNat then some r else some x) none

def State.setRound (s : State) (r : Round) : State :=
  s.modMem fun m => { m with rounds := (m.rounds.filter fun x => !(sameElem r.dpa x && x.round == r.round)) ++ [r] }

/-- Open the lowest round of element d if it may open, and close it if all its parts have arrived (R128); `fuel` is at
least the number of rounds. -/
def State.progress (s : State) (d : Nat) : Nat → State
  | 0 => s
  | fuel + 1 =>
    match lowestRound s.mem.rounds d with
    | none => s
    | some r =>
      let a := s.readElem r.ctx.toNat r.va.toNat r.leaf
      let (s1, r1) := match r.opened with
        | some _ => (s, r)
        | none => (a.s, { r with opened := some (BitVec.ofNat 32 (leNat a.bytes)) })
      match r.opened.isNone, a.trouble with
      | true, .poisoned p l => (s1.modMem fun m => { m with
          rounds := m.rounds.filter fun x => !(sameElem d x && x.round == r.round) }).unitTrouble d (.poisoned p l)
      | _, _ =>
        if r1.parts.length < r1.p.toNat then s1.setRound r1
        else
          let vals := r1.parts.map fun p => contribVal p.2.1 p.2.2
          let start := r1.opened.getD 0
          let (v, c) := if r1.mode = 2 then v40Root start vals else orderedRoot start vals
          let s2 := (s1.modMem fun m => { m with
            rounds := m.rounds.filter fun x => !(sameElem d x && x.round == r.round)
            closed := sset none m.closed d (some r1.round) }).chargeOvf r1.tag.toNat c
          let (s3, t) := s2.writeElem r1.ctx.toNat r1.va.toNat r1.leaf v
          match t with
          | .none => State.progress s3 d fuel
          | _ => s3.unitTrouble d t

/-- The round with one more contribution. Its tag, to which its events go, is that of its part with the lowest q, whatever the
order of arrival (06 R146, R151; log 109). -/
def Round.join (r : Round) (c : Contrib) : Round :=
  { r with
    parts := insertPart c.q c.code c.bits r.parts
    tag := if r.parts.all fun p => c.q.toNat < p.1.toNat then c.tag else r.tag }

/-- The round that a contribution begins: held, and not yet open. -/
def Contrib.begins (c : Contrib) : Round :=
  { dpa := c.dpa, round := c.round, p := c.p, opened := none, parts := [(c.q, c.code, c.bits)], mode := c.mode, tag := c.tag
    ctx := c.ctx, va := c.va, leaf := c.leaf }

/-- The contribution stands stalled at its sender for lack of buffer (R129, R235). -/
def State.stallContrib (s : State) (pos : Nat) (c : Contrib) : State :=
  s.modMem fun m => { m with contribs := m.contribs.set pos { c with stalled := true } }

/-- A contribution of Ordered or V40 mode (R128, R129). -/
def State.takeOrdered (s : State) (pos : Nat) (c : Contrib) : State :=
  let s1 := s.dropContrib pos
  match s.verdict c with
  | .discard => (s1.charge c.tag.toNat { invalid := 1 }).accepted c
  | .refuse => s1.refusedContrib c
  | .hold =>
    if !s.orbRoom c then s.stallContrib pos c
    else
      let s2 := s1.setRound (match s.mem.rounds.find? fun r => sameElem c.dpa r && r.round == c.round with
        | some r => r.join c
        | none => c.begins)
      (s2.progress c.dpa (s2.mem.rounds.length + 1)).accepted c

/-- A Fast-mode contribution is added in its order of arrival (R111, R112); it waits while a round of its element is
open (R129). -/
def State.takeFast (s : State) (pos : Nat) (c : Contrib) : State :=
  if s.behindRound c then s
  else
    let a := s.readElem c.ctx.toNat c.va.toNat c.leaf
    match a.trouble with
    | .none =>
      let old := BitVec.ofNat 32 (leNat a.bytes)
      let (v0, f0) := f32.decode old.toNat
      let (v1, f1) := contribVal c.code c.bits
      let (r, ev) := addIn f32 v0 v1
      let s1 := ((a.s.dropContrib pos).chargeOvf c.tag.toNat { ev with flush := ev.flush + bcnt f0 + f1 })
      let (s2, t) := s1.writeElem c.ctx.toNat c.va.toNat c.leaf (enc32 r)
      (s2.unitTrouble c.dpa t).accepted c
    | t => ((a.s.dropContrib pos).unitTrouble c.dpa t).accepted c

/-- A unit takes the contribution at position pos (R128, R111). One of an older attempt is discarded (R113); a frame that
is being zeroed or copied makes it wait. -/
def execReduceContribution (pos : Nat) (s : State) : Host.Outcome State Fault Refusal :=
  match s.mem.contribs[pos]? with
  | none => .next s
  | some c =>
    if s.framesBusy [c.leaf] then .next s
    else if c.att != s.ep.att || c.epoch != s.openEpoch || s.ep.contained then .next (s.dropContrib pos)
    else if c.ordered then .next (s.takeOrdered pos c)
    else .next (s.takeFast pos c)

end Sys2Proof.Machine
end

