-- ==== Sys2Proof/Machine/MemCmds.lean ====
section
/-!
DEFINITION. Sys2Proof/Machine/MemCmds.lean: the commands of the base dies and of translation (09_memory.md): self-refresh,
patrol scrub, invalidation, the ordered reduction buffer, the ownership map, and SEC_EP_LOOKUP (10 R249).
-/

namespace Sys2Proof.Machine

def secBase (x : Nat) : Nat := 0x800000 + 0x100000 * x

/-- A sector takes part in accesses: it has power and its clock, and is not in reset (R352, R353; 17 R447). -/
def State.sectorRuns (s : State) (x : Nat) : Bool :=
  s.board.coreOn && s.board.xtal && s.err.chip.isNone && (s.sectorRun x).isNone

/-- A stack with SREF set, idle for 100 µs, enters self-refresh (R216). -/
def execSrefEntry (stack : Stack) (s : State) : Host.Outcome State Fault Refusal :=
  let r := s.stack stack
  let sref := (s.reg (secBase (stack.val / 3) + 0x200 + 8 * (stack.val % 3))).getLsbD 0
  .next (if sref && r.st == .ready && s.sectorRuns (stack.val / 3) then s.setStack stack { r with st := .srefIdle } else s)

/-- Some stack of the sector is in self-refresh: its scrub pauses (R227, R238). -/
def State.scrubPaused (s : State) (x : Nat) : Bool :=
  [0, 1, 2].any fun k =>
    match (s.stack (3 * x + k)).st with
    | .srefIdle | .srefReset => true
    | _ => false

/-- Granules of each channel (R213, R214). -/
def granulesPerChan : Nat := 12582912

/-- The scrub reads one granule position of all 96 channels (R227): correctable errors are written back and counted,
uncorrectable ones counted with a memory event of kind 1 and left in place. -/
def execPatrolScrubStep (sec : Sec) (s : State) : Host.Outcome State Fault Refusal :=
  if !s.sectorRuns sec || s.scrubPaused sec then .next s
  else
    let z : Scrub := sget ⟨0, 0⟩ s.mem.scrub sec
    let lo := (sec.val * sectorBytes + z.pos.toNat * 96 * 256) / 32
    let s1 := (srange s.mem.err lo (lo + 96 * 8)).foldl (fun (acc : State) p =>
      let a := 32 * p.1
      match errVerdict p.2 with
      | .correctable i v => countEcc (acc.setErr p.1 (errFix p.2 i v)) (dpaSector a) (dpaChan a) 1 0
      | .uncorrectable =>
        (countEcc acc (dpaSector a) (dpaChan a) 0 1).memEvent 1 (dpaSector a) (dpaChan a) 0 0xFF a 0
      | .none => acc) s
    let z' : Scrub :=
      if z.pos.toNat + 1 = granulesPerChan then ⟨0, satInc z.passes⟩ else ⟨z.pos + 1, z.passes⟩
    .next (s1.modMem fun m => { m with scrub := sset ⟨0, 0⟩ m.scrub sec z' })

/-! ### Invalidation (R223) -/

def State.trInvGo (s : State) : State :=
  let i := s.reg 0x820200
  let sc : InvScope :=
    { ctx := i.extractLsb' 0 6, allVa := i.getLsbD 6, allCtx := i.getLsbD 7
      va2m := (s.reg 0x820208).extractLsb' 21 31 }
  s.modMem fun m => { m with invs := m.invs ++ [sc] }

def execTrInvalidate (m : Master) (s : State) : Host.Outcome State Fault Refusal :=
  .next (s.strobe m 0x820210 State.trInvGo)

def InvScope.covers (i : InvScope) (e : TlbEntry) : Bool :=
  i.allCtx || (e.ctx == i.ctx && (i.allVa || e.va.toNat / frameBytes == i.va2m.toNat))

/-- The oldest invalidation completes: no later access uses a translation it removed. What is still outstanding of an
instruction that translated are its contributions on their way to a unit: it waits for those whose leaf it removes. -/
def execTrInvalidateDone (s : State) : Host.Outcome State Fault Refusal :=
  match s.mem.invs with
  | [] => .next s
  | i :: rest =>
    if s.mem.contribs.any fun c => i.covers c.leaf then .next s
    else .next (s.modMem fun m => { m with invs := rest, tlb := m.tlb.filter fun e => !i.covers e.2 })

/-! ### The ordered reduction buffer (R235, R238) -/

/-- SEC_ORB_STAT.FULL: a contribution stands stalled for lack of buffer (R238): one that its station sends, or a REDUCE packet that this
device has not taken in. -/
def State.orbStalled (s : State) (x : Nat) : Bool :=
  (s.mem.contribs.any fun c => c.stalled && s.forOrb x c && !s.orbRoom c) ||
    ((s.cwy.inject ++ s.cwy.ports.flatMap fun p => p.2.inbuf).filter (fun k => s.lookup k == .here) ++ s.cwy.later).any fun k =>
      k.type == 0x02 && !malformed k && s.freshness k == .now && (match s.packetSpan k with
        | (_, m, .ok _) => s.orbLacks x (s.packetContribs k m)
        | _ => false)

/-- Staged limits: in this sector, at most 32,768 frames, ending below the reserved region. -/
def orbLegal (x base frames : Nat) : Bool :=
  x * framesPerSector ≤ base && base < (x + 1) * framesPerSector && frames ≤ 32768 &&
    base + frames ≤ x * framesPerSector + 146944

/-- Rounds of the sector that are open; one that is held and cannot yet open is none of them (05 R128). -/
def State.roundsOpen (s : State) (x : Nat) : Nat := s.mem.rounds.countP fun r => r.opened.isSome && dpaSector r.dpa == x

def State.orbGo (s : State) (x : Nat) : State :=
  let base : BitVec 21 := (s.reg (secBase x + 0x3000)).extractLsb' 21 21
  let frames : BitVec 16 := (s.reg (secBase x + 0x3008)).extractLsb' 0 16
  if !orbLegal x base.toNat frames.toNat then s
  else if s.roundsOpen x = 0 then s.setOrb x { base := base, frames := frames, pend := none }
  else s.setOrb x { s.orbOf x with pend := some (base, frames) }

def execOrbCommit (m : Master) (sec : Sec) (s : State) : Host.Outcome State Fault Refusal :=
  .next (s.strobe m (secBase sec + 0x3010) fun t => t.orbGo sec)

def execOrbChangeTakesEffect (sec : Sec) (s : State) : Host.Outcome State Fault Refusal :=
  match (s.orbOf sec).pend with
  | none => .next s
  | some (b, f) =>
    .next (if s.roundsOpen sec = 0 then s.setOrb sec { base := b, frames := f, pend := none } else s)

/-! ### The ownership map (R229, R232) -/

/-- Write one map entry. A change that clears SEALED first writes zeros to the frame, and accesses to it stall until
that is done. -/
def State.ownWrite (s : State) (f : Nat) (e : OwnEntry) : State :=
  let o := s.owner f
  let s1 := s.modMem fun m => { m with own := sset ownReset m.own f e }
  if o.isSealed && !e.isSealed then
    (s1.wakeStacks (f * frameBytes) frameBytes).modMem fun m =>
      { m with
        hbm := sclear m.hbm (f * frameBytes) ((f + 1) * frameBytes)
        err := sclear m.err (f * 65536) ((f + 1) * 65536), zeroing := m.zeroing ++ [f] }
  else s1

def State.ownGo (s : State) (x : Nat) : State :=
  let v := s.reg (secBase x + 0x30000)
  let i := (v.extractLsb' 0 18).toNat
  if framesPerSector ≤ i then s
  else s.ownWrite (x * framesPerSector + i) ⟨v.extractLsb' 18 6, v.getLsbD 24, v.getLsbD 25⟩

def execOwnMapWrite (m : Master) (sec : Sec) (s : State) : Host.Outcome State Fault Refusal :=
  .next (s.strobe m (secBase sec + 0x30008) fun t => t.ownGo sec)

/-- SEC_EP_LOOKUP is written; SEC_EP_LOOKUP_RES follows it (R249, R269). -/
def execEpLookup (m : Master) (sec : Sec) (frame : BitVec 18) (s : State) : Host.Outcome State Fault Refusal :=
  .next (if !s.arrives m then s
    else s.atBridge m (secBase sec + 0x40028) (frame.setWidth 64) fun s =>
      (s.regStore m (secBase sec + 0x40028) none (frame.setWidth 64)).1)

end Sys2Proof.Machine
end

