-- ==== Sys2Proof/Machine/CommitCmds.lean ====
section
/-!
DEFINITION. Sys2Proof/Machine/CommitCmds.lean: the commands of epoch memory and step commit (10_epoch_memory_and_commit.md):
dispatch, local PREPARE, the commit messages, the timers, the sweeps, frame copies, and the ends of local commit and
rollback.
-/

namespace Sys2Proof.Machine

/-! ### Images (07 R183, R184) -/

/-- The first n bytes of a launch's image from an offset, through the context that the image is read in (R290). Poison in a walk or in
the image ends the launch DATA_LOST (R226, R505); the code names the unit of class cls that receives the data (14 R361). -/
def State.imageRead (s : State) (l : Launch) (cls inst off n : Nat) : State × Option (List Byte) :=
  match s.feGet l.imgCtx.toNat (l.image.toNat + off) n with
  | (s1, .bytes bs) => (s1, some bs)
  | (s1, .fault) => (s1, none)
  | (s1, .walk a) => (s1.dataLost 0x11 (vaSector a), none)
  | (s1, .poison) => (s1.dataLost cls inst, none)

/-- Entry i of a table of little-endian fields. -/
def entryAt (bs : List Byte) (size i : Nat) : List Byte := slice bs (size * i) size

/-- The launch's watch list (R148, R183); none where it cannot be read. -/
def State.watchList (s : State) (l : Launch) : State × Option (List Nat) :=
  match s.imageRead l 0x30 0 0 128 with
  | (s1, some h) =>
    let n := field h 0x3C 2
    match s1.imageRead l 0x30 0 (field h 0x38 4) (4 * n) with
    | (s2, some b) => (s2, some ((List.range n).map fun i => field b (4 * i) 4 % 2 ^ 31))
    | (s2, none) => (s2, none)
  | (s1, none) => (s1, none)

/-- Every declared sluice takes its initial count, and the launch and attempt are recorded against it (R181). -/
def State.setSluices (s : State) (l : Launch) : State :=
  match s.imageRead l 0x30 0 0 128 with
  | (s1, some h) =>
    let n := field h 0x16 2
    match s1.imageRead l 0x30 0 (field h 0x34 4) (8 * n) with
    | (s2, some b) =>
      (List.range n).foldl (fun acc i =>
        match acc.sluiceOf l.ctx.toNat (field b (8 * i + 4) 2) with
        | some k => acc.setSluice k ⟨BitVec.ofNat 32 (field b (8 * i) 4), [], some l.id, l.att⟩
        | none => acc) s2
    | (s2, none) => s2
  | (s1, none) => s1

/-! ### Dispatch (R250, R299, R304) -/

/-- The oldest accepted launch that has not ended, if it waits for dispatch. -/
def State.nextLaunch (s : State) : Option Launch :=
  match s.fe.launches.find? Launch.live with
  | some l => if l.js == .admitted then some l else none
  | none => none

def State.mayDispatch (s : State) : Bool :=
  s.board.coreOn && s.procReady fepIx && s.fw.handoff.isNone && s.ep.st == .idle && s.ep.launch.isNone && !s.ep.rejoin && s.err.chip.isNone &&
    s.err.sectors == [] && s.err.ctxab.isNone

/-- Open epoch E with an attempt (R250, R260). A decision for an earlier launch's attempt of the same or a later number is none on this
launch, and the coordinator still answers QUERY with it (R258; log 28). -/
def State.openAttempt (s : State) (l : Launch) : State :=
  let e := s.openEpoch
  let newer (o : Option (BitVec 64 × BitVec 16)) : Option (BitVec 64 × BitVec 16) :=
    match o with
    | some (x, a) => if x == e && l.att.toNat ≤ a.toNat then none else some (x, a)
    | none => none
  let old : Bool := match s.ep.decision with
    | some d => d.epoch == e && decide (l.att.toNat ≤ d.att.toNat)
    | none => false
  let s1 := s.modEp fun p =>
    { p with
      launch := some l.id, att := l.att, st := .running, sent := false, localPrep := false, reports := [], acted := newer p.acted
      oldDecision := old, failedAtt := none, contained := false, after := none, afterSunder := false }
  let s2 := s1.modLaunch l.id fun x => { x with js := .dispatched, epoch := e, ended := 0, fired := none, numOvf := false }
  let s3 := { s2 with fe := { s2.fe with watch := [] } }
  (s3.jot fcpIx).jot fepIx

/-- Commit messages held for this attempt are delivered (R257). -/
def State.deliverHeld (s : State) : State :=
  let now := s.ep.held.filter fun h => h.2.epoch == s.openEpoch && h.2.att == s.ep.att
  let keep := s.ep.held.filter fun h => h.2.epoch == s.openEpoch && s.ep.att.toNat < h.2.att.toNat
  now.foldl (fun acc h => acc.onMessage h.1 h.2) (s.modEp fun e => { e with held := keep })

def execDispatch (s : State) : Host.Outcome State Fault Refusal :=
  match s.mayDispatch, s.nextLaunch with
  | true, some l =>
    let s1 := s.openAttempt l
    match l.cause with
    | some c => .next (s1.deliverHeld.memberFault c)
    | none => .next ((s1.setSluices l).deliverHeld.releaseLater.checkReach)
  | _, _ => .next s

/-! ### Local PREPARE (R253, R148, R149) -/

/-- The armed entry of a tag in the launch's context. -/
def armedOf (c : Ctx) (tag : Nat) : Option Armed := c.armed.find? fun a => a.tag.toNat == tag

/-- One watch record (R149). -/
def watchRecord (tag : Nat) (seq : BitVec 64) (t : TagCount) (a : Option Armed) : List Byte :=
  let fired := match a with
    | some x => (armedStep x t).2
    | none => false
  let run := match a with
    | some x => (armedStep x t).1.toNat
    | none => 0
  let full (c : BitVec 32) : Bool := c == BitVec.allOnes 32
  let bin (i : Nat) : BitVec 32 := sget 0 t.bins i
  let csat := [t.sat, t.flush, t.replay, t.invalid, t.ovf].any full || t.bins.any fun p => full p.2
  leBytes 4 tag ++ leBytes 4 ((if a.isSome then 1 else 0) + (if fired then 2 else 0) + (if csat then 4 else 0)) ++
    leBytes 8 seq.toNat ++ leBytes 8 t.elems.toNat ++ leBytes 4 (bin 258).toNat ++ leBytes 4 (bin 259).toNat ++
    leBytes 4 (bin 257).toNat ++ leBytes 4 (bin 256).toNat ++ leBytes 4 t.sat.toNat ++ leBytes 4 t.flush.toNat ++
    leBytes 4 t.replay.toNat ++ leBytes 4 t.invalid.toNat ++ leBytes 4 t.ovf.toNat ++ leBytes 2 run ++ leBytes 2 0 ++
    (List.range 256).flatMap fun i => leBytes 4 (bin i).toNat

/-- Write the watch records (R148) and note the first tag that fires (R154); counts of unlisted tags are discarded. A
doorbell launch names no watch region (R295), so none is written for it (log 29). An armed tag that the list does not name is not
tested: its counts are discarded (log 122). -/
def State.writeWatch (s : State) (l : Launch) : State × OpenWrite :=
  match s.watchList l with
  | (s1, none) => (s1, .unread)
  | (s1, some tags) =>
  let c := s1.ctx l.ctx.toNat
  let recs := tags.flatMap fun t => watchRecord t l.seq (s1.watchOf t) (armedOf c t)
  let fired := tags.find? fun t =>
    match armedOf c t with
    | some a => (armedStep a (s1.watchOf t)).2
    | none => false
  let (s2, end_) :=
    if recs = [] ∨ l.gid != 0xFFFF then (s1, OpenWrite.done) else s1.feWriteOpen l.ctx.toNat l.watch.toNat recs
  match end_ with
  | .done =>
    let s3 := s2.modLaunch l.id fun x => { x with fired := fired.map fun t => BitVec.ofNat 31 t }
    ({ s3 with fe := { s3.fe with watch := s3.fe.watch.filter fun p => tags.contains p.1 } }, .done)
  | w => (s2, w)

/-- The conditions of R253, but for the records. -/
def State.workDone (s : State) (l : Launch) : Bool :=
  s.ep.st == .running && s.ep.failedAtt.isNone && l.ended == l.nhum && s.mem.rounds == [] && s.mem.sweep.isNone

/-- A watch list that cannot be read, or a watch region that a translation fault keeps from being written, keeps the attempt from
PREPARED (log 19). -/
def execLocalPrepare (s : State) : Host.Outcome State Fault Refusal :=
  match s.running with
  | none => .next s
  | some l =>
    if !s.workDone l then .next s
    else
      let (s1, w) := s.writeWatch l
      match w with
      | .done =>
        .next (if s1.attemptFailed then s1
          else (s1.modEp fun e => { e with st := .prepared, localPrep := true, prepTimer := e.rank == 0 }).checkPrepared)
      | .fault _ | .unread => .next s1
      | .walk a => .next (s1.dataLost 0x11 (vaSector a))
      | .trouble (.copyPoison d) => .next (s1.dataLost 0x10 (dpaSector d))
      | .trouble _ => .next (s1.dataLost 0x30 0)

/-! ### Messages (R252 to R258) -/

/-- Commit messages reach a device that runs; a chip reset discards them (R340, R360). -/
def State.message (s : State) (t : MsgType) (m : CommitMsg) : State :=
  if s.err.chip.isSome then s.modCwy fun c => { c with localdrop := satInc c.localdrop } else s.takeMsg t m

def execPrepare (m : CommitMsg) (s : State) : Host.Outcome State Fault Refusal := .next (s.message .prepare m)
def execCommit (m : CommitMsg) (s : State) : Host.Outcome State Fault Refusal := .next (s.message .commit m)
def execAbort (m : CommitMsg) (s : State) : Host.Outcome State Fault Refusal := .next (s.message .abort m)
def execAbortReq (m : CommitMsg) (s : State) : Host.Outcome State Fault Refusal := .next (s.message .abortReq m)
def execQuery (m : CommitMsg) (s : State) : Host.Outcome State Fault Refusal := .next (s.message .query m)
def execAnswer (m : CommitMsg) (s : State) : Host.Outcome State Fault Refusal := .next (s.message .answer m)

/-- The coordinator's PREPARE timer expires (R254); it pauses while a port is drained. -/
def execPrepareTimeout (s : State) : Host.Outcome State Fault Refusal :=
  .next (if s.ep.st == .prepared && s.isCoord && s.ep.prepTimer && !s.decided && s.procReady fcpIx &&
      allPorts.all (fun p => (s.port p).ds == .active) then s.decideAbort 0 else s)

/-- No decision within DECIDE_MS, or a rejoining member still unanswered (R258, R360). -/
def execDecideTimeout (s : State) : Host.Outcome State Fault Refusal :=
  .next (if ((s.ep.st == .prepared && s.ep.decideTimer) || s.ep.rejoin) && s.procReady fcpIx then s.sendQuery else s)

/-! ### Sweeps and copies (R246, R242) -/

/-- What a sweep does to one record. -/
def sweepRec (s : State) (commit : Bool) (r : PageRec) : PageRec :=
  if commit then (if r.isPending s then { r with cf := !r.cf, gen := 0xFF } else r)
  else if r.isOpen s then r else { r with gen := 0xFF }

def execSweepDone (s : State) : Host.Outcome State Fault Refusal :=
  match s.mem.sweep with
  | none => .next s
  | some w =>
    let recs := w.recs.foldl (fun m f => sset PageRec.reset m f (sweepRec s w.commit (s.pageRec f))) s.mem.recs
    .next (s.modMem fun m =>
      match m.sweepQ with
      | [] => { m with recs := recs, sweep := none }
      | n :: rest => { m with recs := recs, sweep := some n, sweepQ := rest })

def execFrameCopyDone (sec : Sec) (frame : BitVec 18) (s : State) : Host.Outcome State Fault Refusal :=
  .next (s.modMem fun m =>
    { m with copying := m.copying.filter fun f => f != sec.val * framesPerSector + frame.toNat }).releaseLater

/-! ### Ends of local commit and rollback (R244, R245, R260) -/

def execLocalCommitComplete (s : State) : Host.Outcome State Fault Refusal :=
  match s.ep.st with
  | .committing =>
    let s1 := match s.ep.launch with
      | some id => s.releaseHums id
      | none => s
    .next ((s1.modEp fun e => { e with st := .idle }).leaveEpoch).checkReach
  | _ => .next s

def execLocalRollbackComplete (s : State) : Host.Outcome State Fault Refusal :=
  match s.ep.st with
  | .rollingBack =>
    let att := match s.ep.acted with
      | some (_, a) => a
      | none => s.ep.att
    let act (t : State) : State :=
      let u := t.modEp fun e => { e with st := .idle, after := none }
      match t.ep.after with
      | some c => u.actOn c att
      | none => u
    if s.ep.afterSunder then .next (s.sunder act) else .next (act s).checkReach
  | _ => .next s

end Sys2Proof.Machine
end

