-- ==== Sys2Proof/Machine/Replies.lean ====
section
/-!
DEFINITION. Sys2Proof/Machine/Replies.lean: the state code (11 R275), replies on each path (R274, R286), the reply ring
(R273, R284), and replies that wait for a level of the ladder (R283).
-/

namespace Sys2Proof.Machine

def epCode : EpSt → Nat
  | .idle => 0 | .running => 1 | .prepared => 2 | .committing => 3 | .rollingBack => 4 | .sundered => 5 | .doubt => 6

def ctxCode : CtxSt → Nat
  | .free => 0 | .opened => 1 | .blocked => 2 | .aborting => 3

/-- Admission is frozen by configuration drift (R470). -/
def State.frozen (s : State) : Bool := s.cip.drift != 0

/-- DEV of the state code (R275). -/
def State.devCode (s : State) : Nat := if s.frozen then 2 else if s.fe.quiesced then 1 else 0

/-- The state code for a context, with GRAPH for a graph command (R275). -/
def State.stateCode (s : State) (c graph : Nat) : BitVec 32 :=
  BitVec.ofNat 32 (s.devCode + 16 * epCode s.ep.st + (if s.cip.modeActive then 128 else 0) +
    256 * ctxCode (s.ctx c).st + (if s.isSealed c then 4096 else 0) + 8192 * graph)

def replyBytes (r : Reply) (phase : Bool) : List Byte :=
  leBytes 2 r.status.toNat ++ [r.opc, if phase then 1 else 0] ++ leBytes 4 r.state.toNat ++ leBytes 8 r.seq.toNat ++
    leBytes 16 r.data.toNat

/-- Entries of the reply ring and slots of the command ring; none where LOG2 leaves EN without effect (R288). -/
def ringSize (log2 : Nat) : Option Nat := if 6 ≤ log2 ∧ log2 ≤ 16 then some (2 ^ log2) else none

def State.rplSize (s : State) : Nat := (ringSize (s.regField 0x28 0 5)).getD 64
def State.cmdSize (s : State) : Nat := (ringSize (s.regField 0x08 0 5)).getD 64

/-- EN = 1 with legal sizes. -/
def State.ringEn (s : State) : Bool :=
  (s.reg 0x40).getLsbD 0 && (ringSize (s.regField 0x08 0 5)).isSome && (ringSize (s.regField 0x28 0 5)).isSome

/-- The reply ring is full: its tail is one entry short of its head (R274). -/
def State.rplFull (s : State) : Bool :=
  (s.fe.rplTail.toNat + 1) % s.rplSize == s.regField 0x30 0 16 % s.rplSize

def State.modFe (s : State) (f : FrontEnd → FrontEnd) : State := { s with fe := f s.fe }

/-- Write a reply to the reply ring at the tail (R274). The FEP journals it, and it is kept until the next one, for a write that
fails (R284, R285). -/
def State.ringReply (s : State) (r : Reply) : State :=
  let i := s.fe.rplTail.toNat
  let s1 := s.emit (.hostWrite (s.reg 0x20 + BitVec.ofNat 64 (32 * i)) (replyBytes r s.fe.phase))
  let wrap := i + 1 = s.rplSize
  let s2 := (s1.modFe fun f =>
    { f with
      rplTail := if wrap then 0 else f.rplTail + 1, phase := if wrap then !f.phase else f.phase, heldReply := some r }).jot fepIx
  if r.irq then s2.msix ((s2.reg 0x40).extractLsb' 4 11) else s2

/-! ### Messages of a session (16 R410) -/

def State.sessionOf (s : State) (sid : Nat) : Option Session := s.mss.sessions.find? fun x => x.id == sid

def State.modSession (s : State) (sid : Nat) (f : Session → Session) : State :=
  { s with mss := { s.mss with sessions := s.mss.sessions.map fun x => if x.id == sid then f x else x } }

/-- A message has come under the session's request key. Its row carries it in plaintext (log 140). -/
def State.heard (s : State) (sid : Nat) : State := s.modSession sid fun y => { y with recvSeq := y.recvSeq + 1 }

/-- The IV of a direction's message: the salt XOR the direction's sequence number. -/
def sessIv (salt : List Byte) (n : BitVec 64) : List Byte := xorBytes salt (leBytes 8 n.toNat ++ leBytes 4 0)

/-- A message as it goes out: the header of its record, its ciphertext under the response key, bytes 32 to 63 of the 88, with the salt
in bytes 76 to 87, and the tag (log 140). -/
def Session.record (x : Session) (msg : List Byte) : List Byte :=
  let key := slice x.secret 32 32
  let iv := sessIv (slice x.secret 76 12) x.sendSeq
  let hdr := leBytes 4 x.id ++ leBytes 2 x.sendSeq.toNat ++ leBytes 2 (msg.length + 16)
  let ct := gcmCtr key iv msg
  hdr ++ ct ++ gcmTag key iv hdr ct

/-- A VENDOR_DEFINED_RESPONSE under the IANA registry and enterprise number 0x0001_B7A4, with its payload (R409). -/
def vendorMsg (payload : List Byte) : List Byte :=
  [0x7E, 0, 0] ++ leBytes 2 4 ++ [4] ++ leBytes 4 0x0001B7A4 ++ leBytes 2 payload.length ++ payload

/-- The tag of a message that comes checks: its ciphertext under the request key, bytes 0 to 31 of the 88, with the salt in bytes 64 to 75
and the number of messages heard. -/
def Session.checks (x : Session) (cipher tag : List Byte) : Bool :=
  let hdr := leBytes 4 x.id ++ leBytes 2 x.recvSeq.toNat ++ leBytes 2 (cipher.length + 16)
  gcmTag (slice x.secret 0 32) (sessIv (slice x.secret 64 12) x.recvSeq) hdr cipher == tag

/-- Answer within a session. -/
def State.answerIn (s : State) (x : Session) (msg : List Byte) : State :=
  (s.modSession x.id fun y => { y with sendSeq := y.sendSeq + 1 }).respond x.binding (x.record msg)

/-- Answer on the path that the packet came by (R286); what the MGP issues itself is answered within it. -/
def State.reply (s : State) (r : Reply) : State :=
  match r.path with
  | .ring => s.ringReply r
  | .mailbox => { s with mss := { s.mss with mbRpl := bwrite [] 0 (replyBytes r false), mbBusy := false } }
  | .session sid =>
    match s.sessionOf sid with
    | some x => s.answerIn x (vendorMsg (0xC0 :: replyBytes r false))
    | none => s
  | .mgp => { s with mss := { s.mss with ownRpl := replyBytes r false } }

/-- DATA is zero for every status other than OK (R274). -/
def mkReply (status : BitVec 16) (opc : BitVec 8) (state : BitVec 32) (h : Hdr) (data : Nat) : Reply :=
  { status := status, opc := opc, state := state, seq := h.seq
    data := if status = stOK then BitVec.ofNat 128 data else 0, irq := h.irq, path := h.path }

/-- The reply that waits for a level (R283): DATA becomes what the level reached. -/
def State.finishWait (s : State) (opc : BitVec 8) (level target data : Nat) : State :=
  match s.fe.wait with
  | some r =>
    if r.opc = opc && (opc != 0x23 || r.data.toNat == level + 256 * target) then
      (s.modFe fun f => { f with wait := none }).reply { r with data := BitVec.ofNat 128 data }
    else s
  | none => s

/-- A CTX_ABORT that waits is answered, and its context is OPEN again (R283, R350). -/
def State.finishAbort (s : State) : State :=
  let s1 := s.modFe fun f =>
    { f with ctxs := f.ctxs.map fun (p : Nat × Ctx) =>
        (p.1, match p.2.st with
          | .aborting => { p.2 with st := .opened }
          | _ => p.2) }
  let s1 := s1.jot fepIx
  match s1.fe.wait with
  | some r => if r.opc = 0x03 then s1.finishWait 0x03 0 0 r.data.toNat else s1
  | none => s1

end Sys2Proof.Machine
end

