-- ==== Sys2Proof/Machine/RecoveryCmds.lean ====
section
/-!
DEFINITION. Sys2Proof/Machine/RecoveryCmds.lean: the commands of hangs, resets and recovery
(14_hangs_resets_recovery.md).
-/

namespace Sys2Proof.Machine

/-- The unit class of the station that holds an instruction (R345, R362). -/
def opClass : StOp → Nat
  | .lload .. | .lpass .. => 0x03
  | .scfg .. | .sspill .. | .sclr .. => 0x04
  | .wmove .. | .wconv .. | .wred .. => 0x02
  | .rop .. => 0x05
  | .csend .. => 0x06

/-! ### Escalation and completion (R348) -/

/-- Every hummock of the running attempt is Gated. -/
def State.gateAttempt (s : State) : State :=
  match s.ep.launch with
  | some id => s.gateHums id
  | none => s

/-- Engine resets of the attempt's hummocks in `stuck`, which have not quiesced; the others are Gated (R348, R355). -/
def State.resetStuck (s : State) (stuck : List Hum) (code : Hum → BitVec 32) : State :=
  match s.ep.launch with
  | none => s
  | some id =>
    ((stuck.filter fun (g : Hum) => (s.hum g).heldBy id).foldl (fun (acc : State) (g : Hum) =>
      acc.engineResetAs g (s.levelRun (code g))) s).gateAttempt

/-- A CTX_ABORT that waits is answered once no level that continues its context abort runs (R283, R348). -/
def State.abortOver (s : State) : State :=
  let esc (cause : Nat) (p : Nat × Option LevelRun) : Bool := match p.2 with
    | some r => r.code.toNat % 4096 == cause
    | none => false
  if s.err.ctxab.isSome || s.err.engines.any (esc 0x051) || s.err.sectors.any (esc 0x052) then s else s.finishAbort

def execLevelEscalation (k : LevelKey) (s : State) : Host.Outcome State Fault Refusal :=
  match k with
  | .context stuck =>
    match s.err.ctxab with
    | none => .next s
    | some (_, r) =>
      let s1 := s.modErr fun e => { e with ctxab := none }
      .next (s1.resetStuck stuck fun _ => recode r.code 2 0x051).tryRollback.abortOver
  | .engine g =>
    match s.engineRun g with
    | none => .next s
    | some r =>
      let x := secOf g
      .next (((s.modErr fun e => { e with engines := sset none e.engines g none }).raiseWait 2 g 3 x).sectorReset x
        (recode r.code 3 0x052))
  | .sector x =>
    match s.sectorRun x with
    | none => .next s
    | some r => .next (s.chipReset (recode r.code 4 0x053) false)
  | .chip =>
    match s.err.chip with
    | none => .next s
    | some r => .next (s.powerCycleReq (recode r.code 5 0x054))

/-- Every hummock of the attempt is Gated (R350); a containment without a level ends the same way (R355). -/
def execContextAbortComplete (us : BitVec 32) (s : State) : Host.Outcome State Fault Refusal :=
  match s.err.ctxab with
  | some (_, r) =>
    .next (((s.modErr fun e => { e with ctxab := none }).gateAttempt.recAt r 2 us.toNat).tryRollback.finishAbort)
  | none =>
    .next (if s.ep.failedAtt == some s.ep.att && !s.ep.contained then s.gateAttempt.tryRollback else s)

/-- The member sends QUERY before it dispatches a replay (R360); the coordinator holds the decisions itself. -/
def State.rejoinQuery (s : State) : State :=
  let waits := s.ep.launch.isSome || s.fe.launches.any fun l => l.live && 1 < l.att.toNat
  if s.isCoord || !waits then s
  else
    match s.ep.st with
    | .sundered | .doubt => s
    | _ => (s.modEp fun e => { e with rejoin := true }).sendQuery

def readyStacks (m : Store StackReg) (x : Nat) : Store StackReg :=
  [0, 1, 2].foldl (fun acc k =>
    let r := sget stackReset acc (3 * x + k)
    match r.st with
    | .failed => acc
    | _ => sset stackReset acc (3 * x + k) { r with st := .ready }) m

/-- The hummocks of a sector leave its reset Gated. -/
def State.wakeSector (s : State) (x : Nat) : State :=
  { s with
    hums := s.hums.map fun (p : Nat × Hummock) =>
      if secOf p.1 = x && p.2.power == .inReset then (p.1, { p.2 with power := .gated }) else p
    mem := { s.mem with stackRegs := readyStacks s.mem.stackRegs x } }

/-- DEVICE_MODE.MODE is applied, with no accepted launch in the journal and no graph registered (R289). -/
def State.applyMode (s : State) : State :=
  if s.fe.launches.any Launch.journalled || s.fe.graphs != [] then s
  else { s with cip := { s.cip with modeActive := (s.reg 0x100028).getLsbD 0 } }

/-- Containment without a level has not completed within 1 ms (R355). -/
def execContainmentTimeout (stuck : List Hum) (s : State) : Host.Outcome State Fault Refusal :=
  .next (if s.ep.failedAtt == some s.ep.att && !s.ep.contained && s.err.ctxab.isNone then
    (s.resetStuck stuck fun g => errCode 2 0x01 g 0x051).tryRollback
  else s)

/-! ### Bridges and register strobes (R365, R366, R370) -/

def execErrResetChip (m : Master) (s : State) : Host.Outcome State Fault Refusal :=
  .next (s.strobe m 0x300030 fun t => t.chipReset (errCode 4 0x40 0 0x062) false)

def execErrResetPwrcyc (m : Master) (s : State) : Host.Outcome State Fault Refusal :=
  .next (s.strobe m 0x300030 fun t => t.powerCycleReq (errCode 5 0x40 0 0x062))

end Sys2Proof.Machine
end

