-- ==== Sys2Proof/Machine/Admission.lean ====
section
/-!
DEFINITION. Sys2Proof/Machine/Admission.lean: graph images (07 R183, R184), the graph store (12 R291), the admission bound
(R297, R298), and doorbell launches, taken in one order with the packets of the ring (R294 to R296).
-/

namespace Sys2Proof.Machine

/-- What a command does: it is answered at once, its reply waits for a level (R283), or its reply waits with a BIST run
(R420). -/
inductive Done where
  | now (s : State) (status : BitVec 16) (data : Nat)
  | later (s : State) (data : Nat)
  | held (f : Reply → State)

/-- The FEP decides: it runs, and the device is not in a chip reset. -/
def State.feRuns (s : State) : Bool := s.procReady fepIx && s.fw.handoff.isNone && s.err.chip.isNone && !s.err.halted

/-- Slots from the head to the tail of the command ring. -/
def State.ringAvail (s : State) : Nat := (s.regField 0x10 0 16 + s.cmdSize - s.fe.head.toNat) % s.cmdSize

/-- Context state code (R275). -/
def State.ctxSt (s : State) (c : Nat) : CtxSt := (s.ctx c).st

/-! ### Images -/

/-- What the front end takes from an image's header, and the relative sluices that it declares. -/
structure ImageInfo where
  mode : BitVec 2
  nhum : Nat
  wsteps : Nat
  wfixed : Nat
  paramsz : Nat
  nwatch : Nat
  slus : List Nat
  deriving DecidableEq, Repr

/-- What reading an image gives: an input fault, contents that break R183 or R184 (with PARAMSZ where the header keeps its
limits), or a legal image. -/
inductive ImageRes where
  | fault
  | bad (paramsz : Option Nat)
  | ok (i : ImageInfo)
  deriving DecidableEq, Repr

def allZero (bs : List Byte) : Bool := bs.all fun b => b == 0

/-- R183: the header keeps its limits, and its tables lie within the image. -/
def headerOk (h : List Byte) : Bool :=
  let size := field h 0x2C 4
  let nhum := field h 0x14 2
  field h 0 4 == 0x314E4756 && field h 4 2 == 1 && field h 6 1 < 3 && field h 7 1 == 0 && 1 ≤ nhum && nhum ≤ 96 &&
    field h 0x16 2 ≤ 4096 && field h 0x28 4 ≤ 2 ^ 20 && field h 0x28 4 % 8 == 0 && size ≤ 2 ^ 26 &&
    field h 0x3C 2 ≤ 4096 && field h 0x30 4 + 32 * nhum ≤ size && field h 0x34 4 + 8 * field h 0x16 2 ≤ size &&
    field h 0x38 4 + 4 * field h 0x3C 2 ≤ size && allZero (slice h 0x3E 66)

/-- R184: one program table entry. -/
def progOk (size : Nat) (e : List Byte) : Bool :=
  field e 0 4 % 8 == 0 && field e 4 4 ≤ 2 ^ 23 && field e 8 4 % 32 == 0 && field e 0 4 + 8 * field e 4 4 ≤ size &&
    field e 8 4 + 32 * field e 12 4 ≤ size && allZero (slice e 0x14 12)

/-- What R183 and R184 have the front end read of an image, its header and its tables, and its parameter block where that has an
address. A front end whose accesses cannot stall needs none of it. -/
def State.imageSpans (s : State) (c va params : Nat) : List (Nat × Nat × Nat) :=
  if s.err.sectors == [] then []
  else (c, va, 128) :: match (s.feRead c va 128).2 with
    | some h =>
      [(c, va + field h 0x30 4, 32 * field h 0x14 2), (c, va + field h 0x34 4, 8 * field h 0x16 2),
        (c, va + field h 0x38 4, 4 * field h 0x3C 2), (c, params, if params = 0 then 0 else field h 0x28 4)]
    | none => []

/-- Read and check an image in the space of context c. -/
def State.readImage (s : State) (c va : Nat) : State × ImageRes :=
  match s.feRead c va 128 with
  | (s1, none) => (s1, .fault)
  | (s1, some h) =>
    if !headerOk h then (s1, .bad none)
    else
      let nhum := field h 0x14 2
      let nslu := field h 0x16 2
      match s1.feRead c (va + field h 0x30 4) (32 * nhum) with
      | (s2, none) => (s2, .fault)
      | (s2, some pt) =>
        match s2.feRead c (va + field h 0x34 4) (8 * nslu) with
        | (s3, none) => (s3, .fault)
        | (s3, some st) =>
          match s3.feRead c (va + field h 0x38 4) (4 * field h 0x3C 2) with
          | (s4, none) => (s4, .fault)
          | (s4, some _) =>
            let size := field h 0x2C 4
            if (List.range nhum).all (fun i => progOk size (entryAt pt 32 i)) &&
                (List.range nslu).all (fun i => field (entryAt st 8 i) 6 2 == 0) then
              (s4, .ok
                { mode := BitVec.ofNat 2 (field h 6 1), nhum := nhum, wsteps := field h 0x18 8, wfixed := field h 0x20 8
                  paramsz := field h 0x28 4, nwatch := field h 0x3C 2
                  slus := (List.range nslu).map fun i => field st (8 * i + 4) 2 })
            else (s4, .bad (some (field h 0x28 4)))

/-! ### The graph store (R291) -/

def unitsOf (n : Nat) : Nat := (n + 65535) / 65536

/-- Units in use: every version of every graph, and the blocks of live mode Q launches. -/
def State.storeUsed (s : State) : Nat :=
  (s.fe.graphs.map fun g => g.versions.length * unitsOf g.paramsz).sum +
    ((s.fe.launches.filter fun l => l.live && l.gid == 0xFFFF).map fun l => unitsOf l.params.length).sum

def storeUnits : Nat := 65536

/-! ### Admission (R297, R298) -/

/-- A hummock can be placed: not withheld (R423). -/
def State.placeable (s : State) : Nat := allHums.countP fun g => !(s.mss.withheld ||| s.mss.withheldUe).getLsbD g

/-- The rate of a point for admission, in hundredths of a step per µs (R15, R429, R432). -/
def Power.rateOf (p : Power) (pt : Nat) (paced : Bool) : Nat :=
  let c := (p.rates[pt]?).getD (0, 0, 0)
  let r := if pt = 2 then c.2.1.toNat else c.1.toNat
  if paced then 98 * r else 100 * r

/-- Paced counts for admission while in force or pending (R15). -/
def State.admitPaced (s : State) : Bool := s.pwc.paceAct || s.pwc.pacePend

def State.admitRate (s : State) : Nat := s.pwc.rateOf s.pwc.admitPt.toNat s.admitPaced

def ceilDiv (a b : Nat) : Nat := (a + b - 1) / b

/-- WFIXED under the HBM rate in force (R446), as a fraction. -/
def State.wfixedScale (s : State) : Nat × Nat :=
  if s.pwc.actRate = 1 then (8, 7) else if s.pwc.actRate = 2 then (4, 3) else (1, 1)

/-- D of R297. -/
def State.boundD (s : State) (wsteps wfixed : Nat) : Nat :=
  let (n, d) := s.wfixedScale
  ceilDiv (wsteps * 100) (Nat.max 1 s.admitRate) + ceilDiv (wfixed * n) (d * 1000)

def State.anySref (s : State) : Bool :=
  (List.range 24).any fun k => (s.reg (secBase (k / 3) + 0x200 + 8 * (k % 3))).getLsbD 0

/-- W of R297. -/
def State.boundW (s : State) (nhum : Nat) : Nat := ceilDiv nhum 4 * 30 + (if s.anySref then 5 else 0)

/-- The recovery reserve in µs. -/
def State.reserve (s : State) : Nat := Nat.min (Nat.max (s.regField 0x68 0 16) 1000) 30000 * 1000

/-- Q of R297. -/
def State.boundQ (s : State) : Nat := ((s.fe.launches.filter Launch.live).map fun l => l.d).sum

/-- Step 10 of R277, then R298 and R423: OK where the launch is admitted. -/
def State.admitStatus (s : State) (c units nhum d deadline : Nat) : BitVec 16 :=
  let w := s.boundW nhum
  let b := d + s.boundQ + w + s.reserve
  if 8192 ≤ s.fe.launches.countP Launch.journalled || storeUnits < s.storeUsed + units then stNoSpace
  else if 4096 ≤ (s.unpublished c).length then stBackpressure
  else if s.placeable < nhum || deadline < b || s.reserve < d + w then stRefusedLate
  else stOK

/-- The admission bound, saturating, and the operating point used (R279). -/
def State.admitData (s : State) (nhum d : Nat) : Nat :=
  Nat.min (d + s.boundQ + s.boundW nhum + s.reserve) (2 ^ 32 - 1) + 2 ^ 32 * s.pwc.admitPt.toNat

/-- A launch as journalled at admission. -/
structure NewLaunch where
  ctx : BitVec 6
  seq : BitVec 64
  gid : BitVec 16
  ver : BitVec 32
  image : BitVec 64
  imgCtx : BitVec 6
  mode : BitVec 2
  nhum : Nat
  wsteps : Nat
  wfixed : Nat
  params : List Byte
  watch : BitVec 64
  seed : BitVec 64
  deadline : BitVec 32
  deriving DecidableEq, Repr

def State.addLaunch (s : State) (n : NewLaunch) (d : Nat) : State :=
  let l : Launch :=
    { id := s.fe.nextLaunch, ctx := n.ctx, seq := n.seq, gid := n.gid, ver := n.ver, image := n.image, imgCtx := n.imgCtx
      mode := n.mode, nhum := n.nhum, params := n.params, watch := n.watch, seed := n.seed, deadline := n.deadline
      d := d, rate := s.admitRate, paced := s.admitPaced, js := .admitted, att := 1, epoch := 0, numOvf := false
      cause := none, fired := none, late := false, abortAsked := false, ended := 0, record := none, pos := none }
  s.modFe fun f => { f with launches := f.launches ++ [l], nextLaunch := f.nextLaunch + 1 }

/-- Admit a launch, or refuse it: status and DATA. -/
def State.admitNow (s : State) (n : NewLaunch) : Done :=
  let d := s.boundD n.wsteps n.wfixed
  let units := if n.gid = 0xFFFF then unitsOf n.params.length else 0
  let st := s.admitStatus n.ctx.toNat units n.nhum d n.deadline.toNat
  if st = stOK then .now (s.addLaunch n d) stOK (s.admitData n.nhum d) else .now s st 0

/-- The columns of R282 that concern a launch, but for the mode. -/
def State.launchLegal (s : State) (c : Nat) : Bool :=
  !s.fe.quiesced && !s.frozen &&
    (match s.ep.st with
     | .sundered | .doubt => false
     | _ => true) &&
    (match s.ctxSt c with
     | .opened | .blocked => true
     | _ => false)

/-! ### Doorbells (R294 to R296) -/

def State.graphOf (s : State) (gid : Nat) : Option Graph := s.fe.graphs.find? fun g => g.gid.toNat == gid

/-- GRAPH of the state code (R275). -/
def State.graphCode (s : State) (gid : Nat) : Nat :=
  match s.graphOf gid with
  | none => 0
  | some g => if g.retiring then 2 else 1

def Graph.bytesOf (g : Graph) (v : BitVec 32) : List Byte :=
  match g.versions.find? fun x => x.num == v with
  | some x => x.bytes
  | none => []

/-- Checks 2 to 5 of R296 for the entry of slot i of context c: STATUS, STATE and DATA of the reply. That the image's sluices lie
below the context's count (07 R184) is checked here as for LAUNCH: the context is not known before (log 36). -/
def State.decideDoorbell (s : State) (c : BitVec 6) (e : List Byte) : State × BitVec 16 × BitVec 32 × Nat :=
  let code := s.stateCode c.toNat 0
  let gid := field e 0 2
  let g := s.graphOf gid
  if g.any fun x => !x.ctxmask.getLsbD c.toNat then (s.violCmd, stOK, 0, 0)
  else if 4095 < gid || field e 4 4 == 0 || 2 ≤ field e 2 1 || field e 3 1 != 0 || field e 0x18 8 != 0 then
    (s, stBadParam, code, 0)
  else
    match g with
    | none => (s, stBadState, code, 0)
    | some x =>
      if !(s.cip.modeActive && !x.retiring && s.launchLegal c.toNat) then (s, stBadState, code, 0)
      else if x.slus.any (fun n => (s.ctx c.toNat).sluCount.toNat ≤ n) then (s, stBadParam, code, 0)
      else
        match s.admitNow
          { ctx := c, seq := BitVec.ofNat 64 (field e 8 8), gid := x.gid, ver := x.current, image := x.image, imgCtx := 0
            mode := x.mode, nhum := x.nhum, wsteps := x.wsteps, wfixed := x.wfixed, params := x.bytesOf x.current
            watch := 0, seed := BitVec.ofNat 64 (field e 0x10 8), deadline := BitVec.ofNat 32 (field e 4 4) } with
        | .now t st d => (t, st, code, d)
        | .later t d => (t, stOK, code, d)
        | .held _ => (s, stOK, code, 0)

/-- The front end takes slot i of context c: its entry is read now (R296). -/
def State.takeSlot (s : State) (c : BitVec 6) (i : BitVec 4) : State :=
  let x := s.ctx c.toNat
  let e := bread x.slots (64 * i.toNat) 32
  let seq := BitVec.ofNat 64 (field e 8 8)
  let x1 := { x with submitted := x.submitted &&& ~~~(1#16 <<< i.toNat) }
  let s1 := s.setCtx c.toNat x1
  let (s2, st, code, d) : State × BitVec 16 × BitVec 32 × Nat :=
    if seq != x.dbSeq then (s1, stBadSeq, s1.stateCode c.toNat 0, 0)
    else (s1.setCtx c.toNat { x1 with dbSeq := x1.dbSeq + 1 }).decideDoorbell c e
  let r : Reply :=
    { status := st, opc := 0x10, state := code, seq := seq, data := if st = stOK then BitVec.ofNat 128 d else 0
      irq := false, path := .ring }
  let s3 := (s2.modCtx c.toNat fun y => { y with slots := bwrite y.slots (64 * i.toNat + 32) (replyBytes r false) }).jot fepIx
  if field e 2 1 % 2 = 1 then s3.msix ((s3.reg (0x2008 + 32 * c.toNat)).extractLsb' 6 11) else s3

/-- Submissions with fewer than k ring slots still ahead are taken in their order of arrival while the front end decides; `fuel` is
at least their number (R296). -/
def State.takeDoorbells (s : State) (k : Nat) : Nat → State
  | 0 => s
  | fuel + 1 =>
    match s.fe.dbq with
    | [] => s
    | (c, i, ahead) :: rest =>
      if s.feRuns && decide (ahead < k) then State.takeDoorbells ((s.modFe fun f => { f with dbq := rest }).takeSlot c i) k fuel
      else s

/-- The submissions are taken that arrived before a ring packet of k slots at the ring's head did (R296): fewer slots than its own
lay before the tail then. -/
def State.takeBefore (s : State) (k : Nat) : State := s.takeDoorbells k s.fe.dbq.length

/-- The submissions are taken that no ring packet comes before. -/
def State.drainDoorbells (s : State) : State := s.takeBefore 1

/-- The command ring consumes no more packets: no submission waits for one. -/
def State.freeDoorbells (s : State) : State :=
  (s.modFe fun f => { f with dbq := f.dbq.map fun d => (d.1, d.2.1, 0) }).drainDoorbells

/-- A DB_GO bit: a slot already submitted and not yet taken is ignored (R296); a submission latches through a chip reset
(R481). Ring slots placed before it come first (log 120). -/
def State.submit (s : State) (c : BitVec 6) (i : BitVec 4) : State :=
  let x := s.ctx c.toNat
  if !s.hostOk || x.submitted.getLsbD i.toNat then s
  else
    let s1 := s.setCtx c.toNat { x with submitted := x.submitted ||| (1#16 <<< i.toNat) }
    (s1.modFe fun f => { f with dbq := f.dbq ++ [(c, i, if s.ringEn then s.ringAvail else 0)] }).drainDoorbells

end Sys2Proof.Machine
end

