-- ==== Sys2Proof/Machine/Commands.lean ====
section
/-!
DEFINITION. Sys2Proof/Machine/Commands.lean: how a Lerkar packet is taken from the command ring, the mailbox or a session
(11 R270 to R273, R286), the checks in their order (R277, R278), and its reply.
-/

namespace Sys2Proof.Machine

/-- Who may issue an opcode (R278). -/
inductive Cls where
  | any | kernel | context | secure
  deriving DecidableEq, Repr

/-- What the checks of R277 need of a packet: opcode, class, whether LEN is within the opcode's range, whether its
parameter fields are legal, the context it names, the state of its graph, and legality in the present state. -/
structure Chk where
  opc : BitVec 8
  cls : Cls
  lenOk : Bool
  argsOk : Bool
  named : Nat
  graph : State → Nat := fun _ => 0
  legal : State → Bool := fun _ => true
  spans : State → List (Nat × Nat × Nat) := fun _ => []   -- device memory that the command accesses: context, address, bytes

/-- A BIST run's reply is awaited on a path (R420). -/
def State.bistWaits (s : State) (p : Path) : Bool :=
  s.mss.bist.any fun b => b.reply.path == p

/-- The front end consumes packets: no reply is outstanding and no ring access is blocked (R273, R284, R285). -/
def State.feReady (s : State) : Bool :=
  s.hostOk && s.feRuns && !s.fe.rdblk && !s.fe.wrblk && s.fe.wait.isNone && !s.bistWaits .ring

inductive Taken where
  | no
  | refused (status : BitVec 16)
  | go
  deriving DecidableEq, Repr

/-- LEN can be trusted (R276). -/
def lenSound (h : Hdr) : Bool := h.len ≤ 4064 && h.len % 8 == 0

/-- Take a packet from the command ring: framing, then sequence (R270 to R273, R277). Doorbells that arrived before it are taken first
(12 R296). -/
def State.takeRing (s : State) (h : Hdr) : State × Taken :=
  if !(s.feReady && s.ringEn && !s.rplFull) then (s, .no)
  else
    let size := s.cmdSize
    let room := size - s.fe.head.toNat
    let n := if lenSound h then (32 + h.len + 63) / 64 else 1
    let past : Bool := room < n
    let k := Nat.min n room
    let s0 := s.takeBefore k
    if s0.ringAvail < k then (s0, .no)
    else
      let s1 := s0.modFe fun f =>
        { f with
          head := BitVec.ofNat 16 ((f.head.toNat + k) % size), dbq := f.dbq.map fun d => (d.1, d.2.1, d.2.2 - k) }
      if !lenSound h || past then (s1, .refused stBadLength)
      else if h.seq != s1.fe.seq then (s1, .refused stBadSeq)
      else (s1.modFe fun f => { f with seq := f.seq + 1 }, .go)

/-- The MGP answers: it runs, and core power stands. -/
def State.mgpUp (s : State) : Bool := s.board.coreOn && s.procReady mgpIx

/-- Take a packet from the MSS mailbox, while no other is being decided (R286, R427). -/
def State.takeMailbox (s : State) (h : Hdr) : State × Taken :=
  if !(s.hostOk && s.mgpUp && !s.mss.mbBusy) then (s, .no)
  else
    let s1 := { s with mss := { s.mss with mbBusy := true } }
    if !lenSound h then (s1, .refused stBadLength)
    else if h.seq != s1.fe.mbSeq then (s1, .refused stBadSeq)
    else (s1.modFe fun f => { f with mbSeq := f.mbSeq + 1 }, .go)

def State.countMsg (s : State) : State := { s with mss := { s.mss with viol := satInc s.mss.viol } }

/-- An authenticated session (R410). -/
def State.authSession (s : State) (sid : Nat) : Bool :=
  match s.sessionOf sid with
  | some x => x.opened && x.auth
  | none => false

/-- Take a packet that a CMD message carries: an authenticated session only (R409). -/
def State.takeSession (s : State) (sid : Nat) (h : Hdr) : State × Taken :=
  if !s.mgpUp then (s, .no)
  else if !s.authSession sid then (s.countMsg, .no)
  else
    match s.sessionOf sid with
    | none => (s, .no)
    | some x =>
      let s1 := s.heard sid
      if !lenSound h then (s1, .refused stBadLength)
      else if h.seq != x.seq then (s1, .refused stBadSeq)
      else (s1.modSession sid fun y => { y with seq := y.seq + 1 }, .go)

/-- Take a packet that the MGP itself issues: a path with its own expected SEQ (R286). -/
def State.takeOwn (s : State) (h : Hdr) : State × Taken :=
  if !s.mgpUp then (s, .no)
  else if !lenSound h then (s, .refused stBadLength)
  else if h.seq != s.fe.mgpSeq then (s, .refused stBadSeq)
  else (s.modFe fun f => { f with mgpSeq := f.mgpSeq + 1 }, .go)

def State.take (s : State) (h : Hdr) : State × Taken :=
  match h.path with
  | .ring => s.takeRing h
  | .mailbox => s.takeMailbox h
  | .session sid => s.takeSession sid h
  | .mgp => s.takeOwn h

/-- The packet breaks its class (R278); only an authenticated session or the MGP itself reaches a class S opcode. -/
def classBroken (c : Cls) (h : Hdr) : Bool :=
  match c with
  | .any | .context => false
  | .kernel => h.ctx != 0
  | .secure => match h.path with
    | .session _ | .mgp => false
    | .ring | .mailbox => true

/-- Control opcodes belong to the command ring (R286). -/
def offPath (opc : BitVec 8) (h : Hdr) : Bool := h.path != .ring && opc.toNat < 0x80

/-- A management command or a membership record on the ring waits while the MGP restarts (15 R375). -/
def State.mgpHolds (s : State) (h : Hdr) (opc : BitVec 8) : Bool :=
  h.path == .ring && (opc == 0x20 || decide (0x80 ≤ opc.toNat)) && !s.procReady mgpIx

/-- A packet of the ring has been decided: the FEP's journal holds it (R285), and the doorbells that came after it are taken (12
R296). -/
def State.concluded (s : State) (h : Hdr) : State :=
  match h.path with
  | .ring => (s.jot fepIx).drainDoorbells
  | _ => s

/-- Decide a packet that has been taken, from its opcode on (R277); STATE is read before the effect (log 30). -/
def State.judgePacket (s1 : State) (h : Hdr) (k : Chk) (act : State → Done) : State :=
    let code := s1.stateCode k.named (k.graph s1)
    let no (st : BitVec 16) : State := s1.reply (mkReply st k.opc code h 0)
    if offPath k.opc h then no stBadOpcode
    else if classBroken k.cls h then s1.violCmd.reply (mkReply stOK k.opc 0 h 0)
    else if !k.lenOk then no stBadLength
    else if h.rsvd || !k.argsOk then no stBadParam
    else if !k.legal s1 then no stBadState
    else
      match act s1 with
      | .now s2 st d => s2.reply (mkReply st k.opc code h d)
      | .later s2 d => s2.modFe fun f => { f with wait := some (mkReply stOK k.opc code h d) }
      | .held f => f (mkReply stOK k.opc code h 0)

/-- Decide one Lerkar packet by the checks of R277 in their order. One whose accesses stall at a sector in reset waits (14 R352). -/
def State.command (s : State) (h : Hdr) (k : Chk) (act : State → Done) : State :=
  match (if s.mgpHolds h k.opc || (k.spans s).any s.spanHeld then (s, Taken.no) else s.take h) with
  | (s1, .no) => s1
  | (s1, .refused st) => (s1.reply (mkReply st k.opc (s1.stateCode k.named (k.graph s1)) h 0)).concluded h
  | (s1, .go) => (s1.judgePacket h k act).concluded h

/-- An address's bits [63:52] are zero and its alignment holds (R279). -/
def addrOk (a : BitVec 64) (align : Nat) : Bool := a.toNat < 2 ^ 52 && a.toNat % align == 0

/-- A command with a reserved opcode: BAD_OPCODE once it is processed (R276, R277). -/
def State.badOpcode (s : State) (h : Hdr) (opc : BitVec 8) : State :=
  match s.take h with
  | (s1, .no) => s1
  | (s1, .refused st) => (s1.reply (mkReply st opc (s1.stateCode h.ctx.toNat 0) h 0)).concluded h
  | (s1, .go) => (s1.reply (mkReply stBadOpcode opc (s1.stateCode h.ctx.toNat 0) h 0)).concluded h

/-- The opcodes of R279; every other is reserved. -/
def opcodes : List Nat :=
  [0x00, 0x01, 0x02, 0x03, 0x04, 0x05, 0x06, 0x07, 0x08, 0x09, 0x10, 0x18, 0x19, 0x1A, 0x20, 0x21, 0x22, 0x23, 0x80, 0x81, 0x82,
    0x83, 0x90, 0x91, 0x92]

/-- Accepted launches of context c not yet ended. -/
def State.liveOf (s : State) (c : Nat) : Nat := s.fe.launches.countP fun l => l.live && l.ctx.toNat == c

end Sys2Proof.Machine
end

