-- ==== Sys2Proof/Machine/Launching.lean ====
section
/-!
DEFINITION. Sys2Proof/Machine/Launching.lean: launches through the ring (11 R280; 12 R297) and the doorbell's submission
(R296).
-/

namespace Sys2Proof.Machine

/-- Every input is read before contents are judged (R277): with an image that breaks R184, a parameter block that cannot be
read is an input fault. -/
def State.paramsRead (s : State) (c : Nat) (params : BitVec 64) (n : Option Nat) : State × BitVec 16 :=
  match n with
  | none => (s, stBadParam)
  | some k =>
    match s.feRead c params.toNat k with
    | (s1, none) => (s1, stAddrFault)
    | (s1, some _) => (s1, stBadParam)

/-- Steps 8 to 10 for LAUNCH: the image and the parameter block are read, then checked. An inline block has LEN − 40 bytes (R280). -/
def State.launchAct (s : State) (h : Hdr) (image params watch seed : BitVec 64) (deadline : BitVec 32)
    (inl : List Byte) : Done :=
  let c := h.ctx.toNat
  match s.readImage c image.toNat with
  | (s1, .fault) => .now s1 stAddrFault 0
  | (s1, .bad n) =>
    let r := s1.paramsRead c params (if params = 0 then none else n)
    .now r.1 r.2 0
  | (s1, .ok i) =>
    let (s2, blk) : State × Option (List Byte) :=
      if params = 0 then (s1, some (slice inl 0 (h.len - 40))) else s1.feRead c params.toNat i.paramsz
    match blk with
    | none => .now s2 stAddrFault 0
    | some b =>
      if b.length != i.paramsz || (watch == 0 && i.nwatch != 0) || i.slus.any (fun x => (s2.ctx c).sluCount.toNat ≤ x) then
        .now s2 stBadParam 0
      else
        s2.admitNow
          { ctx := h.ctx, seq := h.seq, gid := 0xFFFF, ver := 0, image := image, imgCtx := h.ctx, mode := i.mode
            nhum := i.nhum, wsteps := i.wsteps, wfixed := i.wfixed, params := b, watch := watch, seed := seed
            deadline := deadline }

def State.cmdLaunch (s : State) (h : Hdr) (image params watch seed : BitVec 64) (deadline : BitVec 32) (inl : List Byte) :
    State :=
  s.command h
    { opc := 0x10, cls := .context, lenOk := 40 ≤ h.len, named := h.ctx.toNat
      argsOk := addrOk image 256 && addrOk params 8 && addrOk watch 64 && deadline != 0
      legal := fun t => !t.cip.modeActive && t.launchLegal h.ctx.toNat
      spans := fun t => t.imageSpans h.ctx.toNat image.toNat params.toNat }
    (fun t => t.launchAct h image params watch seed deadline inl)

def execLaunch (h : Hdr) (image params watch seed : BitVec 64) (deadline : BitVec 32) (inl : List Byte) (s : State) :
    Host.Outcome State Fault Refusal :=
  .next (s.cmdLaunch h image params watch seed deadline inl)

/-! ### Doorbells (R296) -/

def execDoorbellLaunch (ctx : BitVec 6) (slot : BitVec 4) (s : State) : Host.Outcome State Fault Refusal :=
  .next (s.submit ctx slot)

end Sys2Proof.Machine
end

