-- ==== Sys2Proof/Machine/Completion.lean ====
section
/-!
DEFINITION. Sys2Proof/Machine/Completion.lean: completion records and their rings (12 R305 to R312), deadlines (R302,
R303), and the command ring's enable, failures and resume (11 R284, R288).
-/

namespace Sys2Proof.Machine

/-! ### Completion records -/

/-- R306. -/
def recordBytes (l : Launch) (r : CplRec) (phase : Bool) : List Byte :=
  leBytes 2 r.status.toNat ++
    [BitVec.ofNat 8 ((if phase then 1 else 0) + (if r.numev then 2 else 0) + (if r.late then 4 else 0) +
      (if r.held then 8 else 0)), l.ctx.setWidth 8] ++
    leBytes 2 r.att.toNat ++ leBytes 2 r.gid.toNat ++ leBytes 8 r.seq.toNat ++ leBytes 8 r.epoch.toNat ++
    leBytes 4 r.ver.toNat ++ leBytes 4 r.ntag.toNat

/-- Retained records of context c (R288). -/
def State.retained (s : State) (c : Nat) : Nat :=
  (s.unpublished c).countP fun l => l.record.any fun r => r.held

/-- The record of context c to be written next: of its oldest launch, once that has ended. -/
def State.nextRecord (s : State) (c : Nat) : Option (Launch × CplRec) :=
  match s.unpublished c with
  | l :: _ => l.record.map fun r => (l, r)
  | [] => none

def State.dropLaunch (s : State) (id : Nat) : State :=
  s.modFe fun f => { f with launches := f.launches.filter fun l => l.id != id }

/-- Write the next record of context c at its recorded position, or at the tail, which then advances (R305, R306). -/
def State.writeRecord (s : State) (c : Nat) (l : Launch) (r : CplRec) : State :=
  let x := s.ctx c
  let (i, ph) := l.pos.getD (x.tail, x.phase)
  let s1 := s.emit (.hostWrite (s.reg (0x2000 + 32 * c) + BitVec.ofNat 64 (32 * i.toNat)) (recordBytes l r ph))
  let wrap := i.toNat + 1 = (s.cplSize c).getD 128
  let s2 := (s1.dropLaunch l.id).modCtx c fun y =>
    { y with tail := if wrap then 0 else i + 1, phase := if wrap then !ph else ph }
  s2.jot fepIx

/-- A record of context c may be written now, apart from COMPLETION_BLOCKED. -/
def State.recordDue (s : State) (c : Nat) : Option (Launch × CplRec) :=
  if s.hostOk && s.procReady fepIx && s.fw.handoff.isNone && s.err.chip.isNone then
    match s.nextRecord c with
    | some (l, r) => if l.pos.isSome || s.cplRoom c then some (l, r) else none
    | none => none
  else none

/-- Sequence number of the oldest retained record of context c (18 R465), or 0. -/
def oldestSeq (s : State) (c : Nat) : Nat :=
  match (s.unpublished c).find? fun l => l.record.any fun r => r.held with
  | some l => l.seq.toNat
  | none => 0

/-- The context's vector (R308, R312). -/
def State.cplMsix (s : State) (c : Nat) : State := s.msix ((s.reg (0x2008 + 32 * c)).extractLsb' 6 11)

/-- The write of launch l's record fails (R308): it is kept, and the context is COMPLETION_BLOCKED. -/
def State.failRecord (s : State) (c : Nat) (l : Launch) (resp : DmaResp) (kind : Nat) : State :=
  let (i, _) := l.pos.getD ((s.ctx c).tail, (s.ctx c).phase)
  let addr := (s.reg (0x2000 + 32 * c)).toNat + 32 * i.toNat
  let s1 := s.modLaunch l.id fun x => { x with pos := none, record := x.record.map fun r => { r with held := true } }
  let s2 := (s1.modCtx c fun x => { x with st := .blocked }).jot fepIx
  (s2.feEvent 0x12 kind c (respCode resp) (s2.retained c) addr (oldestSeq s2 c)).cplMsix c

def execCompletionRecordWrite (ctx : BitVec 6) (s : State) : Host.Outcome State Fault Refusal :=
  match s.ctxSt ctx.toNat, s.recordDue ctx.toNat with
  | .blocked, _ => .next s
  | _, some (l, r) => .next (s.writeRecord ctx.toNat l r)
  | _, none => .next s

def execCompletionWriteFailed (ctx : BitVec 6) (resp : DmaResp) (s : State) : Host.Outcome State Fault Refusal :=
  match s.ctxSt ctx.toNat, s.recordDue ctx.toNat with
  | .blocked, _ => .next s
  | _, some (l, _) => .next (s.failRecord ctx.toNat l resp 0)
  | _, none => .next s

/-- The context leaves COMPLETION_BLOCKED once a flush's first write has succeeded (R310, R465). -/
def State.released (s : State) (c : Nat) : State :=
  match s.ctxSt c with
  | .blocked =>
    let s1 := (s.modCtx c fun x => { x with st := .opened }).jot fepIx
    s1.feEvent 0x12 2 c 0xFF (s1.retained c) 0 (oldestSeq s1 c)
  | _ => s

/-- Write records, oldest first, until the ring is full, the write numbered `fail` fails, or none remain (R310). -/
def State.flushLoop (s : State) (c : Nat) (fail : Option (BitVec 16 × DmaResp)) : Nat → Nat → State × Nat
  | 0, n => (s, n)
  | fuel + 1, n =>
    match s.recordDue c with
    | none => (s, n)
    | some (l, r) =>
      match fail with
      | some (k, resp) =>
        if k.toNat = n then
          let kind := match s.ctxSt c with
            | .blocked => 1
            | _ => 0
          (s.failRecord c l resp kind, n)
        else State.flushLoop ((s.writeRecord c l r).released c) c fail fuel (n + 1)
      | none => State.flushLoop ((s.writeRecord c l r).released c) c fail fuel (n + 1)

/-- R310; `fail` says which write the host completes with an error, none: none does. -/
def execCompletionFlush (h : Hdr) (fail : Option (BitVec 16 × DmaResp)) (s : State) : Host.Outcome State Fault Refusal :=
  let c := h.ctx.toNat
  .next (s.command h
    { opc := 0x09, cls := .context, lenOk := h.len == 0, argsOk := true, named := c
      legal := fun t => match t.ctxSt c with
        | .opened | .blocked => true
        | _ => false }
    (fun t =>
      let (t1, n) := t.flushLoop c fail (t.unpublished c).length 0
      .now t1 stOK (n + 2 ^ 32 * t1.retained c)))

/-- A ring position recorded for a record not yet written is discarded when the ring's base or enable changes (R305). -/
def State.unplace (s : State) (c : Nat) : State :=
  let drop (l : Launch) : Launch :=
    if l.ctx.toNat == c && l.pos.isSome then
      { l with pos := none, record := l.record.map fun r => { r with held := true } }
    else l
  (s.modFe fun f => { f with launches := f.launches.map drop }).jot fepIx

/-- A write of FE_CPL_CTL[c] (R312). EN has its effects with a legal LOG2 only. -/
def State.cplCtlStore (s : State) (m : Master) (c : Nat) (half : Option Bool) (v : BitVec 64) : State :=
  let (s1, old) := s.regStore m (0x2008 + 32 * c) half v
  let now := (s1.reg (0x2008 + 32 * c)).getLsbD 0
  if now == old.getLsbD 0 then s1
  else
    let s2 := s1.unplace c
    if now && (s1.cplSize c).isSome then
      (s2.setReg (0x2010 + 32 * c) 0).modCtx c fun x => { x with tail := 0, phase := true }
    else s2

def State.cplBaseStore (s : State) (m : Master) (c : Nat) (half : Option Bool) (v : BitVec 64) : State :=
  let (s1, old) := s.regStore m (0x2000 + 32 * c) half v
  if s1.reg (0x2000 + 32 * c) = old then s1 else s1.unplace c

def execCplRingEnable (m : Master) (ctx : BitVec 6) (v : BitVec 64) (s : State) : Host.Outcome State Fault Refusal :=
  .next (if s.arrives m then s.cplCtlStore m ctx.toNat none v else s)

/-! ### The command ring's registers and failures (R284, R288) -/

/-- A write of FE_RING_CTL: a 0-to-1 change of EN resets both heads and tails, and PHASE, with legal sizes. A blocked access stays so until a retry
succeeds (R284). With EN at 0 no doorbell waits for the ring. -/
def State.ringCtlStore (s : State) (m : Master) (half : Option Bool) (v : BitVec 64) : State :=
  let (s1, old) := s.regStore m 0x40 half v
  if s1.ringEn && !old.getLsbD 0 then
    ((s1.setReg 0x10 0).setReg 0x30 0).modFe fun f => { f with head := 0, rplTail := 0, phase := true }
  else if s1.ringEn then s1
  else s1.freeDoorbells

def execFeRingEnable (m : Master) (v : BitVec 64) (s : State) : Host.Outcome State Fault Refusal :=
  .next (if s.arrives m then s.ringCtlStore m none v else s)

def State.ringMsix (s : State) : State := s.msix ((s.reg 0x40).extractLsb' 4 11)

/-- The DMA of a ring slot, or of the last reply, fails; with that access blocked already, none is under way. -/
def execRingDmaFailed (reply : Bool) (resp : DmaResp) (s : State) : Host.Outcome State Fault Refusal :=
  if !s.ringEn || !s.hostOk then .next s
  else if reply then
    match s.fe.heldReply, s.fe.wrblk with
    | none, _ => .next s
    | _, true => .next s
    | some _, false =>
      let wrap := s.fe.rplTail = 0
      let i := if wrap then s.rplSize - 1 else s.fe.rplTail.toNat - 1
      let s1 := s.modFe fun f =>
        { f with rplTail := BitVec.ofNat 16 i, phase := if wrap then !f.phase else f.phase, wrblk := true }
      .next ((s1.feEvent 0x11 1 0 (respCode resp) 0 ((s1.reg 0x20).toNat + 32 * i) s1.fe.seq.toNat).ringMsix)
  else if s.feReady && s.ringAvail != 0 then
    let s1 := s.modFe fun f => { f with rdblk := true }
    .next ((s1.feEvent 0x11 0 0 (respCode resp) 0 ((s1.reg 0x00).toNat + 64 * s1.fe.head.toNat) s1.fe.seq.toNat).ringMsix)
  else .next s

/-- FE_RING_RESUME.GO: the failed access is retried. -/
def State.ringRetry (s : State) : State :=
  let s1 := s.modFe fun f => { f with rdblk := false, wrblk := false }
  match s.fe.wrblk, s.fe.heldReply with
  | true, some r => s1.ringReply r
  | _, _ => s1

def execRingResume (m : Master) (s : State) : Host.Outcome State Fault Refusal :=
  .next (s.strobe m 0x58 State.ringRetry)

/-! ### Deadlines (R302, R303, R262) -/

/-- The deadline of launch id passes. -/
def State.expire (s : State) (l : Launch) : State :=
  let mark : State := s.modLaunch l.id fun x => { x with late := true, cause := x.cause.orElse fun _ => some 2 }
  if s.ep.launch == some l.id then
    match s.ep.st with
    | .running | .prepared =>
      if s.ep.sent then s.modLaunch l.id fun x => { x with late := true }
      else mark.memberFault 2
    | .doubt => s.modLaunch l.id fun x => { x with late := true }
    | .sundered => ((s.endLaunch l.id stExpired false).gateHums l.id).leaveEpoch
    | _ => mark
  else
    match s.ep.st with
    | .sundered => s.endLaunch l.id stExpired false
    | _ => if l.att = 1 then s.endLaunch l.id stExpired false else mark

/-- While the FEP restarts the deadline is noted, and acted on when the FEP reports ready (15 R376). -/
def execDeadlineExpiry (launch : Nat) (s : State) : Host.Outcome State Fault Refusal :=
  match s.launchOf launch with
  | some l =>
    .next (if !l.live then s
      else if s.procReady fepIx then s.expire l
      else s.modLaunch l.id fun x => { x with late := true })
  | none => .next s

end Sys2Proof.Machine
end

