-- ==== Sys2Proof/Machine/FrontEnd.lean ====
section
/-!
DEFINITION. Sys2Proof/Machine/FrontEnd.lean: the Lerkar commands of the front end (11 R279): contexts, sluices, the
watch, graphs, membership (10 R263, R264), admission, and RESET.
-/

namespace Sys2Proof.Machine

def ctxLegal (p : CtxSt → Bool) (c : Nat) (t : State) : Bool := p (t.ctxSt c)

def stFree : CtxSt → Bool
  | .free => true
  | _ => false

def stOpen : CtxSt → Bool
  | .opened => true
  | _ => false

def stUsable : CtxSt → Bool
  | .opened | .blocked => true
  | _ => false

/-- OPEN, with no accepted launch outstanding (R282). -/
def closable (c : Nat) (t : State) : Bool := stOpen (t.ctxSt c) && t.liveOf c == 0

/-- NOP, and a packet whose opcode is reserved, which step 3 of R277 refuses. An opcode that another command has spells that
command (log 138). -/
def execNop (h : OpHdr) (s : State) : Host.Outcome State Fault Refusal :=
  .next (if h.opc = 0 then
      s.command h.hdr { opc := 0x00, cls := .any, lenOk := true, argsOk := true, named := h.hdr.ctx.toNat } (fun t => .now t stOK 0)
    else if opcodes.contains h.opc.toNat then s
    else s.badOpcode h.hdr h.opc)

/-! ### Contexts -/

def tctxOk (c : BitVec 8) : Bool := 1 ≤ c.toNat && c.toNat ≤ 63

def execCtxOpen (h : Hdr) (tctx : BitVec 8) (s : State) : Host.Outcome State Fault Refusal :=
  let c := tctx.toNat
  .next (s.command h
    { opc := 0x01, cls := .kernel, lenOk := h.len == 8, argsOk := tctxOk tctx, named := c, legal := ctxLegal stFree c }
    (fun t => .now (t.modCtx c fun x => { x with st := .opened, dbSeq := 0 }) stOK 0))

/-- UNSEAL (16 R415): SEALED is cleared on every frame that c owns, each zeroed under R232; then the keys are
discarded. -/
def State.unsealCtx (s : State) (c : Nat) : State :=
  let s1 := s.mem.own.foldl (fun (acc : State) (p : Nat × OwnEntry) =>
    if p.2.isSealed && p.2.ctx.toNat == c then acc.ownWrite p.1 { p.2 with isSealed := false } else acc) s
  s1.modMem fun m => { m with keys := sset 0 m.keys c 0, loaded := m.loaded &&& ~~~(1#64 <<< c) }

/-- Closing unseals a sealed context (16 R415). Its sluice range and its armed entries with their runs stay for the next CTX_OPEN
(log 37). -/
def execCtxClose (h : Hdr) (tctx : BitVec 8) (s : State) : Host.Outcome State Fault Refusal :=
  let c := tctx.toNat
  .next (s.command h
    { opc := 0x02, cls := .kernel, lenOk := h.len == 8, argsOk := tctxOk tctx, named := c, legal := closable c }
    (fun t =>
      let t1 := if t.isSealed c then t.unsealCtx c else t
      .now (t1.modCtx c fun x => { x with st := .free }) stOK 0))

/-- Accepted launches of context c that are not in the open epoch. -/
def State.queuedOf (s : State) (c : Nat) : List Launch :=
  s.fe.launches.filter fun l => l.live && l.ctx.toNat == c && s.ep.launch != some l.id

/-- A queued launch ends ABORTED; one that other members may be replaying is dispatched once more only to say so
(R256). -/
def State.abortQueued (s : State) (l : Launch) : State :=
  match s.ep.st with
  | .sundered => s.endLaunch l.id stAborted false
  | _ =>
    if l.att = 1 then s.endLaunch l.id stAborted false
    else s.modLaunch l.id fun x => { x with cause := x.cause.orElse fun _ => some 6 }

/-- What CTX_ABORT does to the launch in the open epoch (R349, R357): the Bool says that it is ended. One whose attempt has sent
PREPARE ends by the group's decision, also while that attempt rolls back. -/
def State.abortRunning (s : State) (c : Nat) : State × Bool :=
  match s.running with
  | none => (s, false)
  | some l =>
    if l.ctx.toNat != c || !l.live then (s, false)
    else
      match s.ep.st with
      | .running | .prepared =>
        if s.ep.sent then (s.modLaunch l.id fun x => { x with abortAsked := true }, false)
        else ((s.recordCause 6).contextAbort (errCode 1 0x40 c 0x060) 6, true)
      | .doubt => (s.modLaunch l.id fun x => { x with abortAsked := true }, false)
      | .sundered => (((s.endLaunch l.id stAborted false).gateHums l.id).leaveEpoch, true)
      | _ =>
        match l.js with
        | .prepared => (s.modLaunch l.id fun x => { x with abortAsked := true }, false)
        | _ => (s.recordCause 6, true)

def State.ctxAbort (s : State) (c : Nat) : Done :=
  if s.ctxSt c = .aborting then .now s stOK 0
  else
    let q := s.queuedOf c
    let s1 := q.foldl (fun (acc : State) l => acc.abortQueued l) s
    let (s2, ran) := s1.abortRunning c
    let n := q.length + (if ran then 1 else 0)
    match s2.err.ctxab with
    | some _ =>
      if ran then
        .later (s2.modCtx c fun x => { x with st := if x.st = .opened then .aborting else x.st }) n
      else .now s2 stOK n
    | none => .now s2 stOK n

def execCtxAbort (h : Hdr) (tctx : BitVec 8) (s : State) : Host.Outcome State Fault Refusal :=
  let c := tctx.toNat
  .next (s.command h
    { opc := 0x03, cls := .kernel, lenOk := h.len == 8, argsOk := tctxOk tctx, named := c
      legal := ctxLegal (fun x => !stFree x) c }
    (fun t => t.ctxAbort c))

/-! ### Sluices -/

/-- The range overlaps another context's (R178). -/
def State.rangeTaken (s : State) (c base count : Nat) : Bool :=
  s.fe.ctxs.any fun p =>
    p.1 != c && p.2.sluCount != 0 && count != 0 && decide (base < p.2.sluBase.toNat + p.2.sluCount.toNat) &&
      decide (p.2.sluBase.toNat < base + count)

def execSluiceRange (h : Hdr) (tctx : BitVec 8) (base count : BitVec 16) (s : State) : Host.Outcome State Fault Refusal :=
  let c := tctx.toNat
  .next (s.command h
    { opc := 0x04, cls := .kernel, lenOk := h.len == 8, named := c, legal := closable c
      argsOk := c < 64 && base.toNat < 32768 && base.toNat + count.toNat ≤ 32768 &&
        !s.rangeTaken c base.toNat count.toNat }
    (fun t => .now (t.modCtx c fun x => { x with sluBase := base, sluCount := count }) stOK 0))

/-- Is SLU below the context's count (R279)? -/
def State.sluIn (s : State) (c : Nat) (slu : BitVec 16) : Bool := decide (slu.toNat < (s.ctx c).sluCount.toNat)

def State.sluPhys (s : State) (c : Nat) (slu : BitVec 16) : Nat := (s.ctx c).sluBase.toNat + slu.toNat

/-- R283: the recorded launch and attempt stay, and the head waiter is evaluated again. -/
def execSluiceSet (h : Hdr) (slu : BitVec 16) (count : BitVec 32) (s : State) : Host.Outcome State Fault Refusal :=
  let c := h.ctx.toNat
  let n := s.sluPhys c slu
  .next (s.command h
    { opc := 0x05, cls := .context, lenOk := h.len == 8, argsOk := s.sluIn c slu, named := c, legal := ctxLegal stUsable c }
    (fun t =>
      let x := t.sluice n
      .now ((t.setSluice n { x with count := count }).serveAll n) stOK x.count.toNat))

def execSluiceSignal (h : Hdr) (slu : BitVec 16) (inc : BitVec 32) (s : State) : Host.Outcome State Fault Refusal :=
  let c := h.ctx.toNat
  let n := s.sluPhys c slu
  .next (s.command h
    { opc := 0x06, cls := .context, lenOk := h.len == 8, named := c, legal := ctxLegal stUsable c
      argsOk := s.sluIn c slu && 1 ≤ inc.toNat && inc.toNat ≤ 65535 }
    (fun t =>
      let (t1, sat) := t.addSluice n inc.toNat
      .now t1 stOK ((t1.sluice n).count.toNat + 2 ^ 32 * (if sat then 1 else 0))))

def execSluiceRead (h : Hdr) (slu : BitVec 16) (s : State) : Host.Outcome State Fault Refusal :=
  let c := h.ctx.toNat
  let n := s.sluPhys c slu
  .next (s.command h
    { opc := 0x07, cls := .context, lenOk := h.len == 8, argsOk := s.sluIn c slu, named := c, legal := ctxLegal stUsable c }
    (fun t =>
      let x := t.sluice n
      .now t stOK (x.count.toNat + 2 ^ 32 * Nat.min x.waiters.length 255)))

/-! ### The watch (06 R152) -/

def execWatchArm (h : Hdr) (tag : BitVec 32) (p n : BitVec 16) (s : State) : Host.Outcome State Fault Refusal :=
  let c := h.ctx.toNat
  .next (s.command h
    { opc := 0x08, cls := .context, lenOk := h.len == 8, argsOk := !tag.getLsbD 31, named := c
      legal := ctxLegal stUsable c }
    (fun t =>
      let x := t.ctx c
      let tg : BitVec 31 := tag.setWidth 31
      let rest := x.armed.filter fun a => a.tag != tg
      if n = 0 then .now (t.setCtx c { x with armed := rest }) stOK rest.length
      else if 256 ≤ rest.length then .now t stNoSpace 0
      else .now (t.setCtx c { x with armed := rest ++ [⟨tg, p, n, 0⟩] }) stOK (rest.length + 1)))

/-! ### Graphs (12 R290 to R293) -/

def execGraphRegister (h : Hdr) (gid : BitVec 16) (ctxmask image params : BitVec 64) (s : State) :
    Host.Outcome State Fault Refusal :=
  .next (s.command h
    { opc := 0x18, cls := .kernel, lenOk := h.len == 32, named := h.ctx.toNat
      argsOk := gid.toNat ≤ 4095 && addrOk image 256 && addrOk params 8
      graph := fun t => t.graphCode gid.toNat
      legal := fun t => t.cip.modeActive && t.graphCode gid.toNat == 0
      spans := fun t => t.imageSpans 0 image.toNat params.toNat }
    (fun t =>
      match t.readImage 0 image.toNat with
      | (t1, .fault) => .now t1 stAddrFault 0
      | (t1, .bad n) =>
        let r := t1.paramsRead 0 params n
        .now r.1 r.2 0
      | (t1, .ok i) =>
        match t1.feRead 0 params.toNat i.paramsz with
        | (t2, none) => .now t2 stAddrFault 0
        | (t2, some b) =>
          if storeUnits < t2.storeUsed + unitsOf i.paramsz then .now t2 stNoSpace 0
          else
            let g : Graph :=
              { gid := gid, image := image, ctxmask := ctxmask, paramsz := i.paramsz, nhum := i.nhum, mode := i.mode
                wsteps := i.wsteps, wfixed := i.wfixed, slus := i.slus, versions := [⟨1, b⟩], current := 1, retiring := false }
            .now (t2.modFe fun f => { f with graphs := f.graphs ++ [g] }) stOK 1))

/-- Versions of a graph that a launch not yet ended is bound to. -/
def State.boundVersions (s : State) (gid : BitVec 16) : List (BitVec 32) :=
  ((s.fe.launches.filter fun l => l.live && l.gid == gid).map fun l => l.ver).eraseDups

/-- The patch itself: a copy of the current version with SIZE bytes written at OFFSET becomes current (R292). -/
def State.patchGraph (s : State) (g : Graph) (off : Nat) (bs : List Byte) : Done :=
  let live := (g.current :: (s.boundVersions g.gid).filter fun v => v != g.current)
  if g.current = BitVec.allOnes 32 || storeUnits < s.storeUsed + unitsOf g.paramsz then .now s stNoSpace 0
  else if 4 ≤ live.length then .now s stBusyVersions 0
  else
    let old := g.bytesOf g.current
    let new := old.take off ++ bs ++ old.drop (off + bs.length)
    let g1 := { g with versions := g.versions ++ [⟨g.current + 1, new⟩], current := g.current + 1 }
    let s1 := s.modFe fun f => { f with graphs := f.graphs.map fun x => if x.gid == g.gid then g1 else x }
    .now s1.pruneGraphs stOK (g.current.toNat + 1)

def execGraphPatch (h : Hdr) (gid : BitVec 16) (offset size : BitVec 32) (src : BitVec 64) (inl : List Byte) (s : State) :
    Host.Outcome State Fault Refusal :=
  let fits := match s.graphOf gid.toNat with
    | some g => decide (offset.toNat + size.toNat ≤ g.paramsz)
    | none => true
  .next (s.command h
    { opc := 0x19, cls := .kernel, named := h.ctx.toNat
      lenOk := 24 ≤ h.len && (src != 0 || 24 + size.toNat ≤ h.len)
      argsOk := gid.toNat ≤ 4095 && offset.toNat % 8 == 0 && size.toNat % 8 == 0 && addrOk src 1 && fits
      graph := fun t => t.graphCode gid.toNat
      legal := fun t => t.cip.modeActive && t.graphCode gid.toNat == 1
      spans := fun _ => if src = 0 then [] else [(0, src.toNat, size.toNat)] }
    (fun t =>
      match t.graphOf gid.toNat with
      | none => .now t stBadState 0
      | some g =>
        if src = 0 then t.patchGraph g offset.toNat (slice inl 0 size.toNat)
        else
          match t.feRead 0 src.toNat size.toNat with
          | (t1, none) => .now t1 stAddrFault 0
          | (t1, some bs) => t1.patchGraph g offset.toNat bs))

def execGraphRetire (h : Hdr) (gid : BitVec 16) (s : State) : Host.Outcome State Fault Refusal :=
  .next (s.command h
    { opc := 0x1A, cls := .kernel, lenOk := h.len == 8, argsOk := gid.toNat ≤ 4095, named := h.ctx.toNat
      graph := fun t => t.graphCode gid.toNat
      legal := fun t => t.cip.modeActive && t.graphCode gid.toNat == 1 }
    (fun t =>
      .now (t.modFe fun f => { f with graphs := f.graphs.map fun x =>
        if x.gid == gid then { x with retiring := true } else x }).pruneGraphs stOK 0))

/-! ### Membership (10 R263, R264) -/

/-- Length of a membership record of n members before its signature. -/
def memberBody (n : Nat) : Nat := (0x20 + 2 * n + 7) / 8 * 8

def sigLen : Nat := 49856

/-- Device IDs of a record of n members. -/
def memberIds (r : List Byte) (n : Nat) : List Nat := (List.range n).map fun i => field r (0x20 + 2 * i) 2

/-- R263: the record verifies, is newer, and names this device once. The bytes between MEMBERS and SIG, which the layout does not name,
count as a reserved field (log 149). -/
def State.memberRecordOk (s : State) (r : List Byte) (n : Nat) : Bool :=
  let ids := memberIds r n
  let body := memberBody n
  field r 0 4 == 0x4D454D42 && field r 4 2 == 1 && decide (n ≤ 32768) &&
    (match s.mss.fmkey with
     | some k => Config.slhVerify k (r.take body) (slice r body sigLen)
     | none => false) &&
    decide (s.ep.mepoch.toNat < field r 8 8) && ids.countP (fun i => i == s.ownId.toNat) == 1 && ids.all (fun i => i < 32768) &&
    allZero (slice r 0x18 8) && allZero (slice r (0x20 + 2 * n) (body - (0x20 + 2 * n)))

/-- The action of R264; none: the record is inconsistent. -/
def State.resolveMember (s : State) (decided : BitVec 64) : Option State :=
  match s.ep.st with
  | .doubt =>
    if decided = s.openEpoch then some s.localCommit
    else if decided = s.ep.c then
      some ((s.modEp fun e => { e with after := none }).localRollback.modEp fun e => { e with after := some 2 })
    else none
  | .idle =>
    if s.ep.mepoch = 0 then some (s.modEp fun e => { e with c := decided })
    else if decided = s.ep.c then some s else none
  | .sundered => if decided = s.ep.c then some (s.modEp fun e => { e with st := .idle }) else none
  | _ => none

def indexOf (x : Nat) : List Nat → Nat
  | [] => 0
  | y :: ys => if x = y then 0 else indexOf x ys + 1

def State.refuseMember (s : State) : State := s.modFe fun f => { f with violMember := satInc f.violMember }

/-- The partner of each UP port reads the membership epoch again (13 R336). -/
def State.tellPartners (s : State) : State :=
  (List.finRange 16).foldl (fun (acc : State) (p : PortIx) => if (s.port p).ls == .up then acc.emit (.mep p s.ep.mepoch) else acc) s

/-- Accept or silently refuse a membership record. -/
def State.takeMember (s : State) (r : List Byte) : State :=
  let n := field r 6 2 + 1
  if !s.memberRecordOk r n then s.refuseMember
  else
    match s.resolveMember (BitVec.ofNat 64 (field r 0x10 8)) with
    | none => s.refuseMember
    | some t =>
      let ids := memberIds r n
      ((t.modEp fun e =>
        { e with
          mepoch := BitVec.ofNat 64 (field r 8 8), members := ids.map fun i => BitVec.ofNat 15 i
          rank := BitVec.ofNat 15 (indexOf t.ownId.toNat ids), held := [], rejoin := false, afterSunder := false }).jot fcpIx).tellPartners

/-- What MEMBERSHIP reads: the record's first 32 bytes, and the record. -/
def State.memberSpans (s : State) (rec : Nat) : List (Nat × Nat × Nat) :=
  if s.err.sectors == [] then []
  else (0, rec, 32) :: match (s.feRead 0 rec 32).2 with
    | some hd => [(0, rec, memberBody (field hd 6 2 + 1) + sigLen)]
    | none => []

def memberLegal (t : State) : Bool :=
  match t.ep.st with
  | .idle | .sundered | .doubt => true
  | _ => false

def execMembership (h : Hdr) (rec : BitVec 64) (s : State) : Host.Outcome State Fault Refusal :=
  .next (s.command h
    { opc := 0x20, cls := .kernel, lenOk := h.len == 8, argsOk := addrOk rec 8, named := h.ctx.toNat, legal := memberLegal
      spans := fun t => t.memberSpans rec.toNat }
    (fun t =>
      match t.feRead 0 rec.toNat 32 with
      | (t1, none) => .now t1 stAddrFault 0
      | (t1, some hd) =>
        match t1.feRead 0 rec.toNat (memberBody (field hd 6 2 + 1) + sigLen) with
        | (t2, none) => .now t2 stAddrFault 0
        | (t2, some r) =>
          let t3 := t2.takeMember r
          .now t3 stOK t3.ep.mepoch.toNat))

/-! ### Admission and RESET -/

def execQuiesce (h : Hdr) (s : State) : Host.Outcome State Fault Refusal :=
  .next (s.command h
    { opc := 0x21, cls := .kernel, lenOk := h.len == 0, argsOk := true, named := h.ctx.toNat, legal := fun t => !t.frozen }
    (fun t => .now (t.modFe fun f => { f with quiesced := true }) stOK (t.fe.launches.countP Launch.live)))

def execAdmitLaunch (h : Hdr) (s : State) : Host.Outcome State Fault Refusal :=
  .next (s.command h
    { opc := 0x22, cls := .kernel, lenOk := h.len == 0, argsOk := true, named := h.ctx.toNat, legal := fun t => !t.frozen }
    (fun t => .now (t.modFe fun f => { f with quiesced := false }) stOK 0))

/-- The reply waits for the level requested, or for the one that already contains it (R283, R358): level code plus 256
times the target. The code's INST is the context of the command (R361). -/
def State.resetAct (s : State) (c level target : Nat) : Done :=
  if level = 2 then
    let s1 := s.engineReset target (errCode 2 0x40 c 0x061)
    if (s1.engineRun target).isSome then .later s1 (2 + 256 * target) else .later s1 (3 + 256 * secOf target)
  else .later (s.sectorReset target (errCode 3 0x40 c 0x061)) (3 + 256 * target)

def execReset (h : Hdr) (level target : BitVec 8) (s : State) : Host.Outcome State Fault Refusal :=
  .next (s.command h
    { opc := 0x23, cls := .kernel, lenOk := h.len == 8, named := h.ctx.toNat
      argsOk := (level == 2 && target.toNat < 96) || (level == 3 && target.toNat < 8) }
    (fun t => t.resetAct h.ctx.toNat level.toNat target.toNat))

/-! ### The FEP after a restart (15 R376, R381) -/

/-- The FEP reconciles each launch that its journal holds as dispatched or prepared with the FCP's partition (R381): it has committed,
its attempt was rolled back, or it goes on. -/
def State.reconcile (s : State) : State :=
  s.fe.launches.foldl (fun (acc : State) l =>
    match l.js with
    | .dispatched | .prepared =>
      if l.epoch.toNat ≤ acc.ep.c.toNat then acc.endLaunch l.id (if l.numOvf then stNumOvf else stOK) true
      else if acc.ep.launch == some l.id then acc
      else (acc.modLaunch l.id fun x => { x with js := .admitted, att := x.att + 1 }).jot fepIx
    | _ => acc) s

/-- A journalled reply that was not yet written is rewritten (11 R285). -/
def State.rewriteReply (s : State) : State :=
  match s.fe.wrblk, s.fe.heldReply with
  | true, some r => (s.modFe fun f => { f with wrblk := false }).ringReply r
  | _, _ => s

/-- The FEP has rebuilt: deadlines that passed meanwhile are acted on, and waiting submissions are taken (R376, R296). -/
def State.fepUp (s : State) : State :=
  let s1 := s.reconcile.rewriteReply
  let due := s1.fe.launches.filter fun l => l.live && l.late
  (due.foldl (fun (acc : State) l => acc.expire l) s1).drainDoorbells

end Sys2Proof.Machine
end

