-- ==== Sys2Proof/Machine/Power.lean ====
section
/-!
DEFINITION. Sys2Proof/Machine/Power.lean: operating points, Paced, the power cap, wakes and their tokens, emergencies and
the clamp, and loss of a reference clock (17_power_and_clocks.md R430 to R448; 01 R15).
-/

namespace Sys2Proof.Machine

def State.modPwc (s : State) (f : Power → Power) : State := { s with pwc := f s.pwc }

def State.pwpUp (s : State) : Bool := s.procReady pwpIx && s.err.chip.isNone

/-! ### Setpoints (R428 to R430) -/

/-- VSET of a point in mV (R450). -/
def Power.vsetOf (p : Power) (pt : Nat) : Nat := ((p.rates[pt]?).getD (0, 0, 0)).2.2.toNat

def clampMv : Nat := 620

/-- The setpoint that a hummock's regulator returns to: the fabric's, held at 0.62 V under the clamp (R442). -/
def State.commonSet (s : State) : BitVec 10 := BitVec.ofNat 10 (if s.pwc.clamp then clampMv else s.pwc.common)

/-- Drive the regulators of the sector dies and of the hub die: they follow the active point and the clamp (R430). -/
def State.driveShared (s : State) (mv : Nat) : State := s.modPwc fun p => { p with shared := mv }

/-- Drive every hummock's regulator that is on to mv (R430, R442). -/
def State.driveAll (s : State) (mv : Nat) : State :=
  { s.modPwc (fun p => { p with common := mv }) with
    hums := s.hums.map fun (x : Nat × Hummock) =>
      match x.2.power with
      | .running | .still => (x.1, { x.2 with vset := BitVec.ofNat 10 mv })
      | _ => x }

/-- Under Paced a hummock's setpoint is the lowest that keeps its rate (R432): a value of its silicon and temperature, no higher than the
common one and within the regulator's range (R430). -/
def State.pacedMv (s : State) (k g : Nat) : BitVec 10 :=
  BitVec.ofNat 10 (Nat.min s.pwc.common (550 + field (Config.freeBytes "paced" k) (2 * g) 2 % 301))

def State.drivePaced (s : State) : State :=
  let (k, s1) := s.draw
  { s1 with
    hums := s1.hums.map fun (x : Nat × Hummock) =>
      match x.2.power with
      | .running | .still => (x.1, { x.2 with vset := s.pacedMv k x.1 })
      | _ => x }

/-! ### Power events (R448) -/

def pointByte (p : Power) : Nat := p.active.toNat + (if p.paceAct then 4 else 0)

def State.powerEvent (s : State) (kind cause chan us arg : Nat) : State :=
  s.event 0 0x06 (leBytes 1 kind ++ leBytes 1 cause ++ leBytes 1 chan ++ leBytes 1 (pointByte s.pwc) ++ leBytes 4 us ++
    leBytes 8 s.runSeq ++ leBytes 8 arg)

/-! ### Operating points (R15, R431, R433) -/

/-- W as it acts (R450). -/
def State.capW (s : State) : Nat := Nat.min (Nat.max (s.regField 0x200010 0 13) 3500) 5600

/-- The request as it acts under the cap (R433). -/
def State.wanted (s : State) : Nat := if s.capW < 4800 then 0 else s.regField 0x200000 0 2

/-- Some accepted launch was admitted at a rate above r (R15). -/
def State.fasterLaunch (s : State) (r : Nat) : Bool := s.fe.launches.any fun l => l.live && decide (r < l.rate)

/-- The point in force becomes pt: its ramp starts (R431). `adm` is what admission uses until the ramp completes. -/
def State.enterPoint (s : State) (pt adm : Nat) : State :=
  ((s.modPwc fun p =>
    { p with active := BitVec.ofNat 2 pt, admitPt := BitVec.ofNat 2 adm, pend := none, ramp := true }).jot pwpIx).powerEvent 2 0 0xFF 0 0

/-- The request in PWC_OP acts, unless the clamp holds it or the PWP restarts (R15, R431; 15 R375). -/
def State.applyPoint (s : State) : State :=
  let p := s.pwc
  let a := p.active.toNat
  let w := s.wanted
  if p.clamp || !s.pwpUp then s
  else if w = a then
    (s.modPwc fun q => { q with pend := none, admitPt := if q.ramp then q.admitPt else q.active }).jot pwpIx
  else if p.rateOf a s.admitPaced ≤ p.rateOf w s.admitPaced then
    s.enterPoint w (if p.ramp then p.admitPt.toNat else a)
  else if s.fasterLaunch (p.rateOf w s.admitPaced) then
    (s.modPwc fun q => { q with pend := some (BitVec.ofNat 2 w), admitPt := BitVec.ofNat 2 w }).jot pwpIx
  else s.enterPoint w w

/-- Paced comes into force (R432). -/
def State.paceOn (s : State) : State :=
  let s1 := ((s.modPwc fun p => { p with paceAct := true, pacePend := false }).jot pwpIx).powerEvent 2 0 0xFF 0 0
  if s1.pwc.clamp then s1 else s1.drivePaced

/-- Clearing Paced takes effect at once: the common setpoint returns, and no permit is needed. -/
def State.paceOff (s : State) : State :=
  let was := s.pwc.paceAct
  let s1 := (s.modPwc fun p => { p with paceAct := false, pacePend := false }).jot pwpIx
  if was then ((s1.driveAll s1.pwc.common).powerEvent 2 0 0xFF 0 0) else s1

/-- A launch admitted without the pace is live (R432). -/
def State.unpacedLaunch (s : State) : Bool := s.fe.launches.any fun l => l.live && !l.paced

/-- The Paced request of PWC_OP acts. -/
def State.applyPaced (s : State) : State :=
  let want := (s.reg 0x200000).getLsbD 2
  if !s.pwpUp then s
  else if !want then s.paceOff
  else if s.pwc.paceAct then s
  else if s.unpacedLaunch then s.modPwc fun p => { p with pacePend := true }
  else s.paceOn

/-- A write of PWC_OP (R431, R432, R450): 3 in POINT leaves the request unchanged. -/
def State.pwcOpStore (s : State) (m : Master) (half : Option Bool) (v : BitVec 64) : State :=
  let old := s.reg 0x200000
  let v' := if v &&& 3 = 3 then (v &&& ~~~3#64) ||| (old &&& 3) else v
  let (s1, _) := s.regStore m 0x200000 half v'
  if s1.reg 0x200000 = old then s1 else s1.applyPoint.applyPaced

def execOpPointRequest (m : Master) (point : BitVec 2) (s : State) : Host.Outcome State Fault Refusal :=
  .next (if s.arrives m then
    s.pwcOpStore m none ((s.reg 0x200000 &&& ~~~3#64) ||| point.setWidth 64) else s)

def execPacedRequest (m : Master) (paced : Bool) (s : State) : Host.Outcome State Fault Refusal :=
  .next (if s.arrives m then
    s.pwcOpStore m none ((s.reg 0x200000 &&& ~~~4#64) ||| (if paced then 4 else 0)) else s)

/-- A pending lowering takes effect once nothing admitted at a higher rate remains (R15). -/
def execOpLowerTakesEffect (s : State) : Host.Outcome State Fault Refusal :=
  match s.pwc.pend with
  | some w =>
    .next (if s.pwc.clamp || !s.pwpUp || s.fasterLaunch (s.pwc.rateOf w.toNat s.admitPaced) then s
      else s.enterPoint w.toNat w.toNat)
  | none => .next s

def execPacedTakesEffect (s : State) : Host.Outcome State Fault Refusal :=
  .next (if s.pwc.pacePend && s.pwpUp && !s.unpacedLaunch then s.paceOn else s)

/-- A ramp completes (R431, R442): the setpoints stand at the active point, and admission uses it, or the point pending. The PWP makes
point changes: while it restarts, none ends (15 R375). -/
def execSetpointRampDone (s : State) : Host.Outcome State Fault Refusal :=
  if s.pwc.ramp && !s.pwc.clamp && s.pwpUp then
    let v := s.pwc.vsetOf s.pwc.active.toNat
    let s1 := ((s.driveAll v).driveShared v).modPwc fun p =>
      { p with ramp := false, admitPt := p.pend.getD p.active }
    .next (if s1.pwc.paceAct then s1.drivePaced else s1)
  else .next s

/-- Under Paced the generator of domain 7 + s, while its clock runs, issues a step permit to each hummock of the sector, which takes its
step (R432, R447; log 49). -/
def execPacePermit (sec : Sec) (s : State) : Host.Outcome State Fault Refusal :=
  .next (if s.pwc.paceAct && s.err.chip.isNone && s.board.xtal then
    { s with hums := s.hums.map fun (x : Nat × Hummock) =>
        if secOf x.1 = sec.val && x.2.power == .running then (x.1, { x.2 with steps := x.2.steps + 1 }) else x }
  else s)

/-! ### The power cap (R433, R434) -/

/-- A write of PWC_CAP: the request acts again under the new cap. -/
def State.pwcCapStore (s : State) (m : Master) (half : Option Bool) (v : BitVec 64) : State :=
  let (s1, old) := s.regStore m 0x200010 half v
  if s1.reg 0x200010 = old then s1 else (s1.jot pwpIx).applyPoint

def execCapWrite (m : Master) (w : BitVec 13) (s : State) : Host.Outcome State Fault Refusal :=
  .next (if s.arrives m then s.pwcCapStore m none (w.setWidth 64) else s)

/-- Last thermal reading of hummock g: channel g (16 R401), as a signed value. -/
def State.humTemp (s : State) (g : Nat) : Int := ((sget 0 s.mss.sens g).extractLsb' 0 16).toInt

/-- The hottest hummock that no launch holds and that is not Gated; on a tie the lowest (R434). -/
def State.hottest (s : State) : Option Nat :=
  allHums.foldl (fun (acc : Option Nat) g =>
    let h := s.hum g
    let on := match h.power with
      | .running | .still => h.holder.isNone
      | _ => false
    if !on then acc
    else match acc with
      | none => some g
      | some b => if s.humTemp b < s.humTemp g then some g else acc) none

def State.capFloor (s : State) : Nat := Nat.min 720 (s.pwc.vsetOf s.pwc.active.toNat)

/-- Clear CAPG on the hummock with the lowest g (R434). -/
def State.lowestCapg (s : State) : Option Nat := allHums.find? fun g => (s.hum g).capg

/-- The fabric has a common setpoint: outside ramps and Paced (R430), and under the clamp. -/
def State.oneSet (s : State) : Bool := s.pwc.clamp || !(s.pwc.ramp || s.pwc.paceAct)

/-- The cap's action, the first that applies (R434). Its first two actions and the raise of the third name the common setpoint, which a
ramp or Paced does not have: there only CAPG is cleared, which is the model's choice; no firmware raises a setpoint under the clamp
(R442; log 150). -/
def State.capAct (s : State) (w : Nat) : State :=
  let c := s.pwc.common
  let top := s.pwc.vsetOf s.pwc.active.toNat
  if s.capW < w then
    if !s.oneSet then s
    else if s.capFloor < c then s.driveAll (Nat.max s.capFloor (c - 5))
    else match s.hottest with
      | some g => (s.modHum g fun h => { h.gate with capg := true }).powerEvent 3 0 0xFF 0 g
      | none => s
  else if 100 * w ≤ 98 * s.capW then
    match s.lowestCapg with
    | some g => s.modHum g fun h => { h with capg := false }
    | none => if s.oneSet && !s.pwc.clamp && decide (c < top) then s.driveAll (Nat.min top (c + 5)) else s
  else s

/-- Every 100 µs: package power in W averaged over 1 ms, and the current; W·100 µs is added to the energy, kept in tenths of
a mJ. -/
def execCapTick (watts coreA : BitVec 16) (s : State) : Host.Outcome State Fault Refusal :=
  if !s.board.coreOn then .next s
  else
    let s1 := s.modPwc fun p => { p with pkgW := watts, coreA := coreA, energy := p.energy + watts.setWidth 64 }
    .next (if !s1.pwpUp then s1 else s1.capAct watts.toNat)

/-! ### Still, Gated and wakes (R436 to R439; 07 R171, R509) -/

def execIdleGateTimeout (g : Hum) (s : State) : Host.Outcome State Fault Refusal :=
  let h := s.hum g
  let on := match h.power with
    | .running | .still => h.holder.isNone
    | _ => false
  .next (if on && s.regField 0x200018 0 16 != 0 && s.procReady (secOf g) && s.err.chip.isNone then s.modHum g Hummock.gate else s)

/-- A launch runs and another is queued, whose hummocks the SCPs wake meanwhile (12 R299). -/
def State.nextQueued (s : State) : Bool :=
  s.ep.launch.isSome && s.fe.launches.any fun l => l.live && s.ep.launch != some l.id

/-- A wake for the placement to come is class 1 (R438), as is one of a hummock that a launch holds. -/
def execWakeRequest (g : Hum) (s : State) : Host.Outcome State Fault Refusal :=
  .next (if s.board.coreOn && s.err.chip.isNone then
    match (s.hum g).power with
    | .gated => s.requestWake g ((s.hum g).holder.isSome || s.nextQueued)
    | _ => s.wakeEvent g
  else s)

/-- The request to be served next: class 1 first, in order of arrival (R438). -/
def nextWake (q : List WakeReq) : Option WakeReq := (q.find? fun w => w.cls1).orElse fun _ => q.head?

/-- Requests of sectors whose SCP restarts wait (15 R375). -/
def State.servable (s : State) : List WakeReq := s.pwc.wakeQ.filter fun w => s.procReady (secOf w.g)

def State.grantWake (s : State) (w : WakeReq) : State :=
  let s1 := ((s.modPwc fun p => { p with wakeQ := p.wakeQ.erase w, granted := p.granted ++ [w] }).jot pwpIx).jot (secOf w.g)
  s1.modHum w.g fun h => { h with power := .waking }

/-- Power off the youngest class 2 ramp; its request returns to the head of class 2 (R438). -/
def State.preempt (s : State) (w : WakeReq) : State :=
  let s1 := ((s.modPwc fun p => { p with granted := p.granted.erase w, wakeQ := w :: p.wakeQ }).jot pwpIx).jot (secOf w.g)
  s1.modHum w.g fun h => { h with power := .gated }

/-- Requests of hummocks that are no longer Gated are void. -/
def State.voidWakes (s : State) : State :=
  let stale := s.pwc.wakeQ.filter fun w => (s.hum w.g).power != .gated
  stale.foldl (fun (acc : State) w => acc.jot (secOf w.g))
    (s.modPwc fun p => { p with wakeQ := p.wakeQ.filter fun w => (s.hum w.g).power == .gated })

def execWakeTokenGrant (s0 : State) : Host.Outcome State Fault Refusal :=
  let s := s0.voidWakes
  if !s.pwpUp then .next s0
  else
    match nextWake s.servable with
    | none => .next s
    | some w =>
      if s.pwc.granted.length < 4 then .next (s.grantWake w)
      else if w.cls1 then
        match (s.pwc.granted.filter fun x => !x.cls1).getLast? with
        | some y => .next ((s.preempt y).grantWake w)
        | none => .next s
      else .next s

/-- PC lies beyond the program's code (07 R174). -/
def State.codeFault (s : State) (g : Nat) : State :=
  let h := s.hum g
  match h.holder with
  | some x => if x.codeLen ≤ h.seq.pc.toNat then s.programFault g 4 0 0x01 h.seq.pc else s
  | none => s

/-- The woken hummock (R437, R509): reset, at the present setpoint; a placed program starts at its ENTRY, a held hummock that
WAITP gated at HUM_WAKEVEC, and one that no launch holds is idle. -/
def Hummock.woken (h : Hummock) (mv : Nat) : Hummock :=
  let h1 := { h.gate with power := .running, vset := BitVec.ofNat 10 mv, capg := false, holder := h.holder }
  match h.holder with
  | some x =>
    match h.seq.st with
    | .gated => { h1 with seq := { Sequencer.reset with st := .issuing, wake := true, pc := h.wvec } }
    | _ => { h1 with seq := { Sequencer.reset with st := .issuing, pc := x.entry } }
  | none => h1

/-! ### Emergencies and the clamp (R440 to R442) -/

def Power.anyCause (p : Power) : Bool := p.eProchot || p.eTherm || p.ePower || p.eRail

/-- ALERT_N is asserted while an emergency exists or a sensor record has WARN set (19 R488). -/
def State.updateAlert (s : State) : State :=
  let lvl := !(s.pwc.anyCause || s.mss.sens.any fun p => p.2.getLsbD 33)
  if s.board.alertN == lvl then s else { s with board := { s.board with alertN := lvl } }.emit (.pin 2 lvl)

def causeBits (p : Power) : Nat :=
  (if p.eProchot then 1 else 0) + (if p.eTherm then 2 else 0) + (if p.ePower then 4 else 0) + (if p.eRail then 8 else 0)

/-- A processor that can serve again does what waited: the FEP its launches, deadlines, packets and submissions, the FCP messages, the
PWP the point and Paced, the MGP entries for the flash (15 R375, R376). -/
def State.procServes (s : State) (i : Nat) : State :=
  if i = fepIx then s.fepUp else if i = fcpIx then s.takeWaiting else if i = pwpIx then s.applyPoint.applyPaced
  else if i = mgpIx then s.saveWaiting else s

/-- A handoff that has not loaded an image is abandoned: the processors at their safe points resume, and its activation, or one asked for
since, is held (15 R386, R390). -/
def State.abandonHandoff (s : State) : State :=
  match s.fw.handoff with
  | some (1, b) =>
    let held := s.fw.pend.getD b
    let s1 := ((s.modFw fun f => { f with handoff := none, pend := some held }).jot mgpIx).fwEvent 4 0xFF (slotCode held) 0 0
    (List.range 11).foldl (fun (acc : State) i =>
      if (acc.proc i).st == .quiescing then (acc.setProc i { acc.proc i with st := .ready }).procServes i else acc) s1
  | _ => s

/-- The hardware clamp engages: every setpoint goes to 0.62 V, and admission uses N0. -/
def State.engageClamp (s : State) : State :=
  if s.pwc.clamp then s
  else
    let s1 := s.modPwc fun p => { p with clamp := true, ramp := false, admitPt := 0, clearMs := 0 }
    let s2 := ((s1.driveAll clampMv).driveShared clampMv).powerEvent 0 (causeBits s1.pwc) s1.pwc.crossed.toNat 0 0
    s2.abandonHandoff

/-- The causes have changed: the clamp engages with the first. -/
def State.causesChanged (s : State) (f : Power → Power) : State :=
  let s1 := s.modPwc f
  (if s1.pwc.anyCause then (s1.modPwc fun p => { p with clearMs := 0 }).engageClamp else s1).updateAlert

def execProchotN (level : Bool) (s : State) : Host.Outcome State Fault Refusal :=
  let s1 := { s with board := { s.board with prochotN := level } }
  .next (if s.board.coreOn then s1.causesChanged fun p => { p with eProchot := !level } else s1)

def execPowerOverLimit (ovr : Bool) (s : State) : Host.Outcome State Fault Refusal :=
  .next (if s.board.coreOn then s.causesChanged fun p => { p with ePower := ovr } else s)

/-- Every cause has been clear for 10 ms; us is the time engaged (R442, R448). Requests recorded meanwhile act. -/
def execClampRelease (us : BitVec 32) (s : State) : Host.Outcome State Fault Refusal :=
  if s.pwc.clamp && !s.pwc.anyCause && s.pwc.clearMs.toNat == 10 then
    let s1 := s.modPwc fun p => { p with clamp := false, ramp := true, clearMs := 0, crossed := 0xFF }
    .next (s1.powerEvent 1 0 0xFF us.toNat 0).applyPoint.applyPaced
  else .next s

/-! ### Clocks (R447) -/

/-- The REFCLK_PCIE effect is the host link's; it is written where the link is. -/
def State.dzClockLost (s : State) : State :=
  let s1 := { s with board := { s.board with dzClock := false } }
  allPorts.foldl (fun (acc : State) p =>
    match (acc.port p).ls with
    | .off | .down => acc
    | _ => acc.portDown p 1 0) s1

end Sys2Proof.Machine
end

