-- ==== Sys2Proof/Machine/FirmwareCmds.lean ====
section
/-!
DEFINITION. Sys2Proof/Machine/FirmwareCmds.lean: watchdogs and restarts (15 R373 to R377, R381), activation and handoff
(R386 to R390), the log (R392 to R395), and the ends of sector and chip resets, which restart processors (14 R352, R353).
-/

namespace Sys2Proof.Machine

/-! ### Restarts -/

def procRuns : ProcSt → Bool
  | .off | .notRecovered => false
  | _ => true

/-- Unit class of a processor (R362). -/
def procClass (i : Nat) : Nat := if i < 8 then 0x20 else 0x19 + i

/-- Sessions end with an MGP restart, and the keys put in them are discarded (16 R411). -/
def State.endSessions (s : State) : State := { s with mss := { s.mss with sessions := [] } }

/-- Processor i has rebuilt its state from its partition (R380), and reports ready; its partition then holds what was done meanwhile. -/
def State.procUp (s : State) (i : Nat) : State :=
  let s0 := s.rebuild i
  ((s0.setProc i { s0.proc i with st := .ready }).procServes i).jot i

/-- The boot ROM derives the DIK at each start of the MGP: 96 bytes of SHAKE256("VRN-DIK" ‖ secret) (16 R407). -/
def State.deriveDik (s : State) : State :=
  { s with mss := { s.mss with
      dik := slice (Config.shake256 ([0x56, 0x52, 0x4E, 0x2D, 0x44, 0x49, 0x4B] ++ leBytes 32 Config.deviceSecret.toNat) 96) 0 96 } }

/-- The boot ROM boots the MGP: the slot that the marker names, or the other where that one fails verification (R385). -/
def State.bootRom (s : State) : State :=
  let a := s.fw.actSlot
  let b := if s.digestOk a || !s.digestOk (!a) then a else !a
  ((s.modFw fun f => { f with actSlot := b }).loadImage b [mgpIx]).deriveDik

/-- Revert a handoff to the old image (R389): the processors restart from the old handoff records, and so does an MGP that was
booting the new one. -/
def State.revert (s : State) : State :=
  let late := match s.fw.handoff with
    | some (k, _) => decide (5 ≤ k)
    | none => false
  let s1 := s.loadImage s.fw.actSlot (List.range (if late then 12 else 11))
  s1.modFw fun f => { f with reverting := true }

def State.reverts (s : State) : Bool :=
  match s.fw.handoff with
  | some (k, _) => decide (3 ≤ k) && !s.fw.reverting
  | none => false

/-- R374, and R359 for a third firing within a second. The code that triggers the dump has no listed CAUSE: that field is
free. Where the check of its instruction SRAM fails, the MGP reloads the component, which adds at most 40 ms; `codeOk` is that
check's verdict beside the errors that the state holds. The MGP itself the boot ROM boots (R385). -/
def execWatchdogFire (i : Proc) (pc tcause : BitVec 64) (codeOk : Bool) (s : State) : Host.Outcome State Fault Refusal :=
  let p := s.proc i
  if !procRuns p.st then .next s
  else
    let (k, s0) := s.draw
    let l := sget Latch.reset s0.err.latches i
    let s1 := (s0.setProc i { p with st := .starting }).modErr fun e =>
      { e with latches := sset Latch.reset e.latches i { l with fired := true, restarts := satInc l.restarts, pc := pc, tcause := tcause } }
    let s2 := s1.assembleDump (errCode 0 (procClass i) i (Config.freeNat k))
    let fires := (p.fires.filter fun t => s.fw.ms < t + 1000) ++ [s.fw.ms]
    let intact := codeOk && (s.coreOf i).codeOk
    let sB := if i.val = mgpIx then s2.bootRom
      else (if intact then s2 else s2.loadCore s2.fw.actSlot i).startCore s2.fw.actSlot i
    let since := s.fw.ms + (if intact then 0 else 40)
    let s3 := sB.setProc i { p with st := .starting, restarts := satInc p.restarts, fires := fires, since := since }
    let s4 := s3.fwEvent 0 i 0xFF 0 pc.toNat
    let s5 := if i.val = mgpIx then s4.endSessions else s4
    let s6 := if s.reverts then s5.revert else s5
    .next (if 3 ≤ fires.length && i.val != mgpIx then
      (s6.setProc i { s6.proc i with st := .notRecovered }).fwNotRecovered i else s6)

def execFwRecoveryTimeout (i : Proc) (s : State) : Host.Outcome State Fault Refusal :=
  match (s.proc i).st with
  | .starting | .rebuilding =>
    .next (if i.val = mgpIx then s.setProc i { s.proc i with st := .starting }
      else (s.setProc i { s.proc i with st := .notRecovered }).fwNotRecovered i)
  | _ => .next s

/-! ### Activation (R386 to R390) -/

/-- Launches that the journal holds (R387). -/
def State.journalBusy (s : State) : Bool := s.fe.launches.any Launch.journalled

def State.clampOn (s : State) : Bool := s.pwc.clamp

/-- Why an activation of slot b is held (R387); that an emergency has been clear for 1 s is the timing of
ACTIVATION_START. -/
def State.actHeld (s : State) (b : Bool) : Bool :=
  s.clampOn || s.fw.handoff.isSome ||
    ((s.fw.slot b).numrev != s.fw.active.numrev && s.journalBusy)

/-- A processor that is ready goes to its safe point; one that restarts goes there once it is. -/
def State.quiesce (s : State) (i : Nat) : State := if s.procReady i then s.setProc i { s.proc i with st := .quiescing } else s

/-- Step 1 of R388: the processors go to their safe points. -/
def State.startHandoff (s : State) (b : Bool) : State :=
  let s1 : State := (List.range 11).foldl State.quiesce s
  (s1.modFw fun f => { f with handoff := some (1, b), pend := none }).jot mgpIx

def State.holdActivation (s : State) (b : Bool) : State :=
  ((s.modFw fun f => { f with pend := some b }).jot mgpIx).fwEvent 4 0xFF (slotCode b) 0 0

/-- May slot b be activated at all (R386)? -/
def State.slotFit (s : State) (b : Bool) : Bool :=
  let x := s.fw.slot b
  x.verified && decide (x.homin.toNat ≤ s.fw.active.hover.toNat) && decide (s.fw.active.hover.toNat ≤ x.hover.toNat)

/-- Activate slot b or hold it; the number is DATA of the reply. -/
def State.activate (s : State) (b : Bool) : State × Nat :=
  if s.actHeld b then (s.holdActivation b, 1) else (s.startHandoff b, 0)

def State.cmdFwActivate (s : State) (h : Hdr) (slot : BitVec 8) : State :=
  s.command h
    { opc := 0x83, cls := .kernel, lenOk := h.len == 8, named := h.ctx.toNat
      argsOk := slot.toNat ≤ 1 && s.slotFit (slot == 1) }
    (fun t =>
      let (t1, d) := t.activate (slot == 1)
      .now t1 stOK d)

def execFwActivate (h : Hdr) (slot : BitVec 8) (s : State) : Host.Outcome State Fault Refusal :=
  .next (s.cmdFwActivate h slot)

/-- Every processor but the MGP is at its safe point: the PWP with no ramp in progress. -/
def State.allQuiet (s : State) : Bool := (List.range 11).all (fun i => (s.proc i).st == .quiescing) && !s.pwc.ramp

/-- A pending activation starts once nothing holds it; once every processor of a handoff is at its safe point, each writes its handoff
record, and the MGP loads the new components, checking each against the digest (R388, R389). -/
def execActivationStart (s : State) : Host.Outcome State Fault Refusal :=
  match s.fw.handoff, s.fw.pend with
  | some (1, b), _ =>
    if !s.allQuiet then .next s
    else if !s.digestOk b then .next s.revert
    else
      let s1 : State := (List.range 11).foldl (fun (acc : State) i => acc.writeHand i none) s
      let s2 := s1.loadImage b (List.range 11)
      let s3 : State := (List.range 11).foldl (fun (acc : State) i => acc.setProc i { acc.proc i with st := .handingOff }) s2
      .next ((s3.modFw fun f => { f with handoff := some (3, b) }).jot mgpIx)
  | some _, _ => .next s
  | none, some b => .next (if s.actHeld b || !s.mgpUp then s else s.startHandoff b)
  | none, none => .next s

def State.allReady (s : State) : Bool := (List.range 11).all fun i => s.procReady i

/-- Step 6 of R388: the marker is written. -/
def State.finishHandoff (s : State) (b : Bool) (us : Nat) : State :=
  let x := s.fw.slot b
  let s1 := s.modFw fun f =>
    { f with
      actSlot := b, handoff := none
      svnMin := if x.svnlock && decide (f.svnMin.toNat < x.svn.toNat) then x.svn else f.svnMin }
  ((s1.jot mgpIx).fwEvent 2 0xFF (slotCode b) us 0).procServes fepIx

/-- Processor i finds its handoff record fit for the image that it runs (R391): the new one, or in a revert the old. -/
def State.handFit (s : State) (i : Nat) (b : Bool) : Bool :=
  match s.handOf i with
  | some r => r.readable (s.fw.slot (if s.fw.reverting then s.fw.actSlot else b))
  | none => false

/-- A revert that fails enters the ladder (R389). -/
def State.revertFails (s : State) : State := s.chipReset (errCode 4 0x24 mgpIx 0x030) false

/-- The MGP writes its record, naming the new slot, and the boot ROM boots it from there (R388 step 5, R385). -/
def State.restartMgp (s : State) (b : Bool) : State :=
  ((((s.writeHand mgpIx (some b)).loadImage b [mgpIx]).deriveDik.endSessions).modFw fun f => { f with handoff := some (5, b) }).jot mgpIx

/-- What a ready report does for a handoff or a revert in progress (R388, R389). Before the handoff's step 3 the processor goes to its
safe point. -/
def State.handoffReady (s : State) (i us : Nat) : State :=
  match s.fw.handoff with
  | none => s
  | some (k, b) =>
    if s.fw.reverting then
      (if s.allReady && s.procReady mgpIx then
        (((s.modFw fun f => { f with handoff := none, reverting := false }).jot mgpIx).fwEvent 3 0xFF (slotCode b) us 0).procServes
          fepIx
       else s)
    else if k < 3 then (if i = mgpIx then s else s.quiesce i)
    else if i = mgpIx && k = 5 then s.finishHandoff b us
    else if s.allReady then s.restartMgp b
    else (s.modFw fun f => { f with handoff := some (4, b) }).jot mgpIx

/-- Does the handoff record that processor i reads fail it (R391)? A revert's reader may not need one: only a processor that wrote one
before the revert reads it. -/
def State.handFails (s : State) (i : Nat) : Bool :=
  match s.fw.handoff with
  | some (k, b) => decide (3 ≤ k) && (i != mgpIx || k == 5) && !(s.fw.reverting && (s.handOf i).isNone) && !s.handFit i b
  | none => false

/-- A step of the handoff misses its bound (R389); a revert that fails enters the ladder. -/
def execHandoffTimeout (s : State) : Host.Outcome State Fault Refusal :=
  match s.fw.handoff with
  | none => .next s
  | some _ =>
    .next (if s.fw.reverting then s.revertFails else s.revert)

/-! ### The log (R392 to R395) -/

def logSize : Nat := 1048576

def entBytes (e : LogEnt) : List Byte :=
  leBytes 8 e.seq.toNat ++ [e.idx, e.sev] ++ leBytes 2 e.tp.toNat ++ leBytes 4 e.code.toNat ++ leBytes 8 e.lcnt.toNat ++
    slice (e.args.flatMap fun a => leBytes 8 a.toNat) 0 40

def LogEnt.empty : LogEnt := ⟨0, 0, 0, 0, 0, 0, []⟩

/-- Entries of the host mirror; none where LOG2 leaves EN without effect. -/
def State.mirrorSize (s : State) : Option Nat :=
  let l := s.regField 0x508210 1 5
  if 10 ≤ l ∧ l ≤ 20 then some (2 ^ l) else none

/-- Mirror an entry; one that the host does not take counts as dropped (R394). -/
def State.mirror (s : State) (e : LogEnt) (taken : Bool) : State :=
  match (s.reg 0x508210).getLsbD 0, s.mirrorSize with
  | true, some n =>
    if !s.link.up || !taken || (s.fw.htail.toNat + 1) % n == s.regField 0x508218 0 20 % n then
      s.modFw fun f => { f with drop := satInc f.drop }
    else
      let i := e.seq.toNat % n
      let s1 := s.emit (.hostWrite (s.reg 0x508208 + BitVec.ofNat 64 (64 * i)) (entBytes e))
      let s2 := s1.modFw fun f => { f with htail := BitVec.ofNat 20 ((e.seq.toNat + 1) % n) }
      if 2 ≤ e.sev.toNat then s2.msix ((s2.reg 0x508210).extractLsb' 6 11) else s2
  | _, _ => s

/-- TRACE entries are logged only for a group enabled in FW_TRACE (R393). -/
def State.traced (s : State) (sev : BitVec 8) (tp : BitVec 16) : Bool :=
  sev != 0 || (decide (tp.toNat / 1024 < 12) && (s.reg 0x508200).getLsbD (tp.toNat / 1024))

def State.logEntry (s : State) (idx sev : BitVec 8) (tp : BitVec 16) (code : BitVec 32) (lcnt : BitVec 64)
    (args : List (BitVec 64)) (taken : Bool) : State :=
  if !s.board.standby || !s.traced sev tp then s
  else
    let e : LogEnt := ⟨s.fw.logSeq, idx, sev, tp, code, lcnt, args.take 5⟩
    let s1 := s.modFw fun f =>
      { f with logSeq := f.logSeq + 1, log := sset LogEnt.empty f.log (f.logSeq.toNat % logSize) e }
    let s2 := s1.mirror e taken
    if 2 ≤ sev.toNat then s2.save [entBytes e] else s2

def execLogEntry (idx sev : BitVec 8) (tp : BitVec 16) (code : BitVec 32) (lcnt : BitVec 64) (x : LogIn)
    (s : State) : Host.Outcome State Fault Refusal :=
  .next (s.logEntry idx sev tp code lcnt x.args x.taken)

/-- A write of FW_LOG_HCTL (R398). EN has its effect with a legal LOG2 only. -/
def State.logCtlStore (s : State) (m : Master) (half : Option Bool) (v : BitVec 64) : State :=
  let (s1, old) := s.regStore m 0x508210 half v
  match (s1.reg 0x508210).getLsbD 0 && !old.getLsbD 0, s1.mirrorSize with
  | true, some n =>
    let i := s1.fw.logSeq.toNat % n
    (s1.setReg 0x508218 (BitVec.ofNat 64 i)).modFw fun f => { f with htail := BitVec.ofNat 20 i }
  | _, _ => s1

def execLogMirrorEnable (m : Master) (v : BitVec 64) (s : State) : Host.Outcome State Fault Refusal :=
  .next (if s.arrives m then s.logCtlStore m none v else s)

/-- Raw bytes of the persistent log section (R279, R395). -/
def State.cmdLogRead (s : State) (h : Hdr) (offset : BitVec 64) (size : BitVec 32) (dst : BitVec 64) : State :=
  s.command h
    { opc := 0x81, cls := .kernel, lenOk := h.len == 24, named := h.ctx.toNat
      argsOk := offset.toNat + size.toNat ≤ 2 ^ 24 && addrOk dst 1
      spans := fun _ => [(h.ctx.toNat, dst.toNat, size.toNat)] }
    (fun t =>
      let (t1, ok) := t.feWrite h.ctx.toNat dst.toNat (flashRead t.fw.flash (logBase + offset.toNat) size.toNat)
      if ok then .now t1 stOK size.toNat else .now t1 stAddrFault 0)

def execLogRead (h : Hdr) (offset : BitVec 64) (size : BitVec 32) (dst : BitVec 64) (s : State) :
    Host.Outcome State Fault Refusal :=
  .next (s.cmdLogRead h offset size dst)

/-! ### Ends of sector and chip resets -/

/-- The processors that a reset restarts run by its end, us microseconds after its start (R374, R377): those that have not reported ready
do so, and one that has serves what waited for the reset to end. -/
def State.resume (s : State) (us : Nat) (is : List Nat) : State :=
  is.foldl (fun (acc : State) i =>
    match (acc.proc i).st with
    | .ready => acc.procServes i
    | .off => acc
    | _ => (acc.procUp i).fwEvent 1 i 0xFF us 0) s

/-- Every processor that a chip reset restarts can rebuild (R382). -/
def State.canRebuild (s : State) : Bool := (List.range 11).all fun i => !(s.part i).bad

end Sys2Proof.Machine
end

