-- ==== Sys2Proof/Machine/Sensors.lean ====
section
/-!
DEFINITION. Sys2Proof/Machine/Sensors.lean: sensor channels, their records and thresholds (16 R401, R402; 17 R441, R443),
built-in self-test (16 R420 to R424), and the management commands that a Lerkar packet carries (11 R279: SENSOR_READ, BIST_RUN,
SEAL, UNSEAL, FRAME_OWN) on each of their paths (16 R399; 11 R286).
-/

namespace Sys2Proof.Machine

def State.modMss (s : State) (f : Mss → Mss) : State := { s with mss := f s.mss }

/-! ### Sensors -/

/-- Nominal voltage in mV of rail monitor n (20 R493). -/
def railNominal (n : Nat) : Nat :=
  ([1500, 750, 800, 750, 1200, 750, 1200, 1800, 1050, 750, 750, 1800][n]?).getD 0

/-- WARN, CRIT and trip thresholds of a thermal channel in °C (17 R441). -/
def thermalLimits (ch : Nat) : Int × Int × Int := if ch < 104 then (90, 100, 110) else (85, 95, 105)

/-- A voltage lies outside ±pct % of nominal. -/
def outside (mv nom pct : Nat) : Bool := decide (nom * pct < 100 * (Max.max mv nom - Min.min mv nom))

/-- What a reading of a channel says: WARN, CRIT, trip. -/
def judge (ch : Nat) (r : Reading) : Bool × Bool × Bool :=
  if ch < 128 then
    let (w, c, t) := thermalLimits ch
    (decide (16 * w < r.value.toInt), decide (16 * c ≤ r.value.toInt), decide (16 * t ≤ r.value.toInt))
  else
    let nom := railNominal (ch - 128)
    (outside r.value.toNat nom 3,
      outside r.value.toNat nom 6 || (ch == 128 && decide (33000 < r.cur.toNat)), false)

/-- The record of a sample (R402). A sensor that does not answer leaves VALID clear; its VALUE is free, and so is a rail's CUR. -/
def sensorRecord (ch : Nat) (r : Option Reading) (old : BitVec 64) (k : Nat) : BitVec 64 :=
  let scnt := (old.extractLsb' 48 16).toNat + 1
  match r with
  | none => BitVec.ofNat 64 (Config.freeNat k % 2 ^ (if ch < 128 then 16 else 32) + scnt % 65536 * 2 ^ 48)
  | some x =>
    let (w, c, _) := judge ch x
    let cur := if ch < 128 then 0 else x.cur.toNat
    BitVec.ofNat 64 (x.value.toNat + cur * 2 ^ 16 + 2 ^ 32 + (if w then 2 ^ 33 else 0) + (if c then 2 ^ 34 else 0) +
      scnt % 65536 * 2 ^ 48)

/-- One channel is sampled, and its record logged (R402). -/
def State.sampleChannel (s : State) (ch : Nat) (r : Option Reading) : State :=
  let old := sget 0 s.mss.sens ch
  let (k, s1) := match r with
    | none => s.draw
    | some _ => (0, s)
  s1.modMss fun m => { m with sens := sset 0 m.sens ch (sensorRecord ch r old k) }

def sampleAll : Nat → State → List (Option Reading) → State
  | _, s, [] => s
  | ch, s, r :: rs => sampleAll (ch + 1) (s.sampleChannel ch r) rs

/-- A stack above 85 °C refreshes twice as often (09 R216): its own controller sees to it. -/
def State.sampleStacks (s : State) (rs : List (Option Reading)) : State :=
  (List.range 24).foldl (fun (acc : State) k =>
    match rs[104 + k]? with
    | some (some r) => acc.setStack k { acc.stack k with hot := decide ((16 * 85 : Int) < r.value.toInt) }
    | _ => acc) s

/-- A channel is at CRIT: by the sample, or by its record where none was taken. -/
def State.crit (s : State) (rs : List (Option Reading)) (ch : Nat) : Bool :=
  match rs[ch]? with
  | some (some r) => (judge ch r).2.1
  | some none => false
  | none => (sget 0 s.mss.sens ch).getLsbD 34

/-- First of some channels that is at CRIT. -/
def State.critOf (s : State) (rs : List (Option Reading)) (chs : List Nat) : Option Nat := chs.find? (s.crit rs)

/-- First thermal channel at its trip threshold. -/
def tripOf (rs : List (Option Reading)) : Option Nat :=
  (List.range 128).find? fun ch =>
    match rs[ch]? with
    | some (some r) => (judge ch r).2.2
    | _ => false

/-- THERMTRIP_N is asserted and the channel latched (17 R443). -/
def State.tripAt (s : State) (rs : List (Option Reading)) : State :=
  match tripOf rs, s.mss.trip with
  | some ch, none =>
    { s.modMss (fun m => { m with trip := some (BitVec.ofNat 8 ch) }) with
      board := { s.board with thermtripN := false } }.emit (.pin 3 false)
  | _, _ => s

/-- What CRIT means for the clamp once the core runs (17 R440; 20 R496); the ms of the clamp's release count. -/
def State.senseEmergency (s : State) (rs : List (Option Reading)) : State :=
  let th := s.critOf rs (List.range 128)
  let rail := s.critOf rs ((List.range 12).map fun i => 128 + i)
  let s1 := if s.pwc.clamp then s else s.modPwc fun p => { p with crossed := BitVec.ofNat 8 ((th.orElse fun _ => rail).getD 0xFF) }
  let s2 := s1.causesChanged fun p => { p with eTherm := th.isSome, eRail := rail.isSome }
  if s2.pwc.clamp && !s2.pwc.anyCause then
    s2.modPwc fun p => { p with clearMs := BitVec.ofNat 8 (Nat.min 10 (p.clearMs.toNat + 1)) }
  else s2

/-- The reference of clock domain d runs (17 R444, R447). -/
def State.refRuns (s : State) (d : Nat) : Bool :=
  if d < 3 then s.board.coreOn && s.board.pcieClock
  else if d < 7 then s.board.coreOn && s.board.dzClock
  else if d < 16 then s.board.coreOn && s.board.xtal
  else s.board.standby && s.board.xtal

/-- The counters of domains 1 to 17 advance while their references run, each by its own measure of the millisecond: a free value
(17 R445; log 27). -/
def State.domainsCount (s : State) : State :=
  { s with
    freeCtr := s.freeCtr + 18
    pwc := { s.pwc with
      dcnt := (List.range' 1 17).foldl (fun m d =>
        if s.refRuns d then sset 0 m d (sget 0 m d + BitVec.ofNat 64 (Config.freeNat (s.freeCtr + d))) else m) s.pwc.dcnt } }

/-- A millisecond passes: a processor that was reset 20 ms ago executes its image again, and rebuilds (15 R374). -/
def State.tick (s : State) : State :=
  s.modFw fun f =>
    { f with
      ms := f.ms + 1
      procs := f.procs.map fun (p : Nat × ProcReg) =>
        if p.2.st == .starting && decide (p.2.since + 20 ≤ f.ms + 1) then (p.1, { p.2 with st := .rebuilding }) else p }

/-- The samples of one millisecond (R401); none is logged while the MGP restarts (15 R375), but the clamp and the trip need no
firmware. -/
def State.sample (s : State) (rs : List (Option Reading)) : State :=
  let s1 := s.tick.domainsCount
  let s2 := (if s1.procReady mgpIx then sampleAll 0 s1 (rs.take 140) else s1).sampleStacks rs
  if s2.board.coreOn then (s2.tripAt rs).senseEmergency rs else s2.updateAlert

/-- R402, R279. -/
def State.cmdSensorRead (s : State) (h : Hdr) (first count : BitVec 8) (dst : BitVec 64) : State :=
  s.command h
    { opc := 0x80, cls := .kernel, lenOk := h.len == 16, named := h.ctx.toNat
      argsOk := first.toNat ≤ 139 && first.toNat + count.toNat ≤ 140 && addrOk dst 8
      spans := fun _ => [(h.ctx.toNat, dst.toNat, 8 * count.toNat)] }
    (fun t =>
      let bs := (List.range count.toNat).flatMap fun i => leBytes 8 (sget 0 t.mss.sens (first.toNat + i)).toNat
      let (t1, ok) := t.feWrite h.ctx.toNat dst.toNat bs
      if ok then .now t1 stOK count.toNat else .now t1 stAddrFault 0)

def execSensorRead (h : Hdr) (first count : BitVec 8) (dst : BitVec 64) (s : State) : Host.Outcome State Fault Refusal :=
  .next (s.cmdSensorRead h first count dst)

/-! ### Built-in self-test -/

/-- A BIST unit: hummock 0, sector 1, hub 2, with its instance (R421). -/
def bistUnits (scope target : Nat) : List (Nat × Nat) :=
  if scope = 0 then [(0, target)]
  else if scope = 1 then (List.range 12).map fun i => (0, 12 * target + i)
  else (allHums.map fun g => (0, g)) ++ (List.range 8).map (fun x => (1, x)) ++ [(2, 0)]

/-- R422. -/
def golden (unit kind : Nat) : BitVec 256 :=
  match unit, kind with
  | 0, 0 => 0x3C91A7E05B2DF1846E0A9C73D21548BF0A6EC3D97F1285B4E9602D7C1A4FB83E
  | 0, _ => 0x81F42C6BE0D93A75C51E8B0274AFD96C2E38B1F75D0AC4639B8E17F2A05D6C94
  | 1, 0 => 0xD73A0E5C94B128F63C7EA0D561B9F24C8E135A7DB06FC9284D1EE7A30B5C9F62
  | 1, _ => 0x4B0ED86A1F73C52D9A8406BEE3F17C2956A0D4B82E9F1C63A7D50F4B8E21C376
  | _, 0 => 0xA5E271C93D08B64F0E7AD193C82B5F609D47E1A836CB0F257B94E3D01A6C58F7
  | _, _ => 0x17CB9E40F25A6D83B0E14C972AF6D538C04D8B1EE7A26F395D0C91B43E8AF62D

def bistDiffers (u : Nat × Nat) (kind : Nat) (r : BistUnit) : Bool := r.misr != golden u.1 kind

/-- R421. -/
def bistRecord (u : Nat × Nat) (kind : Nat) (r : BistUnit) : List Byte :=
  leBytes 2 (u.2 + 256 * u.1) ++ leBytes 1 kind ++ leBytes 1 (if bistDiffers u kind r then 1 else 0) ++
    leBytes 4 (if kind = 1 then r.fails.toNat else 0) ++ leBytes 24 0 ++ leBytes 32 r.misr.toNat

/-- The hummocks among the units under test. -/
def bistHums (scope target : Nat) : List Nat := ((bistUnits scope target).filter fun u => u.1 == 0).map fun u => u.2

/-- No launch holds a hummock concerned (11 R281); SCOPE 2 needs QUIESCED and IDLE (R282). -/
def bistLegal (scope target : Nat) (t : State) : Bool :=
  if scope = 2 then t.devCode == 1 && t.ep.st == .idle
  else (bistHums scope target).all fun g => (t.hum g).holder.isNone

/-- Hummocks under test hold nothing; with SCOPE 2 every stack is in self-refresh (R420). -/
def State.bistStart (s : State) (scope target : Nat) : State :=
  let s1 := (bistHums scope target).foldl (fun (acc : State) g =>
    acc.modHum g fun h =>
      { Hummock.reset with power := .inReset, nextId := h.nextId, sealedLast := h.lastSealed, ue := h.ue }) s
  if scope = 2 then
    (List.range 24).foldl (fun (acc : State) k =>
      match (acc.stack k).st with
      | .failed => acc
      | _ => acc.setStack k { acc.stack k with st := .srefReset }) s1
  else s1

def State.cmdBistRun (s : State) (h : Hdr) (kind scope target : BitVec 8) (dst : BitVec 64) : State :=
  s.command h
    { opc := 0x82, cls := .kernel, lenOk := h.len == 16, named := h.ctx.toNat
      argsOk := kind.toNat ≤ 1 && scope.toNat ≤ 2 && addrOk dst 32 &&
        (if scope = 0 then decide (target.toNat < 96) else if scope = 1 then decide (target.toNat < 8) else true)
      legal := bistLegal scope.toNat target.toNat }
    (fun t => .held fun r =>
      (t.bistStart scope.toNat target.toNat).modMss fun m =>
        { m with bist := m.bist ++ [⟨kind, scope, target, h.ctx, dst, r⟩] })

def execBistRun (h : Hdr) (kind scope target : BitVec 8) (dst : BitVec 64) (s : State) : Host.Outcome State Fault Refusal :=
  .next (s.cmdBistRun h kind scope target dst)

/-- The results of the units with their reports, in unit order; a unit without a report matches nothing. -/
def bistResults (scope target : Nat) (rs : List BistUnit) : List ((Nat × Nat) × BistUnit) :=
  (bistUnits scope target).zip (rs ++ List.replicate 105 ⟨0, 0⟩)

/-- A hummock whose BIST differs is withheld; one withheld under R226 is released by a matching memory BIST; a sector or hub
unit that differs places an event (R423). -/
def State.bistJudge (s : State) (kind : Nat) (x : (Nat × Nat) × BistUnit) : State :=
  let (u, r) := x
  if u.1 = 0 then
    let bit : BitVec 96 := 1#96 <<< u.2
    if bistDiffers u kind r then s.modMss fun m => { m with withheld := m.withheld ||| bit }
    else if kind = 1 then s.modMss fun m => { m with withheldUe := m.withheldUe &&& ~~~bit }
    else s
  else if bistDiffers u kind r then s.mgmtEvent 4 u.2 (u.2 + 256 * u.1)
  else s

/-- With SCOPE 2 the sectors are as after a sector reset, and the hummocks tested as after an engine reset (R420, R351, R352). -/
def State.bistEnd (s : State) (scope target : Nat) : State :=
  let s1 := if scope = 2 then (List.range 8).foldl (fun (acc : State) x => (acc.sectorWipe x).wakeSector x) s else s
  (bistHums scope target).foldl (fun (acc : State) g =>
    acc.modHum g fun h =>
      { Hummock.reset with
        power := .running, vset := s.commonSet, nextId := h.nextId, sealedLast := h.lastSealed, ue := h.ue }) s1

def bistDiffCount (kind : Nat) (xs : List ((Nat × Nat) × BistUnit)) : Nat := xs.countP fun x => bistDiffers x.1 kind x.2

/-- The last unit finishes: records are written at DST, and the reply follows. How long the SCPs took after a device-scope test is a
free value of their READY events. -/
def State.bistDone (s : State) (b : BistRun) (rs : List BistUnit) : State :=
  let kind := b.kind.toNat
  let xs := bistResults b.scope.toNat b.target.toNat rs
  let s1 := (xs.foldl (fun (acc : State) x => acc.bistJudge kind x) s).bistEnd b.scope.toNat b.target.toNat
  let n := xs.length
  let d := bistDiffCount kind xs
  let s2 := s1.modMss fun m =>
    { m with bist := m.bist.erase b, lastBist := if b.scope = 2 then BitVec.ofNat 32 (n + 65536 * d) else m.lastBist }
  let (k, s2) := s2.draw
  let s3 := if b.scope = 2 then s2.resume (Config.freeNat k) (List.range 8) else s2
  let (s4, ok) := s3.feWrite b.ctx.toNat b.dst.toNat (xs.flatMap fun x => bistRecord x.1 kind x.2)
  s4.reply { b.reply with
    status := if ok then stOK else stAddrFault
    data := if ok then BitVec.ofNat 128 (n + 2 ^ 32 * d) else 0 }

/-! ### Sealed tenancy (R415; 09 R229 to R232) -/

/-- The key that KEY_PUT placed under KREF in the session that the packet came by. -/
def State.sessionKey (s : State) (p : Path) (kref : BitVec 32) : Option (BitVec 512) :=
  match p with
  | .session sid => (s.sessionOf sid).bind fun x => (x.keys.find? fun k => k.1 == kref).map fun k => k.2
  | _ => none

def State.sealCtx (s : State) (c : Nat) (key : BitVec 512) : State :=
  s.modMem fun m => { m with keys := sset 0 m.keys c key, loaded := m.loaded ||| (1#64 <<< c) }

def State.cmdSeal (s : State) (h : Hdr) (tctx : BitVec 8) (kref : BitVec 32) : State :=
  let c := tctx.toNat
  s.command h
    { opc := 0x90, cls := .secure, lenOk := h.len == 8, argsOk := c < 64 && (s.sessionKey h.path kref).isSome, named := c
      legal := closable c }
    (fun t =>
      match t.sessionKey h.path kref with
      | some k => .now (t.sealCtx c k) stOK 0
      | none => .now t stBadParam 0)

def execSealCtx (h : Hdr) (tctx : BitVec 8) (kref : BitVec 32) (s : State) : Host.Outcome State Fault Refusal :=
  .next (s.cmdSeal h tctx kref)

def State.cmdUnseal (s : State) (h : Hdr) (tctx : BitVec 8) : State :=
  let c := tctx.toNat
  s.command h
    { opc := 0x91, cls := .secure, lenOk := h.len == 8, argsOk := c < 64, named := c, legal := closable c }
    (fun t => .now (t.unsealCtx c) stOK 0)

def execUnsealCtx (h : Hdr) (tctx : BitVec 8) (s : State) : Host.Outcome State Fault Refusal := .next (s.cmdUnseal h tctx)

def State.ownRun (s : State) (sec first n : Nat) (e : OwnEntry) : State :=
  (List.range n).foldl (fun (acc : State) i => acc.ownWrite (sec * framesPerSector + first + i) e) s

def State.cmdFrameOwn (s : State) (h : Hdr) (sector tctx fl : BitVec 8) (first count : BitVec 32) : State :=
  s.command h
    { opc := 0x92, cls := .secure, lenOk := h.len == 16, named := tctx.toNat
      argsOk := sector.toNat < 8 && tctx.toNat < 64 && fl.toNat < 4 && first.toNat + count.toNat ≤ framesPerSector }
    (fun t =>
      .now (t.ownRun sector.toNat first.toNat count.toNat ⟨tctx.setWidth 6, fl.getLsbD 0, fl.getLsbD 1⟩) stOK count.toNat)

def execFrameOwn (h : Hdr) (sector tctx fl : BitVec 8) (first count : BitVec 32) (s : State) :
    Host.Outcome State Fault Refusal :=
  .next (s.cmdFrameOwn h sector tctx fl first count)

/-! ### A packet's bytes (11 R271) -/

/-- A packet's header; `zeros` lists the reserved bytes of its parameters, as offset and length. -/
def parseHdr (p : Path) (bs : List Byte) (zeros : List (Nat × Nat)) : Hdr :=
  { path := p, irq := field bs 1 1 % 2 = 1, ctx := BitVec.ofNat 6 (field bs 4 1), seq := BitVec.ofNat 64 (field bs 8 8)
    len := field bs 2 2
    rsvd := !(field bs 1 1 < 2 && field bs 4 1 < 64 && field bs 5 3 == 0 && field bs 0x10 16 == 0 &&
      zeros.all fun z => field bs (0x20 + z.1) z.2 == 0) }

/-- A management packet is decided (11 R286): the MGP's opcodes; any other is answered BAD_OPCODE. -/
def State.runPacket (s : State) (p : Path) (bs : List Byte) : State :=
  let f (off n : Nat) : Nat := field bs (0x20 + off) n
  let opc := field bs 0 1
  if opc = 0x80 then
    s.cmdSensorRead (parseHdr p bs [(2, 6)]) (BitVec.ofNat 8 (f 0 1)) (BitVec.ofNat 8 (f 1 1)) (BitVec.ofNat 64 (f 8 8))
  else if opc = 0x81 then
    s.cmdLogRead (parseHdr p bs [(0xC, 4)]) (BitVec.ofNat 64 (f 0 8)) (BitVec.ofNat 32 (f 8 4)) (BitVec.ofNat 64 (f 0x10 8))
  else if opc = 0x82 then
    s.cmdBistRun (parseHdr p bs [(3, 5)]) (BitVec.ofNat 8 (f 0 1)) (BitVec.ofNat 8 (f 1 1)) (BitVec.ofNat 8 (f 2 1))
      (BitVec.ofNat 64 (f 8 8))
  else if opc = 0x83 then s.cmdFwActivate (parseHdr p bs [(1, 7)]) (BitVec.ofNat 8 (f 0 1))
  else if opc = 0x90 then s.cmdSeal (parseHdr p bs [(1, 3)]) (BitVec.ofNat 8 (f 0 1)) (BitVec.ofNat 32 (f 4 4))
  else if opc = 0x91 then s.cmdUnseal (parseHdr p bs [(1, 7)]) (BitVec.ofNat 8 (f 0 1))
  else if opc = 0x92 then
    s.cmdFrameOwn (parseHdr p bs [(3, 1), (0xC, 4)]) (BitVec.ofNat 8 (f 0 1)) (BitVec.ofNat 8 (f 1 1)) (BitVec.ofNat 8 (f 2 1))
      (BitVec.ofNat 32 (f 4 4)) (BitVec.ofNat 32 (f 8 4))
  else s.badOpcode (parseHdr p bs []) (BitVec.ofNat 8 opc)

end Sys2Proof.Machine
end

