-- ==== Sys2Proof/Machine/Management.lean ====
section
/-!
DEFINITION. Sys2Proof/Machine/Management.lean: requests of the management paths (16 R399): PLDM updates (R405, R406), SPDM and
the vendor messages (R409 to R413), sealed transfers (R416, R417), MCTP control and relays (19 R485 to R487), DOE (19 R480),
cable modules (16 R403), and the requests that wait for the MGP. Codes and layouts of PLDM, SPDM, MCTP and DOE come from those
standards (log 40).
-/

namespace Sys2Proof.Machine

/-! ### Paths -/

/-- A request reaches the MGP on a binding: SMBus and I3C while standby power stands, PCIe through the link in D0 (19 R476), DOE through
the configuration requests that the device answers once released (19 R480, R483), and from a device whose MGMT packets have come (R400)
while the router has power. -/
def State.bindingUp (s : State) (b : Binding) : Bool :=
  s.board.standby && (match b with
    | .smbus | .i3c => true
    | .pcie => s.link.up && !s.link.d3
    | .doe => s.link.up && s.board.released && !s.err.halted
    | .causeway d => s.board.coreOn && s.mss.askers.contains d)

/-- The MGP answers on a binding now. -/
def State.pathUp (s : State) (b : Binding) : Bool := s.bindingUp b && s.procReady mgpIx

/-- A response that carries bytes that the specification leaves to a standard or to manufacture (log 12). -/
def State.respondFree (s : State) (b : Binding) (what : String) (f : List Byte → List Byte) : State :=
  let (k, s1) := s.draw
  s1.respond b (f (Config.freeBytes what k))

def State.enqueue (s : State) (b : Binding) (r : MgmtReq) : State := s.modMss fun m => { m with waiting := m.waiting ++ [(b, r)] }

/-- A management command i on an MCTP binding is decided by f, or waits while the MGP restarts (15 R375). -/
def State.onMctp (s : State) (b : Binding) (i : Instr) (f : State → State) : State :=
  if b == .doe || !s.bindingUp b then s else if s.procReady mgpIx then f s else s.enqueue b (.cmd i)

/-! ### PLDM Type 5 (R405, R406) -/

def pldmOk : Byte := 0x00
def pldmNotInUpdate : Byte := 0x80
def pldmBadState : Byte := 0x84
def pldmRefused : Byte := 0x8A

def State.setUpd (s : State) (u : UpdSt) : State := s.modMss fun m => { m with upd := u }

def execQueryDeviceIdentifiers (b : Binding) (s : State) : Host.Outcome State Fault Refusal :=
  .next (s.onMctp b (.queryDeviceIdentifiers b) fun t => t.respondFree b "QueryDeviceIdentifiers" fun f => 0x01 :: pldmOk :: f)

def execGetFirmwareParameters (b : Binding) (s : State) : Host.Outcome State Fault Refusal :=
  .next (s.onMctp b (.getFirmwareParameters b) fun t => t.respondFree b "GetFirmwareParameters" fun f => 0x02 :: pldmOk :: f)

/-- Why RequestUpdate is refused (R406). -/
def State.updateBarred (s : State) : Bool := s.fw.pend.isSome || s.fw.handoff.isSome || s.mss.upd != .idle

/-- Before the device is released, no update or activation comes by the host's path (20 R504). -/
def State.hostEarly (s : State) (b : Binding) : Bool := b == .pcie && !s.board.released

def execRequestUpdate (b : Binding) (s : State) : Host.Outcome State Fault Refusal :=
  .next (s.onMctp b (.requestUpdate b) fun t =>
    if t.updateBarred || t.hostEarly b then t.respond b [0x10, pldmRefused] else (t.modMss fun m => { m with upd := .learn, updOn := b }).respond b [0x10, pldmOk])

/-- The one component, a whole image (R405). -/
def imageComp : BitVec 16 := 0x0001

def execPassComponentTable (b : Binding) (comp : BitVec 16) (s : State) : Host.Outcome State Fault Refusal :=
  .next (s.onMctp b (.passComponentTable b comp) fun t =>
    if t.mss.upd != .learn then t.respond b [0x13, if t.mss.upd = .idle then pldmNotInUpdate else pldmBadState]
    else (t.setUpd .ready).respond b [0x13, pldmOk, if comp = imageComp then 0 else 1])

def updateUnit : Nat := 4096
def slotBytes : Nat := 96 * 2 ^ 20

/-- The device asks for its next unit. -/
def State.askUnit (s : State) (b : Binding) : State :=
  let n := Nat.min updateUnit (s.mss.updSize.toNat - s.mss.updOff.toNat)
  s.respond b (0x15 :: (leBytes 4 s.mss.updOff.toNat ++ leBytes 4 n))

def execUpdateComponent (b : Binding) (comp : BitVec 16) (size : BitVec 32) (s : State) : Host.Outcome State Fault Refusal :=
  .next (s.onMctp b (.updateComponent b comp size) fun t =>
    if t.mss.upd != .ready then t.respond b [0x14, if t.mss.upd = .idle then pldmNotInUpdate else pldmBadState]
    else if comp != imageComp || slotBytes < size.toNat || size = 0 then t.respond b [0x14, pldmOk, 1]
    else
      let t1 := t.modMss fun m => { m with upd := .download, updOff := 0, updSize := size }
      (t1.respond b [0x14, pldmOk, 0]).askUnit b)

/-- A unit is written into the slot that is not active, which reads VERIFIED = 0 from the first write. -/
def Firmware.writeImage (f : Firmware) (off : Nat) (bs : List Byte) : Firmware :=
  let x := !f.actSlot
  let base := slotBase x
  let old := if off = 0 then sclear f.flash base (base + slotBytes) else f.flash
  let f1 := f.setSlot x { f.slot x with verified := false }
  { f1 with flash := flashWrite old (base + off) bs }

def execRequestFirmwareData (b : Binding) (offset : BitVec 32) (data : List Byte) (s : State) :
    Host.Outcome State Fault Refusal :=
  .next (s.onMctp b (.requestFirmwareData b offset data) fun t =>
    let n := Nat.min updateUnit (t.mss.updSize.toNat - t.mss.updOff.toNat)
    if t.mss.upd != .download || offset != t.mss.updOff || data.length != n then t
    else
      let t1 := (t.modFw fun f => f.writeImage offset.toNat data).modMss fun m =>
        { m with updOff := m.updOff + BitVec.ofNat 32 n }
      if t1.mss.updOff = t1.mss.updSize then (t1.setUpd .verify).respond b [0x16, 0] else t1.askUnit b)

/-- The header is one of R384: five components, each at an aligned offset within the image, which the slot holds. -/
def imageLayout (h : List Byte) : Bool :=
  let size := field h 0x20 4
  field h 0 4 == 0x57464E56 && field h 4 2 == 1 && field h 6 2 == 5 && decide (0x8000 ≤ size) && decide (size ≤ slotBytes) &&
    (List.range 5).all fun k =>
      let off := field h (0x44 + 16 * k) 4
      off % 0x1000 == 0 && decide (0x8000 ≤ off) && decide (off + field h (0x48 + 16 * k) 4 ≤ size)

/-- The slot's record from the image's header (R384), verified under R385. -/
def readSlot (f : Firmware) (x sigOk : Bool) : Slot :=
  let h := flashRead f.flash (slotBase x) 0x140
  { verified := sigOk && imageLayout h && field h 0x1C 4 == 0xA0 && decide (f.svnMin.toNat ≤ field h 0x10 4)
    fwver := BitVec.ofNat 64 (field h 8 8), svn := BitVec.ofNat 32 (field h 0x10 4), numrev := BitVec.ofNat 32 (field h 0x14 4)
    hover := BitVec.ofNat 16 (field h 0x18 2), homin := BitVec.ofNat 16 (field h 0x1A 2)
    digest := BitVec.ofNat 512 (field h 0x100 64), svnlock := field h 0x24 4 % 2 == 1 }

/-- The write has ended: the MGP verifies the whole image and records the slot (R385); sigOk says that its signature checks
and its digest matches. -/
def execVerifyComplete (sigOk : Bool) (s : State) : Host.Outcome State Fault Refusal :=
  match s.mss.upd, s.procReady mgpIx with
  | .verify, true =>
    let x := !s.fw.actSlot
    let r := readSlot s.fw x sigOk
    let s1 := (s.modFw fun f => f.setSlot x r).setUpd (if r.verified then .apply else .ready)
    let b := s.mss.updOn
    .next (if r.verified then (s1.respond b [0x17, 0]).respond b [0x18, 0] else s1.respond b [0x17, 1])
  | _, _ => .next s

/-- Self-contained activation of the slot written (R405, R386); its estimated time is 1 s. -/
def execActivateFirmware (b : Binding) (s : State) : Host.Outcome State Fault Refusal :=
  .next (s.onMctp b (.activateFirmware b) fun t =>
    if t.hostEarly b then t.respond b [0x1A, pldmBadState]
    else if t.mss.upd != .apply then t.respond b [0x1A, if t.mss.upd = .idle then pldmNotInUpdate else pldmBadState]
    else if !t.slotFit (!t.fw.actSlot) then t.respond b [0x1A, pldmBadState]
    else (((t.setUpd .idle).activate (!t.fw.actSlot)).1).respond b [0x1A, pldmOk, 1, 0])

def updCode : UpdSt → Byte
  | .idle => 0 | .learn => 1 | .ready => 2 | .download => 3 | .verify => 4 | .apply => 5 | .activate => 6

def execGetStatus (b : Binding) (s : State) : Host.Outcome State Fault Refusal :=
  .next (s.onMctp b (.getStatus b) fun t => t.respondFree b "GetStatus" fun f => 0x1B :: pldmOk :: updCode t.mss.upd :: f)

def execCancelUpdateComponent (b : Binding) (s : State) : Host.Outcome State Fault Refusal :=
  .next (s.onMctp b (.cancelUpdateComponent b) fun t =>
    match t.mss.upd with
    | .download | .verify | .apply => (t.setUpd .ready).respond b [0x1C, pldmOk]
    | .idle => t.respond b [0x1C, pldmNotInUpdate]
    | _ => t.respond b [0x1C, pldmBadState])

def execCancelUpdate (b : Binding) (s : State) : Host.Outcome State Fault Refusal :=
  .next (s.onMctp b (.cancelUpdate b) fun t =>
    if t.mss.upd = .idle then t.respond b [0x1D, pldmNotInUpdate] else (t.setUpd .idle).respond b [0x1D, pldmOk])

/-! ### SPDM and what waits (R409, R413; 19 R480) -/

/-- SPDM ERROR with a code: 0x07 UnsupportedRequest, 0x03 Busy, 0x01 InvalidRequest. -/
def spdmError (code arg : Byte) : List Byte := [0x7F, code, arg]

/-- The report, without its signature (R413). -/
def State.reportBody (s : State) (nonce : BitVec 256) : List Byte :=
  let a := s.fw.active
  leBytes 4 0x54525041 ++ leBytes 2 1 ++ leBytes 2 (if s.fw.pend.isSome then 1 else 0) ++ leBytes 32 nonce.toNat ++
    leBytes 16 s.cip.serial.toNat ++ leBytes 4 0xA0 ++ leBytes 4 s.fw.svnMin.toNat ++ leBytes 8 a.fwver.toNat ++
    leBytes 4 a.svn.toNat ++ leBytes 4 a.numrev.toNat ++ leBytes 64 a.digest.toNat ++
    leBytes 1 (if s.cip.modeActive then 1 else 0) ++ leBytes 7 0 ++ leBytes 8 s.ep.mepoch.toNat ++ leBytes 8 s.ep.c.toNat ++
    leBytes 8 s.mem.loaded.toNat ++
    (match s.mss.fmkey with
     | some k => slice (Config.shake256 (leBytes 64 k.toNat) 32) 0 32
     | none => leBytes 32 0) ++
    leBytes 4 s.mss.lastBist.toNat ++ leBytes 4 0 ++ leBytes 40 0

def State.report (s : State) (nonce : BitVec 256) : List Byte :=
  let b := s.reportBody nonce
  b ++ slice (Config.dikSign s.mss.dik b) 0 sigLen

/-- The MGP answers a request. -/
def State.answer (s : State) (b : Binding) (r : MgmtReq) : State :=
  match r with
  | .version => s.respond b [0x10, 0x04, 0, 0, 0, 2, 0x00, 0x12, 0x00, 0x13]
  | .capabilities => s.respondFree b "CAPABILITIES" fun f => 0x61 :: f
  | .algorithms => s.respondFree b "ALGORITHMS" fun f => 0x63 :: (slice f 0 10 ++ leBytes 4 0 ++ slice f 14 22)
  | .unsupported c => s.respond b (spdmError 0x07 c)
  | .report n => s.respond b (vendorMsg (0x90 :: s.report n))
  | .chain o n => s.respond b (vendorMsg (0x91 :: (Config.certChain.drop o.toNat).take n.toNat))
  | .mailbox => (s.modMss fun m => { m with mbBusy := false }).runPacket .mailbox (bread s.mss.mbReq 0 4096)
  | .cmd _ => s

/-- A request that must wait: for the MGP, or, a report, for the end of a handoff and of what commands decided before it still do: a
BIST run, a level, an abort (R413). -/
def State.mustQueue (s : State) (r : MgmtReq) : Bool :=
  !s.procReady mgpIx || (match r with
    | .report _ => s.fw.handoff.isSome || s.mss.bist != [] || s.fe.wait.isSome
    | _ => false)

/-- The DOE mailbox holds an object that waits. -/
def State.doeHolds (s : State) : Bool := s.mss.waiting.any fun w => w.1 == .doe && w.2 != .mailbox

/-- DOE Busy, as configuration software reads it (19 R480). -/
def State.doeBusy (s : State) : Bool := s.doeHolds || !s.procReady mgpIx

/-- A request arrives; what finds the MGP restarting waits (15 R375). On DOE the mailbox holds one object. -/
def State.request (s : State) (b : Binding) (r : MgmtReq) : State :=
  if !s.bindingUp b then s
  else if b == .doe && s.doeHolds then s
  else if s.mustQueue r then s.enqueue b r
  else s.answer b r

def execGetVersion (b : Binding) (s : State) : Host.Outcome State Fault Refusal := .next (s.request b .version)
def execGetCapabilities (b : Binding) (s : State) : Host.Outcome State Fault Refusal := .next (s.request b .capabilities)
def execNegotiateAlgorithms (b : Binding) (s : State) : Host.Outcome State Fault Refusal := .next (s.request b .algorithms)
def execGetDigests (b : Binding) (s : State) : Host.Outcome State Fault Refusal := .next (s.request b (.unsupported 0x81))
def execGetCertificate (b : Binding) (s : State) : Host.Outcome State Fault Refusal := .next (s.request b (.unsupported 0x82))
def execChallenge (b : Binding) (s : State) : Host.Outcome State Fault Refusal := .next (s.request b (.unsupported 0x83))
def execGetMeasurements (b : Binding) (s : State) : Host.Outcome State Fault Refusal := .next (s.request b (.unsupported 0xE0))
def execGetReport (b : Binding) (nonce : BitVec 256) (s : State) : Host.Outcome State Fault Refusal :=
  .next (s.request b (.report nonce))
def execGetChain (b : Binding) (offset length : BitVec 32) (s : State) : Host.Outcome State Fault Refusal :=
  .next (s.request b (.chain offset length))

/-! ### Sessions (R410, R411) -/

/-- A vendor message on MCTP; on DOE only reports are served. -/
def State.onVendor (s : State) (b : Binding) (i : Instr) (f : State → State) : State :=
  if b == .doe then s.request .doe (.unsupported 0xFE) else s.onMctp b i f

def State.addSession (s : State) (x : Session) : State :=
  s.modMss fun m => { m with sessions := m.sessions ++ [x], nextSess := m.nextSess + 1 }

def State.openSession (s : State) (b : Binding) (nonce : BitVec 256) : State :=
  if 4 ≤ s.mss.sessions.length then s.respond b (spdmError 0x03 0)
  else
    let (k, s1) := s.draw
    let id := s1.mss.nextSess
    let m1 : List Byte := 0x01 :: leBytes 32 nonce.toNat
    let m2 : List Byte := 0x81 :: (slice (Config.kemKey id) 0 1568 ++ slice (Config.freeBytes "session-nonce" k) 0 32)
    let r := m2 ++ slice (Config.dikSign s1.mss.dik (m1 ++ m2)) 0 sigLen
    let x : Session :=
      { id := id, binding := b, opened := false, auth := false, th := m1 ++ r, secret := [], keys := [], seq := 0, sendSeq := 0
        recvSeq := 0 }
    (s1.addSession x).respond b (vendorMsg r)

def execSessOpen (b : Binding) (nonce : BitVec 256) (s : State) : Host.Outcome State Fault Refusal :=
  .next (s.onVendor b (.sessOpen b nonce) fun t => t.openSession b nonce)

def State.dropSession (s : State) (sid : Nat) : State :=
  s.modMss fun m => { m with sessions := m.sessions.filter fun x => x.id != sid }

/-- A session of this binding. -/
def State.sessionOn (s : State) (b : Binding) (sid : Nat) : Option Session :=
  (s.sessionOf sid).bind fun x => if x.binding == b then some x else none

def State.openOn (s : State) (b : Binding) (sid : Nat) : Bool := (s.sessionOn b sid).any fun x => x.opened
def State.authOn (s : State) (b : Binding) (sid : Nat) : Bool := (s.sessionOn b sid).any fun x => x.opened && x.auth

/-- Answer a message that names a session: within it once it is open (R410). -/
def State.respondIn (s : State) (b : Binding) (sid : Nat) (bs : List Byte) : State :=
  match s.sessionOn b sid with
  | some x => if x.opened then s.answerIn x (vendorMsg bs) else s.respond b (vendorMsg bs)
  | none => s.respond b (vendorMsg bs)

/-- A message that names a session comes, once the session is open, under its request key. -/
def State.hearIn (s : State) (b : Binding) (sid : Nat) : State := if s.openOn b sid then s.heard sid else s

/-- The record's tag checks under the session's request key, with its salt and the messages heard so far (R410); what comes in no open
session needs none. -/
def State.genuine (s : State) (b : Binding) (m : SessIn) : Bool :=
  (s.sessionOn b m.id).all fun x => !x.opened || x.checks m.cipher m.tag

/-- A vendor message within a session; a record that fails its tag is discarded (log 140). -/
def State.onSession (s : State) (b : Binding) (m : SessIn) (i : Instr) (f : State → State) : State :=
  s.onVendor b i fun t => if t.genuine b m then f (t.hearIn b m.id) else t

/-- A message sent without what it needs: success with zero data, counted (R409). -/
def State.refuseMsg (s : State) (b : Binding) (sid : Nat) (code : Byte) (zeros : Nat) : State :=
  s.countMsg.respondIn b sid (code :: List.replicate zeros 0)

/-- Step 4: both sides derive the session's 88 bytes. -/
def Session.derive (x : Session) (ct : List Byte) (auth : Bool) : Session :=
  let th := x.th ++ 0x02 :: (ct ++ [0x82])
  { x with
    opened := true, auth := auth, th := th
    secret := slice (Config.shake256 (Config.kemDecap x.id ct ++ slice (Config.shake256 th 64) 0 64) 88) 0 88 }

/-- The signature over the exchange verifies against the fabric manager key. -/
def State.sigOk (s : State) (msg sg : List Byte) : Bool :=
  match s.mss.fmkey with
  | some k => Config.slhVerify k msg sg
  | none => false

/-- SESS_KEY comes in the clear: an open session takes none. -/
def State.sessKey (s : State) (b : Binding) (sid : Nat) (ct : List Byte) (sig : Option (List Byte)) : State :=
  match s.sessionOn b sid with
  | none => s.refuseMsg b sid 0x82 0
  | some x =>
    if x.opened then s.refuseMsg b sid 0x82 0
    else
      match sig with
      | none => (s.modSession sid fun y => y.derive ct false).respond b (vendorMsg [0x82])
      | some g =>
        if s.sigOk (x.th ++ 0x02 :: ct) g then (s.modSession sid fun y => y.derive ct true).respond b (vendorMsg [0x82])
        else ((s.dropSession sid).mgmtEvent 3 0xFF 0).respond b (spdmError 0x01 0)

def execSessKey (b : Binding) (sid : Nat) (ct : List Byte) (sig : Option (List Byte)) (s : State) :
    Host.Outcome State Fault Refusal :=
  .next (s.onVendor b (.sessKey b sid ct sig) fun t => t.sessKey b sid ct sig)

def execSessClose (b : Binding) (sid : SessIn) (s : State) : Host.Outcome State Fault Refusal :=
  .next (s.onSession b sid (.sessClose b sid) fun t =>
    if t.openOn b sid.id then (t.respondIn b sid.id [0x83]).dropSession sid.id else t.refuseMsg b sid.id 0x83 0)

def execSessionTimeout (sid : Nat) (s : State) : Host.Outcome State Fault Refusal :=
  .next (if s.procReady mgpIx then s.dropSession sid else s)

/-! ### Keys (R412, R415, R419; 19 R479) -/

def State.ideOf (s : State) (k : Nat) : IdeStream := sget IdeStream.reset s.link.ide k

/-- Both directions of a stream hold keys. -/
def IdeStream.keyed (x : IdeStream) : Bool :=
  ((sget none x.keys 0).isSome || (sget none x.keys 1).isSome) && ((sget none x.keys 2).isSome || (sget none x.keys 3).isSome)

/-- A stream enters Secure once both directions hold keys and software has enabled it. -/
def State.setIde (s : State) (k : Nat) (x : IdeStream) : State :=
  let x1 := { x with secure := x.keyed && x.enabled }
  { s with link := { s.link with ide := sset IdeStream.reset s.link.ide k x1 } }

def State.placeKey (s : State) (sid : Nat) (tgt : KeyTarget) (key : BitVec 512) : State :=
  match tgt with
  | .xts kref => s.modSession sid fun x => { x with keys := (x.keys.filter fun k => k.1 != kref) ++ [(kref, key)] }
  | .ide st tx set =>
    let x := s.ideOf st.toNat
    if st.toNat < 3 then
      s.setIde st.toNat { x with keys := sset none x.keys ((if tx then 2 else 0) + (if set then 1 else 0)) (some key) }
    else s
  | .gcm p => s.modPort p fun x =>
      -- the counters never restart under one key (R419)
      if x.key == some key then x else { x with key := some key, frames := 0, rxFrames := 0 }

def execKeyPut (b : Binding) (sid : SessIn) (tgt : KeyTarget) (key : BitVec 512) (s : State) : Host.Outcome State Fault Refusal :=
  .next (s.onSession b sid (.keyPut b sid tgt key) fun t =>
    if t.authOn b sid.id then (t.placeKey sid.id tgt key).respondIn b sid.id [0xA0] else t.refuseMsg b sid.id 0xA0 0)

/-- Is FMKEY_SET accepted (R412)? -/
def State.fmkeyOk (s : State) (b : Binding) (sid : Nat) (key : BitVec 512) (sig : Option (List Byte)) : Bool :=
  match s.mss.fmkey with
  | none => s.openOn b sid
  | some _ => s.authOn b sid && sig.any fun g => s.sigOk (leBytes 64 key.toNat) g

def State.setFmkey (s : State) (k : Option (BitVec 512)) : State :=
  (s.modMss fun m => { m with fmkey := k }).mgmtEvent 5 0xFF 0

def execFmkeySet (b : Binding) (sid : SessIn) (key : BitVec 512) (sig : Option (List Byte)) (s : State) :
    Host.Outcome State Fault Refusal :=
  .next (s.onSession b sid (.fmkeySet b sid key sig) fun t =>
    if t.fmkeyOk b sid.id key sig then (t.setFmkey (some key)).respondIn b sid.id [0xA1] else t.refuseMsg b sid.id 0xA1 0)

def execFmkeyClear (b : Binding) (sid : SessIn) (s : State) : Host.Outcome State Fault Refusal :=
  .next (s.onSession b sid (.fmkeyClear b sid) fun t =>
    if t.authOn b sid.id then (t.setFmkey none).respondIn b sid.id [0xA2] else t.refuseMsg b sid.id 0xA2 0)

/-! ### EGRESS and INGRESS (R416 to R418) -/

def xferCode (x : XferReq) : Byte := if x.egress then 0xB0 else 0xB1

/-- The response to a transfer, within its session; none where the session has ended meanwhile (log 140). -/
def State.answerXfer (s : State) (x : XferReq) (bs : List Byte) : State :=
  match s.sessionOn x.binding x.sid with
  | some y => s.answerIn y (vendorMsg (xferCode x :: bs))
  | none => s

def xferFrames (x : XferReq) : List Nat :=
  (List.range x.count.toNat).map fun i => x.sec.val * framesPerSector + x.first.toNat + i

/-- The conditions of R416 and R417. -/
def State.xferOk (s : State) (x : XferReq) : Bool :=
  s.isSealed x.ctx.toNat && decide (x.first.toNat + x.count.toNat ≤ framesPerSector) && x.addr.toNat % 4096 == 0 &&
    s.link.up && s.link.ide.any (fun i => i.2.secure) &&
    (xferFrames x).all fun f =>
      let o := s.owner f
      o.ctx == x.ctx && o.isSealed && (o.egress || !x.egress)

/-- The requests at the head that cannot be performed are answered; the first that can stays at the head; `fuel` is their
number. -/
def State.startXfers (s : State) : Nat → State
  | 0 => s
  | fuel + 1 =>
    match s.mss.xfers with
    | [] => s
    | x :: rest =>
      if s.xferOk x then s
      else State.startXfers ((s.modMss fun m => { m with xfers := rest }).countMsg.answerXfer x (leBytes 4 0)) fuel

def State.addXfer (s : State) (x : XferReq) : State :=
  let s1 := s.modMss fun m => { m with xfers := m.xfers ++ [x] }
  if s.mss.xfers == [] then s1.startXfers 1 else s1

def State.cmdXfer (s : State) (m : SessIn) (i : Instr) (x : XferReq) : State :=
  s.onSession x.binding m i fun t =>
    if t.authOn x.binding x.sid then t.addXfer x else t.refuseMsg x.binding x.sid (xferCode x) 4

def execEgress (b : Binding) (sid : SessIn) (ctx : BitVec 6) (sec : Sec) (first count : BitVec 18) (addr : BitVec 64) (s : State) :
    Host.Outcome State Fault Refusal :=
  .next (s.cmdXfer sid (.egress b sid ctx sec first count addr) ⟨true, b, sid.id, ctx, sec, first, count, addr⟩)

def execIngress (b : Binding) (sid : SessIn) (ctx : BitVec 6) (sec : Sec) (first count : BitVec 18) (addr : BitVec 64) (s : State) :
    Host.Outcome State Fault Refusal :=
  .next (s.cmdXfer sid (.ingress b sid ctx sec first count addr) ⟨false, b, sid.id, ctx, sec, first, count, addr⟩)

/-- Frame f goes to the host in plaintext. -/
def State.egressFrame (s : State) (f : Nat) (addr : BitVec 64) : State :=
  let r := s.physRead .mgp (f * frameBytes) frameBytes 0xFF
  r.s.emit (.hostWrite addr r.bytes)

/-- The copy at the head ends, whole or by a failed host write: `done` frames were written (R416); for INGRESS, data is what
the host's memory held. One whose conditions no longer hold moves nothing. -/
def execEgressIngressDone (done : BitVec 18) (data : List Byte) (s : State) : Host.Outcome State Fault Refusal :=
  match s.mss.xfers with
  | [] => .next s
  | x :: rest =>
   if !s.xferOk x then .next (s.startXfers (rest.length + 1))
   else
    let n := Nat.min done.toNat x.count.toNat
    let s1 := ((xferFrames x).take n).zipIdx.foldl (fun (acc : State) (p : Nat × Nat) =>
      if x.egress then acc.egressFrame p.1 (x.addr + BitVec.ofNat 64 (p.2 * frameBytes))
      else acc.physWrite .mgp (p.1 * frameBytes) (slice data (p.2 * frameBytes) frameBytes)) s
    let s2 := (s1.modMss fun m => { m with xfers := rest }).answerXfer x (leBytes 4 n)
    .next (s2.startXfers rest.length)

/-! ### CMD and the mailbox (R409; 11 R286) -/

def execCmd (b : Binding) (sid : SessIn) (packet : List Byte) (s : State) : Host.Outcome State Fault Refusal :=
  .next (s.onVendor b (.cmd b sid packet) fun t =>
    if !t.genuine b sid then t
    else if t.authOn b sid.id then t.runPacket (.session sid.id) packet
    else (t.hearIn b sid.id).refuseMsg b sid.id 0xC0 32)

/-- MSS_MB_GO (R427): ignored while a packet is being decided; while the MGP restarts the packet waits. -/
def State.mailboxGo (s : State) : State :=
  if s.mss.mbBusy then s
  else if s.procReady mgpIx then s.runPacket .mailbox (bread s.mss.mbReq 0 4096)
  else (s.modMss fun m => { m with mbBusy := true }).enqueue .doe .mailbox

/-! ### MCTP control (19 R486) -/

def bindingIx : Binding → Nat
  | .smbus => 0 | .i3c => 1 | .pcie => 2 | .doe => 3 | .causeway _ => 4

def State.eidOf (s : State) (b : Binding) : BitVec 8 := sget 0 s.mss.eids (bindingIx b)

def execSetEndpointId (b : Binding) (eid : BitVec 8) (s : State) : Host.Outcome State Fault Refusal :=
  .next (s.onMctp b (.setEndpointId b eid) fun t =>
    if eid = 0 ∨ eid = 0xFF then t.respond b [0x01, 0x02]
    else (t.modMss fun m => { m with eids := sset 0 m.eids (bindingIx b) eid }).respond b [0x01, 0, 0, eid, 0])

def execGetEndpointId (b : Binding) (s : State) : Host.Outcome State Fault Refusal :=
  .next (s.onMctp b (.getEndpointId b) fun t => t.respond b [0x02, 0, t.eidOf b, 0, 0])

def execGetEndpointUuid (b : Binding) (s : State) : Host.Outcome State Fault Refusal :=
  .next (s.onMctp b (.getEndpointUuid b) fun t => t.respond b (0x03 :: 0 :: slice (Config.freeBytes "UUID" 0) 0 16))

def execGetMctpVersionSupport (b : Binding) (msgType : BitVec 8) (s : State) : Host.Outcome State Fault Refusal :=
  .next (s.onMctp b (.getMctpVersionSupport b msgType) fun t =>
    if msgType = 0xFF ∨ msgType = 0 then t.respond b [0x04, 0, 1, 0xF1, 0xF3, 0xFF, 0x00]
    else if msgType = 0x01 ∨ msgType = 0x05 ∨ msgType = 0x7F then t.respondFree b "MCTP-version" fun f => 0x04 :: 0 :: f
    else t.respond b [0x04, 0x80])

def execGetMessageTypeSupport (b : Binding) (s : State) : Host.Outcome State Fault Refusal :=
  .next (s.onMctp b (.getMessageTypeSupport b) fun t => t.respond b [0x05, 0, 4, 0x00, 0x01, 0x05, 0x7F])

def execGetVendorDefinedMessageSupport (b : Binding) (selector : BitVec 8) (s : State) : Host.Outcome State Fault Refusal :=
  .next (s.onMctp b (.getVendorDefinedMessageSupport b selector) fun t =>
    if selector = 0 then
      t.respondFree b "vendor-command-set" fun f => [0x06, 0, 0xFF, 1, 0x00, 0x01, 0xB7, 0xA4] ++ slice f 0 2
    else t.respond b [0x06, 0x02])

/-- R487: a relay naming this device, or an ID without a valid route, is discarded. -/
def execMctpRelay (b : Binding) (eid : BitVec 8) (dst : BitVec 16) (payload : List Byte) (s : State) :
    Host.Outcome State Fault Refusal :=
  .next (s.onMctp b (.mctpRelay b eid dst payload) fun t =>
    let d : BitVec 15 := dst.setWidth 15
    if d = t.ownId || !(t.routeOf d).getLsbD 8 then t
    else
      let k := { t.ownPacket 0x18 3 d with
        len := BitVec.ofNat 13 payload.length, payload := payload, ctx := 0, att := 0, epoch := 0 }
      (t.modMss fun m => { m with relays := m.relays ++ [⟨b, eid, d⟩] }).inject k)

/-! ### DOE (19 R480) and the I3C address (19 R485) -/

def execDoeDiscovery (index : BitVec 8) (s : State) : Host.Outcome State Fault Refusal :=
  .next (if !s.bindingUp .doe || s.doeHolds then s
    else if !s.procReady mgpIx then s.enqueue .doe (.cmd (.doeDiscovery index))
    else if index = 0 then s.respond .doe [0x01, 0x00, 0x00, 0x01]
    else if index = 1 then s.respond .doe [0x01, 0x00, 0x01, 0x00]
    else s.respond .doe [0xFF, 0xFF, 0x00, 0x00])

/-- The object in progress is discarded. -/
def execDoeAbort (s : State) : Host.Outcome State Fault Refusal :=
  .next (if s.link.up then
    s.modMss fun m => { m with waiting := m.waiting.filter fun w => w.1 != .doe || w.2 == .mailbox } else s)

def execEntdaa (addr : BitVec 7) (s : State) : Host.Outcome State Fault Refusal :=
  .next (if s.board.standby && s.mss.i3c.isNone then s.modMss fun m => { m with i3c := some addr } else s)

/-- The SMBus target address (19 R484), which is the static address on I3C (R485). -/
def State.smbTarget (s : State) : BitVec 7 := 0x60#7 + s.board.smbAddr.setWidth 7

/-- What answers at the Alert Response Address: the own address while ALERT_N is asserted (19 R484). No row is a transaction of the bus
(log 151). -/
def State.alertAnswer (s : State) : Option (BitVec 7) := if s.board.standby && !s.board.alertN then some s.smbTarget else none

/-- SETDASA names the static address, and gives the dynamic one. -/
def execSetdasa (addr : BitVec 7) (s : State) : Host.Outcome State Fault Refusal :=
  .next (if s.board.standby && s.mss.i3c.isNone then s.modMss fun m => { m with i3c := some addr } else s)

/-! ### What waited -/

/-- A management command that waited for the MGP is decided. -/
def State.redo (s : State) (i : Instr) : Host.Outcome State Fault Refusal :=
  match i with
  | .queryDeviceIdentifiers b => execQueryDeviceIdentifiers b s
  | .getFirmwareParameters b => execGetFirmwareParameters b s
  | .requestUpdate b => execRequestUpdate b s
  | .passComponentTable b comp => execPassComponentTable b comp s
  | .updateComponent b comp size => execUpdateComponent b comp size s
  | .requestFirmwareData b offset data => execRequestFirmwareData b offset data s
  | .activateFirmware b => execActivateFirmware b s
  | .getStatus b => execGetStatus b s
  | .cancelUpdateComponent b => execCancelUpdateComponent b s
  | .cancelUpdate b => execCancelUpdate b s
  | .sessOpen b nonce => execSessOpen b nonce s
  | .sessKey b sid ct sig => execSessKey b sid ct sig s
  | .sessClose b sid => execSessClose b sid s
  | .keyPut b sid tgt key => execKeyPut b sid tgt key s
  | .fmkeySet b sid key sig => execFmkeySet b sid key sig s
  | .fmkeyClear b sid => execFmkeyClear b sid s
  | .egress b sid ctx sec first count addr => execEgress b sid ctx sec first count addr s
  | .ingress b sid ctx sec first count addr => execIngress b sid ctx sec first count addr s
  | .cmd b sid packet => execCmd b sid packet s
  | .setEndpointId b eid => execSetEndpointId b eid s
  | .getEndpointId b => execGetEndpointId b s
  | .getEndpointUuid b => execGetEndpointUuid b s
  | .getMctpVersionSupport b msgType => execGetMctpVersionSupport b msgType s
  | .getMessageTypeSupport b => execGetMessageTypeSupport b s
  | .getVendorDefinedMessageSupport b selector => execGetVendorDefinedMessageSupport b selector s
  | .mctpRelay b eid dst payload => execMctpRelay b eid dst payload s
  | .doeDiscovery index => execDoeDiscovery index s
  | _ => .next s

/-- A request that waited is answered. -/
def State.answerWaiting (s : State) (w : Binding × MgmtReq) : State :=
  match w.2 with
  | .cmd i =>
    match s.redo i with
    | .next t => t
    | _ => s
  | r => s.answer w.1 r

/-- Waiting requests that can be answered now are, in the order in which they came. -/
def State.serveWaiting (s : State) : State :=
  let now := s.mss.waiting.filter fun w => !s.mustQueue w.2
  now.foldl State.answerWaiting (s.modMss fun m => { m with waiting := m.waiting.filter fun w => s.mustQueue w.2 })

/-! ### Modules, samples, and processors that report ready -/

/-- The MGP reads the memory of a module that it has not read: one present at start-up, one inserted while the MGP restarted, or
one that it could not read (R403). -/
def execModuleReadRetry (p : PortIx) (info : Option ModuleInfo) (s : State) : Host.Outcome State Fault Refusal :=
  .next (if s.procReady mgpIx && (s.port p).modp && !(s.modReg p).read then s.readModule p info else s)

/-- Each millisecond (R401); what waited for the MGP or for a handoff to end is answered. -/
def execSensorSample (readings : List (Option Reading)) (s : State) : Host.Outcome State Fault Refusal :=
  .next (if s.board.standby then (s.sample readings).serveWaiting else s)

/-- A restarted processor reports ready after us microseconds (15 R374, R381); in a handoff, us is the duration so far. It does not
where its partition cannot be read (R382); one that cannot take its handoff record has the MGP revert (R391). -/
def execFwReady (i : Proc) (us : BitVec 32) (s : State) : Host.Outcome State Fault Refusal :=
  match (s.proc i).st with
  | .off | .ready | .notRecovered | .quiescing => .next s
  | _ =>
    .next (if (s.part i).bad then s
      else if s.handFails i then (if s.fw.reverting then s.revertFails else s.revert)
      else (((s.procUp i).fwEvent 1 i 0xFF us.toNat 0).handoffReady i us.toNat).serveWaiting)

end Sys2Proof.Machine
end

