-- ==== Sys2Proof/Machine/RegRead.lean ====
section
/-!
DEFINITION. Sys2Proof/Machine/RegRead.lean: what a read of a BAR0 register returns (00 R6, R7, R9; 18 R453, R454), block by block:
the stored fields, and the live status and read-only fields of 07 R182 and R187, 09 R237 and R238, 10 R269, 11 R288, 12 R312, 13
R343, 14 R370, 15 R398, 16 R427, 17 R450, 18 R466 and R474, and 19 R478; and a doorbell page of BAR4 (12 R294).
-/

namespace Sys2Proof.Machine

/-! ### The hummock register block (07 R187) -/

/-- Queue occupancy of a unit class, and of Lattice l. -/
def Hummock.occupancy (h : Hummock) (cls : Nat) : Nat := h.unret.countP fun i => opClass i.op == cls

def latMask : StOp → BitVec 4
  | .lload l _ _ _ => 1#4 <<< l.toNat
  | .lpass f => f.mask
  | _ => 0

def Hummock.latOccupancy (h : Hummock) (l : Nat) : Nat := h.unret.countP fun i => (latMask i.op).getLsbD l

def seqCode : SeqSt → Nat
  | .idle => 0 | .issuing => 1 | .waitSluice => 2 | .waitQueue => 3 | .still => 4 | .gated => 5 | .faulted => 6 | .ended => 7

/-- The working offset (04 R91): of the operation in progress on the tile, 0 for one that starts from +0 or chases a spill and the committed
one for any other until its additions begin (R89, R104), and equal to OFF when there is none. -/
def Hummock.workOff (h : Hummock) (i : Nat) : Nat :=
  let t := h.tile i
  if t.begun then t.woff.toNat
  else match h.unret.find? fun x => x.phase == .running && x.held.getLsbD i with
    | some x =>
      match x.op with
      | .lpass f => if f.clr || f.out || t.spilling then 0 else t.off.toNat
      | _ => t.woff.toNat
    | none => t.woff.toNat

/-- SUMP_STATE (04 R91). An operation holds the tile from its issue until its commit, and that of a STREAM group until its consumer has read
it (07 R165). -/
def tileState (h : Hummock) (i : Nat) : Nat :=
  let t := h.tile i
  let busy : Bool := h.unret.any (fun x => x.held.getLsbD i) || h.groups.any fun q => q.tile.toNat == i
  t.off.toNat + h.workOff i * 2 ^ 8 + t.cnt.toNat * 2 ^ 16 + t.sm1.toNat * 2 ^ 23 + t.pslot.toNat * 2 ^ 29 +
    (if t.bind then 2 ^ 32 else 0) + (if t.lsum then 2 ^ 33 else 0) + (if busy then 2 ^ 34 else 0) +
    (if t.spilling then 2 ^ 35 else 0) + t.rpl.toNat * 2 ^ 36

def pctlWord (h : Hummock) : BitVec 64 :=
  BitVec.ofNat 64 ((if h.pmode then 1 else 0) + h.wslu.toNat * 2 ^ 16 + (if h.wsen then 2 ^ 31 else 0))

def Hummock.setPctl (h : Hummock) (v : BitVec 64) : Hummock :=
  { h with pmode := v.getLsbD 0, wslu := v.extractLsb' 16 15, wsen := v.getLsbD 31 }

/-- A register of hummock g's block; unlisted offsets read zero. -/
def readHumReg (h : Hummock) (g off : Nat) : BitVec 64 :=
  if off = 0x0000 then
    match h.holder with
    | some x => BitVec.ofNat 64 (g + x.lhum.toNat * 2 ^ 16 + x.ctx.toNat * 2 ^ 32 + 2 ^ 38)
    | none => BitVec.ofNat 64 (g + 0x7F * 2 ^ 16)
  else if off = 0x1000 then
    BitVec.ofNat 64 (h.seq.pc.toNat + seqCode h.seq.st * 2 ^ 24 + (if h.seq.wake then 2 ^ 28 else 0))
  else if off = 0x1008 then pctlWord h
  else if off = 0x1010 then h.wvec.setWidth 64
  else if off = 0x1018 then
    BitVec.ofNat 64 (h.occupancy 0x02 + h.occupancy 0x05 * 2 ^ 4 + h.occupancy 0x06 * 2 ^ 8 + h.occupancy 0x04 * 2 ^ 12 +
      h.latOccupancy 0 * 2 ^ 15 + h.latOccupancy 1 * 2 ^ 18 + h.latOccupancy 2 * 2 ^ 21 + h.latOccupancy 3 * 2 ^ 24 +
      Nat.min h.unret.length 31 * 2 ^ 27)
  else if off = 0x1020 then h.mwin.setWidth 64
  else if 0x2000 ≤ off ∧ off < 0x2100 then sget 0 h.seq.x ((off - 0x2000) / 8)
  else if 0x3000 ≤ off ∧ off < 0x3800 then
    (sget 0 h.seq.desc ((off - 0x3000) / 32)).extractLsb' (64 * ((off - 0x3000) / 8 % 4)) 64
  else if 0x3800 ≤ off ∧ off < 0x3A00 then sget 0 h.seq.org ((off - 0x3800) / 8)
  else if 0x4000 ≤ off ∧ off < 0x4080 then BitVec.ofNat 64 (tileState h ((off - 0x4000) / 8))
  else 0

/-! ### Fields -/

/-- Fields of a register by value, lowest bit and width. -/
def pack (fs : List (Nat × Nat × Nat)) : BitVec 64 :=
  BitVec.ofNat 64 ((fs.map fun f => f.1 % 2 ^ f.2.2 * 2 ^ f.2.1).sum)

def bit (b : Bool) : Nat := if b then 1 else 0

/-- Bit i of a list of flags at bit i. -/
def packBits (bs : List Bool) : Nat := bs.foldr (fun b n => bit b + 2 * n) 0

/-- Eight bytes of a list, from an offset. -/
def word8 (bs : List Byte) (off : Nat) : BitVec 64 := BitVec.ofNat 64 (field bs off 8)

/-- The stored fields of a register: a strobe reads 0, and so does what is reserved (R6, R7). -/
def storedMask (off : Nat) : BitVec 64 := (regFlds off).foldl (fun m f => if f.strobe then m else m ||| fldMask f) 0

/-! ### The front end (11 R288, 12 R312) and the CIP (18 R474) -/

/-- A position of a ring and the PHASE of what is written there. -/
def ringTail (tail : BitVec 16) (phase blocked : Bool) : BitVec 64 := pack [(tail.toNat, 0, 16), (bit phase, 16, 1), (bit blocked, 17, 1)]

def State.cplTail (s : State) (c : Nat) : BitVec 64 := ringTail (s.ctx c).tail (s.ctx c).phase ((s.ctx c).st == .blocked)

def State.feStatus (s : State) (off : Nat) : BitVec 64 :=
  if off = 0x18 then s.fe.head.setWidth 64
  else if off = 0x38 then ringTail s.fe.rplTail s.fe.phase false
  else if off = 0x48 then s.fe.seq
  else if off = 0x50 then
    BitVec.ofNat 64 (packBits
      [s.ringEn && s.feReady && !s.rplFull, s.rplFull, s.fe.rdblk, s.fe.wrblk, !s.procReady fepIx || s.fw.handoff.isSome])
  else if off = 0x60 then (s.stateCode 0 0).setWidth 64
  else if off = 0x70 then
    pack [(s.fe.violCmd.toNat, 0, 32), (s.fe.violSluice.toNat, 32, 16), (s.fe.violMember.toNat, 48, 16)]
  else if 0x1000 ≤ off ∧ off < 0x1200 then
    let c := (off - 0x1000) / 8
    pack [(if c = 0 then 1 else ctxCode (s.ctx c).st, 0, 4), (bit (s.isSealed c), 4, 1), (s.retained c, 8, 13), (Nat.min (s.liveOf c) 65535, 32, 16)]
  else if 0x1400 ≤ off ∧ off < 0x1600 then
    let x := s.ctx ((off - 0x1400) / 8)
    pack [(x.sluBase.toNat, 0, 16), (x.sluCount.toNat, 16, 16)]
  else if 0x2000 ≤ off ∧ off < 0x2800 ∧ off % 32 = 24 then s.cplTail ((off - 0x2000) / 32)
  else 0

def State.cipStatus (s : State) (r : Nat) : BitVec 64 :=
  if r = 0x00 then pack [(0x96, 0, 16), (0xA0, 16, 8)]
  else if r = 0x08 then s.cip.serial.extractLsb' 0 64
  else if r = 0x10 then s.cip.serial.extractLsb' 64 64
  else if r = 0x18 then s.cip.feat.setWidth 64
  else if r = 0x20 then s.fw.active.numrev.setWidth 64
  else if r = 0x28 then
    pack [(bit s.cip.modeActive, 8, 1), (bit ((s.reg 0x100028).getLsbD 0 != s.cip.modeActive), 9, 1)]
  else if 0x200 ≤ r ∧ r < 0x250 then (sget 0 s.cip.cur ((r - 0x200) / 8)).setWidth 64
  else if r = 0x310 then pack [(s.cip.isOpen.toNat, 0, 10), (s.cip.drift.toNat, 16, 10), (bit s.frozen, 26, 1)]
  else if r = 0x318 then
    pack [(s.cip.violReg.toNat, 0, 32), (s.cip.violClosed.toNat, 32, 16), (s.cip.violFrame.toNat, 48, 16)]
  else 0

/-! ### Power (17 R450) and errors (14 R370, 18 R466) -/

def powerCode : HumPower → Nat
  | .running => 0 | .still => 1 | .gated => 2 | .waking => 3 | .inReset => 4

/-- The cap holds a setpoint below the active point or a hummock gated; before the fabric has a setpoint it holds none. -/
def State.capActs (s : State) : Bool :=
  s.lowestCapg.isSome || (s.pwc.common != 0 && !s.pwc.clamp && !s.pwc.ramp && decide (s.pwc.common < s.pwc.vsetOf s.pwc.active.toNat))

def State.pwcStatus (s : State) (r : Nat) : BitVec 64 :=
  let p := s.pwc
  if r = 0x08 then
    pack [(p.active.toNat, 0, 2), (p.admitPt.toNat, 2, 2), (bit p.pend.isSome, 4, 1), ((p.pend.getD 0).toNat, 5, 2),
      (bit p.paceAct, 7, 1), (bit p.pacePend, 8, 1), (bit p.clamp, 9, 1), (bit s.capActs, 10, 1), (bit p.ramp, 11, 1)]
  else if r = 0x20 then pack [(p.actRate.toNat, 2, 2)]
  else if r = 0x28 then pack [(causeBits p, 0, 4), (bit p.clamp, 4, 1), (p.clearMs.toNat, 8, 8)]
  else if r = 0x30 then pack [(p.pkgW.toNat, 0, 16), (p.coreA.toNat, 16, 16)]
  else if r = 0x38 then BitVec.ofNat 64 (p.energy.toNat / 10)
  else if r = 0x40 then
    pack [(p.granted.length, 0, 3), (p.wakeQ.countP fun w => (s.hum w.g).power == .gated, 8, 7), (p.wakes.toNat, 32, 32)]
  else if 0x100 ≤ r ∧ r < 0x118 then
    let c := (p.rates[(r - 0x100) / 8]?).getD (0, 0, 0)
    pack [(c.1.toNat, 0, 16), (c.2.1.toNat, 16, 16), (c.2.2.toNat, 32, 16)]
  else if 0x1000 ≤ r ∧ r < 0x1300 then
    let h := s.hum ((r - 0x1000) / 8)
    pack [(h.vset.toNat, 0, 10), (powerCode h.power, 10, 3), (bit h.capg, 13, 1)]
  else if 0x2000 ≤ r ∧ r < 0x2088 then sget 0 p.dcnt ((r - 0x2000) / 8 + 1)
  else 0

/-- The highest level in progress (14 R348). -/
def State.levelNow (s : State) : Nat :=
  if s.err.pcreq then 5
  else if s.err.chip.isSome then 4
  else if s.err.sectors.any fun p => p.2.isSome then 3
  else if s.err.engines.any fun p => p.2.isSome then 2
  else if s.err.ctxab.isSome then 1 else 0

def State.errStatus (s : State) (r : Nat) : BitVec 64 :=
  let e := s.err
  if r = 0x10 then
    pack [(s.levelNow, 0, 3), (packBits ((List.range 8).map s.inReset), 8, 8),
      ((e.ctxab.map fun x => x.1.toNat).getD 0, 16, 6), (bit e.ctxab.isSome, 22, 1), (bit e.halted, 23, 1), (bit e.pcreq, 24, 1)]
  else if r = 0x18 then BitVec.ofNat 64 (packBits ((List.range 64).map fun g => (s.engineRun g).isSome))
  else if r = 0x20 then BitVec.ofNat 64 (packBits ((List.range 32).map fun g => (s.engineRun (64 + g)).isSome))
  else if r = 0x28 then pack [(e.nCtxab.toNat, 0, 16), (e.nEng.toNat, 16, 16), (e.nSec.toNat, 32, 16), (e.nChip.toNat, 48, 16)]
  else if 0x100 ≤ r ∧ r < 0x128 then (sget 0 e.last ((r - 0x100) / 8 + 1)).setWidth 64
  else if 0x1000 ≤ r ∧ r < 0x1200 then
    let q := s.eq ((r - 0x1000) / 0x100)
    if r % 0x100 = 0x18 then ringTail q.tail q.phase false
    else if r % 0x100 = 0x20 then pack [(q.backlog.length, 0, 13), (bit q.blkd, 13, 1), (q.lost.toNat, 32, 32)]
    else 0
  else if 0x2000 ≤ r ∧ r < 0x21C0 then (if e.dumps = 0 then 0 else word8 (dumpBytes e.dump e.dumps) (r - 0x2000))
  else 0

/-! ### The Causeway (13 R343) -/

def lstCode : LSt → Nat
  | .off => 0 | .detect => 1 | .training => 2 | .exchange => 3 | .up => 4 | .miswired => 5 | .down => 6

def dstCode : DSt → Nat
  | .active => 0 | .draining => 1 | .drained => 2

def State.portStatus (s : State) (p r : Nat) : BitVec 64 :=
  let x := s.port p
  if r = 0x08 then
    pack [(lstCode x.ls, 0, 3), (dstCode x.ds, 3, 2), (bit x.width1, 5, 1), (x.polinv.toNat, 6, 2), (bit x.lswap, 8, 1),
      (x.dcause.toNat, 9, 3), (bit x.noid, 12, 1), (bit x.modp, 13, 1)]
  else if r = 0x10 then pack [(x.pid.toNat, 0, 15), (bit x.pval, 15, 1), (x.pport.toNat, 16, 4)]
  else if r = 0x18 then x.pmep
  else if r = 0x28 then pack [(x.lopen.toNat, 0, 2), (x.lshort.toNat, 2, 2), (x.rxlos.toNat, 4, 2)]
  else if 0x100 ≤ r ∧ r < 0x180 then
    let v := x.vcOf ((r - 0x100) / 32)
    if r % 32 = 0 then v.txp else if r % 32 = 8 then v.txb else if r % 32 = 16 then v.rxp else v.rxb
  else if r = 0x180 then
    pack (((List.range 4).map fun v => (s.queueDepth p v, 8 * v, 8)) ++
      (List.range 4).map fun v => ((x.vcOf v).high, 32 + 8 * v, 8))
  else if 0x188 ≤ r ∧ r < 0x1A8 then (x.vcOf ((r - 0x188) / 8)).stall
  else if r = 0x1A8 then pack [(x.replays.toNat, 0, 32), (x.naks.toNat, 32, 32)]
  else if r = 0x1B0 then x.corr
  else if r = 0x1B8 then pack [(x.unc.toNat, 0, 32), (x.crc.toNat, 32, 32)]
  else if r = 0x1C0 then pack [(x.lost.toNat, 0, 32), (x.downs.toNat, 32, 16), (x.misw.toNat, 48, 16)]
  else 0

def State.cwyStatus (s : State) (r : Nat) : BitVec 64 :=
  let c := s.cwy
  if r = 0x08 then c.idInForce.setWidth 64
  else if r = 0x20 then pack [(bit c.pend, 0, 1), (packBits (allPorts.map fun p => s.affected.contains p), 16, 16)]
  else if r = 0x30 then pack [(c.stale.toNat, 0, 32), (c.gap.toNat, 32, 16), (c.localdrop.toNat, 48, 16)]
  else if r = 0x38 then pack [(c.noroute.toNat, 0, 32), (c.hoplim.toNat, 32, 16), (c.malf.toNat, 48, 16)]
  else if 0x10000 ≤ r ∧ r < 0x20000 then s.portStatus ((r - 0x10000) / 0x1000) (r % 0x1000)
  else if 0x90000 ≤ r ∧ r < 0x94000 then (sget 0 c.rtAct ((r - 0x90000) / 8)).setWidth 64
  else if 0x94000 ≤ r ∧ r < 0x94080 then (sget 0 c.ltAct ((r - 0x94000) / 8)).setWidth 64
  else 0

/-! ### Management and firmware (16 R427, 15 R398) -/

def procCode : ProcSt → Nat
  | .off => 0 | .starting => 1 | .rebuilding => 2 | .ready => 3 | .quiescing => 4 | .handingOff => 5 | .notRecovered => 6

def State.fwStatus (s : State) (r : Nat) : BitVec 64 :=
  let f := s.fw
  let i : Bool := decide (r % 16 = 0)
  if r = 0x000 then
    pack [(bit f.actSlot, 0, 1), (bit f.pend.isSome, 1, 1), (bit (f.pend.getD false), 2, 1), (bit f.handoff.isSome, 3, 1)]
  else if r = 0x008 ∨ r = 0x010 then
    let x := f.slot i
    pack [(bit x.verified, 0, 1), (bit (f.actSlot == i), 1, 1), (if x.verified then x.svn.toNat else 0, 32, 32)]
  else if r = 0x018 ∨ r = 0x020 then (if (f.slot (r = 0x020)).verified then (f.slot (r = 0x020)).fwver else 0)
  else if 0x100 ≤ r ∧ r < 0x160 then
    let x := s.proc ((r - 0x100) / 8)
    pack [(procCode x.st, 0, 3), (x.restarts.toNat, 8, 16)]
  else if r = 0x220 then f.htail.setWidth 64
  else if r = 0x228 then pack [(f.drop.toNat, 0, 32), (f.pdrop.toNat, 32, 32)]
  else 0

def State.mssStatus (s : State) (r : Nat) : BitVec 64 :=
  let m := s.mss
  let wh := m.withheld ||| m.withheldUe
  if r < 0x1000 then word8 (bread m.mbReq r 8) 0
  else if 0x1000 ≤ r ∧ r < 0x1020 then word8 (bread m.mbRpl (r - 0x1000) 8) 0
  else if r = 0x1028 then pack [(bit m.mbBusy, 0, 1)]
  else if 0x2000 ≤ r ∧ r < 0x2460 then sget 0 m.sens ((r - 0x2000) / 8)
  else if r = 0x3000 then pack [(bit m.bistRan, 0, 1), (m.bistDiff.toNat, 8, 8)]
  else if r = 0x3008 then wh.extractLsb' 0 64
  else if r = 0x3010 then (wh.extractLsb' 64 32).setWidth 64
  else if 0x3100 ≤ r ∧ r < 0x3180 then
    let x := sget ModReg.reset m.mods ((r - 0x3100) / 8)
    pack [(bit x.read, 0, 1), (bit x.highpwr, 1, 1), (x.maxp.toNat, 8, 8)]
  else if r = 0x3200 then pack [(m.sessions.length, 0, 3), (bit m.fmkey.isSome, 3, 1)]
  else if r = 0x3208 then m.viol.setWidth 64
  else if 0x8000 ≤ r ∧ r < 0x8230 then s.fwStatus (r - 0x8000)
  else if 0x10000 ≤ r ∧ r < 0x20000 then
    let k := s.regField 0x504000 0 10 * 1024 + (r - 0x10000) / 64
    word8 (entBytes (sget LogEnt.empty s.fw.log k)) (r % 64)
  else 0

/-! ### MSI-X (19 R478) -/

/-- The table, with the mask of each vector, and the pending bit array. -/
def State.msixRead (s : State) (off : Nat) : BitVec 64 :=
  if off < 0x608000 then
    (if off % 16 = 0 then s.reg off
     else (s.reg off &&& ~~~(1#64 <<< 32)) ||| pack [(bit (!sget false s.link.unmasked ((off - 0x600000) / 16)), 32, 1)])
  else if off < 0x608100 then
    BitVec.ofNat 64 (packBits ((List.range 64).map fun i => sget false s.link.pba (8 * (off - 0x608000) + i)))
  else 0

/-! ### A sector's block (09 R238, 10 R269, 07 R182) -/

def stackCode : StackSt → Nat
  | .untrained => 0 | .training => 1 | .ready => 2 | .srefIdle => 3 | .srefReset => 4 | .failed => 5

def eccWord (e : EccCount) : BitVec 64 := pack [(e.ce.toNat, 0, 32), (e.ue.toNat, 32, 16)]

/-- SEC_EP_LOOKUP_RES: the committed frame of the page whose frame A SEC_EP_LOOKUP names, and whether it is open (10 R241, R249). -/
def State.lookupRes (s : State) (x : Nat) : BitVec 64 :=
  let fa := s.regField (secBase x + 0x40028) 0 18
  let r := s.pageRec (x * framesPerSector + fa)
  pack [(if r.committedB s then r.fb.toNat else fa, 0, 18), (bit (r.isOpen s), 18, 1)]

/-- ATT of SEC_EP_STATE keeps the last attempt's number in SUNDERED, SUNDERED_DOUBT and ROLLING_BACK (R269; log 149). -/
def State.epStatus (s : State) (x r : Nat) : BitVec 64 :=
  let e := s.ep
  if r = 0x00 then e.c
  else if r = 0x08 then
    pack [(epCode e.st, 0, 3), (bit e.sent, 3, 1), (bit s.mem.sweep.isSome, 4, 1), (e.genOpen.toNat, 8, 8),
      (e.genLast.toNat, 16, 8), (if e.st = .idle then 0 else e.att.toNat, 32, 16)]
  else if r = 0x10 then e.mepoch
  else if r = 0x18 then
    pack [(e.rank.toNat, 0, 15), (bit s.isCoord, 15, 1), (s.groupSize - 1, 16, 15), ((s.memberDev 0).toNat, 32, 15)]
  else if r = 0x30 then s.lookupRes x
  else if r = 0x38 then pack [((epCntOf s x).1.toNat, 0, 32), ((epCntOf s x).2.toNat, 32, 32)]
  else if r = 0x40 then pack [(e.commits.toNat, 0, 32), (e.aborts.toNat, 32, 32)]
  else 0

def State.secStatus (s : State) (x r : Nat) : BitVec 64 :=
  if r = 0 then pack [(x, 0, 3), (0x120, 16, 16)]
  else if 0x100 ≤ r ∧ r < 0x118 then
    let k := s.stack (3 * x + (r - 0x100) / 8)
    pack [(stackCode k.st, 0, 3), (bit k.hot, 3, 1), (k.spares.toNat, 8, 8)]
  else if 0x1000 ≤ r ∧ r < 0x1300 then eccWord (sget ⟨0, 0⟩ s.mem.chEcc (96 * x + (r - 0x1000) / 8))
  else if r = 0x1400 then eccWord (sget ⟨0, 0⟩ s.mem.sramEcc x)
  else if r = 0x2008 then
    let z := sget ⟨0, 0⟩ s.mem.scrub x
    pack [(z.pos.toNat, 0, 24), (z.passes.toNat, 24, 16), (bit (s.scrubPaused x), 40, 1)]
  else if r = 0x3018 then
    pack [((s.orbUse x + frameBytes - 1) / frameBytes, 0, 16), (Nat.min (s.roundsOpen x) 65535, 16, 16),
      (bit (s.orbOf x).pend.isSome, 32, 1), (bit (s.orbStalled x), 33, 1)]
  else if r = 0x20218 then pack [(bit (s.mem.invs != []), 0, 1)]
  else if r = 0x30010 then pack [(bit (s.mem.zeroing.any fun f => f / framesPerSector == x), 0, 1)]
  else if r = 0x30018 then s.mem.loaded
  else if 0x40000 ≤ r ∧ r < 0x80000 then s.epStatus x (r - 0x40000)
  else if 0xC0000 ≤ r ∧ r < 0xC8000 then
    let y := s.sluice (4096 * x + (r - 0xC0000) / 8)
    pack [(y.count.toNat, 0, 32), (y.waiters.length, 32, 7)]
  else 0

/-! ### A read of BAR0 -/

/-- Live status and read-only fields of a register at offset o. -/
def State.regStatus (s : State) (o : Nat) : BitVec 64 :=
  if o < 0x100000 then s.feStatus o
  else if o < 0x200000 then s.cipStatus (o - 0x100000)
  else if o < 0x300000 then s.pwcStatus (o - 0x200000)
  else if o < 0x400000 then s.errStatus (o - 0x300000)
  else if o < 0x500000 then s.cwyStatus (o - 0x400000)
  else if o < 0x600000 then s.mssStatus (o - 0x500000)
  else if o < 0x800000 then s.msixRead o
  else if o < 0x1000000 then s.secStatus ((o - 0x800000) / 0x100000) (o % 0x100000)
  else if o < 0x4000000 then
    let g := (o - 0x1000000) / 0x80000
    readHumReg (s.hum g) g (o % 0x80000)
  else 0

/-- Registers whose live status needs a secure master (09 R238). -/
def secureStatus (off : Nat) : Bool :=
  decide (0x800000 ≤ off) && decide (off < 0x1000000) && (off % 0x100000 == 0x30010 || off % 0x100000 == 0x30018)

/-- What a master may read of the register at offset o, a multiple of 8: fields beyond it read zero (R9). A hummock holds its own
registers. -/
def State.regValue (s : State) (m : Master) (o : Nat) : BitVec 64 :=
  let off := canonOff o
  let mask := (regFlds off).foldl (fun k f => if f.strobe || !f.allowed m then k else k ||| fldMask f) 0
  (if off < 0x1000000 then s.reg off &&& mask else 0) ||| (if secureStatus off && !masterSecure m then 0 else s.regStatus o)

/-- A read covers a field beyond the master's privilege or security, and is counted (R9, R457). -/
def refusedRead (m : Master) (half : Option Bool) (off : Nat) : Bool :=
  ((regFlds off).any fun f => !f.strobe && f.inHalf half && !f.allowed m) || (secureStatus off && !masterSecure m && half != some true)

/-- The bytes that an access of 4 or 8 bytes reads. -/
def readHalf (half : Option Bool) (v : BitVec 64) : BitVec 64 :=
  match half with
  | none => v
  | some false => v &&& 0xFFFFFFFF
  | some true => v >>> 32

/-- A master's read of the register at offset o: its value. -/
def State.readReg (s : State) (m : Master) (o : Nat) (half : Option Bool) : State × BitVec 64 :=
  (if refusedRead m half (canonOff o) then s.violReg else s, readHalf half (s.regValue m o))

/-- What a read answers: a completion to the host, or the bus response to a processor. -/
def State.readDone (s : State) (m : Master) (half : Option Bool) (v : BitVec 64) (poisoned : Bool) : State :=
  match m with
  | .host | .page => s.emit (.completion (leBytes (if half.isSome then 4 else 8) v.toNat) poisoned)
  | _ => s.emit (.regData m v false)

/-- A read that its bridge ends: zero, and BRIDGE_TIMEOUT for a processor (14 R365, R366). -/
def State.zeroRead (s : State) (m : Master) (half : Option Bool) : State :=
  match m with
  | .host | .page => s.emit (.completion (leBytes (if half.isSome then 4 else 8) 0) false)
  | _ => s.emit (.regData m 0 true)

/-! ### A doorbell page (12 R294, R295) -/

/-- Offset o, a multiple of 8, in the page of context c. -/
def State.pageWord (s : State) (c o : Nat) : BitVec 64 :=
  let x := s.ctx c
  if o = 0x00 then x.dbSeq
  else if o = 0x08 then s.reg (0x2010 + 32 * c) &&& 0xFFFF
  else if o = 0x10 then s.cplTail c
  else if o = 0x18 then pack [(ctxCode x.st, 0, 4), ((s.unpublished c).length, 16, 13)]
  else if 0x1000 ≤ o ∧ o < 0x1400 then word8 (bread x.slots (o - 0x1000) 8) 0
  else 0

/-! ### Configuration space (19 R475 to R477) -/

/-- A double word of configuration space: the identity of the function; what else stands there is the PCIe specification's. -/
def configWord (o : Nat) : BitVec 32 :=
  if o = 0x00 then 0x0096#16 ++ Config.vendorId
  else if o = 0x08 then 0x120000#24 ++ BitVec.ofNat 8 (field (Config.freeBytes "revision" 0) 0 1)
  else BitVec.ofNat 32 (field (Config.freeBytes "config" o) 0 4)

/-- Link Status: the trained rate and width (R477). -/
def HostLink.status (l : HostLink) : BitVec 32 := BitVec.ofNat 32 (l.rate.toNat + l.width.toNat * 16)

end Sys2Proof.Machine
end

