-- ==== Sys2Proof/Machine/HostSide.lean ====
section
/-!
DEFINITION. Sys2Proof/Machine/HostSide.lean: the host link (19 R475 to R483), event queues (18 R459 to R466), configuration
integrity (18 R467 to R472), BAR2, the hummock register block (07 R186, R187), register writes (18 R453 to R456), and the steps
after which stalled accesses go on.
-/

namespace Sys2Proof.Machine

/-! ### BAR2 (18 R458; 19 R481) -/

/-- The DPA of offset o of the window. -/
def State.bar2Dpa (s : State) (o : Nat) : Nat :=
  let b := s.link.bar2Log2
  let base := (s.regField 0x100030 28 14) * 2 ^ 28
  (base / 2 ^ b * 2 ^ b + o) % 2 ^ 42

def bar2Len : Bar2Op → Nat
  | .read n => n
  | .write bs => bs.length
  | .masked bs => bs.length
  | .poisoned n => n

/-- The runs of bytes that a write's byte enables name, from offset k on; `run` is the one being gathered, backwards. -/
def enabledRuns : Nat → List Byte → List (Option Byte) → List (Nat × List Byte)
  | k, run, [] => if run.isEmpty then [] else [(k - run.length, run.reverse)]
  | k, run, some b :: bs => enabledRuns (k + 1) (b :: run) bs
  | k, run, none :: bs => (if run.isEmpty then [] else [(k - run.length, run.reverse)]) ++ enabledRuns (k + 1) [] bs

/-- No part of the access meets a sector in reset or a frame being zeroed (R481; 09 R232). -/
def State.bar2Open (s : State) (a n : Nat) : Bool :=
  (piecesOf a n).all fun p =>
    dpaReserved p.1 || (s.sectorRuns (dpaSector p.1) && !s.mem.zeroing.contains (dpaFrame p.1))

/-- Bytes written at DPA a. -/
def State.bar2Put (s : State) (a : Nat) (bs : List Byte) : State :=
  ((piecesOf a bs.length).foldl (fun (acc : State × List Byte) p =>
    (acc.1.physWrite .bar2 p.1 (acc.2.take p.2), acc.2.drop p.2)) (s, bs)).1

/-- The access is made; a poisoned write is dropped and reported through AER (19 R476). -/
def State.bar2Do (s : State) (a : Nat) (op : Bar2Op) : State :=
  match op with
  | .read n =>
    let r := (piecesOf a n).foldl (fun (acc : State × List Byte × Bool) p =>
      let x := acc.1.physRead .bar2 p.1 p.2 0xFF
      (x.s, acc.2.1 ++ x.bytes, acc.2.2 || x.poison.isSome)) (s, [], false)
    r.1.emit (.completion r.2.1 r.2.2)
  | .write bs => s.bar2Put a bs
  | .masked bs => (enabledRuns 0 [] bs).foldl (fun (acc : State) r => acc.bar2Put (a + r.1) r.2) s
  | .poisoned _ => s.emit .aerPoison

def execBar2Access (offset : BitVec 42) (op : Bar2Op) (s : State) : Host.Outcome State Fault Refusal :=
  if !s.hostOk || 2 ^ s.link.bar2Log2 < offset.toNat + bar2Len op then .next s
  else
    let a := s.bar2Dpa offset.toNat
    let dropped := match op with
      | .poisoned _ => true
      | _ => false
    .next (if dropped || s.bar2Open a (bar2Len op) then s.bar2Do a op
      else s.modLink fun l => { l with stalls := l.stalls ++ [(offset, op)] })

/-- The oldest access stalled on a sector in reset has stalled for 1 ms (R481). -/
def execBar2StallTimeout (s : State) : Host.Outcome State Fault Refusal :=
  match s.link.stalls.find? fun x => !s.sectorRuns (dpaSector (s.bar2Dpa x.1.toNat)) with
  | none => .next s
  | some x =>
    let s1 := s.modLink fun l => { l with stalls := l.stalls.erase x }
    .next (match x.2 with
      | .read n => s1.emit (.completion (List.replicate n 0) false)
      | _ => s1)

/-! ### Event queues (18 R461 to R466) -/

def eqBase (q : Nat) : Nat := 0x301000 + 0x100 * q

/-- Entries of the host ring; none where LOG2 leaves EN without effect. -/
def State.eqSize (s : State) (q : Nat) : Option Nat :=
  let l := s.regField (eqBase q + 8) 1 5
  if 8 ≤ l ∧ l ≤ 16 then some (2 ^ l) else none

/-- The head of the backlog may be written now. -/
def State.eqReady (s : State) (q : Nat) : Option (BitVec 8 × BitVec 32 × BitVec 16 × List Byte) :=
  match s.eqSize q, (s.eq q).backlog with
  | some n, e :: _ =>
    let x := s.eq q
    if s.hostOk && (s.reg (eqBase q + 8)).getLsbD 0 && (!x.blkd || x.retry) &&
      (x.tail.toNat + 1) % n != s.regField (eqBase q + 0x10) 0 16 % n then some e else none
  | _, _ => none

/-- R459. -/
def eventBytes (e : BitVec 8 × BitVec 32 × BitVec 16 × List Byte) (phase : Bool) : List Byte :=
  [e.1, BitVec.ofNat 8 ((if phase then 1 else 0) + (if e.2.2.1 = 0 then 0 else 2))] ++ leBytes 2 e.2.2.1.toNat ++
    leBytes 4 e.2.1.toNat ++ slice e.2.2.2 0 24

def State.eqVector (s : State) (q : Nat) : State := s.msix ((s.reg (eqBase q + 8)).extractLsb' 6 11)

def execEventQueueWrite (q : Fin 2) (s : State) : Host.Outcome State Fault Refusal :=
  match s.eqReady q with
  | none => .next s
  | some e =>
    let x := s.eq q
    let i := x.tail.toNat
    let s1 := s.emit (.hostWrite (s.reg (eqBase q) + BitVec.ofNat 64 (32 * i)) (eventBytes e x.phase))
    let wrap : Bool := i + 1 == (s.eqSize q).getD 1024
    let s2 := s1.setEq q
      { x with
        tail := if wrap then 0 else x.tail + 1, phase := if wrap then !x.phase else x.phase, backlog := x.backlog.tail
        blkd := false, retry := false }
    .next (if (s.reg (eqBase q + 0x28)).getLsbD e.1.toNat then s2.eqVector q else s2)

def execEventWriteFailed (q : Fin 2) (_resp : DmaResp) (s : State) : Host.Outcome State Fault Refusal :=
  match s.eqReady q with
  | none => .next s
  | some _ => .next ((s.setEq q { s.eq q with blkd := true, retry := false }).eqVector q)

/-- A write of ERR_EQ_HEAD frees room, and asks for a blocked write again (R462). -/
def State.eqHeadStore (s : State) (m : Master) (q : Nat) (half : Option Bool) (v : BitVec 64) : State :=
  let (s1, _) := s.regStore m (eqBase q + 0x10) half v
  if masterPriv m then s1.setEq q { s1.eq q with retry := (s1.eq q).blkd } else s1

def execEqHeadWrite (m : Master) (q : Fin 2) (idx : BitVec 16) (s : State) : Host.Outcome State Fault Refusal :=
  .next (if s.arrives m then s.eqHeadStore m q none (idx.setWidth 64) else s)

def State.eqCtlStore (s : State) (m : Master) (q : Nat) (half : Option Bool) (v : BitVec 64) : State :=
  let (s1, old) := s.regStore m (eqBase q + 8) half v
  if (s1.reg (eqBase q + 8)).getLsbD 0 && !old.getLsbD 0 && (s1.eqSize q).isSome then
    (s1.setReg (eqBase q + 0x10) 0).setEq q { s1.eq q with tail := 0, phase := true }
  else s1

def execEqEnable (m : Master) (q : Fin 2) (v : BitVec 64) (s : State) : Host.Outcome State Fault Refusal :=
  .next (if s.arrives m then s.eqCtlStore m q none v else s)

/-! ### Configuration integrity (18 R467 to R472) -/

def cfgRef (r : Nat) : Nat := 0x100100 + 8 * r

def State.modCip (s : State) (f : Cip → Cip) : State := { s with cip := f s.cip }

def bit10 (r : Nat) : BitVec 10 := 1#10 <<< r

/-- The in-scope values of a region, as the FEP records them. -/
def State.configCopy (s : State) (r : Nat) : Store (BitVec 64) :=
  (regionOffs r).foldl (fun m o => sset 0 m o (s.scoped o)) []

def State.openRegions (s : State) (mask : BitVec 10) : State :=
  s.modCip fun c => { c with isOpen := c.isOpen ||| (mask &&& ~~~c.drift) }

def execCipCfgOpen (m : Master) (mask : BitVec 10) (s : State) : Host.Outcome State Fault Refusal :=
  .next (s.strobe m 0x100300 fun t => t.openRegions mask)

/-- Compute region r at once; it closes where the result is its reference. -/
def State.commitRegion (s : State) (r : Nat) : State :=
  let c := s.regionCrc r
  let ref := (s.reg (cfgRef r)).setWidth 32
  let s1 := s.modCip fun x => { x with cur := sset 0 x.cur r c }
  if c = ref then
    s1.modCip fun x => { x with isOpen := x.isOpen &&& ~~~(bit10 r), copies := sset [] x.copies r (s.configCopy r) }
  else s1.driftEvent 3 r 0 ref.toNat c.toNat

def State.commitRegions (s : State) (mask : BitVec 10) : State :=
  (List.range 10).foldl (fun (acc : State) r => if mask.getLsbD r then acc.commitRegion r else acc) s

def execCipCfgCommit (m : Master) (mask : BitVec 10) (s : State) : Host.Outcome State Fault Refusal :=
  .next (s.strobe m 0x100308 fun t => t.commitRegions mask)

/-- Region r is computed on a pass: its sector is not in reset. -/
def State.regionRuns (s : State) (r : Nat) : Bool :=
  s.board.coreOn && s.err.chip.isNone && (decide (8 ≤ r) || (s.sectorRun r).isNone)

def execConfigCheckPass (region : Fin 10) (s : State) : Host.Outcome State Fault Refusal :=
  if !s.regionRuns region then .next s
  else
    let c := s.regionCrc region
    let ref := (s.reg (cfgRef region)).setWidth 32
    let s1 := s.modCip fun x => { x with cur := sset 0 x.cur region c }
    .next (if s.regionOpen region || c = ref || s.cip.drift.getLsbD region then s1
      else (s1.modCip fun x => { x with drift := x.drift ||| bit10 region }).driftEvent 0 region 0 ref.toNat c.toNat)

/-- Fields of a register in scope that differ from the copy. -/
def fieldsDiffer (s : State) (off : Nat) (copy : BitVec 64) : Nat :=
  match cfgScope off with
  | none => 0
  | some (_, mask) =>
    (regFlds off).countP fun f => (s.reg off ^^^ copy) &&& mask &&& fldMask f != 0

def State.restoreReg (s : State) (off : Nat) (copy : BitVec 64) : State :=
  match cfgScope off with
  | none => s
  | some (_, mask) => s.setReg off ((s.reg off &&& ~~~mask) ||| (copy &&& mask))

/-- The level that a persistent drift enters, one higher each time (R470). -/
def State.driftLadder (s : State) (r : Nat) : State :=
  let lv := (if r < 8 then 3 else 4) + sget 0 s.cip.persists r
  let s1 := s.modCip fun c => { c with persists := sset 0 c.persists r (sget 0 c.persists r + 1) }
  let code := errCode (Nat.min lv 5) 0x33 r 0x031
  if lv = 3 then s1.sectorReset r code else if lv = 4 then s1.chipReset code false else s1.powerCycleReq code

def State.clearDrift (s : State) (r : Nat) : State :=
  s.modCip fun c => { c with drift := c.drift &&& ~~~(bit10 r), persists := sset 0 c.persists r 0 }

/-- The FEP has rewritten what differs, and the region is computed again. A region that a reset reopened has nothing to
compare with: its drift ends. -/
def execDriftRewriteDone (region : Fin 10) (s : State) : Host.Outcome State Fault Refusal :=
  if !(s.cip.drift.getLsbD region && s.procReady fepIx && s.regionRuns region) then .next s
  else
    let copy : Store (BitVec 64) := sget [] s.cip.copies region
    let ref := (s.reg (cfgRef region)).setWidth 32
    if s.regionOpen region then .next ((s.clearDrift region).driftEvent 1 region 0 ref.toNat (s.regionCrc region).toNat)
    else
      let n := ((regionOffs region).map fun o => fieldsDiffer s o (sget 0 copy o)).sum
      let s1 := (regionOffs region).foldl (fun (acc : State) o => acc.restoreReg o (sget 0 copy o)) s
      let c := s1.regionCrc region
      let s2 := s1.modCip fun x => { x with cur := sset 0 x.cur region c }
      .next (if c = ref then (s2.clearDrift region).driftEvent 1 region n ref.toNat c.toNat
        else (s2.driftEvent 2 region n ref.toNat c.toNat).driftLadder region)

/-! ### Release to the host (20 R502 step 8) -/

/-- The MGP's own counter in units of 40 ns since its last restart (15 R392): to the millisecond by the model's clock, and within it a
free value. -/
def State.mgpCount (s : State) (free : Nat) : BitVec 64 :=
  BitVec.ofNat 64 ((s.fw.ms - (s.proc mgpIx).since) * 25000 + free % 25000)

/-- An entry that the MGP makes itself, of severity `sev` and with one argument. What else it holds is not stated (log 12). -/
def State.ownEntry (s : State) (what : String) (sev : BitVec 8) (arg : Nat) : State :=
  let (k, s1) := s.draw
  let free := Config.freeBytes what k
  s1.logEntry 11 sev (BitVec.ofNat 16 (field free 0 2)) (BitVec.ofNat 32 (field free 2 4)) (s1.mgpCount (field free 6 4))
    [BitVec.ofNat 64 arg] (field free 10 1 % 2 == 1)

/-- The MGP's INFO entry at the end of a step of start-up. -/
def State.stepLog (s : State) (step : Nat) : State := s.ownEntry "step-log" 1 step

/-- Firmware commits region r: its reference is what the registers hold (18 R469). -/
def State.fwCommit (s : State) (r : Nat) : State :=
  (s.setReg (cfgRef r) ((s.regionCrc r).setWidth 64)).commitRegion r

/-- Step 8: once step 7 is complete and the link is up. -/
def State.tryRelease (s : State) : State :=
  if s.board.step = 7 && s.link.up && !s.board.stopped && !s.board.released then
    let s1 := [0, 1, 2, 3, 4, 5, 6, 7, 9].foldl (fun (acc : State) r => acc.fwCommit r) s
    let s2 := { s1 with board := { s1.board with released := true, step := 8 } }.emit .drs
    s2.stepLog 8
  else s

/-! ### Host link resets (19 R482, R483) -/

/-- Clear EN of a register. -/
def State.clearEn (s : State) (off : Nat) : State := s.setReg off (s.reg off &&& ~~~1#64)

def State.cplOff (s : State) (c : Nat) : State :=
  let off := 0x2008 + 32 * c
  if (s.reg off).getLsbD 0 then (s.clearEn off).unplace c else s

/-- Replies that wait are not rewritten (R482 item 3; 11 R285): a BIST run on the ring goes on without one. -/
def State.dropReplies (s : State) : State :=
  ((s.modFe fun f => { f with wait := none, heldReply := none }).modMss fun m =>
    { m with bist := m.bist.map fun b =>
      match b.reply.path with
      | .ring => { b with reply := { b.reply with path := .session 0 } }
      | _ => b }).jot fepIx

def State.linkReset (s : State) : State :=
  let s1 := s.modLink fun l =>
    { l with
      up := false, lanes := 0, width := 0, rate := 0, d3 := false, bar2Log2 := 28, unmasked := [], ide := [], stalls := []
      regStalls := l.regStalls.filter fun a => a.m != .host }
  let s2 : State := ([0x40, 0x301008, 0x301108, 0x508210].foldl (fun (acc : State) o => acc.clearEn o) s1).freeDoorbells
  let s3 : State := (List.range 64).foldl (fun (acc : State) c => acc.cplOff c) s2
  let s4 := (s3.modCip fun c => { c with isOpen := c.isOpen ||| 0x100#10 }).dropReplies
  let s5 := s4.modMss fun m =>
    { m with
      eids := sdel m.eids (bindingIx .pcie)
      relays := m.relays.filter fun r => r.binding != .pcie
      waiting := m.waiting.filter fun w => w.2 == .mailbox || (w.1 != .pcie && w.1 != .doe) }
  s5.startXfers s5.mss.xfers.length

def execHostLinkReset (cause : LinkResetCause) (s : State) : Host.Outcome State Fault Refusal :=
  let s1 := match cause with
    | .perst => s.modLink fun l => { l with perst := true }
    | _ => s
  .next s1.linkReset

/-- The first or the last n of the 16 lanes. -/
def laneSpan (n : Nat) (reversed : Bool) : BitVec 16 :=
  (BitVec.ofNat 16 (2 ^ n - 1)) <<< (if reversed then 16 - n else 0)

/-- The widest link of R476 that the lanes left in permit, from either end of the port (R477; log 128). -/
def trainedLanes (lanes : BitVec 16) : Option (Nat × BitVec 16) :=
  ([16, 8, 4, 2, 1].flatMap fun n => [(n, laneSpan n false), (n, laneSpan n true)]).find? fun x => x.2 &&& lanes == x.2

/-- The lanes that pass detection and equalisation: free values, of which the first or the last lane passes where a link comes up
(R477; log 128). -/
def detectedLanes (n : Nat) : BitVec 16 := BitVec.ofNat 16 (n / 2) ||| (if n % 2 = 0 then 1 else 0x8000)

/-- The link trains on the lanes that passed, at a rate of Link Status, 1 for 2.5 GT/s to 7 for 128 GT/s (R476, R477). -/
def State.trainLink (s : State) (lanes : BitVec 16) (rate : Nat) : State :=
  match trainedLanes lanes with
  | some (n, used) => s.modLink fun l => { l with up := true, lanes := used, width := BitVec.ofNat 6 n, rate := BitVec.ofNat 4 rate }
  | none => s

/-- The link comes up: PERST_N is high, REFCLK_PCIE runs, and the PCIe domains run (20 R502 step 5). -/
def execHostLinkUp (s : State) : Host.Outcome State Fault Refusal :=
  let s1 := { s.modLink fun l => { l with perst := false } with board := { s.board with pcieClock := true } }
  .next (if s.board.coreOn && decide (5 ≤ s.board.step) then
      let (n, s2) := s1.draw
      let (k, s3) := s2.draw
      (s3.trainLink (detectedLanes (Config.freeNat n)) (1 + Config.freeNat k % 7)).tryRelease
    else s1)

/-- A reference clock has stopped for 10 µs (17 R447). One missing before core power is applied is lost too (20 R501); clocks are taken
to return with power (log 152). -/
def execClockLoss (clk : RefClock) (s : State) : Host.Outcome State Fault Refusal :=
  if !s.board.standby then .next s
  else
    match clk with
    | .sysXtal => .next ({ s with board := { s.board with xtal := false } }.powerEvent 4 0 0xFF 0 0)
    | .pcie => .next ({ s with board := { s.board with pcieClock := false } }.powerEvent 4 1 0xFF 0 0).linkReset
    | .dz => .next ((s.powerEvent 4 2 0xFF 0 0).dzClockLost)

/-! ### MSI-X and IDE (19 R478, R479) -/

def State.maskVector (s : State) (v : Nat) (masked : Bool) : State :=
  let s1 := s.modLink fun l => { l with unmasked := sset false l.unmasked v (!masked) }
  if !masked && sget false s.link.pba v then
    (s1.modLink fun l => { l with pba := sset false l.pba v false }).msix (BitVec.ofNat 11 v)
  else s1

def execMsixUnmask (vec : BitVec 11) (s : State) : Host.Outcome State Fault Refusal :=
  .next (if s.hostOk then s.maskVector vec.toNat false else s)

def execIdeIntegrityFailure (stream : BitVec 2) (s : State) : Host.Outcome State Fault Refusal :=
  .next (if (s.ideOf stream.toNat).secure then
    let s1 := (s.modLink fun l =>
      { l with ide := sset IdeStream.reset l.ide stream.toNat { s.ideOf stream.toNat with secure := false } }).emit (.aer stream)
    s1.startXfers s1.mss.xfers.length
  else s)

/-! ### Register writes (18 R453 to R456) -/

/-- The 8-byte value after a write of a half. -/
def mergeHalf (half : Option Bool) (old v : BitVec 64) : BitVec 64 :=
  match half with
  | none => v
  | some false => (old &&& ~~~0xFFFFFFFF#64) ||| (v &&& 0xFFFFFFFF)
  | some true => (old &&& 0xFFFFFFFF) ||| (v <<< 32)

/-- Bytes of a write, with the offset of the first in the register. -/
def halfBytes (half : Option Bool) (v : BitVec 64) : Nat × List Byte :=
  match half with
  | none => (0, leBytes 8 v.toNat)
  | some false => (0, leBytes 4 v.toNat)
  | some true => (4, leBytes 4 v.toNat)

/-- A strobe register written with value v; a refused strobe is counted (R457). -/
def State.strobeWrite (s : State) (m : Master) (off : Nat) (half : Option Bool) (v : BitVec 64) (act : State → BitVec 64 → State) :
    State :=
  let b := strobeBits m half off v
  if b != 0 then act s b
  else if refusedWrite m half (regFlds off) then s.violReg else s

/-- Mere address of an offset in the window; none where WIN names no window. -/
def windowAddr (h : Hummock) (off : Nat) : Option Nat :=
  if 0x40000 ≤ off && h.mwin.toNat < 192 then some (h.mwin.toNat * 0x40000 + (off - 0x40000)) else none

/-- The host may not see the Mere of a hummock that a sealed context holds (R187), nor of one that a sealed context held last, until it
has been Gated (16 R414). -/
def State.mereHidden (s : State) (m : Master) (g : Nat) : Bool :=
  m == .host && match (s.hum g).holder with
    | some x => s.isSealed x.ctx.toNat
    | none => (s.hum g).sealedLast.isSome

/-- A write in the block of hummock g at offset r: HUM_PCTL and HUM_WAKEVEC, where a host write is ignored while a launch holds the
hummock, HUM_MWIN, and the Mere window. -/
def State.humRegWrite (s : State) (m : Master) (g : Fin 96) (r : Nat) (half : Option Bool) (v : BitVec 64) : State :=
  let h := s.hum g
  let held := m == .host && h.holder.isSome
  if r = 0x1008 then
    (if held then s
     else s.setHum g (h.setPctl (mergeFlds m half (regFlds (0x1000000 + r)) (pctlWord h) (placeHalf half v))))
  else if r = 0x1010 then
    (if held then s
     else s.setHum g { h with wvec := (mergeFlds m half (regFlds (0x1000000 + r)) (h.wvec.setWidth 64) (placeHalf half v)).setWidth 23 })
  else if r = 0x1020 then (if half = some true then s else s.setHum g { h with mwin := v.setWidth 8 })
  else if 0x40000 ≤ r then
    if s.mereHidden m g then s.violReg
    else
      match windowAddr h r with
      | some a =>
        let (o, bs) := halfBytes half v
        (s.modHum g fun h => { h with mere := bwrite h.mere (a + o) bs }).eccSramWrite g 1 (a + o) bs.length
      | none => s
  else s

/-- The MSI-X table (19 R478): bit 0 of an entry's last word masks the vector. -/
def State.msixTable (s : State) (off : Nat) (half : Option Bool) (v : BitVec 64) : State :=
  if off % 16 = 0 then s.setReg off (mergeHalf half (s.reg off) v)
  else
    let new := mergeHalf half (s.reg off) v
    let s1 := s.setReg off new
    match half with
    | some false => s1
    | _ => s1.maskVector ((off - 0x600000) / 16) (new.getLsbD 32)

/-- FE_RING_SEQ: writes are ignored while EN = 1 (11 R288). -/
def State.ringSeqStore (s : State) (m : Master) (half : Option Bool) (v : BitVec 64) : State :=
  if !masterPriv m then s.violReg
  else if (s.reg 0x40).getLsbD 0 || half.isSome then s
  else (s.modFe fun f => { f with seq := v }).jot fepIx

/-- ERR_RESET: a power cycle request takes precedence over a chip reset (14 R370). -/
def State.errReset (s : State) (b : BitVec 64) : State :=
  if b.getLsbD 1 then s.powerCycleReq (errCode 5 0x40 0 0x062)
  else if b.getLsbD 0 then s.chipReset (errCode 4 0x40 0 0x062) false else s

/-- A write of a BAR0 register, at a multiple of 8. -/
def State.bar0Write (s : State) (m : Master) (o : Nat) (half : Option Bool) (v : BitVec 64) : State :=
  let off := canonOff o
  let r := off % 0x100000
  if off = 0x40 then s.ringCtlStore m half v
  else if off = 0x48 then s.ringSeqStore m half v
  else if off = 0x58 then s.strobeWrite m off half v fun t _ => t.ringRetry
  else if 0x2000 ≤ off ∧ off < 0x2800 ∧ off % 32 = 0 then s.cplBaseStore m ((off - 0x2000) / 32) half v
  else if 0x2000 ≤ off ∧ off < 0x2800 ∧ off % 32 = 8 then s.cplCtlStore m ((off - 0x2000) / 32) half v
  else if off = 0x100300 then s.strobeWrite m off half v fun t b => t.openRegions (b.setWidth 10)
  else if off = 0x100308 then s.strobeWrite m off half v fun t b => t.commitRegions (b.setWidth 10)
  else if off = 0x200000 then s.pwcOpStore m half v
  else if off = 0x200010 then s.pwcCapStore m half v
  else if off = 0x300030 then s.strobeWrite m off half v State.errReset
  else if off = 0x301008 ∨ off = 0x301108 then s.eqCtlStore m ((off - 0x301000) / 0x100) half v
  else if off = 0x301010 ∨ off = 0x301110 then s.eqHeadStore m ((off - 0x301000) / 0x100) half v
  else if off = 0x400000 then s.cwyIdStore m half v
  else if off = 0x400018 then s.strobeWrite m off half v fun t _ => t.rtCommit
  else if 0x410000 ≤ off ∧ off < 0x420000 ∧ off % 0x1000 = 0 then s.portCtlWrite m ((off - 0x410000) / 0x1000) half v
  else if 0x500000 ≤ off ∧ off < 0x501000 then
    (if masterPriv m then
      let (k, bs) := halfBytes half v
      s.modMss fun x => { x with mbReq := bwrite x.mbReq (off - 0x500000 + k) bs }
     else s.violReg)
  else if off = 0x501020 then s.strobeWrite m off half v fun t _ => t.mailboxGo
  else if off = 0x508210 then s.logCtlStore m half v
  else if 0x600000 ≤ off ∧ off < 0x608000 then (if m == .host then s.msixTable off half v else s)
  else if off = 0x820210 then s.strobeWrite m off half v fun t _ => t.trInvGo
  else if 0x800000 ≤ off ∧ off < 0x1000000 ∧ r = 0x3010 then
    s.strobeWrite m off half v fun t _ => t.orbGo ((off - 0x800000) / 0x100000)
  else if 0x800000 ≤ off ∧ off < 0x1000000 ∧ r = 0x30008 then
    s.strobeWrite m off half v fun t _ => t.ownGo ((off - 0x800000) / 0x100000)
  else if h : 0x1000000 ≤ off ∧ off < 0x4000000 then
    s.humRegWrite m ⟨(off - 0x1000000) / 0x80000, by omega⟩ (off % 0x80000) half v
  else if regFlds off = [] then s
  else (s.regStore m off half v).1

/-- Submit the slots of a mask in ascending order (12 R294). -/
def State.submitMask (s : State) (c : BitVec 6) (v : BitVec 64) : State :=
  (List.range 16).foldl (fun (acc : State) i => if v.getLsbD i then acc.submit c (BitVec.ofNat 4 i) else acc) s

/-- A write in BAR4: page c, offset o (12 R294, R295). -/
def State.bar4Write (s : State) (c : BitVec 6) (o : Nat) (half : Option Bool) (v : BitVec 64) : State :=
  if o = 0x8 then
    (if half = some true then s else s.setReg (0x2010 + 32 * c.toNat) (v &&& 0xFFFF))
  else if o = 0x20 then (if half = some true then s else s.submitMask c v)
  else if 0x1000 ≤ o ∧ o < 0x1400 ∧ o % 64 < 32 then
    let (k, bs) := halfBytes half v
    s.modCtx c.toNat fun x => { x with slots := bwrite x.slots (o - 0x1000 + k) bs }
  else s

/-! ### Reads of BAR0 and the bridges before its units (14 R365, R366; 18 R454) -/

/-- A read in the Mere window of hummock g at offset r: its value, and whether it is poisoned. -/
def State.mereRead (s : State) (m : Master) (g r : Nat) (half : Option Bool) : State × BitVec 64 × Bool :=
  if s.mereHidden m g then (s.violReg, 0, false)
  else
    match windowAddr (s.hum g) r with
    | some a =>
      let lo := if half = some true then a + 4 else a
      let n := if half.isSome then 4 else 8
      let ctx := match (s.hum g).holder with
        | some x => x.ctx.toNat
        | none => 0xFF
      let (s0, bad) := s.eccSram g 1 (lo / 32) ((lo + n + 31) / 32) ctx
      let s1 := if bad then s0.sramUe g else s0
      (s1, BitVec.ofNat 64 (leNat (bread (s1.hum g).mere lo n)), bad)
    | none => (s, 0, false)

/-- A read of BAR0, answered. -/
def State.bar0Read (s : State) (m : Master) (o : Nat) (half : Option Bool) : State :=
  match bridgeOf o with
  | .hummock g =>
    if 0x40000 ≤ o % 0x80000 then
      let (s1, v, bad) := s.mereRead m g (o % 0x80000) half
      s1.readDone m half v bad
    else
      let (s1, v) := s.readReg m o half
      s1.readDone m half v false
  | _ =>
    let (s1, v) := s.readReg m o half
    s1.readDone m half v false

/-- What the master reads where no register answers: zero; a write is ignored. -/
def State.zeroAnswer (s : State) (m : Master) (half : Option Bool) (op : RegOp) : State :=
  match op with
  | .read | .oddRead => s.readDone m half 0 false
  | _ => s

def State.regDo (s : State) (a : RegAcc) : State :=
  match a.op with
  | .read => s.bar0Read a.m a.off.toNat a.half
  | .write v => s.bar0Write a.m a.off.toNat a.half v
  | op => s.zeroAnswer a.m a.half op

/-- HUM_PCTL and HUM_WAKEVEC stand outside the hummock's power domain, and a write to them wakes nothing (07 R171, R187). -/
def RegAcc.outside (a : RegAcc) : Bool :=
  let r := a.off.toNat % 0x80000
  match a.op with
  | .write _ => r == 0x1008 || r == 0x1010
  | _ => false

/-- The hummock takes accesses: powered, and neither it nor its sector is in reset. -/
def State.humOpen (s : State) (g : Nat) : Bool :=
  !s.inReset (secOf g) && (s.engineRun g).isNone &&
    (match (s.hum g).power with
     | .running | .still => true
     | _ => false)

/-- The unit behind the bridge takes the access now. -/
def State.unitOpen (s : State) (a : RegAcc) : Bool :=
  match a.unit with
  | .hub => true
  | .sector x => !s.inReset x
  | .hummock g => s.humOpen g || (a.outside && !s.inReset (secOf g) && (s.engineRun g).isNone)

/-- An access that can go on is made; otherwise it waits at the bridge, in order. -/
def State.regAccess (s : State) (a : RegAcc) : State :=
  if s.unitOpen a && !(s.link.regStalls.any fun x => x.unit == a.unit) then s.regDo a else s.stallReg a

/-- A read of a hummock's block, and a write of its Mere, wake the hummock (07 R171). -/
def State.wakeBy (s : State) (a : RegAcc) : State :=
  match a.unit with
  | .hummock g =>
    let mere : Bool := decide (0x40000 ≤ a.off.toNat % 0x80000)
    if !s.inReset (secOf g) && (a.op == .read || mere) then s.wakeEvent g else s
  | _ => s

/-- An access of 4 or 8 bytes. -/
def regSized : RegOp → Bool
  | .read | .write _ => true
  | _ => false

/-- An access to BAR0 that arrives; one of another size or alignment reads zero and writes nothing (18 R453). -/
def State.bar0Access (s : State) (m : Master) (o : BitVec 26) (half : Option Bool) (op : RegOp) : State :=
  if o.toNat % 8 = 0 && regSized op then (s.wakeBy ⟨m, o, half, op⟩).regAccess ⟨m, o, half, op⟩ else s.zeroAnswer m half op

def execHumBlockRead (m : Master) (g : Hum) (offset : BitVec 19) (s : State) : Host.Outcome State Fault Refusal :=
  .next (if s.arrives m then s.bar0Access m (BitVec.ofNat 26 (0x1000000 + 0x80000 * g.val + offset.toNat)) none .read else s)

/-- Stalled accesses that can go on do, in order; one that a reset left at a Gated hummock wakes it. -/
def State.retryStalls (s : State) : State :=
  let rs := s.link.regStalls
  let bs := s.link.stalls
  let s1 := s.modLink fun l => { l with regStalls := [], stalls := [] }
  let s2 := rs.foldl (fun (acc : State) a => (acc.wakeBy a).regAccess a) s1
  bs.foldl (fun (acc : State) x =>
    let a := acc.bar2Dpa x.1.toNat
    if acc.bar2Open a (bar2Len x.2) then acc.bar2Do a x.2
    else acc.modLink fun l => { l with stalls := l.stalls ++ [x] }) s2

/-! ### Register accesses (18 R453 to R456; 19 R475 to R479) -/

/-- Page c of BAR4, offset o. -/
def State.bar4Access (s : State) (o : Nat) (half : Option Bool) (op : RegOp) : State :=
  if o % 8 ≠ 0 then s.zeroAnswer .page half op
  else
    match op with
    | .read => s.readDone .page half (readHalf half (s.pageWord (o / 65536) (o % 65536))) false
    | .write v => s.bar4Write (BitVec.ofNat 6 (o / 65536)) (o % 65536) half v
    | op => s.zeroAnswer .page half op

/-- Back in D0, vectors that D3hot held and no mask holds send their messages (R476, R478; log 128). -/
def State.sendPending (s : State) : State :=
  if s.link.d3 then s
  else (s.link.pba.filter fun p => p.2 && sget false s.link.unmasked p.1).foldl (fun (acc : State) p => acc.maskVector p.1 false) s

/-- PCIe configuration that R476 and R479 name: BAR2's size, the enable of an IDE stream, the power state. -/
def State.pcieWrite (s : State) (space : RegSpace) (v : BitVec 64) : State :=
  match space with
  | .bar2Size => if 28 ≤ v.toNat && v.toNat ≤ 42 then s.modLink fun l => { l with bar2Log2 := v.toNat } else s
  | .ideEnable =>
    if v.toNat % 4 < 3 then s.setIde (v.toNat % 4) { s.ideOf (v.toNat % 4) with enabled := v.getLsbD 8 } else s
  | .powerState => (s.modLink fun l => { l with d3 := v.toNat % 4 == 3 }).sendPending
  | _ => s

/-- A configuration read, once the device is released. -/
def State.configValue (s : State) (space : RegSpace) (o : Nat) : BitVec 32 :=
  match space with
  | .linkStatus => s.link.status
  | .bar2Size => BitVec.ofNat 32 s.link.bar2Log2
  | .ideEnable => BitVec.ofNat 32 (o % 4 + bit (s.ideOf (o % 4)).enabled * 256)
  | .powerState => if s.link.d3 then 3 else 0
  | .doeStatus => BitVec.ofNat 32 (bit s.doeBusy)
  | _ => configWord o

/-- Configuration requests: Request Retry Status before release (19 R483); a halted device answers none (14 R354). -/
def State.configAccess (s : State) (space : RegSpace) (o : Nat) (op : RegOp) : State :=
  if !s.link.up || s.err.halted then s
  else if !s.board.released then s.emit .retryStatus
  else
    match op with
    | .read => s.emit (.configData (s.configValue space o))
    | .write v => s.pcieWrite space v
    | .poisoned => s.emit .aerPoison
    | _ => s

/-- A processor's always-on status word (14 R367): the processor alone writes it. -/
def State.statusWord (s : State) (m : Master) (i : Nat) (op : RegOp) : State :=
  if !(m == .mgp && i == mgpIx || m == .fw && decide (i < mgpIx)) || (s.proc i).st == .off then s
  else
    match op with
    | .read => s.emit (.regData m (sget Latch.reset s.err.latches i).status false)
    | .write v => s.modErr fun e =>
      { e with latches := sset Latch.reset e.latches i { sget Latch.reset e.latches i with status := v } }
    | _ => s

def execRegisterWrite (m : Master) (space : RegSpace) (offset : BitVec 26) (half : Option Bool) (op : RegOp) (s : State) :
    Host.Outcome State Fault Refusal :=
  let o := offset.toNat
  .next (match space with
    | .bar0 =>
      if !s.arrives m then s
      else if m == .host && op == .poisoned then s.emit .aerPoison
      else s.bar0Access m offset half op
    | .bar4 =>
      if !(s.hostOk && decide (o < 2 ^ 22)) then s
      else if op == .poisoned then s.emit .aerPoison
      else s.bar4Access o half op
    | .procStatus => s.statusWord m o op
    | sp => s.configAccess sp o op)

/-! ### Steps after which stalled accesses go on -/

def execFrameZeroDone (sec : Sec) (frame : BitVec 18) (s : State) : Host.Outcome State Fault Refusal :=
  .next (s.modMem fun m =>
    { m with zeroing := m.zeroing.filter fun f => f != sec.val * framesPerSector + frame.toNat }).retryStalls.releaseLater

/-- A sector reset completes (14 R352), once its SCP can rebuild (15 R375, R382); its controllers need SYS_XTAL (17 R447). -/
def execSectorResetComplete (sec : Sec) (us : BitVec 32) (s : State) : Host.Outcome State Fault Refusal :=
  match s.sectorRun sec, s.board.xtal && !s.beyond && !(s.part sec).bad with
  | none, _ | _, false => .next s
  | some r, true =>
    let s1 := (s.modErr fun e => { e with sectors := sset none e.sectors sec none }).recAt r 2 us.toNat
    .next (((s1.wakeSector sec).resume us.toNat [sec.val]).rejoinQuery.finishWait 0x23 3 sec 3).abortOver.retryStalls

/-- A chip reset completes (14 R353); it cannot without SYS_XTAL (17 R447), once a power cycle continues it, or while a processor
cannot rebuild (15 R382). The processors resume from their journals, a pending HBMRATE has been applied by the training (17 R446), DEVICE_MODE is applied (12 R289), ports that a reset without HOLD
took to OFF retrain (13 R340), a prepared member asks for the decision, and a coordinator re-sends its own (14 R360). -/
def execChipResetComplete (us : BitVec 32) (s : State) : Host.Outcome State Fault Refusal :=
  match s.err.chip, s.board.xtal && !s.beyond && s.canRebuild with
  | some r, true =>
    let s1 := (s.modErr fun e => { e with chip := none, chipNoHold := false }).recAt r 2 us.toNat
    let s2 : State := (List.range 8).foldl (fun (acc : State) x => acc.wakeSector x) s1
    let rate : BitVec 2 := (s2.reg 0x200020).extractLsb' 0 2
    let s3 := s2.modPwc fun p => { p with actRate := if rate = 3 then 0 else rate }
    let s4 := allPorts.foldl (fun (acc : State) p =>
      acc.modPort p fun x => if x.ls == .off && acc.portEn p && x.modp then { x with ls := .detect } else x) s3.applyMode
    let s5 := if s4.isCoord then s4.resendDecision else s4.rejoinQuery
    .next (s5.resume us.toNat (List.range 11)).finishAbort.retryStalls
  | _, _ => .next s

/-- The last unit of a BIST run finishes (16 R420), and what its resets stalled goes on. -/
def execBistComplete (units : List BistUnit) (s : State) : Host.Outcome State Fault Refusal :=
  match s.mss.bist with
  | [] => .next s
  | b :: _ => .next (if s.spanHeld (b.ctx.toNat, b.dst.toNat, 16) then s else (s.bistDone b units).retryStalls)

/-- The hummock holds the state of 03 R70, 04 R90 and 07 R161, at the common setpoint (14 R351). -/
def execEngineResetComplete (g : Hum) (us : BitVec 32) (s : State) : Host.Outcome State Fault Refusal :=
  match s.engineRun g with
  | none => .next s
  | some r =>
    let s1 := (s.modErr fun e => { e with engines := sset none e.engines g none }).recAt r 2 us.toNat
    let s2 := s1.modHum g fun h =>
      { Hummock.reset with
        power := .running, vset := s1.commonSet, nextId := h.nextId, sealedLast := h.lastSealed, ue := h.ue }
    .next (s2.finishWait 0x23 2 g 2).abortOver.retryStalls

/-- A granted wake completes, at the setpoint in force (17 R437, R432); a ramp whose hummock a reset has taken meanwhile only returns its
token. -/
def execWakeComplete (g : Hum) (s : State) : Host.Outcome State Fault Refusal :=
  match s.pwc.granted.find? fun w => w.g == g with
  | none => .next s
  | some w =>
    let s1 := s.modPwc fun p => { p with granted := p.granted.erase w }
    if (s.hum g).power == .waking then
      let s2 := (s1.modPwc fun p => { p with wakes := satInc p.wakes }).jot pwpIx
      let (k, s3) := s2.draw
      let s4 := s3.modHum g fun h => h.woken (if s.pwc.paceAct && !s.pwc.clamp then (s.pacedMv k g).toNat else s.commonSet.toNat)
      .next ((s4.codeFault g).retryStalls)
    else .next (s1.jot pwpIx)

/-! ### Bridge timeouts (14 R365, R366) -/

/-- The oldest access of this master that waits at the bridge ends: a read with zero data, and BRIDGE_TIMEOUT for a processor; a
write is dropped. One that met a hung unit is not held in the state: `read` says what it was. -/
def State.endAccess (s : State) (m : Master) (u : BridgeUnit) (read : Bool) : State :=
  match s.link.regStalls.find? fun a => a.m == m && a.unit == u with
  | some a =>
    let s1 := s.modLink fun l => { l with regStalls := l.regStalls.erase a }
    (match a.op with
    | .read => s1.zeroRead m a.half
    | _ => s1)
  | none => if read then s.zeroRead m none else s

/-- The launch that an access to a unit concerns: the running one, where it holds the hummock or one of the sector (R364). -/
def State.unitRun (s : State) (u : BridgeUnit) (code : BitVec 32) : LevelRun :=
  let held := match u with
    | .hummock g => s.heldRunning g
    | .sector x => (List.range 12).any fun h => s.heldRunning (12 * x + h)
    | .hub => false
  if held then s.levelRun code else noRun code

/-- The event of a timeout that starts no level (R365, R366). -/
def State.unitEvent (s : State) (u : BridgeUnit) (code : BitVec 32) : State := s.recAt (s.unitRun u code) 0 0

/-- Each timeout places a recovery event (R365): that of the level's start, or one of its own where the level has merged with a
running one and `t` is as before. -/
def State.bridgeLevel (s : State) (u : BridgeUnit) (code : BitVec 32) (t : State) : State :=
  if t.err = s.err then s.unitEvent u code else t

/-- The ERR_LAST code of a timeout at a bridge: class and instance of the unit, and the level that a processor's enters (R361). -/
def bridgeCode (level : Nat) : BridgeUnit → BitVec 32
  | .hummock g => errCode (if level = 0 then 0 else 2) 0x01 g 0x020
  | .sector x => errCode (if level = 0 then 0 else 3) 0x10 x 0x020
  | .hub => errCode (if level = 0 then 0 else 4) 0x31 0 0x020

/-- A timeout of the host's places its event alone; a processor's enters the ladder at the unit's level (R349). -/
def execBridgeTimeout (acc : BridgeAcc) (unit : BridgeUnit) (s : State) : Host.Outcome State Fault Refusal :=
  match acc.m with
  | .page | .seqr => .next s
  | .host => .next ((s.endAccess .host unit acc.read).unitEvent unit (bridgeCode 0 unit))
  | m =>
    let s1 := s.endAccess m unit acc.read
    let code := bridgeCode 1 unit
    .next (s1.bridgeLevel unit code (match unit with
      | .hummock g => s1.engineReset g code
      | .sector x => s1.sectorReset x code
      | .hub => s1.chipReset code false))

end Sys2Proof.Machine
end

