-- ==== Sys2Proof/Machine/Board.lean ====
section
/-!
DEFINITION. Sys2Proof/Machine/Board.lean: the board and start-up (20_board_and_start_up.md R494 to R504): standby power, the
power-on hold, losses of power, contacts, memory training, the default tables and discovery, which ends with the port steps of
13 R333.
-/

namespace Sys2Proof.Machine

def State.modBoard (s : State) (f : Board → Board) : State := { s with board := f s.board }

/-- The FATAL entry that the MGP writes when start-up stops or core power is lost; the rule gives its ARG no layout beyond
what it names (log 12). -/
def State.fatalLog (s : State) (arg : Nat) : State := s.ownEntry "fatal-log" 4 arg

/-- Start-up stops: the device is not released (R503). -/
def State.stopStart (s : State) (arg : Nat) : State := (s.modBoard fun b => { b with stopped := true }).fatalLog arg

/-- Step n of R502 is complete. -/
def State.endStep (s : State) (n : Nat) : State := (s.modBoard fun b => { b with step := n }).stepLog n

/-! ### Steps 1 to 3 -/

def byteSum (bs : List Byte) : Nat := (bs.foldl (fun n b => n + b.toNat) 0) % 256

/-- The data of the OEM multi-record of type 0xC0, MFR and SUB of R404, from offset a of the EEPROM on: each record is a header of five
bytes, its last that header's checksum, and its data under a checksum in the header; bit 7 of the header's second byte ends the list
(IPMI FRU v1.0, log 153). -/
def fruRecord (e : List Byte) : Nat → Nat → Option (List Byte)
  | 0, _ => none
  | fuel + 1, a =>
    let h := slice e a 5
    let n := field h 2 1
    let d := slice e (a + 5) n
    if e.length < a + 5 + n || byteSum h != 0 || (byteSum d + field h 3 1) % 256 != 0 then none
    else if field h 0 1 == 0xC0 && field d 0 3 == 0x01B7A4 && field d 3 1 == 1 then some d
    else if 128 ≤ field h 1 1 then none
    else fruRecord e fuel (a + 5 + n)

/-- The device ID and the dimensions that the EEPROM holds: none where a header or checksum fails, the record is absent or short, or a
reserved bit is set (R404). -/
def fruId (e : List Byte) : Option (BitVec 15 × BitVec 15) :=
  if e.length < 8 || byteSum (slice e 0 8) != 0 || field e 5 1 == 0 then none
  else
    match fruRecord e 256 (8 * field e 5 1) with
    | some d =>
      let id := field d 4 2
      let dims := field d 6 2
      if d.length < 8 || 0x8000 ≤ id || 0x8000 ≤ dims then none else some (BitVec.ofNat 15 id, BitVec.ofNat 15 dims)
    | none => none

/-- The FRU record read into CWY_ID (16 R404). -/
def State.loadFru (s : State) : State :=
  match s.board.fru.bind fruId with
  | some (id, dims) =>
    let s1 := s.setReg 0x400000 (BitVec.ofNat 64 (id.toNat + 2 ^ 15 + dims.toNat * 2 ^ 16))
    if s1.idValid then (s1.modCwy fun c => { c with idInForce := id, sizes := dims }).idArrived else s1
  | none => s.mgmtEvent 2 0xFF 0

/-- Step 3: fuses and the FRU record; DEVICE_MODE is applied (12 R289). -/
def State.loadFuses (s : State) : State :=
  let s1 := s.loadFru
  let s2 := (s1.modCip fun c => { c with modeActive := (s1.reg 0x100028).getLsbD 0 }).endStep 3
  if s2.board.strapTest then s2.stopStart 3 else s2

/-- Step 2: the boot ROM verifies the active slot and falls back (15 R385); the MGP runs. Where both slots fail, start-up stops, and what
still serves the management paths is the boot ROM in the MGP (R503). `first` is a cold start, whose step 1 the MGP logs first. -/
def State.bootMgp (s : State) (first : Bool) : State :=
  let bad := !s.digestOk s.fw.actSlot && !s.digestOk (!s.fw.actSlot)
  let s1 := if bad then s.deriveDik else s.bootRom
  let s2 := (s1.setProc mgpIx { s1.proc mgpIx with st := .ready }).saveWaiting
  let s3 := if first then s2.endStep 1 else s2
  if bad then s3.stopStart 2 else (s3.endStep 2).loadFuses

def execStandbyPowerGood (b : BoardIn) (s : State) : Host.Outcome State Fault Refusal :=
  if s.board.standby then .next s
  else
    let s1 := s.modBoard fun x =>
      { x with
        standby := true, strapBist := b.strapBist, strapTest := b.strapTest, smbAddr := b.smbAddr, fru := b.fru, step := 1
        dzClock := true, pcieClock := true, xtal := true }
    let s2 := s1.modFw fun f =>
      { f with slotA := { f.slotA with verified := b.slotAOk }, slotB := { f.slotB with verified := b.slotBOk } }
    .next (s2.bootMgp true)

/-! ### Steps 4 and 5 -/

/-- The strap BIST (16 R420, R424): both kinds at SCOPE 2; the Bool says that a sector or hub unit differs. -/
def State.strapBist (s : State) (rs : List BistUnit) : State × Bool :=
  let l := bistResults 2 0 (rs.take 105)
  let m := bistResults 2 0 (rs.drop 105)
  let s1 := l.foldl (fun (acc : State) x => acc.bistJudge 0 x) s
  let s2 := m.foldl (fun (acc : State) x => acc.bistJudge 1 x) s1
  let d := bistDiffCount 0 l + bistDiffCount 1 m
  (s2.modMss fun x =>
    { x with
      bistRan := true, bistDiff := BitVec.ofNat 8 (Nat.min d 255)
      lastBist := BitVec.ofNat 32 (l.length + m.length + 65536 * d) },
    (l.any fun x => x.1.1 != 0 && bistDiffers x.1 0 x.2) || m.any fun x => x.1.1 != 0 && bistDiffers x.1 1 x.2)

/-- The channel that the always-on latch of a trip holds gives a TRIP event (17 R443). -/
def State.tripEvent (s : State) : State :=
  match s.mss.trip with
  | some c => (s.powerEvent 5 0 c.toNat 0 0).modMss fun m => { m with trip := none }
  | none => s

/-- Step 5: regulators at the N1 setpoint, clocked domains 1 to 14, SCPs, FEP, FCP and PWP ready, every hummock Gated; the
stacks train. An emergency already present engages the clamp (R504). -/
def State.startUp (s : State) : State :=
  let s1 := (s.modPwc fun p => { p with common := p.vsetOf 1, shared := p.vsetOf 1 }).loadImage s.fw.actSlot (List.range 11)
  let s2 : State := (List.range 11).foldl (fun (acc : State) i => acc.setProc i { acc.proc i with st := .ready }) s1
  let s3 : State := (List.range 24).foldl (fun (acc : State) k => acc.setStack k { acc.stack k with st := .training }) s2
  let s4 := s3.endStep 5
  if s4.board.prochotN then s4 else s4.causesChanged fun p => { p with eProchot := true }

/-- Start-up may take step 4 now: step 3 is complete, and SYS_XTAL runs. -/
def State.holdReady (s : State) : Bool :=
  s.board.standby && s.board.xtal && !s.board.coreOn && !s.board.stopped && s.board.step == 3 && (s.proc mgpIx).st == .ready

/-- An output contact returns high. -/
def State.pinHigh (s : State) (was : Bool) (code : BitVec 8) : State := if was then s else s.emit (.pin code true)

/-- PWRCYC_REQ_N is held while core power is off, and deasserted when it returns (14 R354, 19 R489). -/
def State.coreReturns (s : State) : State :=
  if s.board.coreOn then s else (s.modBoard fun b => { b with pwrcycN := true }).pinHigh s.board.pwrcycN 4

/-- The group of a core rail (R493), 0 for C1 to 4 for C5. -/
def railGroup (r : CoreRail) : Nat :=
  match r.val with
  | 1 | 2 | 3 | 5 => 0
  | 4 | 6 | 7 => 1
  | 8 => 2
  | 9 => 3
  | _ => 4

/-- The first core rail that `p` picks, in the order of the groups. -/
def firstRail (p : CoreRail → Bool) : Option CoreRail :=
  (([0, 1, 2, 3, 4].flatMap fun k => (List.finRange 10).filter fun r => railGroup r == k)).find? p

/-- One move of a core rail (R495): one that begins to rise before standby power stands, or before every rail of the groups before it is
within tolerance, is out of sequence, and is forgiven once every rail has fallen. -/
def Board.rail (b : Board) (x : CoreRail × RailMove) : Board :=
  let r := x.1
  let bit := 1#10 <<< r.val
  match x.2 with
  | .rises =>
    let early := !b.standby || (firstRail fun k => decide (railGroup k < railGroup r) && !b.settled.getLsbD k.val).isSome
    { b with risen := b.risen ||| bit, offender := b.offender.orElse fun _ => if early then some r else none }
  | .settles => { b with settled := b.settled ||| bit }
  | .falls =>
    let up := b.risen &&& ~~~bit
    { b with risen := up, settled := b.settled &&& ~~~bit, offender := if up = 0 then none else b.offender }

/-- The conditions of the hold: no rail came out of sequence, and every core rail is within tolerance (R495). -/
def Board.railsOk (b : Board) : Bool := b.offender.isNone && b.settled == 0x3FF

/-- What the MGP reports while the hold keeps: the first rail out of sequence or lost, or else the first that is missing. -/
def Board.firstBad (b : Board) : Option CoreRail := b.offender.orElse fun _ => firstRail fun k => !b.settled.getLsbD k.val

/-- Core power is applied, and the power-on hold releases once its conditions hold (R495); `up.bist` holds the 105 logic and 105 memory
results of the strap BIST. A hold that keeps is reported with the rail by a FATAL entry (R503; log 154). -/
def execPowerOnHoldRelease (up : PowerUp) (s0 : State) : Host.Outcome State Fault Refusal :=
  let sR := if s0.board.coreOn then s0 else s0.modBoard fun b => up.rails.foldl Board.rail b
  if !sR.board.railsOk then
    .next (match sR.board.firstBad, sR.board.standby && !sR.board.coreOn with
      | some r, true => sR.fatalLog r.val
      | _, _ => sR)
  else
    let s := sR.coreReturns
    if !s.holdReady then .next s
    else
      let s1 := (s.modBoard fun b => { b with coreOn := true }).tripEvent
      let (s2, bad) := if s.board.strapBist then s1.strapBist up.bist else (s1, false)
      if bad then .next (s2.stopStart 4) else .next (s2.endStep 4).startUp

/-! ### Step 6 -/

/-- The buffer that firmware sets in a sector before release (09 R235): 4 GiB at sector-relative 0x46_C000_0000. -/
def State.defaultOrb (s : State) (x : Nat) : State :=
  let a := x * sectorBytes + 0x46C0000000
  let s1 := (s.setReg (secBase x + 0x3000) (BitVec.ofNat 64 a)).setReg (secBase x + 0x3008) 2048
  s1.setOrb x { base := BitVec.ofNat 21 (a / frameBytes), frames := 2048, pend := none }

/-! ### Step 7: default tables (13 R325) and discovery -/

/-- The route entry towards coordinate t of dimension d: the shorter way, plus where both are equal. -/
def State.routeEntry (s : State) (d t : Nat) : BitVec 12 :=
  let n := s.sizeOf d
  let plus := (t + n - coordOf s.ownId.toNat d) % n
  let pa := 4 * d + (if plus ≤ n - plus then 0 else 2)
  BitVec.ofNat 12 (pa + (pa + 1) * 16 + 0x100)

/-- RT entry of group g: dimension order x, y, z; none for the own group or one outside the torus. -/
def State.defaultRt (s : State) (g : Nat) : BitVec 12 :=
  let id := g * 16
  if [1, 2, 3].all fun d => decide (coordOf id d < s.sizeOf d) then
    match [1, 2, 3].find? fun d => coordOf id d != coordOf s.ownId.toNat d with
    | some d => s.routeEntry d (coordOf id d)
    | none => 0
  else 0

/-- LT entry of w coordinate j. -/
def State.defaultLt (s : State) (j : Nat) : BitVec 12 :=
  if j = coordOf s.ownId.toNat 0 then 0x300
  else if j < s.sizeOf 0 then s.routeEntry 0 j
  else 0

def State.defaultTables (s : State) : State :=
  let s1 := (List.range 2048).foldl (fun (acc : State) g => acc.setReg (0x480000 + 8 * g) ((s.defaultRt g).setWidth 64)) s
  let s2 := (List.range 16).foldl (fun (acc : State) j => acc.setReg (0x484000 + 8 * j) ((s.defaultLt j).setWidth 64)) s1
  s2.tablesTake

def State.enablePort (s : State) (p : Nat) : State :=
  let old := s.reg (portCtl p)
  (s.setReg (portCtl p) (old ||| 1)).enChanged p (old.getLsbD 0) true

/-- Firmware leaves the ports of a dimension of size 1 disabled (13 R316); without a valid ID every port is enabled, to hold at
EXCHANGE (16 R404). -/
def State.portUsed (s : State) (p : Nat) : Bool := !s.idValid || decide (1 < s.sizeOf (portDim p))

/-- Step 7 ends when every enabled port is UP, MISWIRED or DOWN (13 R333). -/
def State.settle (s : State) : State :=
  let done (p : Nat) : Bool := !s.portEn p || (match (s.port p).ls with
    | .up | .miswired | .down => true
    | _ => false)
  if s.board.step == 6 && s.board.coreOn && !s.board.stopped && allPorts.all done then (s.endStep 7).tryRelease else s

/-- A stack's training is done. How many lane-repair spares it took is not stated (09 R238; log 133). -/
def State.trainStack (s : State) (k : Nat) (failed : Bool) : State :=
  let (i, s1) := s.draw
  s1.setStack k
    { s1.stack k with st := if failed then .failed else .ready, spares := BitVec.ofNat 8 (field (Config.freeBytes "spares" i) 0 1) }

/-- The stacks in training end it; a stack that fails stops start-up (R503). -/
def execHbmTrainingDone (failed : BitVec 24) (s : State) : Host.Outcome State Fault Refusal :=
  if s.board.step != 5 || !s.board.coreOn || s.board.stopped then .next s
  else
    let s1 : State := (List.range 24).foldl (fun (acc : State) k => acc.trainStack k (failed.getLsbD k)) s
    if failed != 0 then .next (s1.stopStart 6)
    else
      let rate : BitVec 2 := (s1.reg 0x200020).extractLsb' 0 2
      let s2 : State := (List.range 8).foldl (fun (acc : State) x => acc.defaultOrb x)
        (s1.modPwc fun p => { p with actRate := if rate = 3 then 0 else rate })
      .next ((allPorts.filter s.portUsed).foldl (fun (acc : State) p => acc.enablePort p) (s2.endStep 6).defaultTables).settle

def execDiscoveryTimeout (s : State) : Host.Outcome State Fault Refusal :=
  .next (if s.board.step == 6 && s.board.coreOn && !s.board.stopped then (s.endStep 7).tryRelease else s)

def execDetectDone (p : PortIx) (opens shorts rxlos : BitVec 2) (s : State) : Host.Outcome State Fault Refusal :=
  .next (s.detectDone p opens shorts rxlos).settle

def execTrainingDone (p : PortIx) (polinv : BitVec 2) (lswap : Bool) (failed : BitVec 2) (s : State) :
    Host.Outcome State Fault Refusal :=
  .next (s.trainingDone p polinv lswap failed).settle

def execExchangeDone (p : PortIx) (pid : BitVec 15) (pport : BitVec 4) (sizes : BitVec 15) (mep : BitVec 64) (s : State) :
    Host.Outcome State Fault Refusal :=
  .next (s.exchangeDone p pid pport sizes mep).settle

def execLossOfSignal (p : PortIx) (kind : LossKind) (s : State) : Host.Outcome State Fault Refusal :=
  .next (s.lossOfSignal p kind).settle

def execModuleRemove (p : PortIx) (s : State) : Host.Outcome State Fault Refusal :=
  .next (s.moduleRemove p).settle

/-! ### Losses of power (R496; 14 R354, R370) -/

/-- Of an event queue only ESEQ goes on (log 59). -/
def bareEvents (e : EventQ) : EventQ := { EventQ.reset with eseq := e.eseq }

/-- What a port keeps without power: whether a module is present. -/
def Port.bare (x : Port) : Port := { Port.reset with modp := x.modp }

def barePorts (m : Store Port) : Store Port :=
  m.filterMap fun (p : Nat × Port) => if p.2.modp then some (p.1, p.2.bare) else none

/-- Firmware state that the flash and the MGP hold through a loss of core power. -/
def Firmware.coreLost (f : Firmware) : Firmware :=
  { Firmware.reset with
    procs := (f.procs.filter fun (p : Nat × ProcReg) => p.1 == mgpIx).map fun (p : Nat × ProcReg) => (p.1, { p.2 with restarts := 0 })
    cores := f.cores.filter fun (p : Nat × Core) => p.1 == mgpIx
    actSlot := f.actSlot, slotA := f.slotA, slotB := f.slotB, svnMin := f.svnMin, logSeq := f.logSeq, flash := f.flash
    unsaved := f.unsaved, flashPos := f.flashPos, bseq := f.bseq, ms := f.ms, minuteStart := f.minuteStart
    minuteUnits := f.minuteUnits }

/-- What the MSS keeps: keys of the flash and the DIK, the trip latch, modules, sensors, contacts, the I3C address, and an update over the
standby buses. EIDs are lost (19 R486). -/
def Mss.coreLost (m : Mss) : Mss :=
  let upd := m.upd != .idle && (m.updOn == .smbus || m.updOn == .i3c)
  { Mss.reset with
    sens := m.sens, mods := m.mods, nextSess := m.nextSess, fmkey := m.fmkey, trip := m.trip, contacts := m.contacts
    i3c := m.i3c, dik := m.dik, upd := if upd then m.upd else .idle, updOn := m.updOn
    updOff := if upd then m.updOff else 0, updSize := if upd then m.updSize else 0 }

def ErrBlock.coreLost (e : ErrBlock) : ErrBlock :=
  { ErrBlock.reset with
    last := e.last, nCtxab := e.nCtxab, nEng := e.nEng, nSec := e.nSec, nChip := e.nChip, latches := e.latches
    dumps := e.dumps, dump := e.dump, eq0 := bareEvents e.eq0, eq1 := bareEvents e.eq1 }

/-- The core is in reset with nothing kept (14 R354): device memory, the journal and every register return to reset. THERMTRIP_N is
released once core power is gone; PWRCYC_REQ_N stays. Start-up resumes at step 4 (R504). -/
def State.dropCore (s : State) : State :=
  { State.reset with
    pending := s.pending, freeCtr := s.freeCtr, out := s.out, fw := s.fw.coreLost, mss := s.mss.coreLost
    err := s.err.coreLost, cwy := { Fabric.reset with ports := barePorts s.cwy.ports }
    pwc := { Power.reset with rates := s.pwc.rates }, cip := { Cip.reset with serial := s.cip.serial, feat := s.cip.feat }
    link := { HostLink.reset with perst := s.link.perst }
    board := { s.board with
      coreOn := false, released := false, step := 3, stopped := s.board.strapTest
      alertN := true, thermtripN := true, dzClock := true, pcieClock := true, xtal := true } }

/-- A core rail is lost (R496): the hold engages until every rail has fallen. A power cycle, asked for or awaited, repeats start-up from
step 2, which waits for no rail; otherwise the registers of step 3 are read again (R502, R504). -/
def execCorePowerLoss (rail : CoreRail) (s : State) : Host.Outcome State Fault Refusal :=
  if !s.board.coreOn then .next s
  else
    let b := s.board
    let s1 := (s.dropCore.pinHigh b.alertN 2).pinHigh b.thermtripN 3
    let s2 := (s1.modBoard fun x => { x with settled := x.settled &&& ~~~(1#10 <<< rail.val), offender := some rail }).fatalLog rail.val
    .next ((if s.beyond then (s2.endSessions.modBoard fun x => { x with step := 1, stopped := false }).bootMgp false
      else s2.loadFru).updateAlert)

/-- Standby power is lost: what remains is in the flash, in the fuses and outside the package. -/
def execStandbyPowerLoss (s : State) : Host.Outcome State Fault Refusal :=
  .next
    { State.reset with
      pending := s.pending, freeCtr := s.freeCtr, out := s.out
      fw := { Firmware.reset with
        actSlot := s.fw.actSlot, slotA := s.fw.slotA, slotB := s.fw.slotB, svnMin := s.fw.svnMin, flash := s.fw.flash
        flashPos := s.fw.flashPos, bseq := s.fw.bseq }
      mss := { Mss.reset with fmkey := s.mss.fmkey }
      cwy := { Fabric.reset with ports := barePorts s.cwy.ports }
      pwc := { Power.reset with rates := s.pwc.rates }
      cip := { Cip.reset with serial := s.cip.serial, feat := s.cip.feat }
      link := { HostLink.reset with perst := s.link.perst }
      board := { Board.reset with prochotN := s.board.prochotN, risen := s.board.risen, settled := s.board.settled } }

/-! ### Contacts and buses (R501) -/

def faultArg (f : ContactFault) : Nat :=
  (if f.isOpen then 1 else 0) + (if f.low then 2 else 0) + (if f.high then 4 else 0)

/-- How an undriven input reads: PROCHOT_N deasserted, MOD_PRS_N absent, PERST_N asserted. Straps are read once, at power-on. -/
def State.openInput (s : State) (f : ContactFault) : State :=
  if !f.isOpen then s
  else if f.code = 0x00 then (s.modLink fun l => { l with perst := true }).linkReset
  else if f.code = 0x01 then
    (if s.board.prochotN then s
     else
      let s1 := s.modBoard fun b => { b with prochotN := true }
      if s.board.coreOn then s1.causesChanged fun p => { p with eProchot := false } else s1)
  else if h : 0x10 ≤ f.code.toNat ∧ f.code.toNat < 0x20 then s.moduleRemove ⟨f.code.toNat - 0x10, by omega⟩
  else s

/-- The faults of a contact that did not stand at the last check. -/
def freshFault (f : ContactFault) (old : List ContactFault) : ContactFault :=
  let was (p : ContactFault → Bool) : Bool := old.any fun o => o.code == f.code && p o
  { f with isOpen := f.isOpen && !was ContactFault.isOpen, low := f.low && !was ContactFault.low, high := f.high && !was ContactFault.high }

/-- The check of every second: an event once per fault, and again once it has cleared and recurred. -/
def execContactCheck (faults : List ContactFault) (s : State) : Host.Outcome State Fault Refusal :=
  if !s.board.standby || !s.procReady mgpIx then .next s
  else
    let new := (faults.map fun f => freshFault f s.mss.contacts).filter fun f => faultArg f != 0
    .next ((new.foldl (fun (acc : State) f => (acc.mgmtEvent 6 f.code.toNat (faultArg f)).openInput f) s).modMss fun m =>
      { m with contacts := faults }).settle

/-- The transaction in progress on the bus is abandoned and retried; the block holds no part of one. -/
def execSmbusTimeout (_bus : SlowBus) (s : State) : Host.Outcome State Fault Refusal := .next s

end Sys2Proof.Machine
end

