-- ==== Sys2Proof/Machine/Func.lean ====
section
/-!
DEFINITION. Sys2Proof/Machine/Func.lean: the functions that Reed delivers correctly rounded (08 R194, R195, R198, R205;
05 R142). A result with no finite expansion is enclosed between two integers at scale 2^(-p), and p grows until both ends
round alike in the working format; what is answered is a value of 02 whose one rounding is the exact result's.
-/

namespace Sys2Proof.Machine

/-- The reals between lo·2^(-p) and hi·2^(-p). -/
structure Iv where
  lo : Int
  hi : Int
  deriving DecidableEq, Repr

def cdiv (a b : Int) : Int := -((-a) / b)

def Iv.add (a b : Iv) : Iv := ⟨a.lo + b.lo, a.hi + b.hi⟩
def Iv.neg (a : Iv) : Iv := ⟨-a.hi, -a.lo⟩
def Iv.sub (a b : Iv) : Iv := a.add b.neg

def Iv.mul (p : Nat) (a b : Iv) : Iv :=
  let w := a.lo * b.lo
  let x := a.lo * b.hi
  let y := a.hi * b.lo
  let z := a.hi * b.hi
  ⟨Min.min (Min.min w x) (Min.min y z) / 2 ^ p, cdiv (Max.max (Max.max w x) (Max.max y z)) (2 ^ p)⟩

def Iv.divNat (a : Iv) (n : Nat) : Iv := ⟨a.lo / n, cdiv a.hi n⟩

/-- a / b for b above 0. -/
def Iv.div (p : Nat) (a b : Iv) : Iv :=
  ⟨a.lo * 2 ^ p / (if 0 ≤ a.lo then b.hi else b.lo), cdiv (a.hi * 2 ^ p) (if 0 ≤ a.hi then b.lo else b.hi)⟩

/-- a·k for an integer k. -/
def Iv.times (a : Iv) (k : Int) : Iv := if 0 ≤ k then ⟨a.lo * k, a.hi * k⟩ else ⟨a.hi * k, a.lo * k⟩

/-- a·2^k. -/
def Iv.shift (a : Iv) (k : Int) : Iv :=
  if 0 ≤ k then ⟨a.lo * 2 ^ k.toNat, a.hi * 2 ^ k.toNat⟩ else ⟨a.lo / 2 ^ (-k).toNat, cdiv a.hi (2 ^ (-k).toNat)⟩

def one (p : Nat) : Iv := ⟨2 ^ p, 2 ^ p⟩

/-- The magnitude m·2^e. -/
def ivOf (p m : Nat) (e : Int) : Iv := Iv.shift ⟨m, m⟩ (e + p)

def ivRat (p a b : Nat) : Iv := ⟨(a * 2 ^ p : Int) / b, cdiv (a * 2 ^ p) b⟩

/-! ### Series -/

/-- Σ z^(2i+1)/(2i+1) from i = j, for 0 ≤ z ≤ 1/3; t is z^(2j+1). -/
def atanhLoop (p : Nat) (zz : Iv) : Nat → Nat → Iv → Iv → Iv
  | 0, _, t, s => ⟨s.lo, s.hi + t.hi + 1⟩
  | n + 1, j, t, s => atanhLoop p zz n (j + 1) (t.mul p zz) (s.add (t.divNat (2 * j + 1)))

def atanhIv (p : Nat) (z : Iv) : Iv := atanhLoop p (z.mul p z) (p / 3 + 8) 0 z ⟨0, 0⟩

def ln2Iv (p : Nat) : Iv := (atanhIv p (ivRat p 1 3)).times 2

/-- The alternating series of the arc tangent. -/
def atanLoop (p : Nat) (zz : Iv) : Nat → Nat → Iv → Iv → Iv
  | 0, _, t, s => ⟨s.lo - t.hi - 1, s.hi + t.hi + 1⟩
  | n + 1, j, t, s =>
    let u := t.divNat (2 * j + 1)
    atanLoop p zz n (j + 1) (t.mul p zz) (if j % 2 = 0 then s.add u else s.sub u)

def atanIv (p : Nat) (z : Iv) : Iv := atanLoop p (z.mul p z) (p / 4 + 8) 0 z ⟨0, 0⟩

/-- π by Machin's formula. -/
def piIv (p : Nat) : Iv := ((atanIv p (ivRat p 1 5)).times 16).sub ((atanIv p (ivRat p 1 239)).times 4)

/-- Σ r^i/i! from i = j, for r below 1; t is r^j/j!. -/
def expLoop (p : Nat) (r : Iv) : Nat → Nat → Iv → Iv → Iv
  | 0, _, t, s => ⟨s.lo - 1, s.hi + 2 * t.hi + 2⟩
  | n + 1, j, t, s => expLoop p r n (j + 1) ((t.mul p r).divNat (j + 1)) (s.add t)

/-- e^x as an interval times 2^k. -/
def expIv (p : Nat) (x : Iv) : Iv × Int :=
  let l := ln2Iv p
  let k := x.lo / l.lo
  (expLoop p (x.sub (l.times k)) (p / 4 + 16) 0 (one p) ⟨0, 0⟩, k)

/-- ln of the magnitude m·2^e. -/
def lnIv (p m : Nat) (e : Int) : Iv :=
  let g := Nat.log2 m
  ((ln2Iv p).times (g + e)).add ((atanhIv p (ivRat p (m - 2 ^ g) (m + 2 ^ g))).times 2)

/-- Σ a^(2i+1)/(2i+1)!! from i = j; t is the term. -/
def phiLoop (p : Nat) (aa : Iv) : Nat → Nat → Iv → Iv → Iv
  | 0, _, t, s => ⟨s.lo, s.hi + 2 * t.hi + 2⟩
  | n + 1, j, t, s => phiLoop p aa n (j + 1) ((t.mul p aa).divNat (2 * j + 3)) (s.add t)

def sqrtIv (p : Nat) (a : Iv) : Iv :=
  ⟨(isqrt (a.lo * 2 ^ p).toNat : Int), (isqrt (a.hi * 2 ^ p).toNat : Int) + 1⟩

/-- Φ(a) - 1/2 for a = m·2^e below 64. -/
def phiIv (p m : Nat) (e : Int) : Iv :=
  let a := ivOf p m e
  let aa := a.mul p a
  let n := 2 * (m * 2 ^ (Max.max e 0).toNat / 2 ^ (-e).toNat + 1) ^ 2 + p + 16
  let s := phiLoop p aa n 0 a ⟨0, 0⟩
  let (x, k) := expIv p ((aa.divNat 2).neg)
  (Iv.div p (s.mul p x) (sqrtIv p ((piIv p).times 2))).shift k

/-- r^(2i)/(2i)! or r^(2i+1)/(2i+1)! alternating; `d` is 0 for the cosine and 1 for the sine. -/
def trigLoop (p d : Nat) (rr : Iv) : Nat → Nat → Iv → Iv → Iv
  | 0, _, t, s => ⟨s.lo - t.hi - 1, s.hi + t.hi + 1⟩
  | n + 1, j, t, s =>
    trigLoop p d rr n (j + 1) ((t.mul p rr).divNat ((2 * j + 1 + d) * (2 * j + 2 + d)))
      (if j % 2 = 0 then s.add t else s.sub t)

/-- sin (d = 1) or cos (d = 0) of the magnitude m·2^e, by its quadrant. -/
def trigIv (p d m : Nat) (e : Int) : Iv :=
  let x := ivOf p m e
  let h := (piIv p).divNat 2
  let k := x.lo / h.lo
  let r := x.sub (h.times k)
  if r.lo < -(2 ^ p) ∨ 3 * 2 ^ p < r.hi then ⟨-(2 ^ (p + 1)), 2 ^ (p + 1)⟩
  else
    let q := (k + d) % 4
    let rr := r.mul p r
    let c := trigLoop p 0 rr (p / 4 + 16) 0 (one p) ⟨0, 0⟩
    let sn := trigLoop p 1 rr (p / 4 + 16) 0 r ⟨0, 0⟩
    -- quadrant of the cosine: cos, -sin, -cos, sin; the sine is the cosine three quadrants on
    let i := if d = 0 then q else (q + 2) % 4
    if i = 0 then c else if i = 1 then sn.neg else if i = 2 then c.neg else sn

/-! ### One rounding -/

/-- The value that an enclosure lo·2^(e-p) to hi·2^(e-p) gives when both ends round alike in f. -/
def Iv.agreed (f : Format) (p : Nat) (a : Iv) (e : Int) : Option Val :=
  let mk (lo hi : Nat) (neg : Bool) : Option Val :=
    let v := Val.fin neg lo (e - p) true
    if lo ≠ 0 ∧ f.roundVal .rne v = f.roundVal .rne (.fin neg hi (e - p) false) then some v else none
  if 0 < a.lo then mk a.lo.toNat a.hi.toNat false
  else if a.hi < 0 then mk (-a.hi).toNat (-a.lo).toNat true
  else none

/-- The first precision at which the enclosure decides; 4096 bits is more than any argument of binary64 needs. -/
def ziv (f : Format) (g : Nat → Iv × Int) : Val :=
  match [128, 256, 512, 1024, 2048, 4096].findSome? fun p => (g p).1.agreed f p (g p).2 with
  | some v => v
  | none => .zero false

/-- Slightly above or below the magnitude m·2^e, nearer than any rounding of binary64 can tell. -/
def above (neg : Bool) (m : Nat) (e : Int) : Val := .fin neg (m * 2 ^ 90) (e - 90) true
def below (neg : Bool) (m : Nat) (e : Int) : Val := .fin neg (m * 2 ^ 90 - 1) (e - 90) true

def vone (neg : Bool) : Val := .fin neg 1 0 false
/-- Beyond every range, and below every range. -/
def vhuge (neg : Bool) : Val := .fin neg 1 5000 true
def vtiny (neg : Bool) : Val := .fin neg 1 (-5000) true

/-! ### The functions: value, and whether it is invalid (R35, R195) -/

def fexp (f : Format) : Val → Val × Bool
  | .nan => (.nan, false)
  | .inf n => (if n then .zero false else .inf false, false)
  | .zero _ => (vone false, false)
  | .fin n m e _ =>
    let g := magLog m e
    (if 11 ≤ g then (if n then vtiny false else vhuge false)
     else if g < -100 then (if n then below false 1 0 else above false 1 0)
     else ziv f fun p => expIv p (if n then (ivOf p m e).neg else ivOf p m e), false)

def fexp2 (f : Format) : Val → Val × Bool
  | .nan => (.nan, false)
  | .inf n => (if n then .zero false else .inf false, false)
  | .zero _ => (vone false, false)
  | .fin n m e _ =>
    let g := magLog m e
    (if 12 ≤ g then (if n then vtiny false else vhuge false)
     else if g < -100 then (if n then below false 1 0 else above false 1 0)
     else
      let sh := (-e).toNat
      let z := signed n (m * 2 ^ e.toNat)
      let k := z / 2 ^ sh
      if k * 2 ^ sh = z then .fin false 1 k false
      else ziv f fun p =>
        let r := expIv p ((ivOf p (z - k * 2 ^ sh).toNat (Min.min e 0)).mul p (ln2Iv p))
        (r.1, r.2 + k), false)

def flog (f : Format) : Val → Val × Bool
  | .nan => (.nan, false)
  | .inf n => (if n then .nan else .inf false, n)
  | .zero _ => (.inf true, false)
  | .fin true _ _ _ => (.nan, true)
  | .fin false m e _ =>
    (if m = 2 ^ Nat.log2 m ∧ magLog m e = 0 then .zero false else ziv f fun p => (lnIv p m e, 0), false)

def flog2 (f : Format) : Val → Val × Bool
  | .nan => (.nan, false)
  | .inf n => (if n then .nan else .inf false, n)
  | .zero _ => (.inf true, false)
  | .fin true _ _ _ => (.nan, true)
  | .fin false m e _ =>
    (if m = 2 ^ Nat.log2 m then ofSigned (magLog m e) 0 false
     else ziv f fun p => ((lnIv p m e).div p (ln2Iv p), 0), false)

def ftanh (f : Format) : Val → Val × Bool
  | .nan => (.nan, false)
  | .inf n => (vone n, false)
  | .zero n => (.zero n, false)
  | .fin n m e _ =>
    let g := magLog m e
    (if g < -100 then below n m e
     else if 7 ≤ g then below n 1 0
     else ziv f fun p =>
      let (x, k) := expIv p (ivOf p m (e + 1))
      let y := x.shift k
      let t := (y.sub (one p)).div p (y.add (one p))
      (if n then t.neg else t, 0), false)

def fsigmoid (f : Format) : Val → Val × Bool
  | .nan => (.nan, false)
  | .inf n => (if n then .zero false else vone false, false)
  | .zero _ => (.fin false 1 (-1) false, false)
  | .fin n m e _ =>
    let g := magLog m e
    (if g < -100 then (if n then below false 1 (-1) else above false 1 (-1))
     else if n && decide (11 ≤ g) then vtiny false
     else if !n && decide (7 ≤ g) then below false 1 0
     else ziv f fun p =>
      let (x, k) := expIv p (ivOf p m e).neg
      let d := (one p).add (x.shift k)
      if n then (x.div p d, k) else ((one p).div p d, 0), false)

def fgelu (f : Format) : Val → Val × Bool
  | .nan => (.nan, false)
  | .inf n => (if n then .zero true else .inf false, false)
  | .zero n => (.zero n, false)
  | .fin n m e _ =>
    let g := magLog m e
    (if g < -100 then (if n then below true m (e - 1) else above false m (e - 1))
     else if n && decide (6 ≤ g) then vtiny true
     else if !n && decide (4 ≤ g) then below false m e
     else ziv f fun p =>
      let h := (one p).divNat 2
      let c := phiIv p m e
      let t := (ivOf p m e).mul p (if n then h.sub c else h.add c)
      (if n then t.neg else t, 0), false)

/-- Sine (d = 1) and cosine (d = 0) in radians. -/
def ftrig (f : Format) (d : Nat) : Val → Val × Bool
  | .nan => (.nan, false)
  | .inf _ => (.nan, true)
  | .zero n => (if d = 0 then vone false else .zero n, false)
  | .fin n m e _ =>
    (if magLog m e < -100 then (if d = 0 then below false 1 0 else below n m e)
     else ziv f fun p =>
      let t := trigIv p d m e
      (if n && d == 1 then t.neg else t, 0), false)

/-- 1/√x (R195). -/
def frsqrt : Val → Val × Bool
  | .nan => (.nan, false)
  | .inf n => (if n then .nan else .zero false, n)
  | .zero n => (.inf n, false)
  | .fin true _ _ _ => (.nan, true)
  | .fin false m e _ =>
    -- m·2^e = m'·2^(2q): 1/√ = 2^(k-q)·√(2^(2k)/m') / 2^k
    let m' := if e % 2 = 0 then m else 2 * m
    let q := (if e % 2 = 0 then e else e - 1) / 2
    let k := keepBits + Nat.log2 m'
    let r := isqrt (2 ^ (2 * k) / m')
    (.fin false r (-q - k) (r * r * m' != 2 ^ (2 * k)), false)

end Sys2Proof.Machine
end

