-- ==== Sys2Proof/Machine/Operands.lean ====
section
/-!
DEFINITION. Sys2Proof/Machine/Operands.lean: operand formats (02 R26, R27, R44), descriptors (07 R156 to R159, R508), the
regions that an operand occupies (R162), reading and writing tiles in every address space, and conversion of rows with
their counts (02 R47, R48, R52; 06 R145).
-/

namespace Sys2Proof.Machine

/-! ### FMT (02 R26, R27; 05 R138, R139) -/

def fCode (f : BitVec 12) : BitVec 4 := f.extractLsb' 0 4
def fScaled (f : BitVec 12) : Bool := f.getLsbD 4
def fBsz (f : BitVec 12) : Nat := bszOf (f.extractLsb' 5 2)
def fSat (f : BitVec 12) : Bool := f.getLsbD 7
def fRm (f : BitVec 12) : BitVec 2 := f.extractLsb' 8 2

/-- binary32, unscaled. -/
def fmt32 : BitVec 12 := 7

def isFp8 (f : BitVec 12) : Bool := fCode f == 3 || fCode f == 4

/-- Legal as a source operand. -/
def srcFmtOk (f : BitVec 12) : Bool :=
  let c := (fCode f).toNat
  if c < 3 then fScaled f else if c < 5 then true else decide (c ≤ 9) && !fScaled f

/-- Legal as a result operand. -/
def dstFmtOk (f : BitVec 12) : Bool := srcFmtOk f && fRm f != 3

/-- The binary32 per-tensor scale of an operand in V40 mode. -/
def v40So (raw : BitVec 256) (f : BitVec 12) : BitVec 32 := if isFp8 f then Config.v40Scale raw else 0x3F800000#32

/-- Zero, negative, subnormal, Inf and NaN scales are illegal (R139). -/
def v40ScaleOk (b : BitVec 32) : Bool :=
  match val32 b with
  | .fin false _ _ _ => true
  | _ => false

/-- What V40 mode adds for an operand (R138, R139). -/
def v40FmtOk (raw : BitVec 256) (f : BitVec 12) : Bool :=
  !fScaled f && 3 ≤ (fCode f).toNat && v40ScaleOk (v40So raw f)

/-! ### Descriptors -/

def DescCap.ebase (d : DescCap) : Nat := (d.raw.extractLsb' 0 52).toNat
def DescCap.space (d : DescCap) : Nat := (d.raw.extractLsb' 52 3).toNat
def DescCap.sbase (d : DescCap) : Nat := (d.raw.extractLsb' 64 52).toNat
def DescCap.ord (d : DescCap) : Nat := (d.raw.extractLsb' 116 12).toNat
def DescCap.stride (d : DescCap) : Nat := (d.raw.extractLsb' 128 32).toNat
def DescCap.tag (d : DescCap) : Nat := (d.raw.extractLsb' 160 31).toNat
def DescCap.rows (d : DescCap) : Nat := (d.raw.extractLsb' 192 16).toNat + 1
def DescCap.len (d : DescCap) : Nat := (d.raw.extractLsb' 208 20).toNat + 1
def DescCap.rank (d : DescCap) : Nat := (d.raw.extractLsb' 228 15).toNat
def DescCap.lhum (d : DescCap) : Nat := (d.raw.extractLsb' 243 7).toNat
def DescCap.orgRow (d : DescCap) : Nat := (d.org.extractLsb' 0 32).toNat
def DescCap.orgCol (d : DescCap) : Nat := (d.org.extractLsb' 32 32).toNat

/-- Bytes of an element row of L elements (R159). -/
def rowBytes (c : BitVec 4) (l : Nat) : Nat :=
  if c = 0 then (l + 1) / 2
  else if c = 1 ∨ c = 2 then 3 * ((l + 3) / 4)
  else if c = 3 ∨ c = 4 ∨ c = 9 then l
  else if c = 5 ∨ c = 6 then 2 * l
  else if c = 7 then 4 * l
  else if c = 8 then 8 * l else 0

/-- Bytes of a scale row (R44, R159). -/
def scaleBytes (f : BitVec 12) (l : Nat) : Nat := if fScaled f then ceilDiv l (fBsz f) else 0

/-- An operand: its descriptor and the FMT that lays it out. -/
abbrev Opnd := DescCap × BitVec 12

def elemLen (o : Opnd) : Nat := (o.1.rows - 1) * o.1.stride + rowBytes (fCode o.2) o.1.len
def scaleLen (o : Opnd) : Nat := o.1.rows * scaleBytes o.2 o.1.len

/-- R159 for a station; `cwy` says that it is the Causeway. -/
def State.descOk (s : State) (nhum : Nat) (cwy : Bool) (o : Opnd) : Bool :=
  let d := o.1
  d.ebase % 32 == 0 && d.stride % 32 == 0 && decide (rowBytes (fCode o.2) d.len ≤ d.stride) &&
    (d.space == 0 || d.space == 1 || (d.space == 2 && decide (d.lhum < nhum)) ||
      (d.space == 3 && cwy && decide (d.rank < s.groupSize)))

/-- What LLOAD and LPASS ask beside (R159). -/
def latDescOk (d : DescCap) : Bool := d.space == 0 && d.ebase % 256 == 0 && d.stride % 256 == 0

/-- Spans of an operand: the element plane, and the scale plane of a scaled one. -/
def spansOf (o : Opnd) : List (Nat × Nat) :=
  (o.1.ebase, elemLen o) :: (if fScaled o.2 then [(o.1.sbase, scaleLen o)] else [])

/-- MERE_RANGE (R174). -/
def mereOk (o : Opnd) : Bool :=
  (o.1.space != 0 && o.1.space != 2) || (spansOf o).all fun x => x.1 + x.2 ≤ 0x3000000

/-! ### Regions (R162) -/

structure Region where
  space : Nat
  who : Nat
  lo : Nat
  hi : Nat
  deriving DecidableEq, Repr

def Region.overlaps (a b : Region) : Bool := a.space == b.space && a.who == b.who && a.lo < b.hi && b.lo < a.hi

/-- A device virtual address span that passes 2^52 goes on at 0. -/
def regionsOf (o : Opnd) : List Region :=
  let who := if o.1.space = 2 then o.1.lhum else if o.1.space = 3 then o.1.rank else 0
  (spansOf o).flatMap fun x =>
    ⟨o.1.space, who, x.1, x.1 + x.2⟩ ::
      (if 2 ^ 52 < x.1 + x.2 then [⟨o.1.space, who, 0, x.1 + x.2 - 2 ^ 52⟩] else [])

def anyOverlap (a b : List Region) : Bool := a.any fun x => b.any x.overlaps

/-! ### Memory that a station reaches -/

/-- What stops a station's access: trouble of device memory, or an uncorrectable error in the SRAM of a hummock. -/
inductive Bad where
  | mem (t : Trouble)
  | sram (g : Nat)
  deriving DecidableEq, Repr

/-- The physical hummock of logical hummock l of the launch that holds g (R131, R158). -/
def State.partner (s : State) (g l : Nat) : Option (Fin 96) :=
  match (s.hum g).holder with
  | none => none
  | some x => (List.finRange 96).find? fun k =>
      match (s.hum k).holder with
      | some y => y.launch == x.launch && y.lhum.toNat == l
      | none => false

/-- The hummock whose Mere an operand of hummock g lies in. -/
def State.mereOf (s : State) (g : Nat) (d : DescCap) : Nat :=
  if d.space = 2 then ((s.partner g d.lhum).map fun k => k.val).getD g else g

def State.ctxOf (s : State) (g : Nat) : Nat :=
  match (s.hum g).holder with
  | some x => x.ctx.toNat
  | none => 0

/-- Read n bytes at address a of a descriptor's space. -/
def State.readAt (s : State) (g : Nat) (m : List TlbEntry) (d : DescCap) (a n : Nat) : State × List Byte × Option Bad :=
  if d.space = 1 then
    let r := s.vaRead m (s.ctxOf g) (a % 2 ^ 52) n
    (r.s, r.bytes, match r.trouble with
      | .none => none
      | t => some (.mem t))
  else
    let k := s.mereOf g d
    let (s1, bad) := s.eccSram k 1 (a / 32) ((a + n + 31) / 32) (s.ctxOf g)
    (s1, bread (s1.hum k).mere a n, if bad then some (.sram k) else none)

/-- Write bytes at address a of a descriptor's space. -/
def State.writeAt (s : State) (g : Nat) (m : List TlbEntry) (d : DescCap) (whole : List Nat) (a : Nat)
    (bs : List Byte) : State × Trouble :=
  if d.space = 1 then s.vaWrite m (s.ctxOf g) (a % 2 ^ 52) bs whole
  else
    let k := s.mereOf g d
    let s1 := s.settleSram k 1 (a / 32) ((a + bs.length + 31) / 32)
    ((s1.modHum k fun h => { h with mere := bwrite h.mere a bs }).eccSramWrite k 1 a bs.length, .none)

/-- Rows of bytes, n each, from base on at the given stride. -/
def State.readRows (s : State) (g : Nat) (m : List TlbEntry) (d : DescCap) (base stride n rows : Nat) :
    State × List (List Byte) × Option Bad :=
  (List.range rows).foldl (fun (acc : State × List (List Byte) × Option Bad) r =>
    let x := acc.1.readAt g m d (base + r * stride) n
    (x.1, acc.2.1 ++ [x.2.1], acc.2.2.orElse fun _ => x.2.2)) (s, [], none)

/-- Elements 0 to k - 1, as far as the descriptor's L goes, of the first `rows` rows of an operand, and the scale bytes of their
blocks (R507). -/
def State.readPlanes (s : State) (g : Nat) (m : List TlbEntry) (o : Opnd) (rows k : Nat) :
    State × List (List Byte) × List (List Byte) × Option Bad :=
  let d := o.1
  let l := Nat.min k d.len
  let (s1, es, b1) := s.readRows g m d d.ebase d.stride (rowBytes (fCode o.2) l) rows
  let n := scaleBytes o.2 d.len
  if n = 0 then (s1, es, [], b1)
  else
    let (s2, ss, b2) := s1.readRows g m d d.sbase n (scaleBytes o.2 l) rows
    (s2, es, ss, b1.orElse fun _ => b2)

/-- Row r of an operand: its elements and its scale bytes. -/
def State.readRow (s : State) (g : Nat) (m : List TlbEntry) (o : Opnd) (r : Nat) : State × (List Byte × List Byte) × Option Bad :=
  let d := o.1
  let (s1, e, b1) := s.readAt g m d (d.ebase + r * d.stride) (rowBytes (fCode o.2) d.len)
  let n := scaleBytes o.2 d.len
  if n = 0 then (s1, (e, []), b1)
  else
    let (s2, c, b2) := s1.readAt g m d (d.sbase + r * n) n
    (s2, (e, c), b1.orElse fun _ => b2)

/-- Does a list of intervals cover [cur, hi)? -/
def covers (ivs : List (Nat × Nat)) : Nat → Nat → Nat → Bool
  | 0, cur, hi => hi ≤ cur
  | fuel + 1, cur, hi =>
    if hi ≤ cur then true
    else match ivs.find? fun x => x.1 ≤ cur && cur < x.1 + x.2 with
      | some x => covers ivs fuel (x.1 + x.2) hi
      | none => false

/-- The 2 MiB pages that the intervals written by one instruction cover whole (10 R242). -/
def wholePages (ivs : List (Nat × Nat)) : List Nat :=
  let pages := (ivs.flatMap fun x => (List.range (x.2 / frameBytes + 2)).map fun i => x.1 / frameBytes + i).eraseDups
  pages.filter fun p => covers ivs (ivs.length + 1) (p * frameBytes) ((p + 1) * frameBytes)

/-- Write chunks one after the other, up to the first trouble. -/
def State.writeAll (s : State) (g : Nat) (m : List TlbEntry) (d : DescCap) (whole : List Nat) (cs : List (Nat × List Byte)) :
    State × Trouble :=
  cs.foldl (fun (acc : State × Trouble) c =>
    match acc.2 with
    | .none => acc.1.writeAt g m d whole c.1 c.2
    | _ => acc) (s, .none)

/-- Write the chunks of one instruction. -/
def State.writeChunks (s : State) (g : Nat) (m : List TlbEntry) (d : DescCap) (cs : List (Nat × List Byte)) :
    State × Trouble :=
  let whole := if d.space = 1 then wholePages (cs.map fun c => (c.1, c.2.length)) else []
  s.writeAll g m d whole cs

/-- Where row r of an operand goes. -/
def rowChunks (o : Opnd) (r : Nat) (e c : List Byte) : List (Nat × List Byte) :=
  (o.1.ebase + r * o.1.stride, e) :: (if fScaled o.2 then [(o.1.sbase + r * scaleBytes o.2 o.1.len, c)] else [])

/-- The pages that the rows of an operand in device memory cover whole. -/
def wholeOf (o : Opnd) : List Nat :=
  if o.1.space = 1 then
    wholePages ((List.range o.1.rows).flatMap fun r =>
      (o.1.ebase + r * o.1.stride, rowBytes (fCode o.2) o.1.len) ::
        (if fScaled o.2 then [(o.1.sbase + r * scaleBytes o.2 o.1.len, scaleBytes o.2 o.1.len)] else []))
  else []

/-- Where the rows of an operand go. -/
def chunksOf (o : Opnd) (es ss : List (List Byte)) : List (Nat × List Byte) :=
  (es.zipIdx.map fun x => (o.1.ebase + x.2 * o.1.stride, x.1)) ++
    (ss.zipIdx.map fun x => (o.1.sbase + x.2 * scaleBytes o.2 o.1.len, x.1))

def State.onBad (s : State) (g cls : Nat) (b : Bad) : State :=
  match b with
  | .mem t => s.onTrouble g cls t
  | .sram k => ((s.sramUe k).poisoned cls g).modHum g Hummock.stop

/-! ### Translation of an instruction's spans (09 R222, R505) -/

inductive XRes where
  | ok
  | fault (va : Nat)
  | poison (dpa : Nat)
  deriving DecidableEq, Repr

def State.xlateOpnds (s : State) (g c : Nat) (rs ws : List Opnd) : State × List TlbEntry × XRes :=
  let all := (rs.filter fun o => o.1.space == 1).flatMap (fun o => (spansOf o).map fun x => (x, false)) ++
    (ws.filter fun o => o.1.space == 1).flatMap (fun o => (spansOf o).map fun x => (x, true))
  all.foldl (fun (acc : State × List TlbEntry × XRes) x =>
    match acc.2.2 with
    | .ok =>
      match acc.1.xlateVia (some (secOf g)) c x.1.1 x.1.2 x.2 with
      | (s1, m, .ok _) => (s1, acc.2.1 ++ m, .ok)
      | (s1, m, .fault) => (s1, acc.2.1, .fault (faultVa m c x.1.1 x.1.2))
      | (s1, _, .poison d) => (s1, acc.2.1, .poison d)
    | _ => acc) (s, [], .ok)

/-! ### Counting arithmetic: roundings with what they count (02 R35, R38) -/

abbrev NM := StateM Cnt

def tick (c : Cnt) : NM Unit := modify fun x => x.add c

/-- One RNE rounding into a working format; `over` becomes ±Inf. -/
def rnd (f : Format) (x : Val × Bool) : NM Val := do
  let r := f.round .rne x.1
  tick { flush := bcnt r.2.flush, invalid := bcnt x.2 }
  return r.1

/-- A source element taken into a working format (08 R195). -/
def takeIn (f : Format) (x : Val × Bool) : NM Val := do
  tick { flush := bcnt x.2 }
  rnd f (x.1, false)

def fadd (f : Format) (a b : Val) : NM Val := rnd f (a.add b)
def fsub (f : Format) (a b : Val) : NM Val := rnd f (a.sub b)
def fmul (f : Format) (a b : Val) : NM Val := rnd f (a.mul b)
def fdiv (f : Format) (a b : Val) : NM Val := rnd f (a.div b)

/-- a × b + c with one rounding. -/
def ffma (f : Format) (a b c : Val) : NM Val :=
  let p := a.mul b
  let r := p.1.add c
  rnd f (r.1, !(a.isNan || b.isNan || c.isNan) && (p.2 || r.2))

/-! ### Elements in rows (02 R44) -/

def elemBits (c : BitVec 4) (eb : List Byte) (i : Nat) : Nat :=
  if c = 0 then field eb (i / 2) 1 / 16 ^ (i % 2) % 16
  else if c = 1 ∨ c = 2 then field eb (3 * (i / 4)) 3 / 64 ^ (i % 4) % 64
  else field eb (rowBytes c i) (rowBytes c 1)

/-- The values of the first n elements of a row, each with whether it was flushed on input. In V40 mode too an FP8 element is
read without its per-tensor scale, which only a pass applies: a choice of the model, the rules are silent (05 R139, log 113). -/
def rowVals (f : BitVec 12) (eb sb : List Byte) (n : Nat) : List (Val × Bool) :=
  (List.range n).map fun i =>
    let b := elemBits (fCode f) eb i
    if fScaled f then (readScaled (fCode f) ((sb[i / fBsz f]?).getD 0) b, false) else decodeCode (fCode f) b

/-- A row of codes as bytes; bits beyond the last element are zero. -/
def packRow (c : BitVec 4) (codes : List Nat) : List Byte :=
  let at_ (i : Nat) : Nat := (codes[i]?).getD 0
  let n := codes.length
  if c = 0 then (List.range ((n + 1) / 2)).map fun k => BitVec.ofNat 8 (at_ (2 * k) + 16 * at_ (2 * k + 1))
  else if c = 1 ∨ c = 2 then
    (List.range ((n + 3) / 4)).flatMap fun k =>
      leBytes 3 (at_ (4 * k) + 64 * at_ (4 * k + 1) + 4096 * at_ (4 * k + 2) + 262144 * at_ (4 * k + 3))
  else codes.flatMap fun x => leBytes (rowBytes c 1) x

/-- A converted row: element codes, scale codes, what the conversion counts, and the bin of each element. -/
structure Conv where
  codes : List Nat
  scales : List Byte
  cnt : Cnt
  bins : List Nat
  deriving DecidableEq, Repr

def magZero (c : BitVec 4) (code : Nat) : Bool :=
  match formatOf c with
  | some f => code % 2 ^ (f.width - 1) == 0
  | none => code == 0

/-- One block of a scaled row (02 R47, R48, R35). -/
def convBlock (f : BitVec 12) (rm : Nat → Rm) (vs : List Val) : Conv :=
  let c := fCode f
  let x := chooseScale c vs
  if x = 0xFF then
    { codes := vs.map fun _ => 0, scales := [x], bins := vs.map fun v => binOf v true true
      cnt := { invalid := if c = 4 then 0 else vs.countP Val.isInf } }
  else
    let es := vs.zipIdx.map fun p => (p.1, scaledElem c x (rm p.2) p.1)
    { codes := es.map fun e => e.2.1, scales := [x], bins := es.map fun e => binOf e.1 (magZero c e.2.1) false
      cnt := es.foldl (fun acc e => acc.add e.2.2.cnt) {} }

/-- Convert a row by blocks; `fuel` is at least the number of blocks. -/
def convBlocks (f : BitVec 12) (rm : Nat → Rm) : Nat → Nat → List Val → Conv
  | 0, _, _ => ⟨[], [], {}, []⟩
  | fuel + 1, i, vs =>
    match vs with
    | [] => ⟨[], [], {}, []⟩
    | _ =>
      let a := convBlock f (fun k => rm (i + k)) (vs.take (fBsz f))
      let b := convBlocks f rm fuel (i + fBsz f) (vs.drop (fBsz f))
      ⟨a.codes ++ b.codes, a.scales ++ b.scales, a.cnt.add b.cnt, a.bins ++ b.bins⟩

/-- One element of an unscaled target; in V40 mode an FP8 target first takes its per-tensor scale (05 R143). -/
def convElem (f : BitVec 12) (so : Option Val) (rm : Rm) (v : Val) : Nat × Cnt :=
  let (w, c0) : Val × Cnt := match so with
    | some k => (fmul f32 v k).run {}
    | none => (v, {})
  let (code, ev) := match formatOf (fCode f) with
    | some t => t.convert (fSat f) rm w
    | none => convertInt8 rm w
  (code, c0.add ev.cnt)

/-- Convert a row of values under a result FMT (02 R52). -/
def convRow (f : BitVec 12) (so : Option Val) (rm : Nat → Rm) (vs : List Val) : Conv :=
  if fScaled f then convBlocks f rm vs.length 0 vs
  else
    let es := vs.zipIdx.map fun p => (p.1, convElem f so (rm p.2) p.1)
    { codes := es.map fun e => e.2.1, scales := [], bins := es.map fun e => binOf e.1 (magZero (fCode f) e.2.1) false
      cnt := es.foldl (fun acc e => acc.add e.2.2) {} }

/-- Rounding of element i of row r of a result (02 R39, R40; 05 R133). -/
def DescCap.rm (d : DescCap) (f : BitVec 12) (seed : BitVec 64) (r i : Nat) : Rm :=
  if fRm f = 1 then .rz
  else if fRm f = 2 then
    .sr (sr16 seed (BitVec.ofNat 32 d.tag) (BitVec.ofNat 64 (d.orgRow + r)) (BitVec.ofNat 64 (d.orgCol + i))
      (BitVec.ofNat 64 d.ord))
  else .rne

/-- What the holder's program runs under (05 R120, R121). -/
structure RunEnv where
  mode : BitVec 2
  seed : BitVec 64
  nhum : Nat
  deriving DecidableEq, Repr

def State.env (s : State) (g : Nat) : RunEnv :=
  match (s.hum g).holder with
  | some x => ⟨x.mode, x.seed, x.nhum⟩
  | none => ⟨0, 0, 0⟩

def RunEnv.v40 (e : RunEnv) : Bool := e.mode == 2

/-- Convert row r of a tensor write to descriptor o, and write it; elements and events are counted under its tag (06 R144 to
R146). `cnt` is what the operation itself has counted for it. -/
def State.writeRow (s : State) (g : Nat) (m : List TlbEntry) (whole : List Nat) (o : Opnd) (r : Nat) (vs : List Val) (cnt : Cnt) :
    State × Trouble :=
  let e := s.env g
  let so := if e.v40 && isFp8 o.2 then some (val32 (v40So o.1.raw o.2)) else none
  let c := convRow o.2 so (o.1.rm o.2 e.seed r) vs
  let (s1, t) := s.writeAll g m o.1 whole (rowChunks o r (packRow (fCode o.2) c.codes) c.scales)
  ((s1.countElems o.1.tag c.bins).charge o.1.tag (cnt.add c.cnt), t)

/-- Convert the rows of a tensor write to descriptor o, and write them; elements and events are counted under its tag
(06 R144 to R146). `cnt` is what the operation itself has counted. -/
def State.writeTensor (s : State) (g : Nat) (m : List TlbEntry) (o : Opnd) (rows : List (List Val)) (cnt : Cnt) :
    State × Trouble :=
  let e := s.env g
  let so := if e.v40 && isFp8 o.2 then some (val32 (v40So o.1.raw o.2)) else none
  let cs := rows.zipIdx.map fun x => convRow o.2 so (o.1.rm o.2 e.seed x.2) x.1
  let (s1, t) := s.writeChunks g m o.1
    (chunksOf o (cs.map fun c => packRow (fCode o.2) c.codes) (if fScaled o.2 then cs.map fun c => c.scales else []))
  ((s1.countElems o.1.tag (cs.flatMap fun c => c.bins)).charge o.1.tag (cs.foldl (fun acc c => acc.add c.cnt) cnt), t)

end Sys2Proof.Machine
end

