-- ==== Sys2Proof/Machine/Sump.lean ====
section
/-!
DEFINITION. Sys2Proof/Machine/Sump.lean: Sump tiles and Peat slots (04 R85 to R110): banks and commit, the Sump addition,
overflow and rebuild, spills, SCFG, SSPILL and SCLR, and the queues of tiles and slots (R108, R109).
-/

namespace Sys2Proof.Machine

/-! ### Banks (R87 to R89) -/

def SumpTile.setWork (t : SumpTile) (r c : Nat) (v : BitVec 32) : SumpTile :=
  if t.sel.getLsbD r then { t with bank0 := sset 0 t.bank0 (256 * r + c) v }
  else { t with bank1 := sset 0 t.bank1 (256 * r + c) v }

/-- An operation begins its working bank: from +0 under CLR, and at offset 0 where it begins a new accumulation (`anew`: an
LPASS with CLR = 1 or a STREAM group) or chases a spill (R87, R89, R104). Events that no station has read out of a tile begun from
+0 have no tensor to be charged to (log 110). -/
def SumpTile.begin (t : SumpTile) (clr anew : Bool) : SumpTile :=
  if t.begun then t
  else
    { t with
      begun := true, fresh := clr, written := 0, ovf := [], rpl := 0, evs := if clr then {} else t.evs
      woff := if anew || t.spilling then 0 else t.off }

/-- Put a row's entries over the same row of a bank. -/
def putRow (bank src : Store (BitVec 32)) (r : Nat) : Store (BitVec 32) :=
  src.foldl (fun m p => sset 0 m p.1 p.2) (sclear bank (256 * r) (256 * r + 256))

/-- Put a row in the working bank. -/
def SumpTile.putWork (t : SumpTile) (row : Store (BitVec 32)) (r : Nat) : SumpTile :=
  let t1 := { t with written := t.written ||| 1#256 <<< r }
  if t.sel.getLsbD r then { t1 with bank0 := putRow t.bank0 row r } else { t1 with bank1 := putRow t.bank1 row r }

/-- The first addition to a row takes the whole row into the working bank, from the committed bank or from +0 (R87). A row that
stands at another offset than the working one is scaled to it, each element with one rounding, which may overflow (log 105). -/
def SumpTile.openRow (t : SumpTile) (r : Nat) : SumpTile × Cnt :=
  if t.written.getLsbD r then (t, {})
  else
    let src := if t.sel.getLsbD r then t.bank1 else t.bank0
    let row := if t.fresh then [] else srange src (256 * r) (256 * r + 256)
    if t.fresh || t.rowOff r == t.woff then (t.putWork row r, {})
    else
      let ys := row.map fun p => (p.1, f32.roundVal .rne ((val32 p.2).scale (t.woff.toInt - (t.rowOff r).toInt)))
      let t1 := t.putWork (ys.map fun p => (p.1, if p.2.2.beyond then 0 else enc32 p.2.1)) r
      let os := ys.filter fun p => p.2.2.beyond
      ({ t1 with ovf := os.foldl (fun m p => sset 0 m p.1 (if p.2.1.sign then 2 else 1)) t1.ovf },
       { flush := ys.countP fun p => p.2.2.flush })

/-- A leaf result on its way to the Sump: its value, what it has counted, and the sign of an overflow found on the way
(R66, R96). -/
structure Leaf where
  v : Val
  cnt : Cnt
  ovf : Option Bool
  deriving DecidableEq, Repr

def SumpTile.mark (t : SumpTile) (r c : Nat) (neg : Bool) : SumpTile :=
  { t with ovf := sset 0 t.ovf (256 * r + c) (if neg then 2 else 1) }

/-- The Sump addition (R92 to R96). The working value of an overflowed element is undefined until the operation ends, so
later additions to it change nothing. -/
def SumpTile.add (t0 : SumpTile) (rm : Rm) (r c : Nat) (x : Leaf) : SumpTile × Cnt :=
  let (t, k0) := t0.openRow r
  let xk := k0.add x.cnt
  if sget 0 t.ovf (256 * r + c) != 0 then (t, xk)
  else
    match x.ovf with
    | some neg => (t.mark r c neg, xk)
    | none =>
      let y := (val32 (t.work r c)).add x.v
      let z := f32.roundVal rm y.1
      let k := xk.add { flush := bcnt z.2.flush, invalid := bcnt y.2 }
      if z.2.beyond then (t.mark r c z.1.sign, k) else (t.setWork r c (enc32 z.1), k)

/-- The addition in V40 mode (05 R140): an overflow, of the addition or of the block that it adds, gives ±Inf at once; an element
that it makes ±Inf is counted (06 R146; log 145). -/
def SumpTile.addV40 (t0 : SumpTile) (r c : Nat) (v : Val) (k : Cnt) : SumpTile × Cnt :=
  let (t, k0) := t0.openRow r
  let old := val32 (t.work r c)
  let y := old.add v
  let z := f32.round .rne y.1
  let made := z.1.isInf && !old.isInf && (z.2.beyond || k.ovf != 0)
  (t.setWork r c (enc32 z.1),
   (k0.add { k with ovf := 0 }).add { flush := bcnt z.2.flush, invalid := bcnt y.2, ovf := bcnt made })

/-- R97: the offset may still be lowered. -/
def SumpTile.canLower (t : SumpTile) : Bool := t.ovf != [] && decide (-64 ≤ t.woff.toInt)

/-- R97, R98: every row of the working bank from the committed one, at the lowered offset. -/
def SumpTile.rebuild (t : SumpTile) (clr : Bool) : SumpTile × Cnt :=
  let low := t.canLower
  let nw : BitVec 8 := if low then t.woff - 64 else t.woff
  let src := if clr then [] else t.entries.map fun p =>
    (p.1, f32.round .rne ((val32 p.2).scale (nw.toInt - (t.rowOff (p.1 / 256)).toInt)))
  let put (m : Store (BitVec 32)) (b : Bool) : Store (BitVec 32) :=
    (src.filter fun p => t.sel.getLsbD (p.1 / 256) == b).foldl (fun acc p => sset 0 acc p.1 (enc32 p.2.1))
      (m.filter fun p => t.sel.getLsbD (p.1 / 256) != b)
  ({ t with
      bank0 := put t.bank0 true, bank1 := put t.bank1 false, written := BitVec.allOnes 256, woff := nw, ovf := []
      rpl := satInc t.rpl },
   { flush := src.countP fun p => p.2.2.flush, replay := bcnt low })

/-- The value that an element of the working bank holds is ±Inf or NaN: it keeps it (R94). -/
def SumpTile.special (t : SumpTile) (k : Nat) : Bool :=
  match val32 (t.work (k / 256) (k % 256)) with
  | .nan | .inf _ => true
  | _ => false

/-- A final overflow: the elements become ±Inf with the sign of the exact value (R99, R110), but for those that hold ±Inf or NaN
already (R94). -/
def SumpTile.finalInf (t : SumpTile) : SumpTile × Cnt :=
  let os := t.ovf.filter fun p => !t.special p.1
  let t1 := os.foldl (fun (a : SumpTile) p => a.setWork (p.1 / 256) (p.1 % 256) (enc32 (.inf (p.2 == 2)))) t
  ({ t1 with ovf := [] }, { ovf := os.length })

/-- Row offsets after the commit: the written rows stand at the working offset, the others at their own (R88). -/
def SumpTile.newOffs (t : SumpTile) : Store (BitVec 8) :=
  (List.range 256).foldl (fun m r => if t.written.getLsbD r then sset 0 m r t.woff else m) t.roff

/-- One row past the highest that the operation has written. -/
def SumpTile.topRow (t : SumpTile) : Nat := (List.range 256).foldl (fun a r => if t.written.getLsbD r then r + 1 else a) 0

/-- The commit step (R88, R93, R102): n operations, with so many leaf results for each element. Where the tile spills, the spill
has passed every row written (R104), and the operations are those that it does not carry away (log 106). -/
def SumpTile.commit (t : SumpTile) (n leaves : Nat) : SumpTile :=
  { t with
    sel := t.sel ^^^ t.written, written := 0, off := t.woff, roff := t.newOffs, cnt := satAdd t.cnt n
    lidx := t.lidx + BitVec.ofNat 32 leaves, ovf := [], begun := false, fresh := false, rpl := 0
    cut := t.cut.map fun c => { c with row := Nat.max c.row t.topRow, chased := c.chased + n } }

/-! ### Stations' operations -/

def opOpc : StOp → Nat
  | .lload .. => 0x40 | .lpass .. => 0x41 | .scfg .. => 0x48 | .sspill .. => 0x49 | .sclr .. => 0x4A
  | .wmove .. => 0x50 | .wconv .. => 0x51 | .wred .. => 0x52 | .rop .. => 0x60 | .csend .. => 0x70

/-- The station raises a program fault for an instruction (07 R174). -/
def State.opFault (s : State) (g : Nat) (i : Issued) (cause : Nat) : State :=
  s.programFault g cause (opOpc i.op) (opClass i.op) i.pc

def State.modOp (s : State) (g id : Nat) (f : Issued → Issued) : State :=
  s.modHum g fun h => { h with unret := h.unret.map fun i => if i.id == id then f i else i }

/-- The instruction has finished: what it held is released. -/
def State.finish (s : State) (g id : Nat) : State := s.modOp g id fun i => { i with phase := .done, held := 0 }

/-! ### Tags of Sump events (06 R146) -/

/-- Events in a tile: charged to the tag that a long sum names, and otherwise kept until a station reads the result
into a tensor. -/
def State.chargeTile (s : State) (g t : Nat) (c : Cnt) : State :=
  let x := (s.hum g).tile t
  if x.lsum && !(s.env g).v40 then s.chargeOvf x.tag.toNat c
  else
    let s1 := s.modHum g fun h => h.setTile t { h.tile t with evs := (h.tile t).evs.add c }
    if c.ovf = 0 then s1 else s1.numOvf

/-- The reader of a tile or slot takes the events kept there. -/
def State.takeTileEvs (s : State) (g t : Nat) : State × Cnt :=
  (s.modHum g fun h => h.setTile t { h.tile t with evs := {} }, ((s.hum g).tile t).evs)

def State.takeSlotEvs (s : State) (g p : Nat) : State × Cnt :=
  (s.modHum g fun h => { h with peatEvs := sset {} h.peatEvs p {} }, sget {} (s.hum g).peatEvs p)

/-! ### Error correction of tiles and slots (09 R225) -/

def State.eccTile (s : State) (g t r0 n cols : Nat) : State × Bool :=
  (List.range n).foldl (fun (acc : State × Bool) r =>
    let u := t * 8192 + (r0 + r) * 32
    let x := acc.1.eccSram g 2 u (u + (cols + 7) / 8) (s.ctxOf g)
    (x.1, acc.2 || x.2)) (s, false)

def State.eccSlot (s : State) (g p rows cols : Nat) : State × Bool :=
  (List.range rows).foldl (fun (acc : State × Bool) r =>
    let u := p * 16384 + r * 64
    let x := acc.1.eccSram g 3 u (u + (cols + 3) / 4) (s.ctxOf g)
    (x.1, acc.2 || x.2)) (s, false)

/-! ### Spills -/

/-- A spill of tile t into its slot starts (R103); its rows move at once, and SPILLING holds until SPILL_COMPLETE. The row
boundary at which a cut would find it is free (R106, log 107). Events that the tile has kept go with the spilled sums: to the tag
that a long sum names, else to the slot. -/
def State.startSpill (s : State) (g t : Nat) : State :=
  let p := ((s.hum g).tile t).pslot.toNat
  let (s1, b1) := s.eccTile g t 0 256 256
  let (s2, b2) := s1.eccSlot g p 256 256
  if b1 || b2 then s2.onBad g 0x04 (.sram g)
  else
    let x := (s2.hum g).tile t
    let (x1, slot, k) := x.spill ((s2.hum g).slot p)
    let named := x.lsum && !(s.env g).v40
    let (d, s2) := s2.draw
    let cut : SpillCut := ⟨Config.freeNat d % 257, x.entries, x.roff, (s2.hum g).slot p, x.off, x.cnt, 0⟩
    let s3 := s2.modHum g fun h =>
      { (h.setTile t { x1 with spilling := true, cut := some cut, evs := {} }).setSlot p slot with
        peatEvs := if named then h.peatEvs else sset {} h.peatEvs p (((sget {} h.peatEvs p).add x.evs).add k) }
    let s4 := (s3.eccSramWrite g 2 (t * 2 ^ 18) (2 ^ 18)).eccSramWrite g 3 (p * 2 ^ 19) (2 ^ 19)
    if named then s4.charge x.tag.toNat (x.evs.add k) else s4

/-- The count of a tile asks for a spill (R102); no tile spills in V40 mode (05 R138). -/
def State.spillDue (s : State) (g t : Nat) : Bool :=
  let x := (s.hum g).tile t
  x.bind && !x.spilling && !(s.env g).v40 && decide (x.sm1.toNat + 1 ≤ x.cnt.toNat)

/-- Row 255 of a spill is done (R103): OFF, CNT and SPILLING become 0, and an SSPILL on the tile has finished. What has committed
while it ran counts on, and may ask for the next spill (R102; log 106). The working offset of an operation that chases the spill
stands. -/
def State.spillDone (s : State) (g t : Nat) : State :=
  let h := s.hum g
  let x := h.tile t
  if !x.spilling then s
  else
    let n := (x.cut.map fun c => c.chased).getD 0
    let s1 := (h.unret.filter fun i => i.op == .sspill (BitVec.ofNat 4 t) && i.phase == .running).foldl
      (fun (acc : State) i => acc.finish g i.id)
      (s.setHum g (h.setTile t
        { x with off := 0, woff := if x.begun then x.woff else 0, cnt := satAdd (0 : BitVec 7) n, spilling := false, cut := none }))
    if 0 < n && !x.begun && s1.spillDue g t then s1.startSpill g t else s1

/-- A write replaces whole units of the rows that it has written in a tile (09 R225). -/
def State.eccRows (s : State) (g t : Nat) (rows : BitVec 256) : State :=
  let b := sramUnit g 2 (8192 * t)
  { s with mem := { s.mem with err := s.mem.err.filter fun p =>
      !(b ≤ p.1 && p.1 < b + 8192 && rows.getLsbD ((p.1 - b) / 32)) } }

/-- A tile commits, and spills when its count says so (R102). An operation that has written row 255 commits after the spill that it
chases (R104). -/
def State.commitTile (s0 : State) (g t n leaves : Nat) : State :=
  let s := if ((s0.hum g).tile t).written.getLsbD 255 then s0.spillDone g t else s0
  let x := ((s.hum g).tile t)
  let s1 := (s.eccRows g t x.written).modHum g fun h => h.setTile t (x.commit n leaves)
  if 0 < n && s1.spillDue g t then s1.startSpill g t else s1

/-! ### Queues of tiles and slots (R108, R109) -/

/-- Tiles per Lattice of a pass, and its masked Lattices in ascending rank (R71). -/
def passG (f : PassFields) : Nat := if f.out then f.ring.toNat + 1 else (f.mm1.toNat + 256) / 256
def passLats (f : PassFields) : List Nat := [0, 1, 2, 3].filter fun l => f.mask.getLsbD l

/-- Tiles of the Lattice at rank r. -/
def passTiles (f : PassFields) (r : Nat) : List Nat := (List.range (passG f)).map fun i => f.tile.toNat + r * passG f + i

/-- Bit of a tile, and of a slot, in what an instruction holds. -/
def tileBit (t : Nat) : BitVec 24 := 1#24 <<< t
def slotBit (p : Nat) : BitVec 24 := 1#24 <<< (16 + p)

/-- The binding of tile t after every SCFG already issued. -/
def Hummock.binding (h : Hummock) (t : Nat) : Option (BitVec 3) :=
  let x := h.tile t
  (h.unret.foldl (fun (acc : Bool × BitVec 3) i =>
    match i.op, i.phase with
    | .scfg f, .queued => if f.tile.toNat = t then (f.bind, if f.bind then f.pslot else acc.2) else acc
    | _, _ => acc) (x.bind, x.pslot)) |> fun b => if b.1 then some b.2 else none

/-- A tile with its slot. -/
def Hummock.tileRes (h : Hummock) (t : Nat) : BitVec 24 :=
  tileBit t ||| (match h.binding t with
    | some p => slotBit p.toNat
    | none => 0)

/-- A slot with the tile bound to it. -/
def Hummock.slotRes (h : Hummock) (p : Nat) : BitVec 24 :=
  (List.range 16).foldl (fun acc t => if h.binding t == some (BitVec.ofNat 3 p) then acc ||| tileBit t else acc) (slotBit p)

def srcRes (h : Hummock) (srck : BitVec 2) (tile : BitVec 4) : BitVec 24 :=
  if srck = 1 then h.tileRes tile.toNat else if srck = 2 then h.slotRes (tile.toNat % 8) else 0

/-- What an instruction acquires at issue. -/
def Hummock.acquires (h : Hummock) : StOp → BitVec 24
  | .lpass f =>
    ((List.range (passLats f).length).flatMap (passTiles f)).foldl (fun acc t => if t < 16 then acc ||| h.tileRes t else acc) 0
  | .scfg f => h.tileRes f.tile.toNat ||| (if f.bind then h.slotRes f.pslot.toNat else 0)
  | .sspill t | .sclr t _ => h.tileRes t.toNat
  | .wmove _ | .lload .. | .csend _ => 0
  | .wconv f => srcRes h f.srck f.tile
  | .wred f => srcRes h f.srck f.tile ||| (if f.dstk then h.tileRes f.dtile.toNat else 0)
  | .rop _ f => srcRes h f.srck f.tile

/-- SHR = 1 on a RESIDENT pass or an add transfer, with its CLR (R109). -/
def sharing : StOp → Option Bool
  | .lpass f => if f.shr && !f.out then some f.clr else none
  | .wred f => if f.shr && f.dstk then some f.clr else none
  | _ => none

/-- The second joins the shared set of the first, directly before it in a queue. Only Fast mode shares. -/
def joins (mode : BitVec 2) (a b : Issued) : Bool :=
  mode == 0 && (sharing a.op).isSome && sharing b.op == some false

def oneSet (mode : BitVec 2) : List Issued → Bool
  | a :: b :: rest => joins mode a b && oneSet mode (b :: rest)
  | _ => true

/-- The instructions that hold bit k, in issue order. -/
def Hummock.queueOf (h : Hummock) (k : Nat) : List Issued := h.unret.filter fun i => i.held.getLsbD k

/-- Instruction i has reached the head of each queue it stands in: what stands before it there is of its own shared set. -/
def Hummock.atHead (h : Hummock) (mode : BitVec 2) (i : Issued) : Bool :=
  (List.range 24).all fun k =>
    !i.held.getLsbD k || oneSet mode ((h.queueOf k).takeWhile (fun j => j.id != i.id) ++ [i])

/-- The operation adds to tile t and reads nothing of it, so it may chase a spill of it (R104, R108). -/
def StOp.chases (op : StOp) (t : Nat) : Bool :=
  match op with
  | .lpass _ => true
  | .wred f => f.dstk && f.dtile.toNat == t && !(f.srck == 1 && f.tile.toNat == t)
  | _ => false

/-- The operation reads slot p. -/
def StOp.readsSlot (op : StOp) (p : Nat) : Bool :=
  match op with
  | .wconv f | .wred f => f.srck == 2 && f.tile.toNat % 8 == p
  | .rop _ f => f.srck == 2 && f.tile.toNat % 8 == p
  | _ => false

/-- No tile that it holds spills, unless it chases the spill; no slot that it holds takes a spill, unless of such a tile; and no
STREAM group stands on its tiles (R104, R108, R165). -/
def Hummock.settledFor (h : Hummock) (i : Issued) : Bool :=
  (List.range 16).all (fun t =>
    !i.held.getLsbD t ||
      ((!(h.tile t).spilling || i.op.chases t) && !(h.groups.any fun q => q.tile.toNat == t && q.pass != i.id))) &&
  (List.range 8).all fun p => !i.held.getLsbD (16 + p) ||
    (List.range 16).all fun t => !((h.tile t).spilling && (h.tile t).pslot.toNat == p) ||
      (i.held.getLsbD t && i.op.chases t && !i.op.readsSlot p)

/-- The set at the head of tile t's queue. -/
def headSet (mode : BitVec 2) : List Issued → List Issued
  | [] => []
  | [a] => [a]
  | a :: b :: rest => if joins mode a b then a :: headSet mode (b :: rest) else [a]

/-- Drop bit t from an instruction; one that holds no tile any more has finished. -/
def Issued.drop (i : Issued) (t : Nat) : Issued :=
  let h := i.held &&& ~~~(tileBit t)
  if h.extractLsb' 0 16 = 0 then { i with held := 0, phase := .done } else { i with held := h }

/-- Events of a shared tile's overflow, and the set's commit once each of its instructions has ended (R109, R110). -/
def State.trySetCommit (s : State) (g t : Nat) : State :=
  let h := s.hum g
  let set := headSet (s.env g).mode (h.queueOf t)
  if set = [] ∨ !(set.all fun i => i.phase == .ended) then s
  else
    let (x, k) := (h.tile t).finalInf
    let s1 := (s.modHum g fun h => h.setTile t x).chargeTile g t k
    let s2 := s1.modHum g fun h =>
      { h with unret := h.unret.map fun i => if set.any fun j => j.id == i.id then i.drop t else i }
    s2.commitTile g t set.length set.length

/-- Leaf results that earlier instructions of the set take before instruction id (R93). -/
def State.leafBase (s : State) (g t id : Nat) : Nat :=
  let h := s.hum g
  (h.tile t).lidx.toNat + ((headSet (s.env g).mode (h.queueOf t)).takeWhile fun j => j.id != id).length

/-- Does the tile's operation start from +0? The first of its set decides. -/
def Hummock.startsClear (h : Hummock) (t : Nat) (own : Bool) : Bool :=
  match h.queueOf t with
  | a :: _ => (sharing a.op).getD own
  | [] => own

/-- Does it begin a new accumulation, as an LPASS with CLR = 1 does (R89)? -/
def Hummock.startsAnew (h : Hummock) (t : Nat) (own : Bool) : Bool :=
  match h.queueOf t with
  | a :: _ => (match a.op with
    | .lpass f => f.out || f.clr
    | _ => false)
  | [] => own

/-- Rounding of a Sump addition (R92, R93, 05 R133). -/
def SumpTile.rm (t : SumpTile) (seed : BitVec 64) (r c idx : Nat) : Rm :=
  if t.lsum then
    .sr (sr16 seed (t.tag.setWidth 32 + 0x80000000#32) (BitVec.ofNat 64 (t.orgRow.toNat + r))
      (BitVec.ofNat 64 (t.orgCol.toNat + c)) (BitVec.ofNat 64 idx))
  else .rne

/-! ### SCFG, SSPILL, SCLR (R107) -/

def State.startScfg (s : State) (g : Nat) (i : Issued) (f : ScfgFields) : State :=
  let t := f.tile.toNat
  let h := s.hum g
  if f.bind && (List.range 16).any fun u => u != t && (h.tile u).bind && (h.tile u).pslot == f.pslot then s.opFault g i 2
  else
    let x := h.tile t
    let x1 := { x with bind := f.bind, pslot := if f.bind then f.pslot else x.pslot, sm1 := f.sm1, lsum := f.lsum }
    let x2 := if f.lsum then
        { x1 with
          tag := i.va.extractLsb' 0 31, lidx := i.va.extractLsb' 32 32, orgRow := i.vb.extractLsb' 0 32
          orgCol := i.vb.extractLsb' 32 32 }
      else x1
    let s1 := s.modHum g fun h => h.setTile t x2
    let s2 := if f.bind && f.pclr then
        s1.modHum g fun h => { h.setSlot f.pslot.toNat [] with peatEvs := sset {} h.peatEvs f.pslot.toNat {} }
      else s1
    s2.finish g i.id

def State.startSspill (s : State) (g : Nat) (i : Issued) (t : Nat) : State :=
  if !((s.hum g).tile t).bind then s.opFault g i 2
  else if (s.env g).v40 then s.finish g i.id
  else (s.modOp g i.id fun j => { j with phase := .running, held := 0 }).startSpill g t

def State.startSclr (s : State) (g : Nat) (i : Issued) (t : Nat) (cpeat : Bool) : State :=
  let x := (s.hum g).tile t
  if cpeat && !x.bind then s.opFault g i 2
  else
    let s1 := s.modHum g fun h =>
      h.setTile t { x with bank0 := [], bank1 := [], off := 0, roff := [], woff := 0, cnt := 0, evs := {} }
    let s2 := if cpeat then
        s1.modHum g fun h => { h.setSlot x.pslot.toNat [] with peatEvs := sset {} h.peatEvs x.pslot.toNat {} }
      else s1
    s2.finish g i.id

/-! ### Reading a tile, a slot or a group (R86, 07 R508) -/

/-- Rows 0 to R - 1 and columns 0 to L - 1 of a tile. -/
def State.readTile (s : State) (g t rows cols : Nat) : State × List (List (Val × Bool)) × Option Bad :=
  let (s1, bad) := s.eccTile g t 0 rows cols
  let x := (s1.hum g).tile t
  (s1, (List.range rows).map fun r => (List.range cols).map fun c => (x.value r c, false),
    if bad then some (.sram g) else none)

def State.readSlot (s : State) (g p rows cols : Nat) : State × List (List (Val × Bool)) × Option Bad :=
  let (s1, bad) := s.eccSlot g p rows cols
  let x := (s1.hum g).slot p
  (s1, (List.range rows).map fun r => (List.range cols).map fun c => (val64 (sget 0 x (256 * r + c)), false),
    if bad then some (.sram g) else none)

end Sys2Proof.Machine
end

