-- ==== Sys2Proof/Machine/Lattice.lean ====
section
/-!
DEFINITION. Sys2Proof/Machine/Lattice.lean: the Lattices and the Chord (03 R58 to R81): cell modes, column arithmetic (R64 to
R66, R95; 05 R126, R140), loads, passes, the decision of R97 and the replay of R76, and STREAM groups (R71).
-/

namespace Sys2Proof.Machine

/-! ### Cell modes (R59, 05 R138) -/

inductive CellMode where
  | fp4 | fp8s | fp8 | int8 | half
  deriving DecidableEq, Repr

/-- The cell mode of a weight and an activation FMT. -/
def cellMode (v40 : Bool) (w a : BitVec 12) : Option CellMode :=
  let cw := (fCode w).toNat
  let ca := (fCode a).toNat
  if v40 && (fScaled w || fScaled a || cw < 3 || ca < 3 || cw == 9 || ca == 9) then none
  else if fScaled w && fScaled a then
    if fBsz w = fBsz a ∧ cw < 5 ∧ ca < 5 then some (if cw = 0 ∧ ca = 0 then .fp4 else .fp8s) else none
  else if fScaled w || fScaled a then none
  else if (cw = 3 ∨ cw = 4) ∧ (ca = 3 ∨ ca = 4) then some .fp8
  else if cw = 9 ∧ ca = 9 then some .int8
  else if (cw = 5 ∧ ca = 5) ∨ (cw = 6 ∧ ca = 6) then some .half
  else none

def kMax : CellMode → Nat
  | .fp4 => 512
  | .half => 128
  | _ => 256

def nMax : CellMode → Nat
  | .half => 128
  | _ => 256

/-- The largest K and N that a weight format may be loaded with (R81); none for a format of no cell mode. -/
def loadLimit (w : BitVec 12) : Option (Nat × Nat) :=
  let c := (fCode w).toNat
  if c = 0 then some (512, 256) else if c = 5 ∨ c = 6 then some (128, 128)
  else if c < 5 ∨ c = 9 then some (256, 256) else none

/-! ### Column arithmetic (R64 to R66, R95) -/

def Leaf.zero : Leaf := ⟨.zero false, {}, none⟩

/-- One more term of a running binary32 sum. -/
def Leaf.step (a : Leaf) (first : Bool) (x : Val) (k : Cnt) : Leaf :=
  match a.ovf with
  | some _ => a
  | none =>
    let r := f32.roundVal .rne (if first then x else (a.v.add x).1)
    ⟨r.1, (a.cnt.add k).add { flush := bcnt r.2.flush }, if r.2.beyond then some r.1.sign else none⟩

/-- The exact sum of products; -0 only where every product is -0 (02 R55). -/
def dot (x w : List Val) : Val :=
  match List.zipWith (fun a b => (Val.mul a b).1) x w with
  | [] => .zero false
  | p :: ps => ps.foldl (fun a b => (a.add b).1) p

/-- The special values of a column (R65). -/
def colSpecial (x w : List Val) (nanBlock : Bool) : Option Leaf :=
  if nanBlock || x.any Val.isNan || w.any Val.isNan then some ⟨.nan, {}, none⟩
  else
    let ps := List.zipWith Val.mul x w
    let inf (n : Bool) : Bool := ps.any fun p => p.1.isInf && p.1.sign == n
    if ps.any (fun p => p.2) || (inf true && inf false) then some ⟨.nan, { invalid := 1 }, none⟩
    else if inf true then some ⟨.inf true, {}, none⟩
    else if inf false then some ⟨.inf false, {}, none⟩ else none

/-- One block segment with block-scale sum e (R95). -/
def Leaf.segment (a : Leaf) (first : Bool) (s : Val) (e : Int) : Leaf :=
  match a.ovf with
  | some _ => a
  | none =>
    if s.isZero then a.step first s {}
    else if 254 < e then { a with ovf := some s.sign }
    else if e < -254 then a.step first (.zero s.sign) { flush := 1 }
    else
      let r := f32.roundVal .rne (s.scale e)
      if r.2.beyond then { a with ovf := some r.1.sign } else a.step first r.1 { flush := bcnt r.2.flush }

/-- The scaled column, by blocks in ascending order; `fuel` is at least their number. -/
def colBlocks (b : Nat) (off : Int) : Nat → Bool → Leaf → List Val → List Val → List Nat → List Nat → Leaf
  | 0, _, a, _, _, _, _ => a
  | fuel + 1, first, a, x, w, xa, xw =>
    match x with
    | [] => a
    | _ =>
      let e : Int := ((xa.head?.getD 127 : Nat) : Int) + ((xw.head?.getD 127 : Nat) : Int) - 254 + off
      colBlocks b off fuel false (a.segment first (dot (x.take b) (w.take b)) e) (x.drop b) (w.drop b) xa.tail xw.tail

/-- A 16-bit product times 2^off as it enters the sum (R66): below the normal range a signed zero, counted. -/
def halfTerm (off : Int) (a : Leaf) (first : Bool) (x w : Val) : Leaf :=
  match a.ovf with
  | some _ => a
  | none =>
    let r := f32.roundVal .rne ((x.mul w).1.scale off)
    if r.2.beyond then { a with ovf := some r.1.sign } else a.step first r.1 { flush := bcnt r.2.flush }

/-- One column result (R64). -/
def column (cm : CellMode) (b : Nat) (off : Int) (x w : List Val) (xa xw : List Nat) : Leaf :=
  match colSpecial x w (xa.contains 0xFF || xw.contains 0xFF) with
  | some l => l
  | none =>
    match cm with
    | .fp4 | .fp8s => colBlocks b off x.length true Leaf.zero x w xa xw
    | .fp8 => Leaf.zero.step true ((dot x w).scale off) {}
    | .int8 =>   -- an integer sum has no signed zero
      let z := dot x w
      Leaf.zero.step true (if z.isZero then .zero false else z.scale off) {}
    | .half =>
      ((List.zip x w).foldl (fun (acc : Bool × Leaf) p => (false, halfTerm off acc.2 acc.1 p.1 p.2)) (true, Leaf.zero)).2

/-! ### V40 columns (05 R140) -/

def rndV40 (x : Val × Bool) : NM Val := do
  let r := f32.round .rne x.1
  tick { flush := bcnt r.2.flush, invalid := bcnt x.2, ovf := bcnt r.2.beyond }
  return r.1

/-- One block of up to 64 terms, times sigma. -/
def v40Block (sigma : Val) (ps : List (Val × Bool)) : NM Val :=
  match ps with
  | [] => pure (.zero false)
  | p :: rest => do
    let b0 ← rndV40 p
    let b ← rest.foldlM (fun (b : Val) q => do
      let y ← rndV40 q
      rndV40 (b.add y)) b0
    rndV40 (b.mul sigma)

/-- The additions of one element in V40 mode, in block order; `fuel` is at least their number. -/
def v40Blocks (sigma : Val) : Nat → List (Val × Bool) → List (Val × Cnt)
  | 0, _ => []
  | fuel + 1, ps =>
    match ps with
    | [] => []
    | _ =>
      let r := (v40Block sigma (ps.take 64)).run {}
      (r.1, { r.2 with ovf := Nat.min 1 r.2.ovf }) :: v40Blocks sigma fuel (ps.drop 64)

/-! ### Weights and activations -/

def Lattice.k (l : Lattice) : Nat := l.km1.toNat + 1
def Lattice.n (l : Lattice) : Nat := l.nm1.toNat + 1

/-- The weight values of column c, no scale applied. -/
def Lattice.col (l : Lattice) (c : Nat) : List Val :=
  (List.range l.k).map fun k => (decodeCode (fCode l.fmt) (sget 0 l.w (256 * k + c)).toNat).1

/-- The scale codes of column c. -/
def Lattice.colScales (l : Lattice) (c : Nat) : List Nat :=
  if fScaled l.fmt then (List.range (ceilDiv l.k (fBsz l.fmt))).map fun j => (sget 0 l.sc (256 * j + c)).toNat else []

/-- One activation row: its first k elements, and their scale codes; beyond the descriptor's L it is +0 and no scale is read
(R507). -/
structure ActRow where
  vals : List Val
  scales : List Nat
  deriving DecidableEq, Repr

def actRow (f : BitVec 12) (len k : Nat) (eb sb : List Byte) : ActRow :=
  { vals := (List.range k).map fun i => if i < len then (decodeCode (fCode f) (elemBits (fCode f) eb i)).1 else .zero false
    scales := if fScaled f then
        (List.range (ceilDiv k (fBsz f))).map fun j => if j * fBsz f < len then ((sb[j]?).getD 0).toNat else 127
      else [] }

/-- The leaf results of one column for one activation row (R64, 05 R126): two for an Ordered FP4 pass over two blocks. -/
def leaves (mode : BitVec 2) (cm : CellMode) (b : Nat) (off : Int) (k : Nat) (x : ActRow) (w : List Val) (xw : List Nat) :
    List Leaf :=
  let xs := x.vals.take k
  let xa := x.scales.take (ceilDiv k b)
  if mode = 1 ∧ cm = .fp4 ∧ 256 < k then
    let h := 256 / b
    [column cm b off (xs.take 256) (w.take 256) (xa.take h) (xw.take h),
     column cm b off (xs.drop 256) (w.drop 256) (xa.drop h) (xw.drop h)]
  else [column cm b off xs w xa xw]

def leafCount (mode : BitVec 2) (cm : CellMode) (k : Nat) : Nat := if mode = 1 ∧ cm = .fp4 ∧ 256 < k then 2 else 1

/-! ### The additions of one pass to one tile -/

/-- What a pass brings to a Lattice. -/
structure PassRun where
  env : RunEnv
  cm : CellMode
  afmt : BitVec 12
  sa : BitVec 32
  deriving DecidableEq, Repr

/-- σ of R139, and whether it was flushed. -/
def PassRun.sigmaEv (p : PassRun) (l : Lattice) : Val × Ev := f32.round .rne ((val32 p.sa).mul (val32 l.sw)).1

def PassRun.sigma (p : PassRun) (l : Lattice) : Val := (p.sigmaEv l).1

/-- What forming σ counts (02 R38): once for a pass on a Lattice (log 108). -/
def PassRun.sigmaCnt (p : PassRun) (l : Lattice) : Cnt :=
  if p.env.v40 then { flush := bcnt (p.sigmaEv l).2.flush } else {}

/-- One element (r, c): every leaf result added in order. -/
def addElem (p : PassRun) (l : Lattice) (base : Nat) (t : SumpTile) (r c : Nat) (x : ActRow) : SumpTile × Cnt :=
  if p.env.v40 then
    let ps := List.zipWith Val.mul (x.vals.take l.k) (l.col c)
    (v40Blocks (p.sigma l) ps.length ps).foldl (fun (a : SumpTile × Cnt) b =>
      let y := a.1.addV40 r c b.1 b.2
      (y.1, a.2.add y.2)) (t, {})
  else
    (leaves p.env.mode p.cm (fBsz p.afmt) t.woff.toInt l.k x (l.col c) (l.colScales c)).zipIdx.foldl
      (fun (a : SumpTile × Cnt) b =>
        let y := a.1.add (t.rm p.env.seed r c (base + b.2)) r c b.1
        (y.1, a.2.add y.2)) (t, {})

/-- Rows of activations added to a tile, rows of the tile from r0 on; a 16-bit pass writes columns 0 to 127 (R71). -/
def addRows (p : PassRun) (l : Lattice) (base r0 : Nat) (t : SumpTile) (rows : List ActRow) : SumpTile × Cnt :=
  rows.zipIdx.foldl (fun (a : SumpTile × Cnt) x =>
    (List.range (nMax p.cm)).foldl (fun (a : SumpTile × Cnt) c =>
      let y := addElem p l base a.1 (r0 + x.2) c x.1
      (y.1, a.2.add y.2)) a) (t, {})

/-! ### Reads of a load and of a pass (R162, R75) -/

/-- The weights that a pass has met at its start, also once it is squashed or ended; before it, those of the Lattice. -/
def Issued.metLat (i : Issued) (h : Hummock) (l : Nat) : Lattice := if i.wts = [] then h.lat l else sget Lattice.reset i.wts l

def latReads (h : Hummock) (i : Issued) : List Region :=
  match i.op with
  | .lload _ f _ _ => regionsOf (i.da, f)
  | .lpass f =>
    regionsOf (i.da, f.afmt) ++ (passLats f).flatMap fun l =>
      match (i.metLat h l).src with
      | some (d, wf) => regionsOf (d, wf)
      | none => []
  | _ => []

/-! ### Loads (R69, R73, R74, R79) -/

def isLoadOf (lat : Nat) (i : Issued) : Bool :=
  match i.op with
  | .lload l _ _ _ => l.toNat == lat
  | _ => false

def isPassOn (lat : Nat) (i : Issued) : Bool :=
  match i.op with
  | .lpass f => f.mask.getLsbD lat
  | _ => false

/-- The instruction is not begun. -/
def Issued.waits (i : Issued) : Bool := i.phase == .queued

def earlier (h : Hummock) (i : Issued) : List Issued := h.unret.takeWhile fun j => j.id != i.id

/-- Is an LLOAD legal (R81, R159, R507; 05 R138, R139)? -/
def State.lloadOk (s : State) (g : Nat) (d : DescCap) (f : BitVec 12) (k n : Nat) : Bool :=
  let e := s.env g
  (match loadLimit f with
    | some (a, b) => k ≤ a && n ≤ b
    | none => false) &&
  srcFmtOk f && (!e.v40 || v40FmtOk d.raw f) && latDescOk d && s.descOk e.nhum false (d, f) && n ≤ d.rows

/-- Weights of a Lattice from the rows read (R68). -/
def loadWeights (d : DescCap) (f : BitVec 12) (k n : Nat) (es ss : List (List Byte)) :
    Store (BitVec 16) × Store (BitVec 8) :=
  let w := (List.range n).foldl (fun (m : Store (BitVec 16)) c =>
    (List.range (Nat.min k d.len)).foldl (fun (m : Store (BitVec 16)) i =>
      sset 0 m (256 * i + c) (BitVec.ofNat 16 (elemBits (fCode f) ((es[c]?).getD []) i))) m) []
  let sc := (List.range n).foldl (fun (m : Store (BitVec 8)) c =>
    if fScaled f then
      (List.range (ceilDiv (Nat.min k d.len) (fBsz f))).foldl (fun (m : Store (BitVec 8)) j =>
        sset 0 m (256 * j + c) ((((ss[c]?).getD [])[j]?).getD 0)) m
    else m) []
  (w, sc)

def State.startLoad (s : State) (g : Nat) (i : Issued) (lat : Nat) (f : BitVec 12) (km1 : BitVec 9) (nm1 : BitVec 8) :
    State :=
  let k := km1.toNat + 1
  let n := nm1.toNat + 1
  if !s.lloadOk g i.da f k n then s.opFault g i 2
  else if !mereOk (i.da, f) then s.opFault g i 3
  else
    let (s1, es, ss, bad) := s.readPlanes g [] (i.da, f) n k
    match bad with
    | some b => s1.onBad g 0x03 b
    | none =>
      let w := loadWeights i.da f k n es ss
      (s1.modHum g fun h => h.setLat lat { h.lat lat with
        stage := w.1, stageSc := w.2, fmt := f, km1 := km1, nm1 := nm1, sw := v40So i.da.raw f, loaded := false
        loading := some i.id, src := some (i.da, f), hold := some i.id }).modOp g i.id fun j => { j with phase := .running, since := (s.hum g).steps }

/-- LOADED: the cells have latched what was staged (R58, R69). -/
def Lattice.latched (l : Lattice) : Lattice := { l with w := l.stage, sc := l.stageSc, loaded := true, loading := none }

/-- A pass has committed and retires: the weight tile of each Lattice that it used is no longer held open (R75, log 112). -/
def Hummock.dropHolds (h : Hummock) (i : Issued) : Hummock :=
  match i.op with
  | .lpass f => (passLats f).foldl (fun (acc : Hummock) l =>
      if (acc.lat l).hold == (sget Lattice.reset i.wts l).hold then acc.setLat l { acc.lat l with hold := none } else acc) h
  | _ => h

/-- The Lattices without a weight tile held open. -/
def Hummock.freeTiles (h : Hummock) : Store Lattice := h.lats.map fun (p : Nat × Lattice) => (p.1, { p.2 with hold := none })

/-- The weight tiles that are held open (R75); none once END has issued, as no pass is to come (log 112). -/
def Hummock.heldTiles (h : Hummock) : List Region :=
  if h.seq.stall == some .ended then [] else
  (List.range 4).flatMap fun l =>
    match (h.lat l).hold, (h.lat l).src with
    | some _, some (d, f) => regionsOf (d, f)
    | _, _ => []

/-! ### Passes (R71, R72, R81) -/

def passMode (v40 : Bool) (f : PassFields) (w : Nat → Lattice) : Option CellMode :=
  match passLats f with
  | [] => none
  | l :: ls =>
    match cellMode v40 (w l).fmt f.afmt with
    | none => none
    | some m => if ls.all fun k => cellMode v40 (w k).fmt f.afmt == some m then some m else none

/-- Is an LPASS legal on the weights that it meets (R81)? -/
def State.lpassOk (s : State) (g : Nat) (d : DescCap) (f : PassFields) (w : Nat → Lattice) : Bool :=
  let e := s.env g
  (match passMode e.v40 f w with
    | some m => (passLats f).all fun l => decide ((w l).k ≤ kMax m ∧ (w l).n ≤ nMax m)
    | none => false) &&
  srcFmtOk f.afmt && (!e.v40 || v40FmtOk d.raw f.afmt) && (f.out || f.ring == 0) &&
  f.tile.toNat + (passLats f).length * passG f ≤ 16 && latDescOk d && s.descOk e.nhum false (d, f.afmt) &&
  f.mm1.toNat + 1 ≤ d.rows

/-- The weights that pass i runs on: those of its start. -/
def Issued.weights (i : Issued) (l : Nat) : Lattice := sget Lattice.reset i.wts l

def State.startPass (s : State) (g : Nat) (i : Issued) (f : PassFields) : State :=
  let h := s.hum g
  let w (l : Nat) : Lattice := i.metLat h l
  if !s.lpassOk g i.da f w then s.opFault g i 2
  else if !mereOk (i.da, f.afmt) then s.opFault g i 3
  else
    let wts := (passLats f).foldl (fun (m : Store Lattice) l => sins m l (w l)) []
    s.modOp g i.id fun j =>
      { j with phase := .running, wts := wts, mask := f.mask, tries := 0, groups := 0, since := h.steps }

/-- Activation rows [a, a + n) of a pass: elements 0 to k - 1 of each, as far as the descriptor's L goes (R507). -/
def State.readActs (s : State) (g : Nat) (i : Issued) (f : PassFields) (k a n : Nat) : State × List ActRow × Option Bad :=
  let d := i.da
  let m := Nat.min k d.len
  let (s1, es, b1) := s.readRows g [] d (d.ebase + a * d.stride) d.stride (rowBytes (fCode f.afmt) m) n
  let z := scaleBytes f.afmt d.len
  let (s2, ss, b2) := if z = 0 then (s1, [], none) else s1.readRows g [] d (d.sbase + a * z) z (scaleBytes f.afmt m) n
  (s2, es.zipIdx.map fun x => actRow f.afmt d.len k x.1 ((ss[x.2]?).getD []), b1.orElse fun _ => b2)

/-- The additions of one attempt to the tiles of one Lattice: tile, first row of the pass in it, rows. -/
def State.addTiles (s : State) (g : Nat) (i : Issued) (p : PassRun) (l : Nat) (clr shared : Bool)
    (ts : List (Nat × List ActRow)) : State :=
  ts.zipIdx.foldl (fun (acc : State) y =>
    let x := y.1
    let h := acc.hum g
    let t := (h.tile x.1).begin (if shared then h.startsClear x.1 clr else clr) (if shared then h.startsAnew x.1 clr else clr)
    let base := if shared then acc.leafBase g x.1 i.id else (h.tile x.1).lidx.toNat
    let (t1, k) := addRows p (i.weights l) base 0 t x.2
    let k0 := if y.2 = 0 ∧ i.groups = 0 then p.sigmaCnt (i.weights l) else {}
    (acc.modHum g fun h => h.setTile x.1 t1).chargeTile g x.1 (k0.add k)) s

/-- An addition reads the committed rows that it adds to, unless its bank starts from +0 (R87): an uncorrectable error is met there
(09 R225, R226). Tiles with the number of their rows. -/
def State.eccAdded (s : State) (g : Nat) (clr shared : Bool) (ts : List (Nat × Nat)) : State × Bool :=
  ts.foldl (fun (acc : State × Bool) x =>
    if (if shared then (acc.1.hum g).startsClear x.1 clr else clr) then acc
    else
      let (s1, b) := acc.1.eccTile g x.1 0 x.2 256
      (s1, acc.2 || b)) (s, false)

/-- The decision of R97 for the tiles of one Lattice: they commit, or they are rebuilt for a replay, by when any spill of them
has ended (R100); true where it replays. An error that the rebuild reads stops the station, of unit class cls. -/
def State.decideTiles (s : State) (g cls : Nat) (clr : Bool) (n leafs : Nat) (ts : List Nat) : State × Bool :=
  let h := s.hum g
  if ts.any fun t => (h.tile t).canLower then
    let s0 := ts.foldl (fun (acc : State) t => acc.spillDone g t) s
    let (s1, bad) := s0.eccAdded g clr false (ts.map fun t => (t, 256))
    if bad then (s1.onBad g cls (.sram g), false)
    else
      (ts.foldl (fun (acc : State) t =>
        let (x, k) := ((acc.hum g).tile t).rebuild clr
        (acc.modHum g fun h => h.setTile t x).chargeTile g t k) s1, true)
  else
    (ts.foldl (fun (acc : State) t =>
      let (x, k) := ((acc.hum g).tile t).finalInf
      ((acc.modHum g fun h => h.setTile t x).chargeTile g t k).commitTile g t n leafs) s, false)

/-- Release the tiles of a Lattice that has committed. -/
def State.dropTiles (s : State) (g id : Nat) (ts : List Nat) : State :=
  s.modOp g id fun i => { i with held := ts.foldl (fun (a : BitVec 24) t => a &&& ~~~(tileBit t)) i.held }

/-- Step 4 of R76: Lattice l reads the weights of a pass again, from the tile of its captured descriptor. -/
def State.reloadLat (s : State) (g id l : Nat) (x : Lattice) (put : Bool) : State × Option Bad :=
  match x.src with
  | none => (s, none)
  | some (d, f) =>
    let (s1, es, ss, bad) := s.readPlanes g [] (d, f) x.n x.k
    let w := loadWeights d f x.k x.n es ss
    let x1 := { x with w := w.1, sc := w.2 }
    ((s1.modHum g fun h => if put then h.setLat l x1 else h).modOp g id fun j => { j with wts := sset Lattice.reset j.wts l x1 },
     bad)

/-- Steps 2 to 4 of R76 on the Lattices of V: loads begun after the pass are abandoned, passes begun after it are squashed,
and the pass's weights are loaded again; a read error met in that stops the pass. A later load that has completed already is
taken as restarted and completed (log 73). -/
def State.squashAfter (s : State) (g id : Nat) (v : BitVec 4) (w : Nat → Lattice) : State :=
  let h := s.hum g
  let later := (h.unret.dropWhile fun i => i.id != id).drop 1
  let hit (i : Issued) : Bool := later.any (fun j => j.id == i.id) && i.phase == .running &&
    (match i.op with
      | .lload l _ _ _ => v.getLsbD l.toNat
      | .lpass f => (f.mask &&& v) != 0
      | _ => false)
  let lost (l : Nat) : Bool := h.unret.any (fun i => hit i && isLoadOf l i) || (h.lat l).hold == (w l).hold
  let s1 := s.setHum g { h with unret := h.unret.map fun i => if hit i then { i with phase := .queued } else i }
  let (s2, bad) := ([0, 1, 2, 3].filter fun l => v.getLsbD l).foldl (fun (acc : State × Option Bad) l =>
    let (a, b) := acc.1.reloadLat g id l (w l) (lost l)
    (a, acc.2.orElse fun _ => b)) (s1, none)
  match bad with
  | some b => s2.onBad g 0x03 b
  | none => s2

/-- The earliest pass that runs: passes take the Chord, and commit, in issue order (R62). -/
def runningPass (h : Hummock) : Option (Issued × PassFields) :=
  h.unret.findSome? fun i =>
    match i.op, i.phase with
    | .lpass f, .running => some (i, f)
    | _, _ => none

/-- Rank of Lattice l in a mask. -/
def rankOf (f : PassFields) (l : Nat) : Nat := ((passLats f).takeWhile fun k => k != l).length

def State.passRun (s : State) (g : Nat) (i : Issued) (f : PassFields) : Option PassRun :=
  (passMode (s.env g).v40 f i.weights).map fun m => ⟨s.env g, m, f.afmt, v40So i.da.raw f.afmt⟩

/-- Rows by tile: rows 256k to 256k + 255 go to the k-th of the tiles. -/
def splitRows : List Nat → List ActRow → List (Nat × List ActRow)
  | [], _ => []
  | t :: ts, rows => (t, rows.take 256) :: splitRows ts (rows.drop 256)

/-- The commit step of a RESIDENT pass (R97): each Lattice commits or joins the replay set. -/
def State.commitPass (s : State) (g : Nat) (i : Issued) (f : PassFields) (p : PassRun) : State :=
  let (s0, rows, bad) := s.readActs g i f (kMax p.cm) 0 (f.mm1.toNat + 1)
  let shared := (sharing i.op).isSome && p.env.mode == 0
  let (s1, lost) := s0.eccAdded g f.clr shared (((passLats f).filter fun l => shared || i.mask.getLsbD l).flatMap fun l =>
    (splitRows (passTiles f (rankOf f l)) rows).map fun x => (x.1, x.2.length))
  match bad.orElse fun _ => if lost then some (.sram g) else none with
  | some b => s1.onBad g 0x03 b
  | none =>
    if shared then
      let s2 := (passLats f).foldl (fun (acc : State) l =>
        acc.addTiles g i p l f.clr true (splitRows (passTiles f (rankOf f l)) rows)) s1
      let s3 := s2.modOp g i.id fun j => { j with phase := .ended }
      ((passLats f).flatMap fun l => passTiles f (rankOf f l)).foldl (fun (acc : State) t => acc.trySetCommit g t) s3
    else
      let (s2, v) := (passLats f).foldl (fun (acc : State × BitVec 4) l =>
        if !i.mask.getLsbD l then acc
        else
          let ts := passTiles f (rankOf f l)
          let a := acc.1.addTiles g i p l f.clr false (splitRows ts rows)
          let (b, again) := a.decideTiles g 0x03 f.clr 1 (leafCount p.env.mode p.cm (i.weights l).k) ts
          if again then (b, acc.2 ||| 1#4 <<< l) else (b.dropTiles g i.id ts, acc.2)) (s1, 0)
      if v = 0 then s2.finish g i.id
      else (s2.modOp g i.id fun j => { j with mask := v, tries := j.tries + 1, since := (s.hum g).steps }).squashAfter g i.id v i.weights

/-- STREAM: the tile of group j of a Lattice (R71). -/
def ringTile (f : PassFields) (l j : Nat) : Nat := f.tile.toNat + rankOf f l * passG f + j % passG f

def groupCount (f : PassFields) : Nat := (f.mm1.toNat + 256) / 256

/-- The ring tiles of the next group are free on the Lattices that are still to commit it (R71). -/
def ringFree (h : Hummock) (i : Issued) (f : PassFields) : Bool :=
  (passLats f).all fun l =>
    let t := ringTile f l i.groups
    !i.mask.getLsbD l || !(h.groups.any fun q => q.tile.toNat == t)

/-- The last row of a pass has entered (R73): the rows of a RESIDENT pass enter from its start on, and the rows of a STREAM group
once its ring tiles are free (log 111). -/
def rowsEntered (h : Hummock) (i : Issued) (f : PassFields) : Bool :=
  i.phase != .queued && (!f.out || i.phase == .done || (groupCount f ≤ i.groups + 1 && ringFree h i f))

/-- The next group of a STREAM pass commits and is handed on, Lattice by Lattice, or replays on the Lattices that overflowed
(R71, R76, R209). -/
def State.commitGroup (s : State) (g : Nat) (i : Issued) (f : PassFields) (p : PassRun) : State :=
  let j := i.groups
  let (s1, rows, bad) := s.readActs g i f (kMax p.cm) (256 * j) (Nat.min 256 (f.mm1.toNat + 1 - 256 * j))
  match bad with
  | some b => s1.onBad g 0x03 b
  | none =>
    let (s2, v) := (passLats f).foldl (fun (acc : State × BitVec 4) l =>
      if !i.mask.getLsbD l then acc
      else
        let t := ringTile f l j
        let a := acc.1.addTiles g i p l true false [(t, rows)]
        let (b, again) := a.decideTiles g 0x03 true 0 (leafCount p.env.mode p.cm (i.weights l).k) [t]
        if again then (b, acc.2 ||| 1#4 <<< l)
        else (b.modHum g fun h => { h with
          groups := h.groups ++ [⟨BitVec.ofNat 4 t, f.dest, i.id, j, rankOf f l, false⟩] }, acc.2)) (s1, 0)
    if v ≠ 0 then (s2.modOp g i.id fun k => { k with mask := v, tries := k.tries + 1, since := (s.hum g).steps }).squashAfter g i.id v i.weights
    else if groupCount f ≤ j + 1 then s2.finish g i.id
    else s2.modOp g i.id fun k => { k with groups := j + 1, mask := f.mask, tries := 0 }

end Sys2Proof.Machine
end

