-- ==== Sys2Proof/Machine/Weir.lean ====
section
/-!
DEFINITION. Sys2Proof/Machine/Weir.lean: what Weir and the Causeway station do: WMOVE, WCONV, WRED and CSEND (07 R170, R508;
02 R46, R52; 04 R92, R111; 05 R128, R129; 13 R317 to R319).
-/

namespace Sys2Proof.Machine

/-! ### Operands in the Mere of a partner (R158, R163, R171) -/

/-- The partner's Mere can be reached. -/
def State.reaches (s : State) (g : Nat) (d : DescCap) : Bool :=
  d.space != 2 || (s.env g).nhum ≤ d.lhum ||
    match s.partner g d.lhum with
    | some k =>
      match (s.hum k).power with
      | .running | .still => true
      | _ => false
    | none => false

/-- A write into the Mere of a partner is a wake event for it. -/
def State.knock (s : State) (g : Nat) (ws : List Opnd) : State :=
  ws.foldl (fun (acc : State) o =>
    if o.1.space = 2 then
      match acc.partner g o.1.lhum with
      | some k => acc.wakeEvent k
      | none => acc
    else acc) s

/-- Check Mere ranges, translate every page that the spans touch, wake the partners written to, and go on once they can be reached;
an access to a frame that is being zeroed or copied waits (07 R171, R174; 09 R222, R232, R505; 10 R242). An instruction that
faults has woken nobody. -/
def State.runOp (s : State) (g : Nat) (i : Issued) (rs ws : List Opnd) (k : State → List TlbEntry → State) : State :=
  if !(rs ++ ws).all mereOk then s.opFault g i 3
  else
    let c := s.ctxOf g
    match s.xlateOpnds g c rs ws with
    | (s1, m, .ok) =>
      let s2 := s1.knock g ws
      if s2.framesBusy m || !((rs ++ ws).all fun o => s2.reaches g o.1) then s.knock g ws else k s2 m
    | (s1, _, .fault va) => (s1.xlatEvent (secOf g) c va).opFault g i 7
    | (s1, _, .poison d) => s1.onTrouble g (opClass i.op) (.poisoned d true)

/-- What an instruction's write met, once it has written. -/
def State.written (s : State) (g : Nat) (i : Issued) (t : Trouble) : State :=
  match t with
  | .none => s.finish g i.id
  | _ => s.onTrouble g (opClass i.op) t

/-! ### Sources -/

/-- A Lattice of lower rank has still to commit the group, which is in replay there. -/
def Hummock.rankAhead (h : Hummock) (q : Group) : Bool :=
  h.unret.any fun i =>
    match i.op with
    | .lpass f => i.id == q.pass && i.phase == .running && i.groups == q.idx &&
        (passLats f).any fun l => i.mask.getLsbD l && decide (rankOf f l < q.rank)
    | _ => false

/-- The first group handed to a station that no instruction has taken: in group order, and within a group in ascending rank
(R165). -/
def Hummock.nextGroup (h : Hummock) (weir : Bool) : Option Group :=
  match h.groups.filter fun q => q.toWeir == weir && !q.taken with
  | [] => none
  | q :: qs =>
    let first := qs.foldl (fun (a : Group) x => if x.pass == a.pass && x.idx == a.idx && x.rank < a.rank then x else a) q
    if h.rankAhead first then none else some first

/-- An instruction takes the group and reads its tile. -/
def State.takeGroup (s : State) (g : Nat) (q : Group) : State :=
  s.modHum g fun h =>
    { h with groups := h.groups.map fun x => if x.pass == q.pass && x.idx == q.idx && x.rank == q.rank then
        { x with taken := true } else x }

structure Source where
  s : State
  rows : List (List (Val × Bool))
  evs : Cnt
  bad : Option Bad

/-- A Sump value as Reed takes it: binary32, ±Inf beyond its range (08 R193, R195). -/
def asF32 (x : Val × Bool) : Val × Bool :=
  let r := f32.round .rne x.1
  (r.1, x.2 || r.2.flush)

/-- Read the source of a transfer or of an ROP: rows × cols values, and the events kept with a tile or slot. No per-tensor scale is
applied to an FP8 source in V40 mode, a choice of the model (05 R139, log 113). -/
def State.readSource (s : State) (g : Nat) (m : List TlbEntry) (weir : Bool) (srck : BitVec 2) (tile : BitVec 4) (o : Opnd)
    (rows cols : Nat) : Source :=
  if srck = 0 then
    let (s1, es, ss, bad) := s.readPlanes g m o rows cols
    ⟨s1, es.zipIdx.map fun x => rowVals o.2 x.1 ((ss[x.2]?).getD []) cols, {}, bad⟩
  else if srck = 2 then
    let p := tile.toNat % 8
    let (s1, v, bad) := s.readSlot g p rows cols
    let (s2, k) := s1.takeSlotEvs g p
    ⟨s2, v, k, bad⟩
  else
    let q := if srck = 3 then (s.hum g).nextGroup weir else none
    let t := match q with
      | some x => x.tile.toNat
      | none => tile.toNat
    let s0 := match q with
      | some x => s.takeGroup g x
      | none => s
    let (s1, v, bad) := s0.readTile g t rows cols
    let (s2, k) := s1.takeTileEvs g t
    ⟨s2, if weir then v else v.map fun r => r.map asF32, k, bad⟩

/-- Flushes on input (02 R38). -/
def inputFlush (rows : List (List (Val × Bool))) : Cnt := { flush := rows.foldl (fun a r => a + r.countP fun x => x.2) 0 }

/-! ### Legality (R508, R129) -/

/-- Contribution formats of a mode (R111, R128, R141). -/
def contribOk (mode : BitVec 2) (f : BitVec 12) : Bool :=
  let c := fCode f
  !fScaled f && (if mode = 2 then c == 7 else c == 5 || c == 6 || c == 7 || (mode == 1 && c == 8))

/-- XQ: P is 1 to 32,768 and q is below it; ignored in Fast mode. -/
def xqOk (mode : BitVec 2) (x : BitVec 64) : Bool :=
  let p := (x.extractLsb' 16 16).toNat
  mode == 0 || (1 ≤ p && p ≤ 32768 && (x.extractLsb' 0 15).toNat < p)

/-- A source FMT: that of a descriptor, or what a tile, slot or group must carry (R170). -/
def srcOk (v40 : Bool) (srck : BitVec 2) (d : DescCap) (f : BitVec 12) : Bool :=
  if srck = 0 then srcFmtOk f && (!v40 || v40FmtOk d.raw f)
  else !fScaled f && fCode f == (if srck = 2 then 8 else 7)

/-- A result FMT. -/
def dstOk (v40 : Bool) (d : DescCap) (f : BitVec 12) : Bool := dstFmtOk f && (!v40 || (v40FmtOk d.raw f && fRm f != 2))

def sameShape (a b : DescCap) : Bool := a.rows == b.rows && a.len == b.len
def fits256 (d : DescCap) : Bool := d.rows ≤ 256 && d.len ≤ 256

def State.moveOk (s : State) (g : Nat) (i : Issued) (f : WeirFields) : Bool :=
  let e := s.env g
  f.srck == 0 && srcOk e.v40 0 i.da f.sfmt && (!e.v40 || v40FmtOk i.db.raw f.sfmt) && sameShape i.da i.db &&
    s.descOk e.nhum false (i.da, f.sfmt) && s.descOk e.nhum false (i.db, f.sfmt)

/-- Shape and descriptors of a transfer from SRCK to a destination descriptor laid out by df. -/
def State.weirShapeOk (s : State) (g : Nat) (i : Issued) (f : WeirFields) (df : BitVec 12) : Bool :=
  let e := s.env g
  srcOk e.v40 f.srck i.da f.sfmt && s.descOk e.nhum false (i.db, df) &&
    (if f.srck = 0 then sameShape i.da i.db && s.descOk e.nhum false (i.da, f.sfmt) else fits256 i.db)

def State.convOk (s : State) (g : Nat) (i : Issued) (f : WeirFields) : Bool :=
  dstOk (s.env g).v40 i.db f.dfmt && s.weirShapeOk g i f f.dfmt

def State.redOk (s : State) (g : Nat) (i : Issued) (f : WeirFields) : Bool :=
  let e := s.env g
  if f.dstk then
    srcOk e.v40 f.srck i.da f.sfmt && (f.srck != 0 || (fits256 i.da && s.descOk e.nhum false (i.da, f.sfmt)))
  else
    dstOk e.v40 i.db f.dfmt && contribOk e.mode f.dfmt && i.db.space == 1 && xqOk e.mode i.va && s.weirShapeOk g i f fmt32

/-! ### Regions -/

def weirReads (i : Issued) (f : WeirFields) : List Opnd := if f.srck = 0 then [(i.da, f.sfmt)] else []

def weirWrites (i : Issued) (df : BitVec 12) : List Opnd := [(i.db, df)]

/-! ### WMOVE and WCONV -/

def State.startMove (s : State) (g : Nat) (i : Issued) (f : WeirFields) : State :=
  if !s.moveOk g i f then s.opFault g i 2
  else s.runOp g i [(i.da, f.sfmt)] [(i.db, f.sfmt)] fun s1 m =>
    let (s2, es, ss, bad) := s1.readPlanes g m (i.da, f.sfmt) i.da.rows i.da.len
    match bad with
    | some b => s2.onBad g 0x02 b
    | none =>
      let (s3, t) := s2.writeChunks g m i.db (chunksOf (i.db, f.sfmt) es ss)
      s3.written g i t

/-- WCONV. The scales of a block-scaled target are chosen from the exact source values: a BF16 subnormal is not flushed first, a
choice of the model, as R47 speaks of binary32 and binary64 values alone (log 115). -/
def State.startConv (s : State) (g : Nat) (i : Issued) (f : WeirFields) : State :=
  if !s.convOk g i f then s.opFault g i 2
  else s.runOp g i (weirReads i f) (weirWrites i f.dfmt) fun s1 m =>
    let r := s1.readSource g m true f.srck f.tile (i.da, f.sfmt) i.db.rows i.db.len
    match r.bad with
    | some b => r.s.onBad g 0x02 b
    | none =>
      let (s2, t) := r.s.writeTensor g m (i.db, f.dfmt) (r.rows.map fun x => x.map fun y => y.1)
        (r.evs.add (inputFlush r.rows))
      s2.written g i t

/-! ### WRED -/

/-- The contributions of one row: address, and bits (R111, R128). -/
def State.contribs (s : State) (g : Fin 96) (i : Issued) (f : WeirFields) (m : List TlbEntry) (r : Nat) (codes : List Nat) :
    List Contrib :=
  let e := s.env g
  let c := s.ctxOf g
  codes.zipIdx.map fun x =>
    let a := (i.db.ebase + r * i.db.stride + 4 * x.2) % 2 ^ 52
    { src := some (g, i.id), xfer := none, ctx := BitVec.ofNat 6 c, va := BitVec.ofNat 52 a, dpa := elemDpa (leafAt m c a) a
      code := fCode f.dfmt, bits := BitVec.ofNat 64 x.1, ordered := e.mode != 0, q := i.va.extractLsb' 0 15
      p := (i.va.extractLsb' 16 16).setWidth 17, round := i.va.extractLsb' 32 32, launch := s.ep.launch.getD 0
      att := s.ep.att, epoch := s.openEpoch, mode := e.mode, tag := BitVec.ofNat 31 i.db.tag, leaf := leafAt m c a }

def State.startRedUnit (s : State) (g : Fin 96) (i : Issued) (f : WeirFields) : State :=
  s.runOp g i (weirReads i f) (weirWrites i fmt32) fun s1 m =>
    let r := s1.readSource g m true f.srck f.tile (i.da, f.sfmt) i.db.rows i.db.len
    match r.bad with
    | some b => r.s.onBad g 0x02 b
    | none =>
      let seed := (s1.env g).seed
      let cs := r.rows.zipIdx.map fun x => convRow f.dfmt none (i.db.rm f.dfmt seed x.2) (x.1.map fun y => y.1)
      let out := cs.zipIdx.flatMap fun x => r.s.contribs g i f m x.2 x.1.codes
      let s2 := r.s.charge i.db.tag (cs.foldl (fun a c => a.add c.cnt) (r.evs.add (inputFlush r.rows)))
      (s2.modMem fun mm => { mm with contribs := mm.contribs ++ out }).modOp g i.id fun j =>
        { j with phase := .running, held := 0, outstanding := out.length }

/-- The additions of a transfer to its tile (R92). -/
def addTransfer (e : RunEnv) (base : Nat) (t : SumpTile) (rows : List (List (Val × Bool))) : SumpTile × Cnt :=
  rows.zipIdx.foldl (fun (a : SumpTile × Cnt) row =>
    row.1.zipIdx.foldl (fun (a : SumpTile × Cnt) x =>
      let y := if e.v40 then a.1.addV40 row.2 x.2 x.1.1 {}
        else a.1.add (t.rm e.seed row.2 x.2 base) row.2 x.2 ⟨x.1.1.scale t.woff.toInt, {}, none⟩
      (y.1, a.2.add y.2)) a) (t, {})

/-- A transfer that runs alone: it repeats while its tile can be lowered (R97); `fuel` is above the two replays that R99
allows. -/
def State.addAlone (s : State) (g t : Nat) (clr : Bool) (rows : List (List (Val × Bool))) : Nat → State
  | 0 => s
  | fuel + 1 =>
    let x := ((s.hum g).tile t).begin clr false
    let (x1, k) := addTransfer (s.env g) x.lidx.toNat x rows
    let (s1, again) := ((s.modHum g fun h => h.setTile t x1).chargeTile g t k).decideTiles g 0x02 clr 1 1 [t]
    if again then State.addAlone s1 g t clr rows fuel else s1

/-- WRED into a Sump tile (R92, R97, R109). The input flushes of its source are counted once, also where a replay repeats the
transfer: a choice of the model (06 R146, log 116). -/
def State.startRedTile (s : State) (g : Nat) (i : Issued) (f : WeirFields) : State :=
  let t := f.dtile.toNat
  let rows := if f.srck = 0 then i.da.rows else 256
  let cols := if f.srck = 0 then i.da.len else 256
  s.runOp g i (weirReads i f) [] fun s1 m =>
    let r0 := s1.readSource g m true f.srck f.tile (i.da, f.sfmt) rows cols
    let shared := f.shr && (s.env g).mode == 0
    let (sE, lost) := r0.s.eccAdded g f.clr shared [(t, rows)]
    let r := { r0 with s := sE }
    match r.bad.orElse fun _ => if lost then some (.sram g) else none with
    | some b => r.s.onBad g 0x02 b
    | none =>
      let b0 := r.s.modHum g fun h => h.setTile t ((h.tile t).begin (if shared then h.startsClear t f.clr else f.clr)
        (shared && h.startsAnew t false))
      let s2 := b0.chargeTile g t (r.evs.add (inputFlush r.rows))
      if shared then
        let x := (s2.hum g).tile t
        let (x1, k) := addTransfer (s2.env g) (s2.leafBase g t i.id) x r.rows
        let s3 := (s2.modHum g fun h => h.setTile t x1).chargeTile g t k
        (s3.modOp g i.id fun j =>
          { j with phase := .ended, held := j.held &&& (tileBit t ||| slotBits (s3.hum g) t) }).trySetCommit g t
      else (s2.addAlone g t f.clr r.rows 4).finish g i.id
where
  /-- The slot bit that goes with tile t. -/
  slotBits (h : Hummock) (t : Nat) : BitVec 24 := h.tileRes t

def State.startRed (s : State) (g : Fin 96) (i : Issued) (f : WeirFields) : State :=
  if !s.redOk g i f then s.opFault g i 2
  else if f.dstk then s.startRedTile g i f else s.startRedUnit g i f

/-! ### CSEND -/

def State.sendOk (s : State) (g : Nat) (i : Issued) (f : SendFields) : Bool :=
  let e := s.env g
  i.da.space < 2 && i.db.space == 3 && srcOk e.v40 0 i.da f.fmt && (!e.v40 || v40FmtOk i.db.raw f.fmt) && s.descOk e.nhum true (i.da, f.fmt) &&
    s.descOk e.nhum true (i.db, if f.red then fmt32 else f.fmt) &&
    (!f.red || (contribOk e.mode f.fmt && xqOk e.mode i.va))

/-- Bytes in pieces of at most n, with the offset of each; `fuel` is at least their number. -/
def chop (n : Nat) : Nat → Nat → List Byte → List (Nat × List Byte)
  | 0, _, _ => []
  | fuel + 1, off, bs =>
    match bs with
    | [] => []
    | _ => (off, bs.take n) :: chop n fuel (off + n) (bs.drop n)

/-- The payloads of a CSEND in row order, each with its address at the destination: elements, then scales. -/
def sendPieces (i : Issued) (f : SendFields) (ordered : Bool) (es ss : List (List Byte)) : List (Nat × List Byte) :=
  let b := rowBytes (fCode f.fmt) 1
  let n := if f.red && ordered then 4088 else 4096
  let el := es.zipIdx.flatMap fun x => (chop n x.1.length 0 x.1).map fun p =>
    (i.db.ebase + x.2 * i.db.stride + (if f.red then p.1 / b * 4 else p.1), p.2)
  let z := scaleBytes f.fmt i.da.len
  el ++ ss.zipIdx.flatMap fun x => (chop 4096 x.1.length 0 x.1).map fun p => (i.db.sbase + x.2 * z + p.1, p.2)

/-- Send one transfer (R319). -/
def State.sendTransfer (s : State) (g : Fin 96) (i : Issued) (f : SendFields) (ps : List (Nat × List Byte)) : State :=
  let ordered := f.red && (s.env g).mode != 0
  let dst := s.memberDev i.db.rank
  let xid := s.cwy.nextXid
  let pkts := ps.zipIdx.map fun x =>
    let payload := if ordered then leBytes 8 i.va.toNat ++ x.1.2 else x.1.2
    { s.ownPacket (if f.red then 2 else 1) 0 dst with
      ctx := BitVec.ofNat 6 (s.ctxOf g), last := x.2 + 1 == ps.length, sig := f.sig, ord := ordered, enc := s.isSealed (s.ctxOf g)
      len := BitVec.ofNat 13 payload.length, xidx := BitVec.ofNat 32 x.2, xid := xid, slu := f.slu
      addr := BitVec.ofNat 64 (x.1.1 % 2 ^ 52 + (if f.red then (fCode f.fmt).toNat * 2 ^ 52 else 0)), payload := payload }
  let s1 := s.modCwy fun c =>
    { c with inject := c.inject ++ pkts, nextXid := xid + 1, outbound := c.outbound ++ [⟨xid, dst, g, i.id⟩] }
  (s1.jot fcpIx).modOp g i.id fun j => { j with phase := .running, outstanding := 1 }

def State.startSend (s : State) (g : Fin 96) (i : Issued) (f : SendFields) : State :=
  if !s.sendOk g i f then s.opFault g i 2
  else s.runOp g i [(i.da, f.fmt)] [] fun s1 m =>
    let (s2, es, ss, bad) := s1.readPlanes g m (i.da, f.fmt) i.da.rows i.da.len
    match bad with
    | some b => s2.onBad g 0x06 b
    | none => s2.sendTransfer g i f (sendPieces i f ((s.env g).mode != 0) es ss)

end Sys2Proof.Machine
end

