-- ==== Sys2Proof/Machine/Reed.lean ====
section
/-!
DEFINITION. Sys2Proof/Machine/Reed.lean: what Reed does (08_reed_wide_precision.md R190 to R211; 05 R142, R208): shapes and
formats, elementwise arithmetic, row operations, soft maxima and the loss.
-/

namespace Sys2Proof.Machine

/-! ### Operands of an operation (R191 to R193) -/

def Issued.fmtA (i : Issued) : BitVec 12 := i.va.extractLsb' 0 12
def Issued.fmtB (i : Issued) : BitVec 12 := i.va.extractLsb' 12 12
def Issued.fmtC (i : Issued) : BitVec 12 := i.va.extractLsb' 24 12
def Issued.fmtD (i : Issued) : BitVec 12 := i.va.extractLsb' 36 12

def Issued.opA (i : Issued) : Opnd := (i.da, i.fmtA)
def Issued.opB (i : Issued) : Opnd := (i.db, i.fmtB)
def Issued.opC (i : Issued) : Opnd := (i.dc, i.fmtC)
def Issued.opD (i : Issued) : Opnd := (i.dd, i.fmtD)

/-- Groups of operation codes (R194). -/
def rElem (c : Nat) : Bool := c ≤ 0x14
def rRowOut (c : Nat) : Bool := c == 0x20 || c == 0x21 || c == 0x22
def rStateA (c : Nat) : Bool := c == 0x2B || c == 0x30

/-- Which of B, C and D an operation reads. -/
def readsB (c : Nat) : Bool := c ≤ 5 || (0x10 ≤ c && c ≤ 0x13) || c == 0x18 || c == 0x24 || c == 0x25 || rStateA c
def readsC (c : Nat) : Bool := c == 4 || c == 0x24 || (0x29 ≤ c && c ≤ 0x2C) || c == 0x30
def readsD (c : Nat) : Bool := c == 0x2A || c == 0x2B

/-- C is a state (R201, R202). -/
def stateC (c : Nat) : Bool := c == 0x29 || c == 0x2A || c == 0x2C

def ropReads (i : Issued) (c : Nat) (f : RopFields) : List Opnd :=
  (if f.srck = 0 then [i.opA] else []) ++ (if readsB c then [i.opB] else []) ++ (if readsC c then [i.opC] else []) ++
    (if readsD c then [i.opD] else [])

def ropWrites (i : Issued) (c : Nat) : List Opnd :=
  (if c = 0x2B then [i.opA] else []) ++ (if c = 0x2C then [i.opB] else []) ++ (if c = 0x29 then [i.opC] else []) ++ [i.opD]

/-- L of the operation. -/
def ropLen (i : Issued) (c : Nat) (f : RopFields) : Nat :=
  if c = 0x30 then i.dc.len else if c = 0x2B then i.dd.len else if f.srck = 0 then i.da.len
  else if rRowOut c then 256 else if c = 0x2C then i.db.len else i.dd.len

def shapeIs (d : DescCap) (r l : Nat) : Bool := d.rows == r && d.len == l

/-- R193, R196, R197, R200 to R207. -/
def ropShapeOk (i : Issued) (c : Nat) (f : RopFields) : Bool :=
  let r := i.dd.rows
  let l := ropLen i c f
  let rb := if f.brow then 1 else r
  (if f.srck = 0 then shapeIs i.da r (if rStateA c then 4 else l) else !rStateA c && r ≤ 256 && l ≤ 256) &&
  i.dd.len == (if rRowOut c || c == 0x2C || c == 0x30 then 1 else l) &&
  (!readsB c || shapeIs i.db rb (if c = 0x18 then l / 2 else if c = 0x2B then 4 else if c = 0x30 then 1 else l)) &&
  (c != 0x2C || shapeIs i.db r l) &&
  (!readsC c || shapeIs i.dc (if c = 0x24 then rb else r) (if stateC c then 4 else l)) &&
  (c != 0x18 || (f.brow && l % 2 == 0))

/-- A binary32 or a binary64 operand. -/
def isF32 (f : BitVec 12) : Bool := fCode f == 7 && !fScaled f
def isF64 (f : BitVec 12) : Bool := fCode f == 8 && !fScaled f

def ropFmtOk (i : Issued) (c : Nat) (f : RopFields) : Bool :=
  (f.srck != 0 || (if rStateA c then isF32 i.fmtA else srcFmtOk i.fmtA)) &&
  (!readsB c || (if rStateA c then isF32 i.fmtB else if c = 0x18 then isF64 i.fmtB else srcFmtOk i.fmtB)) &&
  (c != 0x2C || dstFmtOk i.fmtB) && (c != 0x29 || fRm i.fmtC != 3) && (c != 0x2B || fRm i.fmtA != 3) &&
  (!readsC c || (if stateC c then isF32 i.fmtC else srcFmtOk i.fmtC)) &&
  dstFmtOk i.fmtD && (!readsD c || isF32 i.fmtD) && ((c != 0x2C && c != 0x30) || isF64 i.fmtD)

/-! ### Positions and flags (R192, R204) -/

def Issued.qp0 (i : Issued) : Nat := (i.vc.extractLsb' 0 23).toNat
def Issued.kp0 (i : Issued) : Nat := (i.vc.extractLsb' 32 23).toNat
def Issued.causal (i : Issued) : Bool := i.vc.extractLsb' 56 2 == 1
def Issued.init (i : Issued) : Bool := i.vc.getLsbD 63

/-- No reserved bit or MASKM, and no row or column beyond position 8,388,607, whatever the operation. -/
def xpOk (i : Issued) (c : Nat) (f : RopFields) : Bool :=
  i.vc.extractLsb' 23 9 == 0 && !i.vc.getLsbD 55 && i.vc.extractLsb' 58 5 == 0 && !i.vc.getLsbD 57 &&
    decide (i.qp0 + i.dd.rows ≤ 8388608) && decide (i.kp0 + ropLen i c f ≤ 8388608)

/-- The codes of R194. -/
def ropCodeOk (c : Nat) : Bool :=
  c ≤ 0x14 || c == 0x18 || rRowOut c || c == 0x24 || c == 0x25 || (0x28 ≤ c && c ≤ 0x2C) || c == 0x30

/-- What V40 mode allows (R208, 05 R138). -/
def ropV40Ok (i : Issued) (c : Nat) (f : RopFields) : Bool :=
  (c ≤ 4 || (6 ≤ c && c ≤ 0xA) || c == 0xC || (0x10 ≤ c && c ≤ 0x14) || c == 0x20 || c == 0x21 || c == 0x28) &&
  !f.p64 && f.srck != 2 && (c != 0x28 || (i.vb.extractLsb' 0 32 == 0x3F800000 && i.vc.extractLsb' 56 2 == 0)) &&
  (ropReads i c f).all (fun o => v40FmtOk o.1.raw o.2) && v40FmtOk i.dd.raw i.fmtD && fRm i.fmtD != 2

def State.ropOk (s : State) (g : Nat) (i : Issued) (c : Nat) (f : RopFields) : Bool :=
  let e := s.env g
  ropCodeOk c && ropShapeOk i c f && ropFmtOk i c f && xpOk i c f && (!e.v40 || ropV40Ok i c f) &&
    (ropReads i c f ++ ropWrites i c).all fun o => s.descOk e.nhum false o

/-! ### Elementwise arithmetic (R194, R195; 05 R142) -/

def natVal (n : Nat) : Val := if n = 0 then .zero false else .fin false n 0 false

/-- exp of V40 mode (05 R142). -/
def v40Exp (x : Val) : NM Val := do
  let y ← fmul f32 x (val32 0x3FB8AA3B)
  rnd f32 (fexp2 f32 y)

/-- One element in working format w; k is the scalar of XS. -/
def ropElem (w : Format) (v40 : Bool) (c : Nat) (k x y z : Val) : NM Val :=
  if c = 0x00 then fadd w x y else if c = 0x01 then fsub w x y else if c = 0x02 then fmul w x y
  else if c = 0x03 then fdiv w x y else if c = 0x04 then ffma w x y z else if c = 0x05 then ffma w x k y
  else if c = 0x06 then rnd w x.sqrt else if c = 0x07 then fdiv w (vone false) x else if c = 0x08 then rnd w (frsqrt x)
  else if c = 0x09 then (if v40 then v40Exp x else rnd w (fexp w x))
  else if c = 0x0A then rnd w (fexp2 w x) else if c = 0x0B then rnd w (flog w x) else if c = 0x0C then rnd w (flog2 w x)
  else if c = 0x0D then rnd w (ftanh w x) else if c = 0x0E then rnd w (fsigmoid w x) else if c = 0x0F then rnd w (fgelu w x)
  else if c = 0x10 then pure (x.maximum y) else if c = 0x11 then pure (x.minimum y)
  else if c = 0x12 then pure (x.maximumNumber y) else if c = 0x13 then pure (x.minimumNumber y)
  else pure x

abbrev InRow := List (Val × Bool)

/-- A row of elements taken into the working format. -/
def takeRow (w : Format) (xs : InRow) : NM (List Val) := xs.mapM (takeIn w)

def at0 (xs : List Val) (n : Nat) : Val := (xs[n]?).getD (.zero false)

def elemRow (w : Format) (v40 : Bool) (c : Nat) (k : Val) (a b z : InRow) : NM (List Val) := do
  let xs ← takeRow w a
  let ys ← takeRow w b
  let zs ← takeRow w z
  xs.zipIdx.mapM fun p => ropElem w v40 c k p.1 (at0 ys p.2) (at0 zs p.2)

/-! ### Rows (R196, R197, R205) -/

/-- RSUM and RSSQ. -/
def sumRow (sq : Bool) (a : InRow) : NM Val := do
  let xs ← takeRow f32 a
  xs.foldlM (fun s x => if sq then ffma f64 x x s else fadd f64 s x) (.zero false)

/-- The sum-reduce of V40 mode. -/
def v40Sum (xs : List Val) : NM Val :=
  match xs with
  | [] => pure (.zero false)
  | x :: rest => rest.foldlM (fun s y => fadd f32 s y) x

def maxRow (xs : List Val) : Val := xs.foldl Val.maximum (.inf true)

/-- rsqrt(round32(round32(s2 / L) + eps)). -/
def invDev (s2 : Val) (l : Nat) (eps : Val) : NM Val := do
  let v ← fdiv f32 s2 (natVal l)
  let u ← fadd f32 v eps
  rnd f32 (frsqrt u)

def lnormRow (eps : Val) (a g b : InRow) : NM (List Val) := do
  let xs ← takeRow f32 a
  let gs ← takeRow f32 g
  let bs ← takeRow f32 b
  let s1 ← xs.foldlM (fun s x => fadd f64 s x) (.zero false)
  let mu ← fdiv f32 s1 (natVal xs.length)
  let s2 ← xs.foldlM (fun s x => do
    let d ← fsub f32 x mu
    ffma f64 d d s) (.zero false)
  let r ← invDev s2 xs.length eps
  xs.zipIdx.mapM fun p => do
    let d ← fsub f32 p.1 mu
    let y ← fmul f32 d r
    ffma f32 y (at0 gs p.2) (at0 bs p.2)

def rmsnRow (eps : Val) (a g : InRow) : NM (List Val) := do
  let xs ← takeRow f32 a
  let gs ← takeRow f32 g
  let s2 ← xs.foldlM (fun s x => ffma f64 x x s) (.zero false)
  let r ← invDev s2 xs.length eps
  xs.zipIdx.mapM fun p => do
    let y ← fmul f32 p.1 r
    fmul f32 y (at0 gs p.2)

/-- x·y ± u·v, exact, rounded once to binary32. -/
def dot2 (x y u v : Val) (minus : Bool) : NM Val :=
  let p := x.mul y
  let q := u.mul v
  let r := if minus then p.1.sub q.1 else p.1.add q.1
  rnd f32 (r.1, !(x.isNan || y.isNan || u.isNan || v.isNan) && (p.2 || q.2 || r.2))

/-- The row at query position q. -/
def ropeRow (q : Nat) (a fr : InRow) : NM (List Val) := do
  let xs ← takeRow f32 a
  let fs ← takeRow f64 fr
  let ys ← (List.range (xs.length / 2)).mapM fun j => do
    let th ← fmul f64 (natVal q) (at0 fs j)
    let cs ← rnd f32 (ftrig f32 0 th)
    let sn ← rnd f32 (ftrig f32 1 th)
    let y0 ← dot2 (at0 xs (2 * j)) cs (at0 xs (2 * j + 1)) sn true
    let y1 ← dot2 (at0 xs (2 * j)) sn (at0 xs (2 * j + 1)) cs false
    pure [y0, y1]
  pure ys.flatten

/-! ### Soft maxima (R198 to R204) -/

/-- A score: round32(a × sc), masked where its key position lies beyond the query position. -/
def scoreRow (sc : Val) (causal : Bool) (q k0 : Nat) (a : InRow) : NM (List Val) := do
  let xs ← takeRow f32 a
  xs.zipIdx.mapM fun p => do
    let x ← fmul f32 p.1 sc
    pure (if causal && q < k0 + p.2 then .inf true else x)

/-- e(x, m). -/
def expDiff (x m : Val) : NM Val :=
  match x with
  | .inf true => pure (.zero false)
  | _ => do
    let d ← fsub f32 x m
    rnd f32 (fexp f32 d)

/-- The correction of R199. -/
def correction (mo mn : Val) : NM Val :=
  match mo with
  | .inf true => pure (.zero false)
  | _ => do
    let d ← fsub f64 mo mn
    rnd f64 (fexp f64 d)

/-- e / s, or +0 where s is +0. -/
def quotient (e s : Val) : NM Val :=
  match s with
  | .zero false => pure (.zero false)
  | _ => fdiv f32 e s

def smxrRow (xs : List Val) : NM (List Val) := do
  let m := maxRow xs
  let es ← xs.mapM fun x => expDiff x m
  let s ← es.foldlM (fun s e => fadd f64 s e) (.zero false)
  es.mapM fun e => quotient e s

/-- The softmax of V40 mode (05 R142). -/
def v40Softmax (xs : List Val) : NM (List Val) := do
  let m := maxRow xs
  let es ← xs.mapM fun x => do
    let d ← fsub f32 x m
    v40Exp d
  let s ← v40Sum es
  es.mapM fun e => fdiv f32 e s

/-- A state row (R195): M, C and S. -/
structure SmState where
  m : Val
  c : Val
  s : Val
  deriving DecidableEq, Repr

def smState (b : List Byte) : SmState :=
  ⟨val32 (BitVec.ofNat 32 (field b 0 4)), val32 (BitVec.ofNat 32 (field b 4 4)), val64 (BitVec.ofNat 64 (field b 8 8))⟩

/-- A state row taken in: a subnormal among the values that the operation uses is zero and counted as flushed (02 R37, R38). -/
def takeState (m c s : Bool) (b : List Byte) : NM SmState := do
  tick { flush := bcnt (m && (f32.decode (field b 0 4)).2) }
  tick { flush := bcnt (c && (f32.decode (field b 4 4)).2) }
  tick { flush := bcnt (s && (f64.decode (field b 8 8)).2) }
  pure (smState b)

def SmState.bytes (x : SmState) : List Byte :=
  leBytes 4 (enc32 x.m).toNat ++ leBytes 4 (enc32 x.c).toNat ++ leBytes 8 (enc64 x.s).toNat

/-- SMXB on one row of scores (R201): the new state, and the exponentials. -/
def smxbRow (init : Bool) (st : SmState) (xs : List Val) : NM (SmState × List Val) := do
  let mo := if init then .inf true else st.m
  let so := if init then .zero false else st.s
  let mn := xs.foldl Val.maximum mo
  let c ← correction mo mn
  let s0 ← fmul f64 so c
  let es ← xs.mapM fun x => expDiff x mn
  let s ← es.foldlM (fun s e => fadd f64 s e) s0
  let c32 ← rnd f32 (c, false)
  pure (⟨mn, c32, s⟩, es)

/-- AUPD on one row (R202). -/
def aupdRow (init : Bool) (st : SmState) (o v : InRow) : NM (List Val) := do
  let vs ← takeRow f32 v
  let os ← if init then pure [] else takeRow f32 o
  vs.zipIdx.mapM fun p => ffma f32 (at0 os p.2) st.c p.1

/-- AMRG on one row (R203): the new state A, and output D. -/
def amrgRow (a b : SmState) (c d : InRow) : NM (SmState × List Val) := do
  let cv ← takeRow f32 c
  let dv ← takeRow f32 d
  let m := a.m.maximum b.m
  let ca ← correction a.m m
  let cb ← correction b.m m
  let t ← fmul f64 b.s cb
  let s ← ffma f64 a.s ca t
  let ca32 ← rnd f32 (ca, false)
  let cb32 ← rnd f32 (cb, false)
  let out ← dv.zipIdx.mapM fun p => do
    let u ← fmul f32 (at0 cv p.2) cb32
    ffma f32 p.1 ca32 u
  pure (⟨m, ca32, s⟩, out)

/-- ANORM on one row (R202): the normalised row. -/
def anormRow (st : SmState) (a : InRow) : NM (List Val) := do
  let xs ← takeRow f32 a
  xs.mapM fun x => quotient x st.s

/-- round64(M + log64(S)); −Inf where S = +0. -/
def logSumExp (st : SmState) : NM Val :=
  match st.s with
  | .zero false => pure (.inf true)
  | v => do
    let l ← rnd f64 (flog f64 v)
    fadd f64 st.m l

/-- XENT on one row (R207): target t, first column cb. -/
def xentRow (st : SmState) (sc : Val) (t cb : Nat) (row : InRow) : NM Val :=
  if cb ≤ t && t < cb + row.length then do
    let x ← takeIn f32 ((row[t - cb]?).getD (.zero false, false))
    let y ← fmul f32 x sc
    let l ← rnd f64 (flog f64 st.s)
    let z ← fadd f64 st.m l
    fsub f64 z y
  else pure (.zero false)

/-! ### One row of an operation (R190) -/

/-- A row as read: its elements and its scale bytes. -/
abbrev RawRow := List Byte × List Byte

def rawVals (o : Opnd) (x : RawRow) : InRow := rowVals o.2 x.1 x.2 o.1.len

/-- What an operation reads for one row: A, A as a state, B, C and D. -/
structure RowIn where
  a : InRow
  st : RawRow
  b : RawRow
  c : RawRow
  d : RawRow
  deriving DecidableEq, Repr

/-- What it produces for one row: a row of D, a row of B (ANORM), and a state row of C (SMXB) or A (AMRG). -/
structure RowOut where
  d : List Val := []
  b : List Val := []
  st : Option SmState := none
  deriving DecidableEq, Repr

/-- The row of B, and of C in LNORM, for row r (R193). -/
def browRow (f : RopFields) (r : Nat) : Nat := if f.brow then 0 else r

/-- The scalar of XS (R191). -/
def Issued.scalar32 (i : Issued) : Val := val32 (i.vb.extractLsb' 0 32)

/-- Operations that use the scalar. -/
def usesXs (c : Nat) : Bool := c == 0x05 || c == 0x24 || c == 0x25 || c == 0x28 || c == 0x29 || c == 0x30

/-- A subnormal scalar taken as zero is counted as flushed (02 R38): once for an operation (log 108). -/
def scalarCnt (i : Issued) (c : Nat) (f : RopFields) : Cnt :=
  if usesXs c then
    { flush := bcnt (if c = 0x05 ∧ f.p64 then (f64.decode i.vb.toNat).2 else (f32.decode (i.vb.extractLsb' 0 32).toNat).2) }
  else {}

/-- Row r of an operation. -/
def ropRow (e : RunEnv) (i : Issued) (c : Nat) (f : RopFields) (r : Nat) (x : RowIn) : NM RowOut := do
  let a := x.a
  let b := rawVals i.opB x.b
  let z := rawVals i.opC x.c
  if rElem c then
    let w := if f.p64 then f64 else f32
    let k := if f.p64 then val64 i.vb else i.scalar32
    let y ← elemRow w e.v40 c k a (if readsB c then b else []) (if readsC c then z else [])
    pure { d := y }
  else if c = 0x21 then
    let xs ← takeRow f32 a
    pure { d := [maxRow xs] }
  else if rRowOut c then
    let y ← if e.v40 then (do
        let xs ← takeRow f32 a
        v40Sum xs)
      else sumRow (c == 0x22) a
    pure { d := [y] }
  else if c = 0x18 then
    let y ← ropeRow (i.qp0 + r) a b
    pure { d := y }
  else if c = 0x24 then
    let y ← lnormRow i.scalar32 a b z
    pure { d := y }
  else if c = 0x25 then
    let y ← rmsnRow i.scalar32 a b
    pure { d := y }
  else if c = 0x28 then
    let y ← if e.v40 then (do
        let xs ← takeRow f32 a
        v40Softmax xs)
      else (do
        let xs ← scoreRow i.scalar32 i.causal (i.qp0 + r) i.kp0 a
        smxrRow xs)
    pure { d := y }
  else if c = 0x29 then
    let st ← takeState (!i.init) false (!i.init) x.c.1
    let xs ← scoreRow i.scalar32 i.causal (i.qp0 + r) i.kp0 a
    let y ← smxbRow i.init st xs
    pure { d := y.2, st := some y.1 }
  else if c = 0x2A then
    let st ← takeState false true false x.c.1
    let y ← aupdRow i.init st (rawVals i.opD x.d) a
    pure { d := y }
  else if c = 0x2B then
    let sa ← takeState true false true x.st.1
    let sb ← takeState true false true x.b.1
    let y ← amrgRow sa sb z (rawVals i.opD x.d)
    pure { d := y.2, st := some y.1 }
  else if c = 0x2C then
    let st ← takeState true false true x.c.1
    let y ← anormRow st a
    let l ← logSumExp st
    pure { d := [l], b := y }
  else
    let st ← takeState true false true x.st.1
    let y ← xentRow st i.scalar32 (field x.b.1 0 4) i.kp0 z
    pure { d := [y] }

/-! ### Running an operation (R190) -/

def State.readIf (s : State) (g : Nat) (m : List TlbEntry) (on : Bool) (o : Opnd) (r : Nat) : State × RawRow × Option Bad :=
  if on then s.readRow g m o r else (s, ([], []), none)

/-- Read everything that row r takes; `tile` holds the rows of a Sump tile, Peat slot or STREAM group read as A. -/
def State.readRop (s : State) (g : Nat) (m : List TlbEntry) (i : Issued) (c : Nat) (f : RopFields) (tile : List InRow) (r : Nat) :
    State × RowIn × Option Bad :=
  let (s0, xa, b0) := s.readIf g m (f.srck == 0) i.opA r
  let a := if f.srck != 0 then (tile[r]?).getD [] else if rStateA c then [] else
    rowVals i.fmtA xa.1 xa.2 (ropLen i c f)
  let (s1, xb, b1) := s0.readIf g m (readsB c) i.opB (browRow f r)
  let (s2, xc, b2) := s1.readIf g m (readsC c) i.opC (if c = 0x24 then browRow f r else r)
  let (s3, xd, b3) := s2.readIf g m (readsD c) i.opD r
  (s3, ⟨a, xa, xb, xc, xd⟩, [b0, b1, b2, b3].findSome? id)

/-- Write a state row in place: three elements are counted (06 R144). -/
def State.writeState (s : State) (g : Nat) (m : List TlbEntry) (o : Opnd) (r : Nat) (st : Option SmState) : State × Trouble :=
  match st with
  | none => (s, .none)
  | some x =>
    let (s1, t) := s.writeAll g m o.1 (wholeOf o) (rowChunks o r x.bytes [])
    (s1.countElems o.1.tag ([x.m, x.c, x.s].map fun v => binOf v v.isZero false), t)

/-- Write what row r of an operation produces; its own events are charged to its main result. -/
def State.writeRop (s : State) (g : Nat) (m : List TlbEntry) (i : Issued) (c r : Nat) (out : RowOut) (k : Cnt) : State × Trouble :=
  let first := if c = 0x2C then i.opB else i.opD
  let (s1, t1) := s.writeRow g m (wholeOf first) first r (if c = 0x2C then out.b else out.d) k
  match t1 with
  | .none =>
    if c = 0x2C then s1.writeRow g m (wholeOf i.opD) i.opD r out.d {}
    else s1.writeState g m (if c = 0x29 then i.opC else i.opA) r out.st
  | t => (s1, t)

/-- Row r from its reads to its writes; true where a bad read or write has ended the operation. -/
def State.doRow (s : State) (g : Nat) (m : List TlbEntry) (i : Issued) (c : Nat) (f : RopFields) (tile : List InRow) (r : Nat) :
    State × Bool :=
  let (s1, x, bad) := s.readRop g m i c f tile r
  match bad with
  | some b => (s1.onBad g 0x05 b, true)
  | none =>
    let y := (ropRow (s1.env g) i c f r x).run {}
    let (s2, t) := s1.writeRop g m i c r y.1 y.2
    match t with
    | .none => (s2, false)
    | t => (s2.onTrouble g (opClass i.op) t, true)

/-- The rows in ascending order, each complete before the next is read (R190). -/
def State.doRows (s : State) (g : Nat) (m : List TlbEntry) (i : Issued) (c : Nat) (f : RopFields) (tile : List InRow) :
    State × Bool :=
  (List.range i.dd.rows).foldl (fun (acc : State × Bool) r => if acc.2 then acc else acc.1.doRow g m i c f tile r) (s, false)

def State.startRop (s : State) (g : Nat) (i : Issued) (ropc : BitVec 8) (f : RopFields) : State :=
  let c := ropc.toNat
  if !s.ropOk g i c f then s.opFault g i 2
  else s.runOp g i (ropReads i c f) (ropWrites i c) fun s1 m =>
    let x : Source := if f.srck = 0 then ⟨s1, [], {}, none⟩
      else s1.readSource g m false f.srck f.tile i.opA i.dd.rows (ropLen i c f)
    match x.bad with
    | some b => x.s.onBad g 0x05 b
    | none =>
      let s2 := x.s.charge (if c = 0x2C then i.db.tag else i.dd.tag) (x.evs.add (scalarCnt i c f))
      let (s3, stop) := s2.doRows g m i c f x.rows
      if stop then s3 else s3.finish g i.id

end Sys2Proof.Machine
end

