-- ==== Sys2Proof/Machine/Engine.lean ====
section
/-!
DEFINITION. Sys2Proof/Machine/Engine.lean: what the stations of a hummock do with the instructions in their queues: hazards
(07 R162), order, starts, retirement (R164), and what waits on it (R168, R171, R172, R176).
-/

namespace Sys2Proof.Machine

/-! ### Regions of an instruction (R162) -/

def opReads (h : Hummock) (i : Issued) : List Region :=
  match i.op with
  | .lload .. | .lpass _ => latReads h i
  | .wmove f => regionsOf (i.da, f.sfmt)
  | .wconv f | .wred f => (weirReads i f).flatMap regionsOf
  | .csend f => regionsOf (i.da, f.fmt)
  | .rop c f => (ropReads i c.toNat f).flatMap regionsOf
  | .scfg _ | .sspill _ | .sclr .. => []

/-- Operands that an instruction writes. -/
def writeOps (i : Issued) : List Opnd :=
  match i.op with
  | .wmove f => [(i.db, f.sfmt)]
  | .wconv f => weirWrites i f.dfmt
  | .wred f => if f.dstk then [] else weirWrites i fmt32
  | .csend f => [(i.db, if f.red then fmt32 else f.fmt)]
  | .rop c _ => ropWrites i c.toNat
  | _ => []

def readOps (i : Issued) : List Opnd :=
  match i.op with
  | .wmove f => [(i.da, f.sfmt)]
  | .wconv f | .wred f => weirReads i f
  | .csend f => [(i.da, f.fmt)]
  | .rop c f => ropReads i c.toNat f
  | _ => []

def opWrites (i : Issued) : List Region := (writeOps i).flatMap regionsOf

/-- No earlier unretired instruction stands in the way (R162), and no weight tile held open would be overwritten (03 R75). -/
def hazardFree (h : Hummock) (i : Issued) : Bool :=
  !anyOverlap (opWrites i) h.heldTiles &&
  (earlier h i).all fun j =>
    !anyOverlap (opWrites i) (opReads h j) && !anyOverlap (opWrites i) (opWrites j) && !anyOverlap (opReads h i) (opWrites j)

/-! ### Starting (R164, R165, R190) -/

def isLattice : StOp → Bool
  | .lload .. | .lpass _ => true
  | _ => false

/-- The source kind of an instruction that may take a STREAM group, with its station. -/
def streamUser : StOp → Option Bool
  | .wconv f | .wred f => if f.srck = 3 then some true else none
  | .rop _ f => if f.srck = 3 then some false else none
  | _ => none

/-- The group that it would take is there, and no spill of its tile is in progress (04 R104, R108). -/
def groupReady (h : Hummock) (op : StOp) : Bool :=
  match streamUser op with
  | some w => (h.nextGroup w).any fun q => !(h.tile q.tile.toNat).spilling
  | none => true

/-- Instruction i may start: its station has begun everything before it, no hazard stands, it has the tiles and slots that it
acquires, and its STREAM group is there. -/
def State.mayStart (s : State) (g : Nat) (i : Issued) : Bool :=
  let h := s.hum g
  i.phase == .queued && !isLattice i.op && !((earlier h i).any fun j => j.phase == .queued && opClass j.op == opClass i.op) &&
    hazardFree h i && h.atHead (s.env g).mode i && h.settledFor i && groupReady h i.op

def State.startOp (s : State) (g : Fin 96) (i : Issued) : State :=
  match i.op with
  | .lload .. | .lpass _ => s
  | .scfg f => s.startScfg g i f
  | .sspill t => s.startSspill g i t.toNat
  | .sclr t p => s.startSclr g i t.toNat p
  | .wmove f => s.startMove g i f
  | .wconv f => s.startConv g i f
  | .wred f => s.startRed g i f
  | .csend f => s.startSend g i f
  | .rop c f => s.startRop g i c f

/-- Start every queued instruction that may start, in issue order. -/
def State.pump (s : State) (g : Fin 96) : State :=
  (s.hum g).unret.foldl (fun (acc : State) x =>
    match (acc.hum g).unret.find? fun j => j.id == x.id with
    | none => acc
    | some i => if acc.mayStart g i then acc.startOp g i else acc) s

/-! ### What waits on retirement -/

/-- The stations of MASK (R169): Weir, Lattices and Sump, Reed, Causeway. -/
def inMask (m : BitVec 4) (op : StOp) : Bool :=
  match opClass op with
  | 0x02 => m.getLsbD 0
  | 0x03 | 0x04 => m.getLsbD 1
  | 0x05 => m.getLsbD 2
  | _ => m.getLsbD 3

/-- A signal leaves the sequencer: to a home of this device, or to another member (R176, R179). A RANK outside the group
names no device. -/
def State.sendSig (s : State) (g : Fin 96) (x : Sig) : State :=
  if x.rem then
    if x.rank.toNat < s.groupSize then
      s.inject { s.ownPacket 0x03 0 (s.memberDev x.rank.toNat) with
        ctx := x.ctx, slu := x.slu, addr := x.inc.setWidth 64, enc := s.isSealed x.ctx.toNat }
    else s
  else { s with flight := s.flight ++ [(g, x)] }

/-- Signals leave in issue order, each once what it waits for has retired; `fuel` is at least their number. -/
def State.flushSigs (s : State) (g : Fin 96) : Nat → State
  | 0 => s
  | fuel + 1 =>
    let h := s.hum g
    match h.seq.sigs with
    | [] => s
    | x :: rest =>
      if x.after.all fun id => !(h.unret.any fun i => i.id == id) then
        State.flushSigs ((s.setHum g { h with seq := { h.seq with sigs := rest } }).sendSig g x) g fuel
      else s

/-- END with everything retired: its end is reported to the SCP (R172). -/
def State.endNow (s : State) (g : Fin 96) : State :=
  let h := s.hum g
  let s1 := s.setHum g { h with seq := { h.seq with st := .ended, wake := false, stall := none } }
  match h.holder with
  | some x => s1.modLaunch x.launch fun l => { l with ended := l.ended + 1 }
  | none => s1

/-- WAITP with everything retired (R171). -/
def State.waitNow (s : State) (g : Fin 96) : State :=
  s.modHum g fun h =>
    if h.pmode then { h.gate with holder := h.holder, seq := { Sequencer.reset with st := .gated } }
    else { h with power := .still, seq := { h.seq with st := .still, stall := none } }

/-- The stall in which the sequencer stands ends, if nothing that it waits for is left. -/
def State.recheck (s : State) (g : Fin 96) : State :=
  let h := s.hum g
  match h.seq.stall with
  | some (.fence m) => if h.unret.any fun i => inMask m i.op then s else (s.modHum g Hummock.resume).codeFault g
  | some .ended => if h.unret = [] ∧ h.seq.sigs = [] then s.endNow g else s
  | some .waitp => if h.unret = [] ∧ h.seq.sigs = [] then s.waitNow g else s
  | some .queue => s.modHum g Hummock.resume
  | _ => s

/-- Let everything of hummock g that can go on do so. -/
def State.advance (s : State) (g : Fin 96) : State :=
  let s1 := s.pump g
  (s1.flushSigs g (s1.hum g).seq.sigs.length).recheck g

/-- Under Paced the hummock has taken n steps since the instruction was issued, or since its load, pass or replay began (17 R432); without
it, no permit is needed. -/
def State.stepped (s : State) (g : Nat) (i : Issued) (n : Nat) : Bool := !s.pwc.paceAct || decide (i.since + n ≤ (s.hum g).steps)

/-- An instruction retires (R164). -/
def State.retire (s : State) (g : Fin 96) (pos : Nat) : State :=
  let s1 := s.pump g
  match (s1.hum g).unret[pos]? with
  | some i =>
    if i.phase == .done && s1.stepped g i 1 then
      (s1.modHum g fun h => { h.dropHolds i with unret := h.unret.eraseIdx pos }).advance g
    else s1
  | none => s1

end Sys2Proof.Machine
end

