-- ==== Sys2Proof/Machine/Stations.lean ====
section
/-!
DEFINITION. Sys2Proof/Machine/Stations.lean: the events of the stations as commands (03 R69 to R76; 04 R97, R103; 07 R164,
R165, R176), and the placement of a station program (07 R166, R187, R509; 17 R435).
-/

namespace Sys2Proof.Machine

/-! ### Retirement and signals -/

/-- The instruction at place pos of the unretired ones retires (R164); what may go on goes on. -/
def execInstructionRetire (g : Hum) (pos : Fin 32) (s : State) : Host.Outcome State Fault Refusal := .next (s.retire g pos)

/-- A signal is an older attempt's of the launch that the sluice records (R181). -/
def Sluice.stale (x : Sluice) (y : Sig) : Bool := x.launch == some y.launch && y.att.toNat < x.att.toNat

/-- The oldest signal sent by hummock g arrives at its home (R176 to R178, R181). -/
def State.signalHome (s : State) (g : Fin 96) : State :=
  match s.flight.find? fun p => p.1 == g with
  | none => s
  | some p =>
    let y := p.2
    let s1 := { s with flight := s.flight.erase p }
    match s1.sluiceOf y.ctx.toNat y.slu.toNat with
    | none => s1.violSluice
    | some n =>
      if (s1.sluice n).stale y then s1
      else
        let (s2, ovf) := s1.addSluice n y.inc.toNat
        if ovf then s2.programFault g 6 0x30 0x01 y.pc else s2

def execSignalAtHome (g : Hum) (s : State) : Host.Outcome State Fault Refusal := .next (s.signalHome g)

/-! ### Lattices -/

/-- The earliest queued load of Lattice l. -/
def queuedLoad (h : Hummock) (l : Nat) : Option Issued := h.unret.find? fun i => isLoadOf l i && i.phase == .queued

/-- Every pass in a list that `on` picks has entered its last row. -/
def allEntered (h : Hummock) (on : Issued → Bool) (is : List Issued) : Bool :=
  is.all fun j => !on j || (match j.op with
    | .lpass f => rowsEntered h j f
    | _ => true)

/-- Every pass issued before it on its Lattice has entered its last row (R73, R74). -/
def loadMayStart (h : Hummock) (l : Nat) (i : Issued) : Bool :=
  allEntered h (isPassOn l) (earlier h i) && hazardFree h i

def State.loadStart (s : State) (g l : Nat) : State :=
  let h := s.hum g
  match queuedLoad h l with
  | some i =>
    match i.op with
    | .lload _ f km1 nm1 => if loadMayStart h l i then s.startLoad g i l f km1 nm1 else s
    | _ => s
  | none => s

def execLloadStart (g : Hum) (lat : BitVec 2) (s : State) : Host.Outcome State Fault Refusal := .next (s.loadStart g lat.toNat)

/-- The earliest load that runs on Lattice l completes: LOADED (R69). -/
def State.loadDone (s : State) (g l : Nat) : State :=
  match (s.hum g).unret.find? fun i => isLoadOf l i && i.phase == .running && s.stepped g i 256 with
  | some i =>
    (s.modHum g fun h =>
      let x := h.lat l
      if x.loading == some i.id then h.setLat l x.latched else h).finish g i.id
  | none => s

def execLloadComplete (g : Hum) (lat : BitVec 2) (s : State) : Host.Outcome State Fault Refusal :=
  .next ((s.loadDone g lat.toNat).advance g)

/-- The earliest queued pass takes the Chord: every pass before it has entered its last row (R62), every earlier load of its
Lattices has completed (R74). -/
def passMayStart (h : Hummock) (i : Issued) (f : PassFields) : Bool :=
  allEntered h (fun _ => true) (earlier h i) &&
  ((earlier h i).all fun j => j.phase == .done || !((passLats f).any fun l => isLoadOf l j)) && hazardFree h i

def State.passStart (s : State) (g : Nat) : State :=
  let h := s.hum g
  match h.unret.findSome? fun i => match i.op, i.phase with
      | .lpass f, .queued => some (i, f)
      | _, _ => none with
  | some (i, f) => if passMayStart h i f then s.startPass g i f else s
  | none => s

def execLpassStart (g : Hum) (s : State) : Host.Outcome State Fault Refusal := .next (s.passStart g)

/-- The pass that runs has its tiles: the operations before it there have committed, and no group is on them. Under Paced it has taken
the steps of its first n rows and of the commit (03 R72; 17 R432). -/
def State.hasTiles (s : State) (g : Nat) (i : Issued) (n : Nat) : Bool :=
  (s.hum g).atHead (s.env g).mode i && (s.hum g).settledFor i && s.stepped g i (n + 268)

def State.passCommit (s : State) (g : Nat) : State :=
  match runningPass (s.hum g) with
  | some (i, f) =>
    match s.passRun g i f with
    | some p => if !f.out && s.hasTiles g i (f.mm1.toNat + 1) then s.commitPass g i f p else s
    | none => s
  | none => s

def execLpassCommit (g : Hum) (s : State) : Host.Outcome State Fault Refusal := .next ((s.passCommit g).advance g)

def State.groupCommit (s : State) (g : Nat) : State :=
  match runningPass (s.hum g) with
  | some (i, f) =>
    match s.passRun g i f with
    | some p => if f.out && s.hasTiles g i (Nat.min (f.mm1.toNat + 1) (256 * (i.groups + 1))) && ringFree (s.hum g) i f then s.commitGroup g i f p else s
    | none => s
  | none => s

def execStreamGroupCommit (g : Hum) (s : State) : Host.Outcome State Fault Refusal := .next ((s.groupCommit g).advance g)

/-- The destination of a group has read it, and acknowledges it (R71, R165). -/
def execStreamGroupAck (g : Hum) (tile : BitVec 4) (s : State) : Host.Outcome State Fault Refusal :=
  let h := s.hum g
  match h.groups.find? fun q => q.tile == tile && q.taken with
  | some q => .next ((s.setHum g { h with groups := h.groups.erase q }).advance g)
  | none => .next s

def execSpillComplete (g : Hum) (tile : BitVec 4) (s : State) : Host.Outcome State Fault Refusal :=
  .next ((s.spillDone g tile.toNat).advance g)

/-! ### Placement -/

/-- The program table entry of logical hummock lhum (R184), which SCP sec reads. -/
def State.programEntry (s : State) (l : Launch) (sec lhum : Nat) : State × Option (List Byte) :=
  match s.imageRead l 0x20 sec 0 128 with
  | (s1, some h) => s1.imageRead l 0x20 sec (field h 0x30 4 + 32 * lhum) 32
  | (s1, none) => (s1, none)

/-- Hummock g may take a program of context c (R423, R435; 16): none holds it, it is not withheld, and one that a sealed context
held last has been Gated before another takes it. -/
def State.canPlace (s : State) (g : Fin 96) (c : BitVec 6) : Bool :=
  let h := s.hum g
  h.holder.isNone && h.power != .inReset && s.procReady (secOf g) && !(s.mss.withheld ||| s.mss.withheldUe).getLsbD g &&
    (match h.lastSealed with
      | some x => x == c || h.power == .gated
      | none => true)

/-- CAPG hummocks are used only when no other can be (R435). -/
def State.capOk (s : State) (g : Fin 96) (c : BitVec 6) : Bool :=
  !(s.hum g).capg || !((List.finRange 96).any fun k => s.canPlace k c && !(s.hum k).capg)

/-- The launch that dispatch has opened and whose logical hummock lhum has no place yet. -/
def State.toPlace (s : State) (lhum : Nat) : Option Launch :=
  match s.running with
  | some l =>
    if s.ep.st == .running && l.js == .dispatched && s.ep.failedAtt != some s.ep.att && l.cause.isNone && lhum < l.nhum &&
        !((List.range 96).any fun k => match (s.hum k).holder with
          | some x => x.launch == l.id && x.lhum.toNat == lhum
          | none => false)
    then some l else none
  | none => none

/-- The program table entry as a holder. ENTRY is 32 bits wide and PC 23: an ENTRY of 2^23 or more starts at ENTRY mod 2^23, a choice
of the model (log 82). -/
def holderOf (s : State) (l : Launch) (lhum : BitVec 7) (e : List Byte) : Holder :=
  { launch := l.id, att := l.att, ctx := l.ctx, lhum := lhum, nhum := l.nhum, mode := l.mode, seed := l.seed, imgCtx := l.imgCtx
    code := l.image + BitVec.ofNat 64 (field e 0 4), codeLen := field e 4 4
    descBase := l.image + BitVec.ofNat 64 (field e 8 4), ndesc := field e 12 4, entry := BitVec.ofNat 23 (field e 16 4)
    isSealed := s.isSealed l.ctx.toNat }

/-- Events of an earlier attempt's operations on its tiles and slots go to no tag of the new one (06 R150).
The hummock takes the program: HUM_PCTL and HUM_WAKEVEC are written by the SCP with values that the specification does not
give (log 41); a powered one starts at ENTRY with cleared scalar registers and descriptors. No weight tile is held open for it
(log 112). -/
def Hummock.placed (h : Hummock) (x : Holder) (pctl wvec : Nat) : Hummock :=
  let h1 := { ((h.dropEvs).setPctl (BitVec.ofNat 64 pctl)) with
    wvec := BitVec.ofNat 23 wvec, holder := some x, sealedLast := none, capg := false
    lats := h.freeTiles }
  match h.power with
  | .running | .still => { h1 with power := .running, seq := { Sequencer.reset with st := .issuing, pc := x.entry } }
  | _ => { h1 with seq := Sequencer.reset }

def State.place (s : State) (g : Fin 96) (x : Holder) : State :=
  let (k, s1) := s.draw
  let (j, s2) := s1.draw
  let s3 := (s2.modHum g fun h => h.placed x (Config.freeNat k) (Config.freeNat j)).jot (secOf g)
  match (s3.hum g).power with
  | .gated | .waking => s3.requestWake g true
  | .running => s3.codeFault g
  | _ => s3

/-- PLACEMENT. Where the image header or the program table cannot be read for a translation fault, the logical hummock stays unplaced
and the attempt ends by its timers, which is the model's choice: R22 and R184 are silent (log 123). -/
def execPlacement (g : Hum) (lhum : BitVec 7) (s : State) : Host.Outcome State Fault Refusal :=
  match s.toPlace lhum.toNat with
  | some l =>
    if s.canPlace g l.ctx && s.capOk g l.ctx then
      match s.programEntry l (secOf g) lhum.toNat with
      | (s1, some e) => .next (s1.place g (holderOf s1 l lhum e))
      | (s1, none) => .next s1
    else .next s
  | none => .next s

end Sys2Proof.Machine
end

