-- ==== Sys2Proof/Machine/Sequencer.lean ====
section
/-!
DEFINITION. Sys2Proof/Machine/Sequencer.lean: the sequencer (07 R166 to R181): when an instruction issues, scalar and control
instructions, descriptors, sluices, and the issue of station instructions.
-/

namespace Sys2Proof.Machine

/-! ### Issue -/

/-- The sequencer of g can issue: a launch holds it, it has power, and it neither waits nor has stopped. A queue or hazard
stall lets the same instruction try again. -/
def Hummock.canIssue (h : Hummock) : Bool :=
  h.holder.isSome && h.power == .running && (h.seq.st == .issuing || (h.seq.st == .waitQueue && h.seq.stall == some .queue))

/-- An instruction with opcode opc raises a program fault (R174, R175). -/
def State.seqFault (s : State) (g cause opc : Nat) : State := s.programFault g cause opc 0x01 (s.hum g).seq.pc

def Hummock.modSeq (h : Hummock) (f : Sequencer → Sequencer) : Hummock := { h with seq := f h.seq }

def Sequencer.next (q : Sequencer) : Sequencer := { q with pc := q.pc + 1 }

/-- Issue an instruction of hummock g: nothing where the sequencer cannot issue, CODE_RANGE where PC has passed the program's
code, otherwise its effect, and CODE_RANGE again where it leaves PC beyond the code. -/
def State.issue (s : State) (g : Fin 96) (act : State → State) : State :=
  if !(s.hum g).canIssue then s
  else
    let s1 := s.codeFault g
    if (s1.hum g).seq.st == .faulted then s1
    else
      let s2 := act (if (s.hum g).seq.stall = none then s
        else s.modHum g fun h => h.modSeq fun q => { q with st := .issuing, stall := none })
      if (s2.hum g).seq.st == .issuing then s2.codeFault g else s2

/-- A scalar instruction: it changes the sequencer, and PC goes to the next instruction. -/
def State.scalar (s : State) (g : Fin 96) (f : Sequencer → Sequencer) : State :=
  s.issue g fun t => t.modHum g fun h => h.modSeq fun q => (f q).next

/-- Scalar register i; x0 reads 0 (R166). -/
def Sequencer.reg (q : Sequencer) (i : BitVec 5) : BitVec 64 := if i = 0 then 0 else sget 0 q.x i.toNat

/-- Write scalar register i; writes to x0 are ignored (R166). -/
def Sequencer.setReg (q : Sequencer) (i : BitVec 5) (v : BitVec 64) : Sequencer :=
  if i = 0 then q else { q with x := sset 0 q.x i.toNat v }

def sext (imm : BitVec 32) : BitVec 64 := imm.signExtend 64

/-- The operand b of the ALU rows (R168). -/
def Sequencer.opb (q : Sequencer) (xb : BitVec 5) (imm : BitVec 32) : BitVec 64 := if xb = 0 then sext imm else q.reg xb

/-- PC + sext(IMM), in 23 bits. -/
def Sequencer.branch (q : Sequencer) (imm : BitVec 32) : Sequencer := { q with pc := q.pc + (sext imm).setWidth 23 }

/-! ### Scalar and control instructions (R168, R169) -/

def execNopInstr (g : Hum) (s : State) : Host.Outcome State Fault Refusal := .next (s.scalar g fun q => q)

/-- The sequencer stalls until what it waits for is done. -/
def State.stallFor (s : State) (g : Fin 96) (w : Stall) : State :=
  (s.modHum g fun h => h.modSeq fun q => { q.next with st := .waitQueue, stall := some w }).advance g

def execEndProg (g : Hum) (s : State) : Host.Outcome State Fault Refusal := .next (s.issue g fun t => t.stallFor g .ended)

def execWaitp (g : Hum) (s : State) : Host.Outcome State Fault Refusal := .next (s.issue g fun t => t.stallFor g .waitp)

def execFence (g : Hum) (mask : BitVec 4) (s : State) : Host.Outcome State Fault Refusal :=
  .next (s.issue g fun t => t.stallFor g (.fence mask))

def execBr (g : Hum) (imm : BitVec 32) (s : State) : Host.Outcome State Fault Refusal :=
  .next (s.issue g fun t => t.modHum g fun h => h.modSeq fun q => q.branch imm)

/-- COND of R169; none for a reserved code. -/
def brCond (c : BitVec 3) (a b : BitVec 64) : Option Bool :=
  if c = 0 then some (a == b) else if c = 1 then some (a != b) else if c = 2 then some (a.slt b)
  else if c = 3 then some (!a.slt b) else if c = 4 then some (a.ult b) else if c = 5 then some (!a.ult b) else none

def execBrc (g : Hum) (xa xb : BitVec 5) (cond : BitVec 3) (imm : BitVec 32) (s : State) : Host.Outcome State Fault Refusal :=
  .next (s.issue g fun t =>
    let q := (t.hum g).seq
    match brCond cond (q.reg xa) (q.reg xb) with
    | some true => t.modHum g fun h => h.modSeq fun q => q.branch imm
    | some false => t.modHum g fun h => h.modSeq Sequencer.next
    | none => t.seqFault g 1 0x09)

/-- LOOP: decrement, and branch while the result is not 0. -/
def Sequencer.loop (q : Sequencer) (xd : BitVec 5) (imm : BitVec 32) : Sequencer :=
  let v := q.reg xd - 1
  let q1 := q.setReg xd v
  if v = 0 then q1.next else q1.branch imm

def execLoop (g : Hum) (xd : BitVec 5) (imm : BitVec 32) (s : State) : Host.Outcome State Fault Refusal :=
  .next (s.issue g fun t => t.modHum g fun h => h.modSeq fun q => q.loop xd imm)

def execLi (g : Hum) (xd : BitVec 5) (imm : BitVec 32) (s : State) : Host.Outcome State Fault Refusal :=
  .next (s.scalar g fun q => q.setReg xd (sext imm))

def execLui (g : Hum) (xd : BitVec 5) (imm : BitVec 32) (s : State) : Host.Outcome State Fault Refusal :=
  .next (s.scalar g fun q => q.setReg xd (imm ++ (q.reg xd).extractLsb' 0 32))

def execAdd (g : Hum) (xd xa xb : BitVec 5) (imm : BitVec 32) (s : State) : Host.Outcome State Fault Refusal :=
  .next (s.scalar g fun q => q.setReg xd (q.reg xa + q.opb xb imm))

def execSub (g : Hum) (xd xa xb : BitVec 5) (imm : BitVec 32) (s : State) : Host.Outcome State Fault Refusal :=
  .next (s.scalar g fun q => q.setReg xd (q.reg xa - q.opb xb imm))

def execAnd (g : Hum) (xd xa xb : BitVec 5) (imm : BitVec 32) (s : State) : Host.Outcome State Fault Refusal :=
  .next (s.scalar g fun q => q.setReg xd (q.reg xa &&& q.opb xb imm))

def execOr (g : Hum) (xd xa xb : BitVec 5) (imm : BitVec 32) (s : State) : Host.Outcome State Fault Refusal :=
  .next (s.scalar g fun q => q.setReg xd (q.reg xa ||| q.opb xb imm))

def execXor (g : Hum) (xd xa xb : BitVec 5) (imm : BitVec 32) (s : State) : Host.Outcome State Fault Refusal :=
  .next (s.scalar g fun q => q.setReg xd (q.reg xa ^^^ q.opb xb imm))

def execShl (g : Hum) (xd xa xb : BitVec 5) (imm : BitVec 32) (s : State) : Host.Outcome State Fault Refusal :=
  .next (s.scalar g fun q => q.setReg xd (q.reg xa <<< ((q.opb xb imm).toNat % 64)))

def execShr (g : Hum) (xd xa xb : BitVec 5) (imm : BitVec 32) (s : State) : Host.Outcome State Fault Refusal :=
  .next (s.scalar g fun q => q.setReg xd (q.reg xa >>> ((q.opb xb imm).toNat % 64)))

def execMul (g : Hum) (xd xa xb : BitVec 5) (imm : BitVec 32) (s : State) : Host.Outcome State Fault Refusal :=
  .next (s.scalar g fun q => q.setReg xd (q.reg xa * q.opb xb imm))

/-- The parameter block that the launch bound at admission (R173). -/
def State.paramsOf (s : State) (g : Nat) : List Byte :=
  match (s.hum g).holder.bind fun x => s.launchOf x.launch with
  | some l => l.params
  | none => []

def execPld (g : Hum) (xd xa : BitVec 5) (imm : BitVec 32) (s : State) : Host.Outcome State Fault Refusal :=
  .next (s.issue g fun t =>
    let off := ((t.hum g).seq.reg xa + sext imm).toNat
    let p := t.paramsOf g
    if off % 8 = 0 ∧ off + 8 ≤ p.length then
      t.modHum g fun h => h.modSeq fun q => (q.setReg xd (BitVec.ofNat 64 (field p off 8))).next
    else t.seqFault g 5 0x1A)

/-- Offsets that SRD may name (R168). -/
def srdOk (off : Nat) : Bool :=
  off == 0 || off == 0x1000 || off == 0x1018 || (0x4000 ≤ off && off < 0x4080 && off % 8 == 0)

/-- PC in HUM_SEQ_STATUS is that of the next issue. -/
def execSrd (g : Hum) (xd : BitVec 5) (imm : BitVec 32) (s : State) : Host.Outcome State Fault Refusal :=
  .next (s.issue g fun t =>
    if srdOk imm.toNat then
      t.modHum g fun h =>
        let h1 := h.modSeq Sequencer.next
        h1.modSeq fun q => q.setReg xd (readHumReg h1 g imm.toNat)
    else t.seqFault g 1 0x1B)

def Hummock.codeLen (h : Hummock) : Nat :=
  match h.holder with
  | some x => x.codeLen
  | none => 0

def execSwr (g : Hum) (xa : BitVec 5) (imm : BitVec 32) (s : State) : Host.Outcome State Fault Refusal :=
  .next (s.issue g fun t =>
    let v := (t.hum g).seq.reg xa
    if imm = 0x1008 then t.modHum g fun h => (h.setPctl v).modSeq Sequencer.next
    else if imm = 0x1010 then
      (if (t.hum g).codeLen ≤ (v.extractLsb' 0 23).toNat then t.seqFault g 3 0x1C
       else t.modHum g fun h => { h.modSeq Sequencer.next with wvec := v.extractLsb' 0 23 })
    else t.seqFault g 1 0x1C)

/-! ### Descriptors (R157, R166, R169, R185) -/

def Sequencer.desc1 (q : Sequencer) (td : BitVec 6) : DescCap := ⟨sget 0 q.desc td.toNat, sget 0 q.org td.toNat⟩

def Sequencer.setDesc (q : Sequencer) (td : BitVec 6) (d : DescCap) : Sequencer :=
  { q with desc := sset 0 q.desc td.toNat d.raw, org := sset 0 q.org td.toNat d.org }

/-- The bits of a descriptor that R157 does not reserve; the others are ignored and read zero (00 R6). -/
def descMask : BitVec 256 := BitVec.ofNat 256 ((2 ^ 250 - 1) - 2 ^ 191 - (2 ^ 64 - 2 ^ 55))

/-- DSET: an entry of the program's descriptor table, read from the image. -/
def State.descSet (s : State) (g : Fin 96) (td : BitVec 6) (imm : Nat) : State :=
  match (s.hum g).holder with
  | none => s
  | some x =>
    if x.ndesc ≤ imm then s.seqFault g 4 0x20
    else
      let c := x.imgCtx.toNat
      let va := (x.descBase.toNat + 32 * imm) % 2 ^ 52
      match s.xlateVia (some (secOf g)) c va 32 false with
      | (s1, m, .ok _) =>
        if s1.framesBusy m then s
        else
          let r := s1.vaRead m c va 32
          match r.trouble with
          | .none =>
            r.s.modHum g fun h => h.modSeq fun q => (q.setDesc td ⟨BitVec.ofNat 256 (leNat r.bytes) &&& descMask, 0⟩).next
          | t => r.s.onTrouble g 0x01 t
      | (s1, m, .fault) => (s1.xlatEvent (secOf g) c (faultVa m c va 32)).seqFault g 7 0x20
      | (s1, _, .poison d) => s1.onTrouble g 0x01 (.poisoned d true)

def execDset (g : Hum) (td : BitVec 6) (imm : BitVec 32) (s : State) : Host.Outcome State Fault Refusal :=
  .next (s.issue g fun t => t.descSet g td imm.toNat)

/-- Bits [lo, lo + w) of a word replaced by the low bits of v. -/
def putField {n : Nat} (x : BitVec n) (lo w : Nat) (v : BitVec 64) : BitVec n :=
  let m : BitVec n := BitVec.ofNat n ((2 ^ w - 1) * 2 ^ lo)
  (x &&& ~~~m) ||| (BitVec.ofNat n (v.toNat % 2 ^ w * 2 ^ lo) &&& m)

/-- Place and width of a descriptor field of DPATCH (R157, R169). -/
def patchPlace (f : BitVec 4) : Option (Nat × Nat) :=
  if f = 0 then some (0, 52) else if f = 1 then some (64, 52) else if f = 2 then some (128, 32)
  else if f = 3 then some (192, 16) else if f = 4 then some (208, 20) else if f = 5 then some (116, 12)
  else if f = 6 then some (160, 31) else if f = 7 then some (228, 15) else if f = 8 then some (243, 7)
  else if f = 9 then some (52, 3) else none

/-- DPATCH of one descriptor; none for a reserved FIELD. -/
def DescCap.patch (d : DescCap) (f : BitVec 4) (v : BitVec 64) : Option DescCap :=
  if f = 10 then some { d with org := putField d.org 0 32 v }
  else if f = 11 then some { d with org := putField d.org 32 32 v }
  else (patchPlace f).map fun p => { d with raw := putField d.raw p.1 p.2 v }

def execDpatch (g : Hum) (td : BitVec 6) (fld : BitVec 4) (xa : BitVec 5) (s : State) : Host.Outcome State Fault Refusal :=
  .next (s.issue g fun t =>
    let q := (t.hum g).seq
    match (q.desc1 td).patch fld (q.reg xa) with
    | some d => t.modHum g fun h => h.modSeq fun q => (q.setDesc td d).next
    | none => t.seqFault g 1 0x21)

/-- EBASE and SBASE move, modulo 2^52. -/
def DescCap.addBases (d : DescCap) (a b : BitVec 64) : DescCap :=
  { d with raw := putField (putField d.raw 0 52 (d.raw.extractLsb' 0 64 + a)) 64 52 (d.raw.extractLsb' 64 64 + b) }

def execDadd (g : Hum) (td : BitVec 6) (xa xb : BitVec 5) (s : State) : Host.Outcome State Fault Refusal :=
  .next (s.scalar g fun q => q.setDesc td ((q.desc1 td).addBases (q.reg xa) (q.reg xb)))

/-! ### SIGNAL and WAIT (R176 to R179) -/

def State.sendSignal (s : State) (g : Fin 96) (slu : BitVec 15) (inc : BitVec 16) (rem : Bool) (rank : BitVec 15)
    (wmask : BitVec 4) : State :=
  let h := s.hum g
  match h.holder with
  | none => s
  | some x =>
    let y : Sig :=
      { slu := slu, inc := inc, rem := rem, rank := rank, ctx := x.ctx, launch := x.launch, att := x.att
        after := (h.unret.filter fun i => inMask wmask i.op).map fun i => i.id, pc := h.seq.pc }
    (s.setHum g (h.modSeq fun q => { q.next with sigs := q.sigs ++ [y] })).advance g

def execSignal (g : Hum) (slu : BitVec 15) (inc : BitVec 16) (rem : Bool) (rank : BitVec 15) (wmask : BitVec 4) (s : State) :
    Host.Outcome State Fault Refusal :=
  .next (s.issue g fun t => if inc = 0 then t.seqFault g 2 0x30 else t.sendSignal g slu inc rem rank wmask)

/-- WAIT: a sluice outside the range counts zero (R178). -/
def State.waitSluice (s : State) (g : Fin 96) (slu : BitVec 15) (thr : BitVec 32) (cons : Bool) : State :=
  if thr = 0 then s.modHum g fun h => h.modSeq Sequencer.next
  else
    let s1 := s.modHum g fun h => h.modSeq fun q => { q.next with st := .waitSluice, stall := some (.sluice slu thr cons) }
    match s.sluiceOf (s.ctxOf g) slu.toNat with
    | none => s1
    | some n =>
      let x := s1.sluice n
      (s1.setSluice n { x with waiters := x.waiters ++ [⟨some g, thr, cons⟩] }).serveAll n

def execWait (g : Hum) (slu : BitVec 15) (thr : BitVec 32) (cons : Bool) (s : State) : Host.Outcome State Fault Refusal :=
  .next (s.issue g fun t => t.waitSluice g slu thr cons)

/-! ### Station instructions (R162, R164, R166) -/

/-- The queue of each station that the instruction enters has room, and fewer than 32 are unretired. -/
def Hummock.hasRoom (h : Hummock) (op : StOp) : Bool :=
  h.unret.length < 32 &&
    (match opClass op with
      | 0x03 => [0, 1, 2, 3].all fun l => !(latMask op).getLsbD l || decide (h.latOccupancy l < 4)
      | 0x04 => decide (h.occupancy 0x04 < 4)
      | c => decide (h.occupancy c < 8))

/-- What an instruction captures: its descriptors and registers. -/
structure Captures where
  da : DescCap := ⟨0, 0⟩
  db : DescCap := ⟨0, 0⟩
  dc : DescCap := ⟨0, 0⟩
  dd : DescCap := ⟨0, 0⟩
  va : BitVec 64 := 0
  vb : BitVec 64 := 0
  vc : BitVec 64 := 0

/-- The instruction as it enters the queue. -/
def Hummock.newIssued (h : Hummock) (op : StOp) (c : Captures) : Issued :=
  { id := h.nextId, op := op, pc := h.seq.pc, da := c.da, db := c.db, dc := c.dc, dd := c.dd, va := c.va, vb := c.vb, vc := c.vc
    phase := .queued, tries := 0, mask := 0, groups := 0, held := h.acquires op, wts := [], outstanding := 0
    since := h.steps }

/-- Issue into the queue; a full queue stalls, and the instruction is to try again. -/
def State.enqueueOp (s : State) (g : Fin 96) (op : StOp) (c : Captures) : State :=
  let h := s.hum g
  if h.hasRoom op then
    (s.setHum g { (h.modSeq Sequencer.next) with unret := h.unret ++ [h.newIssued op c], nextId := h.nextId + 1 }).advance g
  else s.modHum g fun h => h.modSeq fun q => { q with st := .waitQueue, stall := some .queue }

/-- Issue of a station instruction; what can go on goes on first. -/
def State.issueOp (s : State) (g : Fin 96) (op : StOp) (cap : Sequencer → Captures) : State :=
  s.issue g fun t =>
    let t1 := t.pump g
    if (t1.hum g).seq.st == .issuing then t1.enqueueOp g op (cap (t1.hum g).seq) else t1

def execLload (g : Hum) (lat : BitVec 2) (td : BitVec 6) (wfmt : BitVec 12) (km1 : BitVec 9) (nm1 : BitVec 8) (s : State) :
    Host.Outcome State Fault Refusal :=
  .next (s.issueOp g (.lload lat wfmt km1 nm1) fun q => { da := q.desc1 td })

def execLpass (g : Hum) (f : PassFields) (s : State) : Host.Outcome State Fault Refusal :=
  .next (s.issueOp g (.lpass f) fun q => { da := q.desc1 f.td })

def execScfg (g : Hum) (f : ScfgFields) (s : State) : Host.Outcome State Fault Refusal :=
  .next (s.issueOp g (.scfg f) fun q => { va := q.reg f.xk, vb := q.reg f.xc })

def execSspill (g : Hum) (tile : BitVec 4) (s : State) : Host.Outcome State Fault Refusal :=
  .next (s.issueOp g (.sspill tile) fun _ => {})

def execSclr (g : Hum) (tile : BitVec 4) (cpeat : Bool) (s : State) : Host.Outcome State Fault Refusal :=
  .next (s.issueOp g (.sclr tile cpeat) fun _ => {})

def weirCaptures (f : WeirFields) (q : Sequencer) : Captures :=
  { da := q.desc1 f.tds, db := q.desc1 f.tdd, va := q.reg f.xq }

def execWmove (g : Hum) (f : WeirFields) (s : State) : Host.Outcome State Fault Refusal :=
  .next (s.issueOp g (.wmove f) (weirCaptures f))

def execWconv (g : Hum) (f : WeirFields) (s : State) : Host.Outcome State Fault Refusal :=
  .next (s.issueOp g (.wconv f) (weirCaptures f))

def execWred (g : Hum) (f : WeirFields) (s : State) : Host.Outcome State Fault Refusal :=
  .next (s.issueOp g (.wred f) (weirCaptures f))

def execCsend (g : Hum) (f : SendFields) (s : State) : Host.Outcome State Fault Refusal :=
  .next (s.issueOp g (.csend f) fun q => { da := q.desc1 f.tds, db := q.desc1 f.tdd, va := q.reg f.xq })

/-- Issue of a Reed operation (08 R191, R194). -/
def State.issueRop (s : State) (g : Fin 96) (ropc : BitVec 8) (f : RopFields) : State :=
  s.issueOp g (.rop ropc f) fun q =>
    { da := q.desc1 f.tda, db := q.desc1 f.tdb, dc := q.desc1 f.tdc, dd := q.desc1 f.tdd, va := q.reg f.xf, vb := q.reg f.xs
      vc := q.reg f.xp }

def execRopAdd (g : Hum) (f : RopFields) (s : State) : Host.Outcome State Fault Refusal := .next (s.issueRop g 0x00 f)

def execRopSub (g : Hum) (f : RopFields) (s : State) : Host.Outcome State Fault Refusal := .next (s.issueRop g 0x01 f)

def execRopMul (g : Hum) (f : RopFields) (s : State) : Host.Outcome State Fault Refusal := .next (s.issueRop g 0x02 f)

def execDiv (g : Hum) (f : RopFields) (s : State) : Host.Outcome State Fault Refusal := .next (s.issueRop g 0x03 f)

def execFma (g : Hum) (f : RopFields) (s : State) : Host.Outcome State Fault Refusal := .next (s.issueRop g 0x04 f)

def execAxpb (g : Hum) (f : RopFields) (s : State) : Host.Outcome State Fault Refusal := .next (s.issueRop g 0x05 f)

def execSqrt (g : Hum) (f : RopFields) (s : State) : Host.Outcome State Fault Refusal := .next (s.issueRop g 0x06 f)

def execRecip (g : Hum) (f : RopFields) (s : State) : Host.Outcome State Fault Refusal := .next (s.issueRop g 0x07 f)

def execRsqrt (g : Hum) (f : RopFields) (s : State) : Host.Outcome State Fault Refusal := .next (s.issueRop g 0x08 f)

def execExp (g : Hum) (f : RopFields) (s : State) : Host.Outcome State Fault Refusal := .next (s.issueRop g 0x09 f)

def execExp2 (g : Hum) (f : RopFields) (s : State) : Host.Outcome State Fault Refusal := .next (s.issueRop g 0x0A f)

def execLog (g : Hum) (f : RopFields) (s : State) : Host.Outcome State Fault Refusal := .next (s.issueRop g 0x0B f)

def execLog2 (g : Hum) (f : RopFields) (s : State) : Host.Outcome State Fault Refusal := .next (s.issueRop g 0x0C f)

def execTanh (g : Hum) (f : RopFields) (s : State) : Host.Outcome State Fault Refusal := .next (s.issueRop g 0x0D f)

def execSigmoid (g : Hum) (f : RopFields) (s : State) : Host.Outcome State Fault Refusal := .next (s.issueRop g 0x0E f)

def execGelu (g : Hum) (f : RopFields) (s : State) : Host.Outcome State Fault Refusal := .next (s.issueRop g 0x0F f)

def execMax (g : Hum) (f : RopFields) (s : State) : Host.Outcome State Fault Refusal := .next (s.issueRop g 0x10 f)

def execMin (g : Hum) (f : RopFields) (s : State) : Host.Outcome State Fault Refusal := .next (s.issueRop g 0x11 f)

def execMaxnum (g : Hum) (f : RopFields) (s : State) : Host.Outcome State Fault Refusal := .next (s.issueRop g 0x12 f)

def execMinnum (g : Hum) (f : RopFields) (s : State) : Host.Outcome State Fault Refusal := .next (s.issueRop g 0x13 f)

def execCvt (g : Hum) (f : RopFields) (s : State) : Host.Outcome State Fault Refusal := .next (s.issueRop g 0x14 f)

def execRope (g : Hum) (f : RopFields) (s : State) : Host.Outcome State Fault Refusal := .next (s.issueRop g 0x18 f)

def execRsum (g : Hum) (f : RopFields) (s : State) : Host.Outcome State Fault Refusal := .next (s.issueRop g 0x20 f)

def execRmax (g : Hum) (f : RopFields) (s : State) : Host.Outcome State Fault Refusal := .next (s.issueRop g 0x21 f)

def execRssq (g : Hum) (f : RopFields) (s : State) : Host.Outcome State Fault Refusal := .next (s.issueRop g 0x22 f)

def execLnorm (g : Hum) (f : RopFields) (s : State) : Host.Outcome State Fault Refusal := .next (s.issueRop g 0x24 f)

def execRmsn (g : Hum) (f : RopFields) (s : State) : Host.Outcome State Fault Refusal := .next (s.issueRop g 0x25 f)

def execSmxr (g : Hum) (f : RopFields) (s : State) : Host.Outcome State Fault Refusal := .next (s.issueRop g 0x28 f)

def execSmxb (g : Hum) (f : RopFields) (s : State) : Host.Outcome State Fault Refusal := .next (s.issueRop g 0x29 f)

def execAupd (g : Hum) (f : RopFields) (s : State) : Host.Outcome State Fault Refusal := .next (s.issueRop g 0x2A f)

def execAmrg (g : Hum) (f : RopFields) (s : State) : Host.Outcome State Fault Refusal := .next (s.issueRop g 0x2B f)

def execAnorm (g : Hum) (f : RopFields) (s : State) : Host.Outcome State Fault Refusal := .next (s.issueRop g 0x2C f)

def execXent (g : Hum) (f : RopFields) (s : State) : Host.Outcome State Fault Refusal := .next (s.issueRop g 0x30 f)

end Sys2Proof.Machine
end

