-- ==== Sys2Proof/Machine/Hangs.lean ====
section
/-!
DEFINITION. Sys2Proof/Machine/Hangs.lean: the monitored points and the hangs declared there (14 R344 to R347).
-/

namespace Sys2Proof.Machine

/-! ### Hangs (R344 to R347) -/

/-- Monitors count time (R346): no port drains, no firmware processor restarts or hands off. -/
def State.monitorsRun (s : State) : Bool :=
  allPorts.all (fun p => (s.port p).ds == .active) &&
    (List.range 12).all fun i => match (s.proc i).st with
      | .starting | .rebuilding | .quiescing | .handingOff => false
      | _ => true

/-- Hummock g's sequencer is neither idle, ended, Still nor Gated (R346). -/
def Hummock.counted (h : Hummock) : Bool :=
  match h.seq.st with
  | .idle | .ended | .still | .gated => false
  | _ => true

def Hummock.waiting (h : Hummock) : Bool :=
  match h.seq.st with
  | .waitSluice | .waitQueue => true
  | _ => false

/-- A hang at a hummock: a context abort where a launch holds it, an engine reset otherwise (R345). -/
def State.humHang (s : State) (g cls : Nat) : State :=
  if (s.hum g).holder.isSome then s.contextAbort (errCode 1 cls g 0x001) 1
  else s.engineReset g (errCode 2 cls g 0x001)

/-- The spans of device memory that an instruction names. -/
def devSpans (i : Issued) : List (Nat × Nat) := ((readOps i ++ writeOps i).filter fun o => o.1.space == 1).flatMap spansOf

/-- The page of a cached leaf meets [a, a + n) of context c, which goes round at 2^52. -/
def TlbEntry.meets (e : TlbEntry) (c a n : Nat) : Bool :=
  let size := if e.big then frameBytes else 65536
  let base := e.va.toNat / size * size
  e.ctx.toNat == c && ((decide (base < a + n) && decide (a < base + size)) || decide (base + 2 ^ 52 < a + n))

/-- Instructions of hummock h that have not finished and whose operands no earlier one holds back (07 R162). -/
def Hummock.atWork (h : Hummock) : List Issued := h.unret.filter fun i => i.phase != .done && hazardFree h i

/-- The sectors whose memory an instruction of hummock g reaches, under the leaves in its sector's cache (09 R222). -/
def State.memSectors (s : State) (g : Nat) (i : Issued) : List Nat :=
  (devSpans i).flatMap fun a =>
    (s.mem.tlb.filter fun t => t.1 == secOf g && t.2.meets (s.ctxOf g) a.1 a.2).flatMap fun t =>
      (leafFrames t.2).map fun f => f / framesPerSector

/-- The sectors whose hummocks' Mere it reaches. -/
def State.mereSectors (s : State) (g : Nat) (i : Issued) : List Nat :=
  ((readOps i ++ writeOps i).filter fun o => o.1.space == 2).map fun o => secOf (s.mereOf g o.1)

/-- What stands unfinished between sectors, as (from, to): accesses of stations, signals to their homes, contributions (log 124). -/
def State.traffic (s : State) : List (Nat × Nat) :=
  (s.hums.flatMap fun p => p.2.atWork.flatMap fun i =>
      (s.memSectors p.1 i ++ s.mereSectors p.1 i).map fun x => (secOf p.1, x)) ++
    (s.flight.filterMap fun p => (s.sluiceOf p.2.ctx.toNat p.2.slu.toNat).map fun n => (secOf p.1, n / 4096)) ++
    s.mem.contribs.filterMap fun c => c.src.map fun y => (secOf y.1, dpaSector c.dpa)

/-- Something on its way crosses from one sector die to another. -/
def State.meshBusy (s : State) : Bool := s.traffic.any fun x => x.1 != x.2

/-- An access or a contribution is outstanding at sector x's memory (R345): a station's, a zeroing, a copy, or one of BAR2. -/
def State.memBusy (s : State) (x : Nat) : Bool :=
  s.mem.contribs.any (fun c => dpaSector c.dpa == x) || (s.mem.zeroing ++ s.mem.copying).any (fun f => f / framesPerSector == x) ||
    s.link.stalls.any (fun y => (piecesOf (s.bar2Dpa y.1.toNat) (bar2Len y.2)).any fun p => dpaSector p.1 == x) ||
    s.hums.any fun p => p.2.atWork.any fun i => (s.memSectors p.1 i).contains x

/-- An instruction of a hummock of sector x that has not finished uses device memory, which sector x's unit translates. -/
def State.walkBusy (s : State) (x : Nat) : Bool :=
  s.hums.any fun p => secOf p.1 == x && p.2.atWork.any fun i => devSpans i != []

/-- An instruction sends to another device. -/
def sendsOut (i : Issued) : Bool := (writeOps i).any fun o => o.1.space == 3

/-- The router or the hub holds a packet, or an access crosses the hub (R345): from one column of sectors to the other, to
another device, or one of the host's. -/
def State.hubBusy (s : State) : Bool :=
  s.traffic.any (fun x => x.1 / 4 != x.2 / 4) || s.hums.any (fun p => p.2.atWork.any sendsOut) || s.link.stalls != [] ||
    s.cwy.inject != [] || s.cwy.ports.any fun p => p.2.inbuf != [] || p.2.replay != []

/-- The dies of two sectors touch in one column: a mesh crossing joins them (01 R17, R18). -/
def meshLinked (a b : Nat) : Bool := b == a + 1 && a / 4 == b / 4

/-- A contribution is stalled for lack of buffer, and nothing that waits can be taken, so that no open round can close (R345). -/
def State.orbStuck (s : State) (x : Nat) : Bool :=
  s.orbStalled x && s.mem.contribs.all fun c => dpaSector c.dpa != x || !c.ordered || !s.orbRoom c

/-- A hang of a sector or hub unit that holds an unfinished handshake; while the running attempt has failed, an event alone
(R356). -/
def State.unitHang (s : State) (busy : Bool) (code : BitVec 32) (enter : State → BitVec 32 → State) : State :=
  if !busy then s else if s.attemptFailed then s.recOnly code else enter s code

def execHangDeclared (pt : HangPoint) (s : State) : Host.Outcome State Fault Refusal :=
  if !s.monitorsRun || !s.board.coreOn then .next s
  else
    match pt with
    | .station g cls =>
      .next (if (s.hum g).counted && (s.hum g).unret.any (fun i => opClass i.op == cls.toNat && i.phase != .done) then
        s.humHang g cls.toNat else s)
    | .sequencer g => .next (if (s.hum g).waiting then s.humHang g 0x01 else s)
    | .sectorMem x => .next (s.unitHang (s.memBusy x) (errCode 3 0x10 x 0x001) fun t c => t.sectorReset x c)
    | .orbFull x => .next (if s.orbStuck x then s.contextAbort (errCode 1 0x10 x 0x002) 1 else s)
    | .translation x => .next (s.unitHang (s.walkBusy x) (errCode 3 0x11 x 0x001) fun t c => t.sectorReset x c)
    | .meshCrossing a b =>
      .next (s.unitHang (meshLinked a b && s.meshBusy) (errCode 3 0x12 a 0x001) fun t c =>
        (t.sectorReset a c).sectorResetAs b (t.levelRun c))
    | .hubRouter p => .next (s.unitHang s.hubBusy (errCode 4 0x31 p 0x001) fun t c => t.chipReset c true)

end Sys2Proof.Machine
end

