-- ==== Sys2Proof/Machine/Dispatch.lean ====
section
/-!
DEFINITION. Sys2Proof/Machine/Dispatch.lean: one arm per command, each one direct call of its meaning.
-/

namespace Sys2Proof.Machine

def exec (i : Instr) (s : State) : Host.Outcome State Fault Refusal :=
  match i with
  -- the sequencer (07_stations_and_programs.md R168, R169)
  | .nopInstr g => Sys2Proof.Machine.execNopInstr g s
  | .endProg g => Sys2Proof.Machine.execEndProg g s
  | .waitp g => Sys2Proof.Machine.execWaitp g s
  | .fence g mask => Sys2Proof.Machine.execFence g mask s
  | .br g imm => Sys2Proof.Machine.execBr g imm s
  | .brc g xa xb cond imm => Sys2Proof.Machine.execBrc g xa xb cond imm s
  | .loop g xd imm => Sys2Proof.Machine.execLoop g xd imm s
  | .li g xd imm => Sys2Proof.Machine.execLi g xd imm s
  | .lui g xd imm => Sys2Proof.Machine.execLui g xd imm s
  | .add g xd xa xb imm => Sys2Proof.Machine.execAdd g xd xa xb imm s
  | .sub g xd xa xb imm => Sys2Proof.Machine.execSub g xd xa xb imm s
  | .and g xd xa xb imm => Sys2Proof.Machine.execAnd g xd xa xb imm s
  | .or g xd xa xb imm => Sys2Proof.Machine.execOr g xd xa xb imm s
  | .xor g xd xa xb imm => Sys2Proof.Machine.execXor g xd xa xb imm s
  | .shl g xd xa xb imm => Sys2Proof.Machine.execShl g xd xa xb imm s
  | .shr g xd xa xb imm => Sys2Proof.Machine.execShr g xd xa xb imm s
  | .mul g xd xa xb imm => Sys2Proof.Machine.execMul g xd xa xb imm s
  | .pld g xd xa imm => Sys2Proof.Machine.execPld g xd xa imm s
  | .srd g xd imm => Sys2Proof.Machine.execSrd g xd imm s
  | .swr g xa imm => Sys2Proof.Machine.execSwr g xa imm s
  | .dset g td imm => Sys2Proof.Machine.execDset g td imm s
  | .dpatch g td field xa => Sys2Proof.Machine.execDpatch g td field xa s
  | .dadd g td xa xb => Sys2Proof.Machine.execDadd g td xa xb s
  | .signal g slu inc rem rank wmask => Sys2Proof.Machine.execSignal g slu inc rem rank wmask s
  | .wait g slu thr cons => Sys2Proof.Machine.execWait g slu thr cons s
  -- station instructions (R79, R80, R107, R170, R191)
  | .lload g lat td wfmt km1 nm1 => Sys2Proof.Machine.execLload g lat td wfmt km1 nm1 s
  | .lpass g f => Sys2Proof.Machine.execLpass g f s
  | .scfg g f => Sys2Proof.Machine.execScfg g f s
  | .sspill g tile => Sys2Proof.Machine.execSspill g tile s
  | .sclr g tile cpeat => Sys2Proof.Machine.execSclr g tile cpeat s
  | .wmove g f => Sys2Proof.Machine.execWmove g f s
  | .wconv g f => Sys2Proof.Machine.execWconv g f s
  | .wred g f => Sys2Proof.Machine.execWred g f s
  | .csend g f => Sys2Proof.Machine.execCsend g f s
  | .ropAdd g f => Sys2Proof.Machine.execRopAdd g f s
  | .ropSub g f => Sys2Proof.Machine.execRopSub g f s
  | .ropMul g f => Sys2Proof.Machine.execRopMul g f s
  | .div g f => Sys2Proof.Machine.execDiv g f s
  | .fma g f => Sys2Proof.Machine.execFma g f s
  | .axpb g f => Sys2Proof.Machine.execAxpb g f s
  | .sqrt g f => Sys2Proof.Machine.execSqrt g f s
  | .recip g f => Sys2Proof.Machine.execRecip g f s
  | .rsqrt g f => Sys2Proof.Machine.execRsqrt g f s
  | .exp g f => Sys2Proof.Machine.execExp g f s
  | .exp2 g f => Sys2Proof.Machine.execExp2 g f s
  | .log g f => Sys2Proof.Machine.execLog g f s
  | .log2 g f => Sys2Proof.Machine.execLog2 g f s
  | .tanh g f => Sys2Proof.Machine.execTanh g f s
  | .sigmoid g f => Sys2Proof.Machine.execSigmoid g f s
  | .gelu g f => Sys2Proof.Machine.execGelu g f s
  | .max g f => Sys2Proof.Machine.execMax g f s
  | .min g f => Sys2Proof.Machine.execMin g f s
  | .maxnum g f => Sys2Proof.Machine.execMaxnum g f s
  | .minnum g f => Sys2Proof.Machine.execMinnum g f s
  | .cvt g f => Sys2Proof.Machine.execCvt g f s
  | .rope g f => Sys2Proof.Machine.execRope g f s
  | .rsum g f => Sys2Proof.Machine.execRsum g f s
  | .rmax g f => Sys2Proof.Machine.execRmax g f s
  | .rssq g f => Sys2Proof.Machine.execRssq g f s
  | .lnorm g f => Sys2Proof.Machine.execLnorm g f s
  | .rmsn g f => Sys2Proof.Machine.execRmsn g f s
  | .smxr g f => Sys2Proof.Machine.execSmxr g f s
  | .smxb g f => Sys2Proof.Machine.execSmxb g f s
  | .aupd g f => Sys2Proof.Machine.execAupd g f s
  | .amrg g f => Sys2Proof.Machine.execAmrg g f s
  | .anorm g f => Sys2Proof.Machine.execAnorm g f s
  | .xent g f => Sys2Proof.Machine.execXent g f s
  -- steps of the hummock's engines
  | .instructionRetire g pos => Sys2Proof.Machine.execInstructionRetire g pos s
  | .signalAtHome g => Sys2Proof.Machine.execSignalAtHome g s
  | .lloadStart g lat => Sys2Proof.Machine.execLloadStart g lat s
  | .lloadComplete g lat => Sys2Proof.Machine.execLloadComplete g lat s
  | .lpassStart g => Sys2Proof.Machine.execLpassStart g s
  | .lpassCommit g => Sys2Proof.Machine.execLpassCommit g s
  | .spillComplete g tile => Sys2Proof.Machine.execSpillComplete g tile s
  | .streamGroupCommit g => Sys2Proof.Machine.execStreamGroupCommit g s
  | .streamGroupAck g tile => Sys2Proof.Machine.execStreamGroupAck g tile s
  | .placement g lhum => Sys2Proof.Machine.execPlacement g lhum s
  -- the commit protocol (10_epoch_memory_and_commit.md)
  | .dispatch => Sys2Proof.Machine.execDispatch s
  | .localPrepare => Sys2Proof.Machine.execLocalPrepare s
  | .prepare m => Sys2Proof.Machine.execPrepare m s
  | .commit m => Sys2Proof.Machine.execCommit m s
  | .abort m => Sys2Proof.Machine.execAbort m s
  | .abortReq m => Sys2Proof.Machine.execAbortReq m s
  | .query m => Sys2Proof.Machine.execQuery m s
  | .answer m => Sys2Proof.Machine.execAnswer m s
  | .prepareTimeout => Sys2Proof.Machine.execPrepareTimeout s
  | .decideTimeout => Sys2Proof.Machine.execDecideTimeout s
  | .sweepDone => Sys2Proof.Machine.execSweepDone s
  | .frameCopyDone sec frame => Sys2Proof.Machine.execFrameCopyDone sec frame s
  -- base dies (09_memory.md)
  | .srefEntry stack => Sys2Proof.Machine.execSrefEntry stack s
  | .patrolScrubStep sec => Sys2Proof.Machine.execPatrolScrubStep sec s
  | .trInvalidate m => Sys2Proof.Machine.execTrInvalidate m s
  | .trInvalidateDone => Sys2Proof.Machine.execTrInvalidateDone s
  | .orbCommit m sec => Sys2Proof.Machine.execOrbCommit m sec s
  | .orbChangeTakesEffect sec => Sys2Proof.Machine.execOrbChangeTakesEffect sec s
  | .ownMapWrite m sec => Sys2Proof.Machine.execOwnMapWrite m sec s
  | .frameZeroDone sec frame => Sys2Proof.Machine.execFrameZeroDone sec frame s
  | .epLookup m sec frame => Sys2Proof.Machine.execEpLookup m sec frame s
  | .reduceContribution pos => Sys2Proof.Machine.execReduceContribution pos s
  -- the Causeway (13_causeway_fabric.md)
  | .packetForward ingress pkt => Sys2Proof.Machine.execPacketForward ingress pkt s
  | .writePacket pkt => Sys2Proof.Machine.execWritePacket pkt s
  | .reducePacket pkt => Sys2Proof.Machine.execReducePacket pkt s
  | .signalPacket pkt => Sys2Proof.Machine.execSignalPacket pkt s
  | .ackPacket pkt => Sys2Proof.Machine.execAckPacket pkt s
  | .mgmtPacket pkt => Sys2Proof.Machine.execMgmtPacket pkt s
  | .linkFrame p seq ok ack body => Sys2Proof.Machine.execLinkFrame p seq ok ack body s
  | .nak p seq => Sys2Proof.Machine.execNak p seq s
  | .linkAckTimeout p => Sys2Proof.Machine.execLinkAckTimeout p s
  | .lossOfSignal p kind => Sys2Proof.Machine.execLossOfSignal p kind s
  | .moduleInsert p info => Sys2Proof.Machine.execModuleInsert p info s
  | .moduleRemove p => Sys2Proof.Machine.execModuleRemove p s
  | .detectDone p opens shorts rxlos => Sys2Proof.Machine.execDetectDone p opens shorts rxlos s
  | .trainingDone p polinv lswap failed => Sys2Proof.Machine.execTrainingDone p polinv lswap failed s
  | .exchangeDone p pid pport sizes mepoch => Sys2Proof.Machine.execExchangeDone p pid pport sizes mepoch s
  | .portRetryTimeout p => Sys2Proof.Machine.execPortRetryTimeout p s
  | .portEnable m p en => Sys2Proof.Machine.execPortEnable m p en s
  | .portDrain m p => Sys2Proof.Machine.execPortDrain m p s
  | .portResume m p => Sys2Proof.Machine.execPortResume m p s
  | .portDrained p => Sys2Proof.Machine.execPortDrained p s
  | .rtCommit m => Sys2Proof.Machine.execRtCommit m s
  | .rtCommitTakesEffect => Sys2Proof.Machine.execRtCommitTakesEffect s
  | .cwyIdWrite m v => Sys2Proof.Machine.execCwyIdWrite m v s
  | .highWaterWindow => Sys2Proof.Machine.execHighWaterWindow s
  -- Lerkar packets (11_command_packets.md R279) and the rings
  | .nop h => Sys2Proof.Machine.execNop h s
  | .ctxOpen h tctx => Sys2Proof.Machine.execCtxOpen h tctx s
  | .ctxClose h tctx => Sys2Proof.Machine.execCtxClose h tctx s
  | .ctxAbort h tctx => Sys2Proof.Machine.execCtxAbort h tctx s
  | .sluiceRange h tctx base count => Sys2Proof.Machine.execSluiceRange h tctx base count s
  | .sluiceSet h slu count => Sys2Proof.Machine.execSluiceSet h slu count s
  | .sluiceSignal h slu inc => Sys2Proof.Machine.execSluiceSignal h slu inc s
  | .sluiceRead h slu => Sys2Proof.Machine.execSluiceRead h slu s
  | .watchArm h tag p n => Sys2Proof.Machine.execWatchArm h tag p n s
  | .completionFlush h fail => Sys2Proof.Machine.execCompletionFlush h fail s
  | .launch h image params watch seed deadline inline => Sys2Proof.Machine.execLaunch h image params watch seed deadline inline s
  | .doorbellLaunch ctx slot => Sys2Proof.Machine.execDoorbellLaunch ctx slot s
  | .graphRegister h gid ctxmask image params => Sys2Proof.Machine.execGraphRegister h gid ctxmask image params s
  | .graphPatch h gid offset size src inline => Sys2Proof.Machine.execGraphPatch h gid offset size src inline s
  | .graphRetire h gid => Sys2Proof.Machine.execGraphRetire h gid s
  | .membership h rec => Sys2Proof.Machine.execMembership h rec s
  | .quiesce h => Sys2Proof.Machine.execQuiesce h s
  | .admitLaunch h => Sys2Proof.Machine.execAdmitLaunch h s
  | .reset h level target => Sys2Proof.Machine.execReset h level target s
  | .sensorRead h first count dst => Sys2Proof.Machine.execSensorRead h first count dst s
  | .logRead h offset size dst => Sys2Proof.Machine.execLogRead h offset size dst s
  | .bistRun h kind scope target dst => Sys2Proof.Machine.execBistRun h kind scope target dst s
  | .fwActivate h slot => Sys2Proof.Machine.execFwActivate h slot s
  | .sealCtx h tctx kref => Sys2Proof.Machine.execSealCtx h tctx kref s
  | .unsealCtx h tctx => Sys2Proof.Machine.execUnsealCtx h tctx s
  | .frameOwn h sector tctx fl first count => Sys2Proof.Machine.execFrameOwn h sector tctx fl first count s
  | .feRingEnable m v => Sys2Proof.Machine.execFeRingEnable m v s
  | .ringDmaFailed reply resp => Sys2Proof.Machine.execRingDmaFailed reply resp s
  | .ringResume m => Sys2Proof.Machine.execRingResume m s
  | .completionRecordWrite ctx => Sys2Proof.Machine.execCompletionRecordWrite ctx s
  | .completionWriteFailed ctx resp => Sys2Proof.Machine.execCompletionWriteFailed ctx resp s
  | .cplRingEnable m ctx v => Sys2Proof.Machine.execCplRingEnable m ctx v s
  | .deadlineExpiry launch => Sys2Proof.Machine.execDeadlineExpiry launch s
  -- hangs, resets and recovery (14_hangs_resets_recovery.md)
  | .hangDeclared pt => Sys2Proof.Machine.execHangDeclared pt s
  | .levelEscalation k => Sys2Proof.Machine.execLevelEscalation k s
  | .contextAbortComplete us => Sys2Proof.Machine.execContextAbortComplete us s
  | .engineResetComplete g us => Sys2Proof.Machine.execEngineResetComplete g us s
  | .sectorResetComplete sec us => Sys2Proof.Machine.execSectorResetComplete sec us s
  | .chipResetComplete us => Sys2Proof.Machine.execChipResetComplete us s
  | .containmentTimeout stuck => Sys2Proof.Machine.execContainmentTimeout stuck s
  | .bridgeTimeout acc unit => Sys2Proof.Machine.execBridgeTimeout acc unit s
  | .errResetChip m => Sys2Proof.Machine.execErrResetChip m s
  | .errResetPwrcyc m => Sys2Proof.Machine.execErrResetPwrcyc m s
  -- firmware (15_firmware.md)
  | .watchdogFire ix pc tcause codeOk => Sys2Proof.Machine.execWatchdogFire ix pc tcause codeOk s
  | .fwReady ix us => Sys2Proof.Machine.execFwReady ix us s
  | .fwRecoveryTimeout ix => Sys2Proof.Machine.execFwRecoveryTimeout ix s
  | .activationStart => Sys2Proof.Machine.execActivationStart s
  | .handoffTimeout => Sys2Proof.Machine.execHandoffTimeout s
  | .logEntry idx sev tp code lcnt args => Sys2Proof.Machine.execLogEntry idx sev tp code lcnt args s
  | .logMirrorEnable m v => Sys2Proof.Machine.execLogMirrorEnable m v s
  -- management (16_management_security_test.md, 19_host_and_sideband.md)
  | .sensorSample readings => Sys2Proof.Machine.execSensorSample readings s
  | .moduleReadRetry p info => Sys2Proof.Machine.execModuleReadRetry p info s
  | .queryDeviceIdentifiers b => Sys2Proof.Machine.execQueryDeviceIdentifiers b s
  | .getFirmwareParameters b => Sys2Proof.Machine.execGetFirmwareParameters b s
  | .requestUpdate b => Sys2Proof.Machine.execRequestUpdate b s
  | .passComponentTable b comp => Sys2Proof.Machine.execPassComponentTable b comp s
  | .updateComponent b comp size => Sys2Proof.Machine.execUpdateComponent b comp size s
  | .requestFirmwareData b offset data => Sys2Proof.Machine.execRequestFirmwareData b offset data s
  | .activateFirmware b => Sys2Proof.Machine.execActivateFirmware b s
  | .getStatus b => Sys2Proof.Machine.execGetStatus b s
  | .cancelUpdateComponent b => Sys2Proof.Machine.execCancelUpdateComponent b s
  | .cancelUpdate b => Sys2Proof.Machine.execCancelUpdate b s
  | .getVersion b => Sys2Proof.Machine.execGetVersion b s
  | .getCapabilities b => Sys2Proof.Machine.execGetCapabilities b s
  | .negotiateAlgorithms b => Sys2Proof.Machine.execNegotiateAlgorithms b s
  | .getDigests b => Sys2Proof.Machine.execGetDigests b s
  | .getCertificate b => Sys2Proof.Machine.execGetCertificate b s
  | .challenge b => Sys2Proof.Machine.execChallenge b s
  | .getMeasurements b => Sys2Proof.Machine.execGetMeasurements b s
  | .sessOpen b nonce => Sys2Proof.Machine.execSessOpen b nonce s
  | .sessKey b sid ct sig => Sys2Proof.Machine.execSessKey b sid ct sig s
  | .sessClose b sid => Sys2Proof.Machine.execSessClose b sid s
  | .sessionTimeout sid => Sys2Proof.Machine.execSessionTimeout sid s
  | .getReport b nonce => Sys2Proof.Machine.execGetReport b nonce s
  | .getChain b offset length => Sys2Proof.Machine.execGetChain b offset length s
  | .keyPut b sid tgt key => Sys2Proof.Machine.execKeyPut b sid tgt key s
  | .fmkeySet b sid key sig => Sys2Proof.Machine.execFmkeySet b sid key sig s
  | .fmkeyClear b sid => Sys2Proof.Machine.execFmkeyClear b sid s
  | .egress b sid ctx sec first count addr => Sys2Proof.Machine.execEgress b sid ctx sec first count addr s
  | .ingress b sid ctx sec first count addr => Sys2Proof.Machine.execIngress b sid ctx sec first count addr s
  | .cmd b sid packet => Sys2Proof.Machine.execCmd b sid packet s
  | .setEndpointId b eid => Sys2Proof.Machine.execSetEndpointId b eid s
  | .getEndpointId b => Sys2Proof.Machine.execGetEndpointId b s
  | .getEndpointUuid b => Sys2Proof.Machine.execGetEndpointUuid b s
  | .getMctpVersionSupport b msgType => Sys2Proof.Machine.execGetMctpVersionSupport b msgType s
  | .getMessageTypeSupport b => Sys2Proof.Machine.execGetMessageTypeSupport b s
  | .getVendorDefinedMessageSupport b selector => Sys2Proof.Machine.execGetVendorDefinedMessageSupport b selector s
  | .mctpRelay b eid dst payload => Sys2Proof.Machine.execMctpRelay b eid dst payload s
  | .doeDiscovery index => Sys2Proof.Machine.execDoeDiscovery index s
  | .doeAbort => Sys2Proof.Machine.execDoeAbort s
  -- power and clocks (17_power_and_clocks.md)
  | .opPointRequest m point => Sys2Proof.Machine.execOpPointRequest m point s
  | .pacedRequest m paced => Sys2Proof.Machine.execPacedRequest m paced s
  | .opLowerTakesEffect => Sys2Proof.Machine.execOpLowerTakesEffect s
  | .pacedTakesEffect => Sys2Proof.Machine.execPacedTakesEffect s
  | .setpointRampDone => Sys2Proof.Machine.execSetpointRampDone s
  | .pacePermit sec => Sys2Proof.Machine.execPacePermit sec s
  | .capWrite m w => Sys2Proof.Machine.execCapWrite m w s
  | .capTick watts coreA => Sys2Proof.Machine.execCapTick watts coreA s
  | .idleGateTimeout g => Sys2Proof.Machine.execIdleGateTimeout g s
  | .wakeRequest g => Sys2Proof.Machine.execWakeRequest g s
  | .wakeTokenGrant => Sys2Proof.Machine.execWakeTokenGrant s
  | .wakeComplete g => Sys2Proof.Machine.execWakeComplete g s
  | .prochotN level => Sys2Proof.Machine.execProchotN level s
  | .powerOverLimit isOver => Sys2Proof.Machine.execPowerOverLimit isOver s
  | .clampRelease us => Sys2Proof.Machine.execClampRelease us s
  | .clockLoss clk => Sys2Proof.Machine.execClockLoss clk s
  -- configuration integrity, events and the host (18_register_interface.md, 19_host_and_sideband.md)
  | .cipCfgOpen m mask => Sys2Proof.Machine.execCipCfgOpen m mask s
  | .cipCfgCommit m mask => Sys2Proof.Machine.execCipCfgCommit m mask s
  | .configCheckPass region => Sys2Proof.Machine.execConfigCheckPass region s
  | .driftRewriteDone region => Sys2Proof.Machine.execDriftRewriteDone region s
  | .eventQueueWrite q => Sys2Proof.Machine.execEventQueueWrite q s
  | .eventWriteFailed q resp => Sys2Proof.Machine.execEventWriteFailed q resp s
  | .eqHeadWrite m q idx => Sys2Proof.Machine.execEqHeadWrite m q idx s
  | .eqEnable m q v => Sys2Proof.Machine.execEqEnable m q v s
  | .hostLinkReset cause => Sys2Proof.Machine.execHostLinkReset cause s
  | .hostLinkUp => Sys2Proof.Machine.execHostLinkUp s
  | .bar2Access offset op => Sys2Proof.Machine.execBar2Access offset op s
  | .bar2StallTimeout => Sys2Proof.Machine.execBar2StallTimeout s
  | .humBlockRead m g offset => Sys2Proof.Machine.execHumBlockRead m g offset s
  | .msixUnmask vec => Sys2Proof.Machine.execMsixUnmask vec s
  | .ideIntegrityFailure stream => Sys2Proof.Machine.execIdeIntegrityFailure stream s
  | .registerWrite m space offset half op => Sys2Proof.Machine.execRegisterWrite m space offset half op s
  -- board and start-up (20_board_and_start_up.md)
  | .standbyPowerGood b => Sys2Proof.Machine.execStandbyPowerGood b s
  | .powerOnHoldRelease up => Sys2Proof.Machine.execPowerOnHoldRelease up s
  | .corePowerLoss rail => Sys2Proof.Machine.execCorePowerLoss rail s
  | .standbyPowerLoss => Sys2Proof.Machine.execStandbyPowerLoss s
  | .contactCheck faults => Sys2Proof.Machine.execContactCheck faults s
  | .smbusTimeout bus => Sys2Proof.Machine.execSmbusTimeout bus s
  | .localCommitComplete => Sys2Proof.Machine.execLocalCommitComplete s
  | .localRollbackComplete => Sys2Proof.Machine.execLocalRollbackComplete s
  | .hbmTrainingDone failed => Sys2Proof.Machine.execHbmTrainingDone failed s
  | .discoveryTimeout => Sys2Proof.Machine.execDiscoveryTimeout s
  | .verifyComplete sigOk => Sys2Proof.Machine.execVerifyComplete sigOk s
  | .bistComplete units => Sys2Proof.Machine.execBistComplete units s
  | .egressIngressDone done data => Sys2Proof.Machine.execEgressIngressDone done data s
  | .entdaa addr => Sys2Proof.Machine.execEntdaa addr s
  | .setdasa addr => Sys2Proof.Machine.execSetdasa addr s

end Sys2Proof.Machine
end

