-- ==== Sys2Proof/Safety.lean ====
section
/-!
DEFINITION. Sys2Proof/Safety.lean: the terms that the statements are written in: when a sequencer issues, what two states have in
common, and what a command's operands name.
-/

namespace Sys2Proof.Machine

/-! ### What a step leaves alone -/

/-- t differs from s in hummock g at most. -/
def State.onlyHum (s t : State) (g : Fin 96) : Prop :=
  { t with hums := s.hums } = s ∧ ∀ k, k ≠ g.val → t.hum k = s.hum k

/-- Two hummocks are alike but for their sequencers. -/
def Hummock.alikeButSeq (h k : Hummock) : Prop := { k with seq := h.seq } = h

/-- Two sequencers are alike but for PC and the scalar registers. -/
def Sequencer.alikeButRegs (q r : Sequencer) : Prop := { r with pc := q.pc, x := q.x } = q

/-- t is s with hummock g's sequencer changed to q, and nothing else. -/
def State.seqBecomes (s t : State) (g : Fin 96) (q : Sequencer) : Prop :=
  s.onlyHum t g ∧ (t.hum g).seq = q ∧ (s.hum g).alikeButSeq (t.hum g)

/-! ### Issue (07 R166) -/

/-- Hummock g runs a program of a launch, and its sequencer issues the instruction at PC, which its code holds. -/
def State.issues (s : State) (g : Fin 96) : Prop :=
  (s.hum g).power = .running ∧ (s.hum g).seq.st = .issuing ∧ (s.hum g).seq.stall = none ∧
    ∃ x, (s.hum g).holder = some x ∧ (s.hum g).seq.pc.toNat < x.codeLen

/-- The instruction index p lies in the code of the program on hummock g. -/
def State.inCode (s : State) (g : Fin 96) (p : BitVec 23) : Prop :=
  ∃ x, (s.hum g).holder = some x ∧ p.toNat < x.codeLen

/-- Nothing of hummock g is unretired, and no signal waits to leave it. -/
def State.allRetired (s : State) (g : Fin 96) : Prop := (s.hum g).unret = [] ∧ (s.hum g).seq.sigs = []

/-- Sign extension of IMM, as an integer. -/
def immInt (imm : BitVec 32) : Int := imm.toInt

/-- The target of a branch, counted in instructions from PC (R168). -/
def branchTarget (pc : BitVec 23) (imm : BitVec 32) : BitVec 23 := BitVec.ofInt 23 ((pc.toNat : Int) + imm.toInt)

/-- The operand b of an ALU row: x[XB] when XB is not 0, and sext(IMM) when it is (R168). -/
def aluB (q : Sequencer) (xb : BitVec 5) (imm : BitVec 32) : BitVec 64 :=
  if xb ≠ 0 then q.reg xb else BitVec.ofInt 64 imm.toInt

/-- The hummock, destination register and value of the scalar rows that write a register (R168). -/
def scalarResult (q : Hum → Sequencer) : Instr → Option (Hum × BitVec 5 × BitVec 64)
  | .li g xd imm => some (g, xd, BitVec.ofInt 64 imm.toInt)
  | .lui g xd imm => some (g, xd, BitVec.ofNat 64 (imm.toNat * 2 ^ 32 + ((q g).reg xd).toNat % 2 ^ 32))
  | .add g xd xa xb imm => some (g, xd, BitVec.ofNat 64 (((q g).reg xa).toNat + (aluB (q g) xb imm).toNat))
  | .sub g xd xa xb imm => some (g, xd, BitVec.ofInt 64 ((((q g).reg xa).toNat : Int) - (aluB (q g) xb imm).toNat))
  | .and g xd xa xb imm => some (g, xd, (q g).reg xa &&& aluB (q g) xb imm)
  | .or g xd xa xb imm => some (g, xd, (q g).reg xa ||| aluB (q g) xb imm)
  | .xor g xd xa xb imm => some (g, xd, (q g).reg xa ^^^ aluB (q g) xb imm)
  | .shl g xd xa xb imm =>
    some (g, xd, BitVec.ofNat 64 (((q g).reg xa).toNat * 2 ^ ((aluB (q g) xb imm).toNat % 64)))
  | .shr g xd xa xb imm =>
    some (g, xd, BitVec.ofNat 64 (((q g).reg xa).toNat / 2 ^ ((aluB (q g) xb imm).toNat % 64)))
  | .mul g xd xa xb imm => some (g, xd, BitVec.ofNat 64 (((q g).reg xa).toNat * (aluB (q g) xb imm).toNat))
  | _ => none

/-- Does a branch row branch, and by how much: BR always, BRC by COND on x[XA] and x[XB] (R168, R169). -/
def branchTaken (q : Sequencer) (xa xb : BitVec 5) (cond : BitVec 3) : Option Bool :=
  match cond.toNat with
  | 0 => some (decide (q.reg xa = q.reg xb))
  | 1 => some (decide (q.reg xa ≠ q.reg xb))
  | 2 => some (decide ((q.reg xa).toInt < (q.reg xb).toInt))
  | 3 => some (decide ((q.reg xb).toInt ≤ (q.reg xa).toInt))
  | 4 => some (decide ((q.reg xa).toNat < (q.reg xb).toNat))
  | 5 => some (decide ((q.reg xb).toNat ≤ (q.reg xa).toNat))
  | _ => none

/-! ### Descriptors (07 R157, R169) -/

/-- The value of the descriptor or origin field that a FIELD code of DPATCH names. -/
def descField (d : DescCap) (k : Nat) : Nat :=
  match k with
  | 0 => d.ebase
  | 1 => d.sbase
  | 2 => d.stride
  | 3 => d.rows - 1
  | 4 => d.len - 1
  | 5 => d.ord
  | 6 => d.tag
  | 7 => d.rank
  | 8 => d.lhum
  | 9 => d.space
  | 10 => d.orgRow
  | _ => d.orgCol

/-- Its width. -/
def descWidth (k : Nat) : Nat :=
  match k with
  | 0 | 1 => 52
  | 3 => 16
  | 4 => 20
  | 5 => 12
  | 6 => 31
  | 7 => 15
  | 8 => 7
  | 9 => 3
  | _ => 32

/-- t is s with hummock g's PC at the next instruction and descriptor td changed to d, and nothing else. -/
def State.descBecomes (s t : State) (g : Fin 96) (td : BitVec 6) (d : DescCap) : Prop :=
  s.onlyHum t g ∧ (s.hum g).alikeButSeq (t.hum g) ∧
    { (t.hum g).seq with pc := (s.hum g).seq.pc, desc := (s.hum g).seq.desc, org := (s.hum g).seq.org } = (s.hum g).seq ∧
    (t.hum g).seq.pc = (s.hum g).seq.pc + 1 ∧ (t.hum g).seq.desc1 td = d ∧
    ∀ k : BitVec 6, k ≠ td → (t.hum g).seq.desc1 k = (s.hum g).seq.desc1 k

/-- The descriptor that 32 little-endian bytes spell, its reserved bits reading zero (R157, 00 R6), with origin 0. -/
def descOfBytes (bs : List Byte) : DescCap := ⟨BitVec.ofNat 256 (leNat bs) &&& descMask, 0⟩

/-! ### Program faults (07 R174, R175) -/

/-- The payload of a program fault's event (R175). -/
def faultPayload (s : State) (g : Fin 96) (cause opc : Nat) : List Byte :=
  [BitVec.ofNat 8 cause, BitVec.ofNat 8 opc,
    BitVec.ofNat 8 (match (s.hum g).holder with
      | some x => x.lhum.toNat
      | none => 0x7F), 0] ++
    leBytes 4 (s.hum g).seq.pc.toNat ++ leBytes 8 s.runSeq

/-- Hummock g has raised a program fault at its PC: it stops issuing, the event stands in the front end's queue, and the
instruction has done no part of its work. -/
def State.faults (s t : State) (g : Fin 96) (cause opc : Nat) : Prop :=
  (t.hum g).seq.st = .faulted ∧ t.err.eq1 = s.err.eq1.place 0x10 (faultPayload s g cause opc) ∧
    (t.hum g).seq.pc = (s.hum g).seq.pc ∧ (t.hum g).seq.x = (s.hum g).seq.x ∧ (t.hum g).seq.desc = (s.hum g).seq.desc ∧
    (t.hum g).seq.org = (s.hum g).seq.org ∧ (t.hum g).mere = (s.hum g).mere ∧ t.mem.hbm = s.mem.hbm ∧
    t.sluices = s.sluices ∧ t.flight = s.flight

/-! ### Station instructions (07 R162, R164, R166) -/

/-- The hummock and the operation of a station instruction (R168, R194). -/
def stationOp : Instr → Option (Hum × StOp)
  | .lload g lat _ wfmt km1 nm1 => some (g, .lload lat wfmt km1 nm1)
  | .lpass g f => some (g, .lpass f)
  | .scfg g f => some (g, .scfg f)
  | .sspill g tile => some (g, .sspill tile)
  | .sclr g tile cpeat => some (g, .sclr tile cpeat)
  | .wmove g f => some (g, .wmove f)
  | .wconv g f => some (g, .wconv f)
  | .wred g f => some (g, .wred f)
  | .csend g f => some (g, .csend f)
  | .ropAdd g f => some (g, .rop 0x00 f)
  | .ropSub g f => some (g, .rop 0x01 f)
  | .ropMul g f => some (g, .rop 0x02 f)
  | .div g f => some (g, .rop 0x03 f)
  | .fma g f => some (g, .rop 0x04 f)
  | .axpb g f => some (g, .rop 0x05 f)
  | .sqrt g f => some (g, .rop 0x06 f)
  | .recip g f => some (g, .rop 0x07 f)
  | .rsqrt g f => some (g, .rop 0x08 f)
  | .exp g f => some (g, .rop 0x09 f)
  | .exp2 g f => some (g, .rop 0x0A f)
  | .log g f => some (g, .rop 0x0B f)
  | .log2 g f => some (g, .rop 0x0C f)
  | .tanh g f => some (g, .rop 0x0D f)
  | .sigmoid g f => some (g, .rop 0x0E f)
  | .gelu g f => some (g, .rop 0x0F f)
  | .max g f => some (g, .rop 0x10 f)
  | .min g f => some (g, .rop 0x11 f)
  | .maxnum g f => some (g, .rop 0x12 f)
  | .minnum g f => some (g, .rop 0x13 f)
  | .cvt g f => some (g, .rop 0x14 f)
  | .rope g f => some (g, .rop 0x18 f)
  | .rsum g f => some (g, .rop 0x20 f)
  | .rmax g f => some (g, .rop 0x21 f)
  | .rssq g f => some (g, .rop 0x22 f)
  | .lnorm g f => some (g, .rop 0x24 f)
  | .rmsn g f => some (g, .rop 0x25 f)
  | .smxr g f => some (g, .rop 0x28 f)
  | .smxb g f => some (g, .rop 0x29 f)
  | .aupd g f => some (g, .rop 0x2A f)
  | .amrg g f => some (g, .rop 0x2B f)
  | .anorm g f => some (g, .rop 0x2C f)
  | .xent g f => some (g, .rop 0x30 f)
  | _ => none

/-- What a station instruction captures at issue: the descriptors and registers that its fields name (R75, R166; R79, R80, R107,
R170, R191). -/
def captures (q : Sequencer) : Instr → Captures
  | .lload _ _ td _ _ _ => { da := q.desc1 td }
  | .lpass _ f => { da := q.desc1 f.td }
  | .scfg _ f => { va := q.reg f.xk, vb := q.reg f.xc }
  | .wmove _ f | .wconv _ f | .wred _ f => { da := q.desc1 f.tds, db := q.desc1 f.tdd, va := q.reg f.xq }
  | .csend _ f => { da := q.desc1 f.tds, db := q.desc1 f.tdd, va := q.reg f.xq }
  | .ropAdd _ f | .ropSub _ f | .ropMul _ f | .div _ f | .fma _ f | .axpb _ f | .sqrt _ f | .recip _ f | .rsqrt _ f | .exp _ f
  | .exp2 _ f | .log _ f | .log2 _ f | .tanh _ f | .sigmoid _ f | .gelu _ f | .max _ f | .min _ f | .maxnum _ f | .minnum _ f
  | .cvt _ f | .rope _ f | .rsum _ f | .rmax _ f | .rssq _ f | .lnorm _ f | .rmsn _ f | .smxr _ f | .smxb _ f | .aupd _ f
  | .amrg _ f | .anorm _ f | .xent _ f =>
    { da := q.desc1 f.tda, db := q.desc1 f.tdb, dc := q.desc1 f.tdc, dd := q.desc1 f.tdd, va := q.reg f.xf, vb := q.reg f.xs
      vc := q.reg f.xp }
  | _ => {}

/-- The entry that a station instruction takes in its station's queue. -/
def State.entry (s : State) (g : Fin 96) (i : Instr) (op : StOp) : Issued :=
  (s.hum g).newIssued op (captures (s.hum g).seq i)

/-- s with the entry in the queue and PC at the next instruction. -/
def State.entered (s : State) (g : Fin 96) (e : Issued) : State :=
  s.setHum g
    { (s.hum g) with
      unret := (s.hum g).unret ++ [e], nextId := (s.hum g).nextId + 1
      seq := { (s.hum g).seq with pc := (s.hum g).seq.pc + 1 } }

/-- Hummock g has nothing unretired and no signal to send, and it issues: a station instruction finds its station free. -/
def State.idleIssue (s : State) (g : Fin 96) : Prop :=
  s.issues g ∧ s.inCode g ((s.hum g).seq.pc + 1) ∧ s.allRetired g

/-- A station instruction meets no memory error, and its operands lie in the hummock's own Mere, inside it. -/
def ownMere (os : List Opnd) : Prop := ∀ o ∈ os, o.1.space = 0 ∧ mereOk o = true

/-- Bytes written by the chunks of an instruction, in order, over a Mere. -/
def storeAll (m : List Host.Cell) (cs : List (Nat × List Byte)) : List Host.Cell :=
  cs.foldl (fun m c => bwrite m c.1 c.2) m

/-- The rows of an operand's element plane as they stand in a Mere. -/
def mereRows (m : List Host.Cell) (o : Opnd) : List (List Byte) :=
  (List.range o.1.rows).map fun r => bread m (o.1.ebase + r * o.1.stride) (rowBytes (fCode o.2) o.1.len)

/-- The rows of its scale plane; none where it has none. -/
def mereScales (m : List Host.Cell) (o : Opnd) : List (List Byte) :=
  let n := scaleBytes o.2 o.1.len
  if n = 0 then [] else (List.range o.1.rows).map fun r => bread m (o.1.sbase + r * n) n

/-- Row r of an operand, elements and scales, as it stands in a Mere. -/
def mereRow (m : List Host.Cell) (o : Opnd) (r : Nat) : RawRow :=
  let n := scaleBytes o.2 o.1.len
  (bread m (o.1.ebase + r * o.1.stride) (rowBytes (fCode o.2) o.1.len), if n = 0 then [] else bread m (o.1.sbase + r * n) n)

/-- A tensor's rows under its result FMT, as the chunks of its planes (02 R44, R52). -/
def tensorChunks (e : RunEnv) (o : Opnd) (rows : List (List Val)) : List (Nat × List Byte) :=
  let so := if e.v40 && isFp8 o.2 then some (val32 (v40So o.1.raw o.2)) else none
  let cs := rows.zipIdx.map fun x => convRow o.2 so (o.1.rm o.2 e.seed x.2) x.1
  chunksOf o (cs.map fun c => packRow (fCode o.2) c.codes) (if fScaled o.2 then cs.map fun c => c.scales else [])

/-- Row r of a tensor under its result FMT, as the chunks of its planes (02 R44, R52). -/
def tensorRow (e : RunEnv) (o : Opnd) (r : Nat) (vs : List Val) : List (Nat × List Byte) :=
  let so := if e.v40 && isFp8 o.2 then some (val32 (v40So o.1.raw o.2)) else none
  let c := convRow o.2 so (o.1.rm o.2 e.seed r) vs
  rowChunks o r (packRow (fCode o.2) c.codes) c.scales

/-- What a Reed operation takes for row r where `row` says what the rows of its operands hold; its source A may be the rows of a tile,
a slot or a STREAM group instead (R190, R191). -/
def ropRowIn (row : Opnd → Nat → RawRow) (i : Issued) (c : Nat) (f : RopFields) (tile : List InRow) (r : Nat) : RowIn :=
  let rd (on : Bool) (o : Opnd) (k : Nat) : RawRow := if on then row o k else ([], [])
  let xa := rd (f.srck == 0) i.opA r
  { a := if f.srck != 0 then (tile[r]?).getD [] else if rStateA c then [] else rowVals i.fmtA xa.1 xa.2 (ropLen i c f)
    st := xa, b := rd (readsB c) i.opB (browRow f r), c := rd (readsC c) i.opC (if c = 0x24 then browRow f r else r)
    d := rd (readsD c) i.opD r }

/-- What it stores for row r, in order: chunks, each with the descriptor that they go to. -/
def ropRowPuts (e : RunEnv) (i : Issued) (c r : Nat) (out : RowOut) : List (DescCap × List (Nat × List Byte)) :=
  let so := if c = 0x29 then i.opC else i.opA
  let st := match out.st with
    | some x => [(so.1, rowChunks so r x.bytes [])]
    | none => []
  if c = 0x2C then [(i.opB.1, tensorRow e i.opB r out.b), (i.opD.1, tensorRow e i.opD r out.d)]
  else (i.opD.1, tensorRow e i.opD r out.d) :: st

/-- The same in one space. -/
def ropRowOut (e : RunEnv) (i : Issued) (c r : Nat) (out : RowOut) : List (Nat × List Byte) :=
  (ropRowPuts e i c r out).flatMap fun p => p.2

/-- The Mere after a Reed operation: its rows in ascending order, each computed from what its sources hold then (R190). -/
def ropMere (e : RunEnv) (i : Issued) (c : Nat) (f : RopFields) (tile : List InRow) (m : List Host.Cell) : List Host.Cell :=
  (List.range i.dd.rows).foldl (fun m r =>
    storeAll m (ropRowOut e i c r ((ropRow e i c f r (ropRowIn (mereRow m) i c f tile r)).run {}).1)) m

/-! ### Operands in any space (R158, 09 R219) -/

/-- The n bytes at device virtual address va of context c lie on one 64 KiB page of leaf e, which is not protected; d is their address
in device memory, which exists, in a frame that is not sealed, of a context that is not. -/
def State.plainAt (s : State) (c va n : Nat) (e : TlbEntry) (d : Nat) : Prop :=
  tlbHit c va e = true ∧ (e.big = true → e.leaf.getLsbD 3 = false) ∧ va < 2 ^ 52 ∧ va % 65536 + n ≤ 65536 ∧ d = elemDpa e va ∧
    dpaReserved d = false ∧ (s.owner (dpaFrame d)).isSealed = false ∧ s.isSealed c = false

/-- The memory that a descriptor's space names: device memory, or the Mere of the hummock that it means. -/
def State.spaceMem (s : State) (g : Nat) (d : DescCap) : List Host.Cell :=
  if d.space = 1 then s.mem.hbm else (s.hum (s.mereOf g d)).mere

/-- Where byte a of that space stands in it, under leaves m. -/
def State.placeIn (s : State) (g : Nat) (m : List TlbEntry) (d : DescCap) (a : Nat) : Nat :=
  if d.space = 1 then elemDpa (leafAt m (s.ctxOf g) (a % 2 ^ 52)) (a % 2 ^ 52) else a

/-- The rows of an operand's planes: address and bytes of each. -/
def rowSpans (o : Opnd) : List (Nat × Nat) :=
  let n := scaleBytes o.2 o.1.len
  ((List.range o.1.rows).map fun r => (o.1.ebase + r * o.1.stride, rowBytes (fCode o.2) o.1.len)) ++
    if n = 0 then [] else (List.range o.1.rows).map fun r => (o.1.sbase + r * n, n)

/-- Row r of the operand, elements and scales, as it stands in its space. -/
def State.viewRow (s : State) (g : Nat) (m : List TlbEntry) (o : Opnd) (r : Nat) : RawRow :=
  let n := scaleBytes o.2 o.1.len
  let rd (a k : Nat) : List Byte := bread (s.spaceMem g o.1) (s.placeIn g m o.1 a) k
  (rd (o.1.ebase + r * o.1.stride) (rowBytes (fCode o.2) o.1.len), if n = 0 then [] else rd (o.1.sbase + r * n) n)

/-- Its element rows, and its scale rows where it has any. -/
def State.viewRows (s : State) (g : Nat) (m : List TlbEntry) (o : Opnd) : List (List Byte) :=
  (List.range o.1.rows).map fun r => (s.viewRow g m o r).1

def State.viewScales (s : State) (g : Nat) (m : List TlbEntry) (o : Opnd) : List (List Byte) :=
  if scaleBytes o.2 o.1.len = 0 then [] else (List.range o.1.rows).map fun r => (s.viewRow g m o r).2

/-- s with chunks stored, in order, in the space of descriptor d. -/
def State.putChunks (s : State) (g : Nat) (m : List TlbEntry) (d : DescCap) (cs : List (Nat × List Byte)) : State :=
  let new := storeAll (s.spaceMem g d) (cs.map fun c => (s.placeIn g m d c.1, c.2))
  if d.space = 1 then { s with mem := { s.mem with hbm := new } } else s.modHum (s.mereOf g d) fun h => { h with mere := new }

/-- t's memories are those of u: device memory, the page records, and every hummock's Mere. -/
def State.memoriesOf (u t : State) : Prop :=
  t.mem.hbm = u.mem.hbm ∧ t.mem.recs = u.mem.recs ∧ ∀ k, (t.hum k).mere = (u.hum k).mere

/-- An access to every row of the operand neither stops nor waits: a Mere in range and powered, or device memory under a leaf of m,
each row on one page that is not protected, in a frame that is not sealed. -/
def State.plainOpnd (s : State) (g : Nat) (m : List TlbEntry) (o : Opnd) : Prop :=
  mereOk o = true ∧ o.1.space ≤ 2 ∧ s.reaches g o.1 = true ∧
    (o.1.space = 1 → ∀ x ∈ rowSpans o, ∃ e, m.find? (tlbHit (s.ctxOf g) (x.1 % 2 ^ 52)) = some e ∧
      s.plainAt (s.ctxOf g) (x.1 % 2 ^ 52) x.2 e (elemDpa e (x.1 % 2 ^ 52)))

/-- Hummock g's operands that are read (rs) and written (ws) translate in state s, under leaves m, and leave s1; every access to them
then goes through. -/
def State.opensTo (s s1 : State) (g : Fin 96) (m : List TlbEntry) (rs ws : List Opnd) : Prop :=
  s.xlateOpnds g (s.ctxOf g) rs ws = (s1, m, .ok) ∧ s1.framesBusy m = false ∧ ∀ o ∈ rs ++ ws, s1.plainOpnd g m o

/-- The memories after a Reed operation whose operands lie in any space, from state s1 on: its rows in ascending order, each computed from
what its sources hold then (R190). -/
def State.ropView (s1 : State) (g : Nat) (m : List TlbEntry) (e : RunEnv) (i : Issued) (c : Nat) (f : RopFields)
    (tile : List InRow) : State :=
  (List.range i.dd.rows).foldl (fun t r =>
    (ropRowPuts e i c r ((ropRow e i c f r (ropRowIn (t.viewRow g m) i c f tile r)).run {}).1).foldl
      (fun t p => t.putChunks g m p.1 p.2) t) s1

/-- t's hummock g has entry e finished, ready to retire, as its only unretired one, and its sequencer is s's at the next
instruction. -/
def State.finished (s t : State) (g : Fin 96) (e : Issued) : Prop :=
  (t.hum g).unret = [{ e with phase := .done, held := 0 }] ∧
    (t.hum g).seq = { (s.hum g).seq with pc := (s.hum g).seq.pc + 1 }

/-! ### Registers and messages -/

/-- Master m reaches BAR0 with the privilege of the host's kernel or of the firmware (R7, R9, R456). -/
def State.privileged (s : State) (m : Master) : Prop := s.arrives m = true ∧ masterPriv m = true

/-- Master m reaches BAR0 with the management processor's privilege (R456). -/
def State.secured (s : State) (m : Master) : Prop := s.arrives m = true ∧ masterSecure m = true

/-- Commit message m reaches this member for the running attempt of its open epoch: no chip reset, the FCP runs, the member's own
membership epoch, and no wrap of the epoch's number (R257). -/
def State.hears (s : State) (m : CommitMsg) : Prop :=
  s.err.chip = none ∧ s.procReady fcpIx = true ∧ m.mepoch = s.ep.mepoch ∧ m.epoch = s.ep.c + 1 ∧ m.att = s.ep.att ∧
    s.ep.c ≠ BitVec.allOnes 64

/-- Commit messages that t has handed to the Causeway after s: one of the type to each rank, in order, with these bytes (R252). -/
def State.sendsTo (s t : State) (ty : MsgType) (m : CommitMsg) (ranks : List Nat) : Prop :=
  t.cwy.inject = s.cwy.inject ++ ranks.map fun k =>
    { s.ownPacket 0x10 2 (s.memberDev k) with len := 32, payload := msgBytes ty m }

/-- The same where the attempt's own packets, those of channel 0, are discarded with it (R245, R355): the messages stay. -/
def State.sendsKept (s t : State) (ty : MsgType) (m : CommitMsg) (ranks : List Nat) : Prop :=
  t.cwy.inject = (s.cwy.inject.filter fun p => p.vc != 0) ++ ranks.map fun k =>
    { s.ownPacket 0x10 2 (s.memberDev k) with len := 32, payload := msgBytes ty m }

/-- The same, whatever the packets' header beyond type, channel, destination and payload. -/
def sentMessage (s : State) (ty : MsgType) (m : CommitMsg) (rank : Nat) (p : Packet) : Prop :=
  p.type = 0x10 ∧ p.vc = 2 ∧ p.dst = s.memberDev rank ∧ p.len = 32 ∧ p.payload = msgBytes ty m

/-- Nothing in the four fields that name the epochs' record changes but what the local commit of R244 does. -/
def State.commitsLocally (s t : State) : Prop :=
  t.ep.genLast = s.ep.genOpen ∧ t.ep.genOpen = BitVec.ofNat 8 ((s.ep.genOpen.toNat + 1) % 255) ∧ t.ep.c = s.ep.c + 1 ∧
    t.ep.st = .committing ∧ t.ep.commits = satInc s.ep.commits ∧ t.mem.firsts = [] ∧
    (s.mem.sweep = none → t.mem.sweep = some ⟨true, s.mem.firsts⟩) ∧
    t.mem.hbm = s.mem.hbm ∧ t.mem.recs = s.mem.recs ∧ t.hums = s.hums ∧ t.sluices = s.sluices

/-- What the local rollback of R245 does. -/
def State.rollsBack (s t : State) : Prop :=
  t.ep.genOpen = BitVec.ofNat 8 ((s.ep.genOpen.toNat + 1) % 255) ∧ t.ep.c = s.ep.c ∧ t.ep.genLast = s.ep.genLast ∧
    t.ep.st = .rollingBack ∧ t.ep.aborts = satInc s.ep.aborts ∧ t.mem.rounds = [] ∧ t.mem.contribs = [] ∧ t.flight = [] ∧
    (s.mem.sweep = none → t.mem.sweep = some ⟨false, s.mem.firsts⟩) ∧ t.mem.hbm = s.mem.hbm ∧ t.mem.recs = s.mem.recs

/-! ### Accesses to device memory (09 R213 to R231) -/

/-- Memory n holds the bytes at d, and everything else as memory m does. -/
def storedAt (m n : List Host.Cell) (d : Nat) (bs : List Byte) : Prop :=
  bread n d bs.length = bs ∧ ∀ a, a < d ∨ d + bs.length ≤ a → bget n a = bget m a

/-- The contribution at a unit belongs to the running attempt, and nothing holds it up (R113, R129, R355). -/
def State.takes (s : State) (c : Contrib) : Prop :=
  s.framesBusy [c.leaf] = false ∧ c.att = s.ep.att ∧ c.epoch = s.openEpoch ∧ s.ep.contained = false

/-! ### Packets and links (13 R317 to R331) -/

/-- The packet is well made and belongs to the running attempt of a device that is not in a chip reset (R318, R320, R340). -/
def State.receives (s : State) (p : Packet) : Prop :=
  malformed p = false ∧ s.err.chip = none ∧ s.freshness p = .now

/-- The command by which a packet of its type reaches its destination. -/
def deliverCmd (p : Packet) : Instr :=
  if p.type = 0x01 then .writePacket p
  else if p.type = 0x02 then .reducePacket p
  else if p.type = 0x03 then .signalPacket p
  else if p.type = 0x08 then .ackPacket p else .mgmtPacket p

/-- t differs from s in the Causeway's state at most. -/
def State.onlyFabric (s t : State) : Prop := { t with cwy := s.cwy } = s

/-- t differs from s in port p at most. -/
def State.onlyPort (s t : State) (p : Nat) : Prop :=
  { t with cwy := { t.cwy with ports := s.cwy.ports } } = s ∧ ∀ q, q ≠ p → t.port q = s.port q

/-- The frame in which packet k goes out on a port in state x: with the CRC of what goes on the wire, and enciphered and tagged where
the port runs with GCM (R331, R419). -/
def frameOf (x : Port) (on : Bool) (k : Packet) : Frame :=
  let w := if on then x.gcm x.frames k else k
  ⟨x.txSeq, 0, w, crc32c (packetBytes w), if on then x.tagOf x.frames w else []⟩

/-- t has handed one frame with packet k to port p, and taken the credit for it. -/
def State.sendsFrame (s t : State) (p : PortIx) (k : Packet) : Prop :=
  (t.port p).replay = (s.port p).replay ++ [frameOf (s.port p) (s.portGcm p) k] ∧ (t.port p).txSeq = (s.port p).txSeq + 1 ∧
    sget 0 (t.port p).credits (creditKey k.vc k.cls) = sget 0 (s.port p).credits (creditKey k.vc k.cls) - 1

/-- Port p of t has gone DOWN with a cause: what its replay buffer and its input buffers held is lost, and the frames not acknowledged
are counted (R332). -/
def State.portLost (s t : State) (p : PortIx) (cause : BitVec 3) : Prop :=
  (t.port p).ls = .down ∧ (t.port p).dcause = cause ∧ (t.port p).downs = satInc (s.port p).downs ∧
    (t.port p).lost = satAdd (s.port p).lost (s.port p).replay.length ∧ (t.port p).replay = [] ∧ (t.port p).inbuf = [] ∧
    (∀ q, q ≠ p.val → t.port q = s.port q) ∧ t.mem = s.mem ∧ t.hums = s.hums ∧ t.regs = s.regs ∧ t.ep = s.ep

/-- t has one link event more than s: placed where the FCP is ready, waiting in hardware where it restarts (R341, R375). -/
def State.linkEventSeen (s t : State) : Prop :=
  (s.procReady fcpIx = true → t.err.eq0.eseq = s.err.eq0.eseq + 1 ∧ t.cwy.linkWait = s.cwy.linkWait) ∧
    (s.procReady fcpIx = false → t.err = s.err ∧ t.cwy.linkWait.length = s.cwy.linkWait.length + 1)

/-! ### Lerkar packets (11 R270 to R286) -/

/-- The front end, or the MGP, takes packet h with opcode opc for processing, which leaves it in s1, and finds its class of path and its
reserved fields in order (R270 to R273, R277, R286). -/
def State.takesCmd (s s1 : State) (h : Hdr) (opc : BitVec 8) : Prop :=
  s.mgpHolds h opc = false ∧ s.take h = (s1, .go) ∧ offPath opc h = false ∧ h.rsvd = false

/-- No access of a command stalls at a sector that is in reset (14 R352). -/
def State.flows (s : State) : Prop := ∀ r, s.spanHeld r = false

/-- u with the packet's reply OK and its DATA written; STATE is what held at the decision, in s1 (R274, R275). -/
def State.answers (s1 u : State) (h : Hdr) (opc : BitVec 8) (named graph data : Nat) : State :=
  (u.reply (mkReply stOK opc (s1.stateCode named graph) h data)).concluded h

/-- u with the reply of a packet that is refused, and nothing else of it (R274, R276). -/
def State.refuses (s1 u : State) (h : Hdr) (opc : BitVec 8) (named : Nat) (status : BitVec 16) : State :=
  (u.reply (mkReply status opc (s1.stateCode named 0) h 0)).concluded h

/-- In t, sluice n is as in s but for the waiters that are gone (07 R177). -/
def State.waitersGone (s t : State) (n : Nat) (gone : Nat → Bool) : Prop :=
  t.sluice n = { (s.sluice n) with waiters := (s.sluice n).waiters.filter fun w => w.hum.all fun g => !gone g }

/-- Context c is open or COMPLETION_BLOCKED. -/
def State.usable (s : State) (c : Nat) : Prop := (s.ctx c).st = .opened ∨ (s.ctx c).st = .blocked

/-- u differs from s in context c at most, which has become x. -/
def State.ctxBecomes (s u : State) (c : Nat) (x : Ctx) : Prop :=
  u.ctx c = x ∧ (∀ k, k ≠ c → u.ctx k = s.ctx k) ∧ { u with fe := { u.fe with ctxs := s.fe.ctxs } } = s

/-- u differs from s in sluice n at most, whose count has become v. -/
def State.countBecomes (s u : State) (n : Nat) (v : BitVec 32) : Prop :=
  u.sluice n = { (s.sluice n) with count := v } ∧ (∀ k, k ≠ n → u.sluice k = s.sluice k) ∧ { u with sluices := s.sluices } = s

/-- No context that has been sealed by c keeps a sealed frame in u: each of its frames reads zero, and others stay (R232, R415). -/
def State.unsealsTo (s u : State) (c : Nat) : Prop :=
  u.isSealed c = false ∧ sget 0 u.mem.keys c = 0 ∧ (∀ k, k ≠ c → k < 64 → u.isSealed k = s.isSealed k) ∧
    (∀ f, (u.owner f).isSealed = true → (u.owner f).ctx.toNat ≠ c) ∧
    (∀ a, (s.owner (dpaFrame a)).isSealed = true → (s.owner (dpaFrame a)).ctx.toNat = c → bget u.mem.hbm a = 0) ∧
    (∀ a, (∀ e, (dpaFrame a, e) ∈ s.mem.own → e.isSealed = false ∨ e.ctx.toNat ≠ c) →
      bget u.mem.hbm a = bget s.mem.hbm a ∧ u.owner (dpaFrame a) = s.owner (dpaFrame a))

/-- The slots that packet h occupies in the command ring (R270). -/
def slotsOf (h : Hdr) : Nat := (32 + h.len + 63) / 64

/-- The front end is ready for a packet of the ring, all of whose slots lie before the tail and the ring's end (R270, R273). -/
def State.ringHolds (s : State) (h : Hdr) : Prop :=
  h.path = .ring ∧ s.feReady = true ∧ s.ringEn = true ∧ s.rplFull = false ∧ lenSound h = true ∧
    slotsOf h ≤ s.cmdSize - s.fe.head.toNat ∧ slotsOf h ≤ s.ringAvail

/-- The ring's head after packet h. -/
def State.headAfter (s : State) (h : Hdr) : BitVec 16 := BitVec.ofNat 16 ((s.fe.head.toNat + slotsOf h) % s.cmdSize)

/-! ### Recovery (14 R348 to R370) -/

/-- A chip reset with this code has started (R353): every hummock is off, with no launch on it, every processor but the MGP restarts,
the command ring's state is as after reset; device memory, the page records, the map, the keys and the committed epoch stay. -/
def State.chipResets (t s : State) (code : BitVec 32) : Prop :=
  (∃ r, t.err.chip = some r ∧ r.code = code) ∧
    (∀ g : Hum, ((t.hum g).power = .inReset ∨ (t.hum g).power = .gated) ∧ (t.hum g).holder = none ∧ (t.hum g).mere = []) ∧
    (∀ i, i < 11 → (t.proc i).st = .starting) ∧ t.fe.head = 0 ∧ t.fe.rplTail = 0 ∧ t.err.ctxab = none ∧ t.err.engines = [] ∧
    t.err.sectors = [] ∧ t.mem.hbm = s.mem.hbm ∧ t.mem.recs = s.mem.recs ∧ t.mem.own = s.mem.own ∧ t.mem.keys = s.mem.keys ∧
    t.ep.c = s.ep.c

/-- A sector reset with this code has started (R352): its hummocks hold nothing, its sluices are 0, its SCP restarts; device memory, the
page records, the map and the keys stay. -/
def State.sectorResets (t s : State) (x : Nat) (code : BitVec 32) : Prop :=
  (∃ r, t.sectorRun x = some r ∧ r.code = code) ∧
    (∀ g, secOf g = x → (t.hum g).holder = none ∧ (t.hum g).mere = []) ∧
    (∀ n, n / 4096 = x → t.sluice n = Sluice.reset) ∧ (t.proc x).st = .starting ∧ t.mem.hbm = s.mem.hbm ∧
    t.mem.recs = s.mem.recs ∧ t.mem.own = s.mem.own ∧ t.mem.keys = s.mem.keys ∧ t.ep.c = s.ep.c

/-- In t each hummock of launch id that is in `stuck` is in an engine reset, every other hummock of it is Gated, no hummock is held
by it, and device memory stays (R348, R355). -/
def State.stuckReset (s t : State) (id : Nat) (stuck : List Hum) : Prop :=
  (∀ g ∈ stuck, (s.hum g).heldBy id = true → t.engineRun g ≠ none ∧ (t.hum g).power = .inReset) ∧
    (∀ g : Hum, g ∉ stuck → (s.hum g).heldBy id = true → t.engineRun g = none ∧ (t.hum g).power = .gated) ∧
    (∀ g : Hum, (t.hum g).heldBy id = false) ∧ t.mem.hbm = s.mem.hbm

/-- Nothing waits at a hummock's boundary or on a sector of BAR2. -/
def State.noStalls (s : State) : Prop := s.link.stalls = [] ∧ s.link.regStalls = []

/-- No level above a context abort runs. -/
def State.noReset (s : State) : Prop := s.err.chip = none ∧ (∀ x, s.sectorRun x = none) ∧ ∀ g, s.engineRun g = none

/-- What a record of the FCP's partition holds (15 R378). -/
structure FcpBody where
  c : BitVec 64
  genOpen : BitVec 8
  genLast : BitVec 8
  decision : Option Decision
  lastCommit : Option Decision
  mepoch : BitVec 64
  members : List (BitVec 15)
  rank : BitVec 15
  nextXid : BitVec 16
  st : EpSt
  att : BitVec 16

def FcpBody.body (j : FcpBody) : JBody :=
  .fcp j.c j.genOpen j.genLast j.decision j.lastCommit j.mepoch j.members j.rank j.nextXid j.st j.att

/-! ### Management paths (16 R399 to R419, 19 R480 to R487) -/

/-- A request on MCTP binding b reaches the MGP, which answers now. -/
def State.onBinding (s : State) (b : Binding) : Prop := b ≠ .doe ∧ s.pathUp b = true

/-- The same on any binding; on DOE the mailbox holds no object. -/
def State.onPath (s : State) (b : Binding) : Prop :=
  s.pathUp b = true ∧ (b = .doe → ∀ w ∈ s.mss.waiting, w.1 ≠ .doe ∨ w.2 = .mailbox)

/-- The transmission units of a response, in order; on I3C an in-band interrupt announces each (19 R485, R486). -/
def sentUnits (b : Binding) (bs : List Byte) : List Out :=
  (mctpUnits b bs).flatMap fun u => if b = .i3c then [.ibi, .mctp b u] else [.mctp b u]

/-- What the MGP sends on binding b leaves: the host's bindings need the link (19 R476, R482). -/
def State.carries (s : State) (b : Binding) : Prop :=
  (b = .pcie → s.link.up = true ∧ s.link.d3 = false) ∧ (b = .doe → s.link.up = true)

/-- s with a response on binding b: MGMT packets for another device (16 R400), units of the binding otherwise. -/
def State.replied (s : State) (b : Binding) (bs : List Byte) : State :=
  match b with
  | .causeway d => (s.mgmtPackets d bs).foldl State.inject s
  | _ => { s with out := s.out ++ sentUnits b bs }

/-- s with a response that takes one free draw. -/
def State.repliedFree (s : State) (b : Binding) (bs : List Byte) : State :=
  { s with freeCtr := s.freeCtr + 1 }.replied b bs

/-- s with a message of session sid refused on binding b: its response, success with zero data, and the count (R409). -/
def State.refusedMsg (s : State) (b : Binding) (sid : Nat) (bs : List Byte) : State := (s.hearIn b sid).countMsg.respondIn b sid bs

/-- Message m comes in a session whose tag checks, or in none that is open (R410). -/
def State.heardAs (s : State) (b : Binding) (m : SessIn) : Prop := s.onBinding b ∧ s.genuine b m = true

/-- Session x after a message was heard and answered within it (R410). -/
def Session.spoken (x : Session) : Session := { x with sendSeq := x.sendSeq + 1, recvSeq := x.recvSeq + 1 }

/-- The header of the slot's image is one that R385 verifies. -/
def Firmware.imageOk (f : Firmware) (x : Bool) : Prop :=
  let h := flashRead f.flash (slotBase x) 0x140
  imageLayout h = true ∧ field h 0x1C 4 = 0xA0 ∧ f.svnMin.toNat ≤ field h 0x10 4

/-- Session sid has become y, and the other sessions stay. -/
def State.sessionBecomes (s t : State) (sid : Nat) (y : Session) : Prop :=
  t.sessionOf sid = some y ∧ ∀ k, k ≠ sid → t.sessionOf k = s.sessionOf k

/-! ### Power (17 R428 to R448) -/

/-- The request registers take a write of master m, and the PWP acts on it (R431, R456, R469). -/
def State.powerWrites (s : State) (m : Master) : Prop :=
  s.privileged m ∧ s.regionOpen 9 = true ∧ s.pwpUp = true ∧ s.pwc.clamp = false

/-- t's hummocks that are on have setpoint mv, and nothing else of any hummock differs from s's. -/
def State.drivenTo (s t : State) (mv : Nat) : Prop :=
  t.pwc.common = mv ∧
    ∀ g, t.hum g = if (s.hum g).power = .running ∨ (s.hum g).power = .still then { (s.hum g) with vset := BitVec.ofNat 10 mv }
      else s.hum g

/-- t has entered point w: its ramp runs, nothing is pending, and admission uses a. -/
def State.entersPoint (t : State) (w a : BitVec 2) : Prop :=
  t.pwc.active = w ∧ t.pwc.admitPt = a ∧ t.pwc.pend = none ∧ t.pwc.ramp = true

/-! ### Registers (18 R453, R469) -/

/-- t's register off is v, and every other one is s's. -/
def State.regBecomes (s t : State) (off : Nat) (v : BitVec 64) : Prop := t.reg off = v ∧ ∀ o, o ≠ off → t.reg o = s.reg o

/-- Stored registers that a write only stores (R288, R398, R427, R450, R370). -/
def plainRegs : List Nat := [0x68, 0x200018, 0x300000, 0x300008, 0x300200, 0x400010, 0x400028, 0x503180]

/-! ### Configuration regions (18 R467 to R470) and the host -/

/-- The checksum that region r would have with the values of a copy in its registers' scope (R468, R470). -/
def copyCrc (copy : Store (BitVec 64)) (r : Nat) : BitVec 32 :=
  crc32c ((regionOffs r).flatMap fun o => leBytes 8
    (match cfgScope o with
     | some (_, mask) => sget 0 copy o &&& mask
     | none => 0).toNat)

/-- The reference of region r. -/
def State.cfgRefOf (s : State) (r : Nat) : BitVec 32 := (s.reg (cfgRef r)).setWidth 32

/-- The window's access at offset o reaches n bytes of one frame in device memory at d, not sealed, not being zeroed, in a sector that
runs (R458, R481). -/
def State.bar2Plain (s : State) (o n d : Nat) : Prop :=
  s.hostOk = true ∧ o + n ≤ 2 ^ s.link.bar2Log2 ∧ d = s.bar2Dpa o ∧ piecesOf d n = [(d, n)] ∧ s.bar2Open d n = true ∧
    dpaReserved d = false ∧ (s.owner (dpaFrame d)).isSealed = false ∧ s.mem.err = [] ∧ s.wakeStacks d n = s

/-- Device memory and every hummock's Mere stand in their canonical form. -/
def State.memoriesOk (s : State) : Prop := swf (0 : Byte) s.mem.hbm = true ∧ ∀ g, swf (0 : Byte) (s.hum g).mere = true

/-- t is s with vector v raised, or pending where it is masked or the link cannot carry it (R478). -/
def State.raised (s t : State) (v : BitVec 11) : Prop :=
  if sget false s.link.unmasked v.toNat = true ∧ s.link.up = true ∧ s.link.d3 = false then t = { s with out := s.out ++ [s.msixMsg v] }
  else t = { s with link := { s.link with pba := sset false s.link.pba v.toNat true } }

/-- Nothing of hummock g waits to start but loads and passes, which the Lattices start themselves. -/
def State.onlyLatticeQueued (s : State) (g : Fin 96) : Prop :=
  (s.hum g).seq.sigs = [] ∧ ∀ j ∈ (s.hum g).unret, isLattice j.op = true ∨ j.phase ≠ .queued

end Sys2Proof.Machine
end

