-- ==== Sys2Proof/Certificates/Slice0/Obligations.lean ====
section
/-!
DEFINITION. Sys2Proof/Certificates/Slice0/Obligations.lean: the statements for the provers.
-/

open Sys2Proof Sys2Proof.Machine

/-! ### The block's step -/

/-- The model's own convention (log 1): a step runs the command at the front of the queue on the state with the queue's rest, and
an empty queue idles. -/
def Obligations.StepRunsFrontCommand : Prop :=
  (∀ (c : Instr) (rest : List Instr) (s : State),
    step { s with pending := c :: rest } = exec c { s with pending := rest }) ∧
  ∀ s : State, s.pending = [] → step s = .next s

/-! ### The sequencer's words -/

/-- R167 to R170, R176, R177, R79, R80, R107, R191: no bit of a sequencer word is lost. -/
def Obligations.SequencerWordRoundTrip : Prop :=
  ∀ (i : Instr) (g : Hum) (w : BitVec 64), encodeSeqWord i = some w → seqHum i = some g → decodeSeqWord g w = some i

/-! ### Scalar and control instructions -/

/-- R166, R168: a scalar instruction that writes a register writes its value into XD, or nothing where XD is x0, and PC goes to
the next instruction; every other register, the rest of the hummock and the rest of the device stay. -/
def Obligations.ScalarResult : Prop :=
  ∀ (i : Instr) (s : State) (g : Hum) (xd : BitVec 5) (v : BitVec 64),
    scalarResult (fun k => (s.hum k).seq) i = some (g, xd, v) → s.issues g → s.inCode g ((s.hum g).seq.pc + 1) →
    ∃ t, exec i s = .next t ∧ s.onlyHum t g ∧ (s.hum g).alikeButSeq (t.hum g) ∧
      (s.hum g).seq.alikeButRegs (t.hum g).seq ∧ (t.hum g).seq.pc = (s.hum g).seq.pc + 1 ∧
      ∀ r : BitVec 5, (t.hum g).seq.reg r = if r = 0 then 0 else if r = xd then v else (s.hum g).seq.reg r

/-- R168: NOP changes nothing but PC; BR and a BRC that is taken move PC by sext(IMM), a BRC that is not taken moves it to the next
instruction; no register changes. R168: LOOP takes 1 from x[XD] and branches while the result is not 0; x0 reads 0, so LOOP on x0
always branches. -/
def Obligations.ControlResult : Prop :=
  (∀ (s : State) (g : Hum) (xa xb : BitVec 5) (cond : BitVec 3) (imm : BitVec 32), s.issues g →
      (s.inCode g ((s.hum g).seq.pc + 1) →
        ∃ t, exec (.nopInstr g) s = .next t ∧ s.seqBecomes t g { (s.hum g).seq with pc := (s.hum g).seq.pc + 1 }) ∧
      (s.inCode g (branchTarget (s.hum g).seq.pc imm) →
        ∃ t, exec (.br g imm) s = .next t ∧
          s.seqBecomes t g { (s.hum g).seq with pc := branchTarget (s.hum g).seq.pc imm }) ∧
      (branchTaken (s.hum g).seq xa xb cond = some true → s.inCode g (branchTarget (s.hum g).seq.pc imm) →
        ∃ t, exec (.brc g xa xb cond imm) s = .next t ∧
          s.seqBecomes t g { (s.hum g).seq with pc := branchTarget (s.hum g).seq.pc imm }) ∧
      (branchTaken (s.hum g).seq xa xb cond = some false → s.inCode g ((s.hum g).seq.pc + 1) →
        ∃ t, exec (.brc g xa xb cond imm) s = .next t ∧
          s.seqBecomes t g { (s.hum g).seq with pc := (s.hum g).seq.pc + 1 })) ∧
  (∀ (s : State) (g : Hum) (xd : BitVec 5) (imm : BitVec 32), s.issues g →
      let v := (s.hum g).seq.reg xd - 1
      let target := if v ≠ 0 then branchTarget (s.hum g).seq.pc imm else (s.hum g).seq.pc + 1
      s.inCode g target →
      ∃ t, exec (.loop g xd imm) s = .next t ∧ s.onlyHum t g ∧ (s.hum g).alikeButSeq (t.hum g) ∧
        (s.hum g).seq.alikeButRegs (t.hum g).seq ∧ (t.hum g).seq.pc = target ∧
        ∀ r : BitVec 5, (t.hum g).seq.reg r = if r = 0 then 0 else if r = xd then v else (s.hum g).seq.reg r)

/-- R168, R187: SRD of HUM_ID, HUM_SEQ_STATUS, HUM_QSTAT or SUMP_STATE puts the register into XD; HUM_SEQ_STATUS reads with PC at the
next instruction. SWR writes HUM_PCTL, or HUM_WAKEVEC with a vector in the code, from x[XA], and changes no scalar register. -/
def Obligations.HummockRegisterAccess : Prop :=
  ∀ (s : State) (g : Hum) (xd xa : BitVec 5) (imm : BitVec 32), s.issues g → s.inCode g ((s.hum g).seq.pc + 1) →
    ((imm = 0 ∨ imm = 0x1000 ∨ imm = 0x1018 ∨ (0x4000 ≤ imm.toNat ∧ imm.toNat < 0x4080 ∧ imm.toNat % 8 = 0)) →
      ∃ t, exec (.srd g xd imm) s = .next t ∧ s.onlyHum t g ∧ (s.hum g).alikeButSeq (t.hum g) ∧
        (s.hum g).seq.alikeButRegs (t.hum g).seq ∧ (t.hum g).seq.pc = (s.hum g).seq.pc + 1 ∧
        ∀ r : BitVec 5, (t.hum g).seq.reg r =
          if r = 0 then 0
          else if r = xd then
            readHumReg { (s.hum g) with seq := { (s.hum g).seq with pc := (s.hum g).seq.pc + 1 } } g imm.toNat
          else (s.hum g).seq.reg r) ∧
    (let v := (s.hum g).seq.reg xa
     let q := { (s.hum g).seq with pc := (s.hum g).seq.pc + 1 }
     ∃ t, exec (.swr g xa 0x1008) s = .next t ∧ s.onlyHum t g ∧
      t.hum g = { (s.hum g) with seq := q, pmode := v.getLsbD 0, wslu := v.extractLsb' 16 15, wsen := v.getLsbD 31 }) ∧
    (let v := (s.hum g).seq.reg xa
     let q := { (s.hum g).seq with pc := (s.hum g).seq.pc + 1 }
     s.inCode g (v.extractLsb' 0 23) →
     ∃ t, exec (.swr g xa 0x1010) s = .next t ∧ s.onlyHum t g ∧
      t.hum g = { (s.hum g) with seq := q, wvec := v.extractLsb' 0 23 })

/-- R168, R166: DSET of an entry of the program's descriptor table whose 32 bytes read without a fault, a stall or an error makes
descriptor TD those bytes, its reserved bits zero (R157), and its origin 0: nothing else of the hummock, no other hummock and no other
state changes but what the translation and the read themselves leave. R169: DPATCH puts x[XA], truncated to the field's width, into the named field of
descriptor TD or of its origin, and no other field of it changes; no other descriptor changes. R168: DADD adds x[XA] to EBASE and
x[XB] to SBASE of descriptor TD, both modulo 2^52, and changes nothing else of it. -/
def Obligations.DescriptorResult : Prop :=
  (∀ (s s1 : State) (g : Hum) (td : BitVec 6) (imm : BitVec 32) (x : Holder) (m : List TlbEntry) (e : TlbEntry),
      s.issues g → s.inCode g ((s.hum g).seq.pc + 1) → (s.hum g).holder = some x → imm.toNat < x.ndesc →
      let va := (x.descBase.toNat + 32 * imm.toNat) % 2 ^ 52
      s.xlateVia (some (secOf g)) x.imgCtx.toNat va 32 false = (s1, m, .ok e) → s1.framesBusy m = false →
      (s1.vaRead m x.imgCtx.toNat va 32).trouble = .none →
      let u := (s1.vaRead m x.imgCtx.toNat va 32).s
      ∃ t, exec (.dset g td imm) s = .next t ∧
        u.descBecomes t g td (descOfBytes (s1.vaRead m x.imgCtx.toNat va 32).bytes) ∧
        u.hums = s.hums ∧ t.mem.hbm = s.mem.hbm ∧ t.mem.recs = s.mem.recs ∧ t.sluices = s.sluices ∧ t.regs = s.regs ∧
        t.ep = s.ep ∧ t.cwy = s.cwy) ∧
  (∀ (s : State) (g : Hum) (td : BitVec 6) (fld : BitVec 4) (xa : BitVec 5), s.issues g → s.inCode g ((s.hum g).seq.pc + 1) →
      fld.toNat < 12 →
      ∃ t d, exec (.dpatch g td fld xa) s = .next t ∧ s.descBecomes t g td d ∧
        ∀ k, k < 12 → descField d k =
          if k = fld.toNat then ((s.hum g).seq.reg xa).toNat % 2 ^ descWidth k else descField ((s.hum g).seq.desc1 td) k) ∧
  (∀ (s : State) (g : Hum) (td : BitVec 6) (xa xb : BitVec 5), s.issues g → s.inCode g ((s.hum g).seq.pc + 1) →
      let d0 := (s.hum g).seq.desc1 td
      ∃ t d, exec (.dadd g td xa xb) s = .next t ∧ s.descBecomes t g td d ∧
        d.ebase = (d0.ebase + ((s.hum g).seq.reg xa).toNat) % 2 ^ 52 ∧
        d.sbase = (d0.sbase + ((s.hum g).seq.reg xb).toNat) % 2 ^ 52 ∧
        ∀ k, 2 ≤ k → k < 12 → descField d k = descField d0 k)

/-- R174, R175: what makes the sequencer raise a program fault at a scalar, control or descriptor instruction or at a SIGNAL: a
reserved COND, FIELD or register offset, PLD outside the block or misaligned, SWR of a wake vector beyond the code, DSET beyond the
table, INC = 0. -/
def Obligations.SequencerFaults : Prop :=
  ∀ (s : State) (g : Hum), s.issues g →
    (∀ xa xb cond imm, 6 ≤ cond.toNat → ∃ t, exec (.brc g xa xb cond imm) s = .next t ∧ s.faults t g 1 0x09) ∧
    (∀ xd xa imm, (let off := ((s.hum g).seq.reg xa + BitVec.ofInt 64 imm.toInt).toNat
      off % 8 ≠ 0 ∨ (s.paramsOf g).length < off + 8) →
      ∃ t, exec (.pld g xd xa imm) s = .next t ∧ s.faults t g 5 0x1A) ∧
    (∀ xd imm, imm ≠ 0 → imm ≠ 0x1000 → imm ≠ 0x1018 →
      ¬ (0x4000 ≤ imm.toNat ∧ imm.toNat < 0x4080 ∧ imm.toNat % 8 = 0) →
      ∃ t, exec (.srd g xd imm) s = .next t ∧ s.faults t g 1 0x1B) ∧
    (∀ xa imm, imm ≠ 0x1008 → imm ≠ 0x1010 → ∃ t, exec (.swr g xa imm) s = .next t ∧ s.faults t g 1 0x1C) ∧
    (∀ xa, ¬ s.inCode g (((s.hum g).seq.reg xa).extractLsb' 0 23) →
      ∃ t, exec (.swr g xa 0x1010) s = .next t ∧ s.faults t g 3 0x1C) ∧
    (∀ td imm x, (s.hum g).holder = some x → x.ndesc ≤ imm.toNat →
      ∃ t, exec (.dset g td imm) s = .next t ∧ s.faults t g 4 0x20) ∧
    (∀ td fld xa, 12 ≤ fld.toNat → ∃ t, exec (.dpatch g td fld xa) s = .next t ∧ s.faults t g 1 0x21) ∧
    (∀ slu rem rank wmask, ∃ t, exec (.signal g slu 0 rem rank wmask) s = .next t ∧ s.faults t g 2 0x30)

/-- R168, R171, R172: with nothing unretired and no signal to send, FENCE goes on to the next instruction, END ends the program and
is counted for its launch, and WAITP enters Still, or Gated with the loss of everything that the hummock's power domain holds. -/
def Obligations.FenceEndWaitp : Prop :=
  ∀ (s : State) (g : Hum) (x : Holder) (mask : BitVec 4), s.issues g → s.allRetired g → (s.hum g).holder = some x →
    (s.inCode g ((s.hum g).seq.pc + 1) →
      ∃ t, exec (.fence g mask) s = .next t ∧ s.seqBecomes t g { (s.hum g).seq with pc := (s.hum g).seq.pc + 1 }) ∧
    (∃ t, exec (.endProg g) s = .next t ∧ (t.hum g).seq.st = .ended ∧ (t.hum g).seq.x = (s.hum g).seq.x ∧
      (t.hum g).mere = (s.hum g).mere ∧ (∀ k, k ≠ g.val → t.hum k = s.hum k) ∧ t.mem = s.mem ∧
      t.fe.launches = s.fe.launches.map fun l => if l.id == x.launch then { l with ended := l.ended + 1 } else l) ∧
    ((s.hum g).pmode = false → ∃ t, exec (.waitp g) s = .next t ∧ s.onlyHum t g ∧
      t.hum g = { (s.hum g) with
        power := .still, seq := { (s.hum g).seq with st := .still, pc := (s.hum g).seq.pc + 1 } }) ∧
    ((s.hum g).pmode = true → ∃ t, exec (.waitp g) s = .next t ∧ s.onlyHum t g ∧ (t.hum g).power = .gated ∧
      (t.hum g).seq.st = .gated ∧ (t.hum g).mere = [] ∧ (t.hum g).sump = [] ∧ (t.hum g).peat = [] ∧ (t.hum g).lats = [] ∧
      (t.hum g).seq.x = [] ∧ (t.hum g).seq.desc = [] ∧ (t.hum g).holder = some x ∧ (t.hum g).wvec = (s.hum g).wvec ∧
      (t.hum g).pmode = true ∧ (t.hum g).wslu = (s.hum g).wslu ∧ (t.hum g).wsen = (s.hum g).wsen)

/-- R176, R179: SIGNAL with nothing to wait for leaves the sequencer at once: to its home on this device, or as a signal packet to the
device at RANK; PC goes on. R177, R178: WAIT with THR = 0 completes at once. On a sluice of the context's range without waiters it
completes where the count is at least THR, and takes THR from it under CONS = 1; otherwise the sequencer stalls, and it stands
last among the waiters. On a sluice outside the range it stalls. -/
def Obligations.SluiceInstructionResult : Prop :=
  (∀ (s : State) (g : Hum) (x : Holder) (slu : BitVec 15) (inc : BitVec 16) (rank : BitVec 15) (wmask : BitVec 4),
      s.idleIssue g → (s.hum g).holder = some x → inc ≠ 0 →
      (∃ t, exec (.signal g slu inc false rank wmask) s = .next t ∧
        t.flight = s.flight ++ [(g, { slu := slu, inc := inc, rem := false, rank := rank, ctx := x.ctx, launch := x.launch
                                      att := x.att, after := [], pc := (s.hum g).seq.pc })] ∧
        (t.hum g).seq = { (s.hum g).seq with pc := (s.hum g).seq.pc + 1 } ∧ (s.hum g).alikeButSeq (t.hum g) ∧
        (∀ k, k ≠ g.val → t.hum k = s.hum k) ∧ { t with hums := s.hums, flight := s.flight } = s) ∧
      (rank.toNat < s.groupSize →
        ∃ t, exec (.signal g slu inc true rank wmask) s = .next t ∧ t.flight = s.flight ∧
          (∃ p, t.cwy.inject = s.cwy.inject ++ [p] ∧ p.type = 0x03 ∧ p.vc = 0 ∧ p.dst = s.memberDev rank.toNat ∧
            p.ctx = x.ctx ∧ p.slu = slu ∧ p.addr = inc.setWidth 64 ∧ p.payload = []) ∧
          (t.hum g).seq = { (s.hum g).seq with pc := (s.hum g).seq.pc + 1 } ∧ (∀ k, k ≠ g.val → t.hum k = s.hum k) ∧
          t.mem = s.mem ∧ t.sluices = s.sluices)) ∧
  (∀ (s : State) (g : Hum) (x : Holder) (slu : BitVec 15) (thr : BitVec 32) (cons : Bool),
      s.issues g → s.inCode g ((s.hum g).seq.pc + 1) → (s.hum g).holder = some x →
      let q := { (s.hum g).seq with pc := (s.hum g).seq.pc + 1 }
      let stalled := { q with st := .waitSluice, stall := some (.sluice slu thr cons) }
      (∃ t, exec (.wait g slu 0 cons) s = .next t ∧ s.seqBecomes t g q) ∧
      (thr ≠ 0 → s.sluiceOf x.ctx.toNat slu.toNat = none →
        ∃ t, exec (.wait g slu thr cons) s = .next t ∧ s.seqBecomes t g stalled) ∧
      (∀ n, thr ≠ 0 → s.sluiceOf x.ctx.toNat slu.toNat = some n → (s.sluice n).waiters = [] →
        ∃ t, exec (.wait g slu thr cons) s = .next t ∧ { t with hums := s.hums, sluices := s.sluices } = s ∧
          (∀ k, k ≠ n → t.sluice k = s.sluice k) ∧ (∀ k, k ≠ g.val → t.hum k = s.hum k) ∧
          (s.hum g).alikeButSeq (t.hum g) ∧
          (if thr.toNat ≤ (s.sluice n).count.toNat then
            (t.hum g).seq = q ∧
              t.sluice n = { (s.sluice n) with count := if cons then (s.sluice n).count - thr else (s.sluice n).count }
           else
            (t.hum g).seq = stalled ∧ t.sluice n = { (s.sluice n) with waiters := [⟨some g, thr, cons⟩] })) ∧
      (∀ n, thr ≠ 0 → s.sluiceOf x.ctx.toNat slu.toNat = some n →
        (∃ w rest, (s.sluice n).waiters = w :: rest ∧ (s.sluice n).count.toNat < w.thr.toNat) →
        ∃ t, exec (.wait g slu thr cons) s = .next t ∧ (t.hum g).seq = stalled ∧
          t.sluice n = { (s.sluice n) with waiters := (s.sluice n).waiters ++ [⟨some g, thr, cons⟩] } ∧
          (∀ k, k ≠ n → t.sluice k = s.sluice k) ∧ (∀ k, k ≠ g.val → t.hum k = s.hum k)))

/-! ### Station instructions -/

/-- R166, R164, R75: a station instruction that may not start yet enters its station's queue with the descriptors, origins and
registers that it names, and PC goes to the next instruction; nothing else changes. LLOAD and LPASS always enter so. R82, R162,
R164, R166: a station instruction whose queue is full stalls the sequencer by handshake; PC and everything else stay. -/
def Obligations.StationIssueResult : Prop :=
  (∀ (i : Instr) (s : State) (g : Hum) (op : StOp), stationOp i = some (g, op) → s.issues g →
      s.inCode g ((s.hum g).seq.pc + 1) → (s.hum g).seq.sigs = [] → (∀ j ∈ (s.hum g).unret, j.phase ≠ .queued) →
      (s.hum g).hasRoom op = true → (s.entered g (s.entry g i op)).mayStart g (s.entry g i op) = false →
      exec i s = .next (s.entered g (s.entry g i op))) ∧
  (∀ (i : Instr) (s : State) (g : Hum) (op : StOp), stationOp i = some (g, op) → s.issues g →
      (∀ j ∈ (s.hum g).unret, j.phase ≠ .queued) → (s.hum g).hasRoom op = false →
      ∃ t, exec i s = .next t ∧ s.seqBecomes t g { (s.hum g).seq with st := .waitQueue, stall := some .queue })

/-- R107: SCFG binds or unbinds its tile, sets S - 1 and the long-sum mode, takes the draw key and the coordinates from its registers
in that mode, and clears the slot under BIND and PCLR; SCLR sets every element of the tile to +0, OFF and CNT to 0, and under
CPEAT the bound slot to +0. No other tile or slot changes. R103, R107: SSPILL of a bound tile, outside V40 mode and without memory
errors, adds every committed value of the tile, as a reader receives it (R86), to its element of the bound slot in binary64 by RNE,
and clears the tile's elements; SPILLING stands until SPILL_COMPLETE. No other tile, no other slot and no byte of memory changes. -/
def Obligations.TileResult : Prop :=
  (∀ (s : State) (g : Hum) (f : ScfgFields) (tile : BitVec 4) (cpeat : Bool), s.idleIssue g → (s.hum g).groups = [] →
      (∀ k, ((s.hum g).tile k).spilling = false) →
      ((f.bind = true → ∀ u, u < 16 → u ≠ f.tile.toNat →
          ((s.hum g).tile u).bind = true → ((s.hum g).tile u).pslot ≠ f.pslot) →
        let x := (s.hum g).tile f.tile.toNat
        let key := (s.hum g).seq.reg f.xk
        let at_ := (s.hum g).seq.reg f.xc
        ∃ t, exec (.scfg g f) s = .next t ∧ s.onlyHum t g ∧ s.finished t g (s.entry g (.scfg g f) (.scfg f)) ∧
          (t.hum g).tile f.tile.toNat =
            { x with
              bind := f.bind, pslot := if f.bind then f.pslot else x.pslot, sm1 := f.sm1, lsum := f.lsum
              tag := if f.lsum then key.extractLsb' 0 31 else x.tag, lidx := if f.lsum then key.extractLsb' 32 32 else x.lidx
              orgRow := if f.lsum then at_.extractLsb' 0 32 else x.orgRow
              orgCol := if f.lsum then at_.extractLsb' 32 32 else x.orgCol } ∧
          (∀ k, k ≠ f.tile.toNat → (t.hum g).tile k = (s.hum g).tile k) ∧
          (∀ p, (t.hum g).slot p = if f.bind && f.pclr && p == f.pslot.toNat then [] else (s.hum g).slot p) ∧
          (t.hum g).lats = (s.hum g).lats ∧ (t.hum g).mere = (s.hum g).mere) ∧
      ((cpeat = true → ((s.hum g).tile tile.toNat).bind = true) →
        let x := (s.hum g).tile tile.toNat
        ∃ t, exec (.sclr g tile cpeat) s = .next t ∧ s.onlyHum t g ∧
          s.finished t g (s.entry g (.sclr g tile cpeat) (.sclr tile cpeat)) ∧
          (∀ r c, ((t.hum g).tile tile.toNat).com r c = 0) ∧
          (t.hum g).tile tile.toNat = { x with bank0 := [], bank1 := [], off := 0, roff := [], woff := 0, cnt := 0, evs := {} } ∧
          (∀ k, k ≠ tile.toNat → (t.hum g).tile k = (s.hum g).tile k) ∧
          (∀ p, (t.hum g).slot p = if cpeat && p == x.pslot.toNat then [] else (s.hum g).slot p) ∧
          (t.hum g).lats = (s.hum g).lats ∧ (t.hum g).mere = (s.hum g).mere)) ∧
  (∀ (s : State) (g : Hum) (tile : BitVec 4), s.idleIssue g → (s.hum g).groups = [] → s.mem.err = [] →
      (∀ k, ((s.hum g).tile k).spilling = false) → (s.env g).v40 = false → ((s.hum g).tile tile.toNat).bind = true →
      let x := (s.hum g).tile tile.toNat
      ∃ t, exec (.sspill g tile) s = .next t ∧
        (t.hum g).seq = { (s.hum g).seq with pc := (s.hum g).seq.pc + 1 } ∧
        (∀ r c, r < 256 → c < 256 →
          sget 0 ((t.hum g).slot x.pslot.toNat) (256 * r + c) =
            enc64 (f64.round .rne ((val64 (sget 0 ((s.hum g).slot x.pslot.toNat) (256 * r + c))).add (x.value r c)).1).1) ∧
        (∀ r c, ((t.hum g).tile tile.toNat).com r c = 0) ∧ ((t.hum g).tile tile.toNat).spilling = true ∧
        ((t.hum g).tile tile.toNat).off = x.off ∧ ((t.hum g).tile tile.toNat).cnt = x.cnt ∧
        (∀ k, k ≠ tile.toNat → (t.hum g).tile k = (s.hum g).tile k) ∧
        (∀ p, p ≠ x.pslot.toNat → (t.hum g).slot p = (s.hum g).slot p) ∧
        (t.hum g).mere = (s.hum g).mere ∧ t.mem.hbm = s.mem.hbm)

/-- R168, R508, R159: WMOVE inside the hummock's own Mere copies its rows bit for bit: it stores the rows of its source as they stood
before it, row r at EBASE + r x ESTRIDE, and the scale rows of a scaled format. Nothing else changes, and every element row of an
unscaled destination then reads as the source row did. R158, R163, R171: with operands in device memory (SPACE 1, on pages that are not protected) or in the Mere of another hummock
(SPACE 2) the same bytes go from the one space to the other, and no other memory changes. -/
def Obligations.WmoveResult : Prop :=
  (∀ (s : State) (g : Hum) (f : WeirFields), s.idleIssue g → s.mem.err = [] →
    let e := s.entry g (.wmove g f) (.wmove f)
    let m := (s.hum g).mere
    (s.entered g e).mayStart g e = true → (s.entered g e).moveOk g e f = true → ownMere [(e.da, f.sfmt), (e.db, f.sfmt)] →
    ∃ t, exec (.wmove g f) s = .next t ∧ s.onlyHum t g ∧ s.finished t g e ∧
      (t.hum g).mere = storeAll m (chunksOf (e.db, f.sfmt) (mereRows m (e.da, f.sfmt)) (mereScales m (e.da, f.sfmt))) ∧
      (t.hum g).lats = (s.hum g).lats ∧ (t.hum g).sump = (s.hum g).sump ∧ (t.hum g).peat = (s.hum g).peat ∧
      (fScaled f.sfmt = false → ∀ r, r < e.db.rows →
        bread (t.hum g).mere (e.db.ebase + r * e.db.stride) (rowBytes (fCode f.sfmt) e.db.len) =
          bread m (e.da.ebase + r * e.da.stride) (rowBytes (fCode f.sfmt) e.da.len))) ∧
  ∀ (s s1 : State) (g : Hum) (f : WeirFields) (m : List TlbEntry), s.idleIssue g → s.mem.err = [] →
    let e := s.entry g (.wmove g f) (.wmove f)
    let u := s.entered g e
    u.mayStart g e = true → u.moveOk g e f = true → u.opensTo s1 g m [(e.da, f.sfmt)] [(e.db, f.sfmt)] →
    ∃ t, exec (.wmove g f) s = .next t ∧ (t.hum g).unret = [{ e with phase := .done, held := 0 }] ∧
      (s1.putChunks g m e.db (chunksOf (e.db, f.sfmt) (s1.viewRows g m (e.da, f.sfmt)) (s1.viewScales g m (e.da, f.sfmt)))).memoriesOf t ∧
      s.memoriesOf s1

/-- R170, R508, R52: WCONV to the hummock's own Mere stores the rows of its source, converted under DFMT. The source may be rows of
the Mere, a Sump tile, a Peat slot or a STREAM group. No other byte of any memory, no value of a Sump tile (which loses only the events
that it kept), no Lattice, no slot and no other hummock changes. R158, R163: with a source or a destination in device memory (SPACE 1, on
pages that are not protected) or in the Mere of another hummock (SPACE 2) the same rows come from there and go there. -/
def Obligations.WconvResult : Prop :=
  (∀ (s : State) (g : Hum) (f : WeirFields), s.idleIssue g → s.mem.err = [] →
    let e := s.entry g (.wconv g f) (.wconv f)
    let u := s.entered g e
    let x := u.readSource g [] true f.srck f.tile (e.da, f.sfmt) e.db.rows e.db.len
    u.mayStart g e = true → u.convOk g e f = true → ownMere (weirReads e f ++ weirWrites e f.dfmt) →
    ∃ t, exec (.wconv g f) s = .next t ∧ s.finished t g e ∧
      (t.hum g).mere = storeAll (s.hum g).mere (tensorChunks (s.env g) (e.db, f.dfmt) (x.rows.map fun r => r.map fun y => y.1)) ∧
      t.mem = s.mem ∧ t.regs = s.regs ∧ t.sluices = s.sluices ∧ (t.hum g).lats = (s.hum g).lats ∧
      (∀ k, { (t.hum g).tile k with evs := {} } = { (s.hum g).tile k with evs := {} }) ∧
      (t.hum g).peat = (s.hum g).peat ∧ ∀ k, k ≠ g.val → t.hum k = s.hum k) ∧
  ∀ (s s1 : State) (g : Hum) (f : WeirFields) (m : List TlbEntry), s.idleIssue g → s.mem.err = [] →
    let e := s.entry g (.wconv g f) (.wconv f)
    let u := s.entered g e
    let rows := if f.srck = 0 then
        (s1.viewRows g m (e.da, f.sfmt)).zipIdx.map fun r =>
          rowVals f.sfmt r.1 (((s1.viewScales g m (e.da, f.sfmt))[r.2]?).getD []) e.db.len
      else (u.readSource g [] true f.srck f.tile (e.da, f.sfmt) e.db.rows e.db.len).rows
    u.mayStart g e = true → u.convOk g e f = true → u.opensTo s1 g m (weirReads e f) (weirWrites e f.dfmt) →
    ∃ t, exec (.wconv g f) s = .next t ∧ (t.hum g).unret = [{ e with phase := .done, held := 0 }] ∧
      (s1.putChunks g m e.db (tensorChunks (s.env g) (e.db, f.dfmt) (rows.map fun r => r.map fun y => y.1))).memoriesOf t ∧
      s.memoriesOf s1 ∧ (∀ k, { (t.hum g).tile k with evs := {} } = { (s.hum g).tile k with evs := {} })

/-- R92, R97, R102: WRED of rows of the Mere into an unbound Sump tile, not shared and without overflow, adds every element to the
tile's working bank and commits it; no other tile, no slot and no byte of memory changes. R111, R128, R129: WRED of rows of the
Mere to device memory sends one contribution for each element in row order: element c of row r, converted to the contribution's FMT, for the binary32 at
EBASE + r x ESTRIDE + 4c, with its leaf, with q, P and the round of XQ, Ordered in every mode
but Fast; the instruction is outstanding until all are accepted. Memory stays as it is. A source that is not binary32 is converted
once, to the contribution's FMT, which is the model's reading (log 102). -/
def Obligations.WredResult : Prop :=
  (∀ (s : State) (g : Hum) (f : WeirFields), s.idleIssue g → (s.hum g).groups = [] → s.mem.err = [] →
      (∀ k, ((s.hum g).tile k).spilling = false) →
      let e := s.entry g (.wred g f) (.wred f)
      let x := (s.hum g).tile f.dtile.toNat
      let rows := ((mereRows (s.hum g).mere (e.da, f.sfmt)).zipIdx.map fun r =>
        rowVals f.sfmt r.1 (((mereScales (s.hum g).mere (e.da, f.sfmt))[r.2]?).getD []) e.da.len)
      let y := (addTransfer (s.env g) x.lidx.toNat (x.begin f.clr false) rows).1
      f.srck = 0 → f.dstk = true → (f.shr && (s.env g).mode == 0) = false → x.bind = false →
      (s.entered g e).redOk g e f = true → ownMere [(e.da, f.sfmt)] → y.ovf = [] →
      ∃ t, exec (.wred g f) s = .next t ∧ s.finished t g e ∧
        { (t.hum g).tile f.dtile.toNat with evs := {} } = { y.commit 1 1 with evs := {} } ∧
        (∀ k, k ≠ f.dtile.toNat → (t.hum g).tile k = (s.hum g).tile k) ∧ (t.hum g).peat = (s.hum g).peat ∧
        (t.hum g).mere = (s.hum g).mere ∧ t.mem = s.mem ∧ ∀ k, k ≠ g.val → t.hum k = s.hum k) ∧
  (∀ (s s1 : State) (g : Hum) (f : WeirFields) (m : List TlbEntry), s.idleIssue g → s.mem.err = [] →
      let e := s.entry g (.wred g f) (.wred f)
      let u := s.entered g e
      f.srck = 0 → f.dstk = false → u.mayStart g e = true → u.redOk g e f = true → e.da.space = 0 →
      mereOk (e.da, f.sfmt) = true → u.xlateOpnds g (s.ctxOf g) [(e.da, f.sfmt)] [(e.db, fmt32)] = (s1, m, .ok) → s1.framesBusy m = false →
      ∃ t out, exec (.wred g f) s = .next t ∧ t.mem.contribs = s.mem.contribs ++ out ∧ out.length = e.da.rows * e.da.len ∧
        (∀ y ∈ out, y.src = some (g, e.id) ∧ y.code = fCode f.dfmt ∧ y.q = e.va.extractLsb' 0 15 ∧
          y.p = (e.va.extractLsb' 16 16).setWidth 17 ∧ y.round = e.va.extractLsb' 32 32 ∧
          y.ordered = ((s.env g).mode != 0) ∧ y.ctx = BitVec.ofNat 6 (s.ctxOf g) ∧ y.att = s.ep.att ∧ y.epoch = s.openEpoch ∧
          y.tag = BitVec.ofNat 31 e.db.tag) ∧
        (∀ r c, r < e.da.rows → c < e.da.len → ∃ y, out[r * e.da.len + c]? = some y ∧
          (let a := (e.db.ebase + r * e.db.stride + 4 * c) % 2 ^ 52
           let x := mereRow (s.hum g).mere (e.da, f.sfmt) r
           y.va = BitVec.ofNat 52 a ∧ y.leaf = leafAt m (s.ctxOf g) a ∧ y.dpa = elemDpa y.leaf a ∧
            y.bits = BitVec.ofNat 64 (((convRow f.dfmt none (e.db.rm f.dfmt (s.env g).seed r)
              ((rowVals f.sfmt x.1 x.2 e.da.len).map fun v => v.1)).codes[c]?).getD 0))) ∧
        (t.hum g).unret = [{ e with phase := .running, held := 0, outstanding := out.length }] ∧
        (t.hum g).mere = (s.hum g).mere ∧ t.mem.hbm = s.mem.hbm ∧ ∀ k, k ≠ g.val → t.hum k = s.hum k)

/-- R170, R317 to R319: CSEND from the hummock's own Mere hands the transfer's packets to the Causeway in order, each with its piece
of the rows and its address at the destination (under RED, with the FMT of its contributions), the context, the epoch and the attempt,
one transfer number, rising indices, LAST on the last, ORD in every mode but Fast, and ENC where the context is sealed; it is outstanding
until the destination acknowledges it. No byte of memory changes. R158: a source in device memory (SPACE 1, on pages that are not
protected) is sent the same way. -/
def Obligations.CsendResult : Prop :=
  ∀ (s s1 : State) (g : Hum) (f : SendFields) (m : List TlbEntry), s.idleIssue g → s.mem.err = [] →
    let e := s.entry g (.csend g f) (.csend f)
    let u := s.entered g e
    let ordered := f.red && (s.env g).mode != 0
    let ps := sendPieces e f ((s.env g).mode != 0) (s1.viewRows g m (e.da, f.fmt)) (s1.viewScales g m (e.da, f.fmt))
    u.mayStart g e = true → u.sendOk g e f = true → u.opensTo s1 g m [(e.da, f.fmt)] [] →
    ∃ t pkts, exec (.csend g f) s = .next t ∧ t.cwy.inject = s.cwy.inject ++ pkts ∧ pkts.length = ps.length ∧
      (∀ k p x, pkts[k]? = some p → ps[k]? = some x →
        p.type = (if f.red then 2 else 1) ∧ p.vc = 0 ∧ p.dst = s.memberDev e.db.rank ∧ p.src = s.ownId ∧ p.xid = s.cwy.nextXid ∧
          p.xidx = BitVec.ofNat 32 k ∧ p.last = (k + 1 == ps.length) ∧ p.sig = f.sig ∧ p.slu = f.slu ∧
          p.addr = BitVec.ofNat 64 (x.1 % 2 ^ 52 + (if f.red then (fCode f.fmt).toNat * 2 ^ 52 else 0)) ∧
          p.ctx = BitVec.ofNat 6 (s.ctxOf g) ∧ p.att = s.ep.att ∧ p.epoch = s.openEpoch.setWidth 32 ∧ p.ord = ordered ∧
          p.enc = s.isSealed (s.ctxOf g) ∧ p.len = BitVec.ofNat 13 p.payload.length ∧
          p.payload = (if ordered then leBytes 8 e.va.toNat ++ x.2 else x.2)) ∧
      t.cwy.nextXid = s.cwy.nextXid + 1 ∧ (t.hum g).unret = [{ e with phase := .running, outstanding := 1 }] ∧
      s.memoriesOf t ∧ s.memoriesOf s1 ∧ (e.da.space = 0 → t.mem = s.mem) ∧ ∀ k, k ≠ g.val → t.hum k = s.hum k

/-- R190, R195, R52: a Reed operation whose operands lie in the hummock's own Mere completes its rows in ascending order: each is computed
from what its sources hold then, converted under the result FMT and stored, with its state row. No other byte of any memory, no value of a Sump tile, no Lattice, no Peat slot and no
other hummock changes. R158, R163: with operands in device memory (SPACE 1, on pages that are not protected) or in the Mere of another
hummock (SPACE 2) the rows come from there and go there, and no other memory changes. -/
def Obligations.ReedResult : Prop :=
  (∀ (i : Instr) (s : State) (g : Hum) (ropc : BitVec 8) (f : RopFields), stationOp i = some (g, .rop ropc f) → s.idleIssue g →
    s.mem.err = [] →
    let e := s.entry g i (.rop ropc f)
    let u := s.entered g e
    let c := ropc.toNat
    let tile := if f.srck = 0 then [] else (u.readSource g [] false f.srck f.tile e.opA e.dd.rows (ropLen e c f)).rows
    u.mayStart g e = true → u.ropOk g e c f = true → ownMere (ropReads e c f ++ ropWrites e c) →
    ∃ t, exec i s = .next t ∧ s.finished t g e ∧
      (t.hum g).mere = ropMere (s.env g) e c f tile (s.hum g).mere ∧
      t.mem = s.mem ∧ t.regs = s.regs ∧ t.sluices = s.sluices ∧ (t.hum g).lats = (s.hum g).lats ∧
      (∀ k, { (t.hum g).tile k with evs := {} } = { (s.hum g).tile k with evs := {} }) ∧
      (t.hum g).peat = (s.hum g).peat ∧ ∀ k, k ≠ g.val → t.hum k = s.hum k) ∧
  ∀ (i : Instr) (s s1 : State) (g : Hum) (ropc : BitVec 8) (f : RopFields) (m : List TlbEntry),
    stationOp i = some (g, .rop ropc f) → s.idleIssue g → s.mem.err = [] →
    let e := s.entry g i (.rop ropc f)
    let u := s.entered g e
    let c := ropc.toNat
    let tile := if f.srck = 0 then [] else (u.readSource g [] false f.srck f.tile e.opA e.dd.rows (ropLen e c f)).rows
    u.mayStart g e = true → u.ropOk g e c f = true → u.opensTo s1 g m (ropReads e c f) (ropWrites e c) →
    ∃ t, exec i s = .next t ∧ (t.hum g).unret = [{ e with phase := .done, held := 0 }] ∧
      (s1.ropView g m (s.env g) e c f tile).memoriesOf t ∧ s.memoriesOf s1 ∧
      ∀ k, { (t.hum g).tile k with evs := {} } = { (s.hum g).tile k with evs := {} }

/-- R194, R195: the element that an elementwise Reed operation computes in its working format: one rounding of the exact sum,
difference, product or quotient, one for a x b + c and for a x s + b, one of the square root, of the reciprocal and of each function of
Func.lean, and the value itself for CVT; EXP of V40 mode is 2 to the rounded product with log2 e (R142). MAX and MIN propagate a NaN of
either operand, MAXNUM and MINNUM take the operand that is none. -/
def Obligations.ReedElement : Prop :=
  ∀ (w : Format) (k x y z : Val),
    ((ropElem w false 0x00 k x y z).run {}).1 = (w.round .rne (x.add y).1).1 ∧
    ((ropElem w false 0x01 k x y z).run {}).1 = (w.round .rne (x.sub y).1).1 ∧
    ((ropElem w false 0x02 k x y z).run {}).1 = (w.round .rne (x.mul y).1).1 ∧
    ((ropElem w false 0x03 k x y z).run {}).1 = (w.round .rne (x.div y).1).1 ∧
    ((ropElem w false 0x04 k x y z).run {}).1 = (w.round .rne ((x.mul y).1.add z).1).1 ∧
    ((ropElem w false 0x14 k x y z).run {}).1 = x ∧
    ((ropElem w false 0x05 k x y z).run {}).1 = (w.round .rne ((x.mul k).1.add y).1).1 ∧
    ((ropElem w false 0x06 k x y z).run {}).1 = (w.round .rne x.sqrt.1).1 ∧
    ((ropElem w false 0x07 k x y z).run {}).1 = (w.round .rne ((vone false).div x).1).1 ∧
    ((ropElem w false 0x08 k x y z).run {}).1 = (w.round .rne (frsqrt x).1).1 ∧
    ((ropElem w false 0x09 k x y z).run {}).1 = (w.round .rne (fexp w x).1).1 ∧
    ((ropElem f32 true 0x09 k x y z).run {}).1 =
      (f32.round .rne (fexp2 f32 (f32.round .rne (x.mul (val32 0x3FB8AA3B)).1).1).1).1 ∧
    ((ropElem w false 0x0A k x y z).run {}).1 = (w.round .rne (fexp2 w x).1).1 ∧
    ((ropElem w false 0x0B k x y z).run {}).1 = (w.round .rne (flog w x).1).1 ∧
    ((ropElem w false 0x0C k x y z).run {}).1 = (w.round .rne (flog2 w x).1).1 ∧
    ((ropElem w false 0x0D k x y z).run {}).1 = (w.round .rne (ftanh w x).1).1 ∧
    ((ropElem w false 0x0E k x y z).run {}).1 = (w.round .rne (fsigmoid w x).1).1 ∧
    ((ropElem w false 0x0F k x y z).run {}).1 = (w.round .rne (fgelu w x).1).1 ∧
    ((x = .nan ∨ y = .nan) →
      ((ropElem w false 0x10 k x y z).run {}).1 = .nan ∧ ((ropElem w false 0x11 k x y z).run {}).1 = .nan) ∧
    (x = .nan → ((ropElem w false 0x12 k x y z).run {}).1 = y ∧ ((ropElem w false 0x13 k x y z).run {}).1 = y) ∧
    (y = .nan → ((ropElem w false 0x12 k x y z).run {}).1 = x ∧ ((ropElem w false 0x13 k x y z).run {}).1 = x)

/-! ### Steps of the engines -/

/-- R164, R168, R75: a finished instruction (under Paced, a step of its hummock after its issue: R432, log 49) retires and leaves the unretired ones, a pass releases the weight tiles that it held open
(log 112), and nothing else changes; where a FENCE waits for it
alone, the sequencer goes on to the next instruction, and where the hummock's END waits for it alone, the program ends. -/
def Obligations.RetireResult : Prop :=
  ∀ (s : State) (g : Hum) (pos : Fin 32) (i : Issued), (s.hum g).unret[pos.val]? = some i → i.phase = .done →
    s.stepped g i 1 = true → (∀ j ∈ (s.hum g).unret, j.phase ≠ .queued) → (s.hum g).seq.sigs = [] →
    let rest := (s.hum g).unret.eraseIdx pos.val
    ((s.hum g).seq.stall = none → ∃ t, exec (.instructionRetire g pos) s = .next t ∧ s.onlyHum t g ∧
      t.hum g = { (s.hum g).dropHolds i with unret := rest }) ∧
    (∀ mask, (s.hum g).seq.stall = some (.fence mask) → (∀ j ∈ rest, inMask mask j.op = false) →
      s.inCode g (s.hum g).seq.pc → ∃ t, exec (.instructionRetire g pos) s = .next t ∧ s.onlyHum t g ∧
        t.hum g = { (s.hum g).dropHolds i with
          unret := rest, seq := { (s.hum g).seq with st := .issuing, stall := none } }) ∧
    ((s.hum g).seq.stall = some .ended → rest = [] → ∃ t, exec (.instructionRetire g pos) s = .next t ∧
      (t.hum g).unret = [] ∧ (t.hum g).seq.st = .ended ∧ (t.hum g).seq.x = (s.hum g).seq.x ∧ t.mem = s.mem ∧
      ∀ k, k ≠ g.val → t.hum k = s.hum k)

/-- R176, R178, R181: the oldest signal of hummock g at its home adds INC to its sluice, in the range of its context, without
overflow, and not of an older attempt than the sluice records; a waiter alone there whose threshold is met goes on, and takes its
threshold under CONS. A signal outside the range is ignored and counted, and one of an older attempt is discarded. -/
def Obligations.SignalAtHomeResult : Prop :=
  ∀ (s : State) (g : Hum) (y : Sig), (s.flight.find? fun p => p.1 == g) = some (g, y) →
    (∀ n, s.sluiceOf y.ctx.toNat y.slu.toNat = some n → (s.sluice n).stale y = false →
      (s.sluice n).count.toNat + y.inc.toNat < 2 ^ 32 → (∀ k, (s.hum k).wsen = false) →
      let c := (s.sluice n).count + y.inc.setWidth 32
      ((s.sluice n).waiters = [] →
        ∃ t, exec (.signalAtHome g) s = .next t ∧ t.sluice n = { (s.sluice n) with count := c } ∧
          (∀ k, k ≠ n → t.sluice k = s.sluice k) ∧ t.flight = s.flight.erase (g, y) ∧ t.hums = s.hums ∧ t.mem = s.mem) ∧
      (∀ (k : Hum) thr cons, (s.sluice n).waiters = [⟨some k, thr, cons⟩] → thr.toNat ≤ c.toNat →
        ∃ t, exec (.signalAtHome g) s = .next t ∧
          t.sluice n = { (s.sluice n) with count := if cons then c - thr else c, waiters := [] } ∧
          (∀ j, j ≠ n → t.sluice j = s.sluice j) ∧ (t.hum k).seq.st = .issuing ∧ (t.hum k).seq.stall = none ∧
          (t.hum k).seq.pc = (s.hum k).seq.pc ∧ (∀ j, j ≠ k.val → t.hum j = s.hum j) ∧ t.mem = s.mem)) ∧
    (s.sluiceOf y.ctx.toNat y.slu.toNat = none →
      ∃ t, exec (.signalAtHome g) s = .next t ∧ t.sluices = s.sluices ∧ t.fe.violSluice = satInc s.fe.violSluice ∧
        t.flight = s.flight.erase (g, y) ∧ t.hums = s.hums ∧ t.mem = s.mem) ∧
    (∀ n, s.sluiceOf y.ctx.toNat y.slu.toNat = some n → (s.sluice n).stale y = true →
      exec (.signalAtHome g) s = .next { s with flight := s.flight.erase (g, y) })

/-- R58, R68, R69, R74: a load that may start, without memory errors, puts element k of row n of its tile into the staging register of
cell (k, n), +0 at and beyond the loaded K, N and the row's own length; the weights stay as they are and the Lattice is not LOADED until
the load completes (log 104), and then every cell has latched what was staged and it is. R62, R72,
R74: the earliest queued pass, whose Lattices' earlier loads have completed, takes the Chord with the weights that its Lattices
hold, and nothing else changes. Under Paced each step of a load or a pass needs a permit of its hummock (R432): the load completes once
the hummock has taken 256 steps since it began, the model's count (log 49). -/
def Obligations.EngineStartResult : Prop :=
  (∀ (s : State) (g : Hum) (lat : BitVec 2) (i : Issued) (f : BitVec 12) (km1 : BitVec 9) (nm1 : BitVec 8),
      (queuedLoad (s.hum g) lat.toNat = some i → i.op = .lload lat f km1 nm1 → loadMayStart (s.hum g) lat.toNat i = true →
        s.lloadOk g i.da f (km1.toNat + 1) (nm1.toNat + 1) = true → mereOk (i.da, f) = true → s.mem.err = [] →
        ∃ t, exec (.lloadStart g lat) s = .next t ∧ s.onlyHum t g ∧
          (let l := (t.hum g).lat lat.toNat
           l.fmt = f ∧ l.km1 = km1 ∧ l.nm1 = nm1 ∧ l.loaded = false ∧ l.loading = some i.id ∧
            l.w = ((s.hum g).lat lat.toNat).w ∧ l.sc = ((s.hum g).lat lat.toNat).sc ∧
            ∀ k n, k < 512 → n < 256 → sget 0 l.stage (256 * k + n) =
              if k ≤ km1.toNat ∧ k < i.da.len ∧ n ≤ nm1.toNat then
                BitVec.ofNat 16 (elemBits (fCode f)
                  (bread (s.hum g).mere (i.da.ebase + n * i.da.stride)
                    (rowBytes (fCode f) (Nat.min (km1.toNat + 1) i.da.len))) k)
              else 0) ∧
          (∀ k, k ≠ lat.toNat → (t.hum g).lat k = (s.hum g).lat k) ∧ (t.hum g).mere = (s.hum g).mere ∧
          (t.hum g).sump = (s.hum g).sump ∧ (t.hum g).peat = (s.hum g).peat ∧ (t.hum g).groups = (s.hum g).groups ∧
          (t.hum g).seq = (s.hum g).seq) ∧
      (((s.hum g).unret.find? fun j => isLoadOf lat.toNat j && j.phase == .running && s.stepped g j 256) = some i →
        ((s.hum g).lat lat.toNat).loading = some i.id → (∀ j ∈ (s.hum g).unret, j.phase ≠ .queued) →
        (s.hum g).seq.sigs = [] → (s.hum g).seq.stall = none →
        ∃ t, exec (.lloadComplete g lat) s = .next t ∧ s.onlyHum t g ∧
          (let l := (s.hum g).lat lat.toNat
           (t.hum g).lat lat.toNat = { l with w := l.stage, sc := l.stageSc, loaded := true, loading := none }) ∧
          (∀ k, k ≠ lat.toNat → (t.hum g).lat k = (s.hum g).lat k) ∧
          (t.hum g).unret = ((s.hum g).unret.map fun j => if j.id == i.id then { j with phase := .done, held := 0 } else j) ∧
          (t.hum g).mere = (s.hum g).mere ∧ (t.hum g).sump = (s.hum g).sump ∧ (t.hum g).peat = (s.hum g).peat ∧
          (t.hum g).groups = (s.hum g).groups ∧ (t.hum g).seq = (s.hum g).seq)) ∧
  (∀ (s : State) (g : Hum) (pre post : List Issued) (i : Issued) (f : PassFields),
      (s.hum g).unret = pre ++ i :: post → i.op = .lpass f → i.phase = .queued → i.wts = [] →
      (∀ j ∈ pre, j.id ≠ i.id ∧ ∀ h, j.op = .lpass h → j.phase ≠ .queued) → (∀ j ∈ post, j.id ≠ i.id) →
      passMayStart (s.hum g) i f = true →
      s.lpassOk g i.da f (fun l => (s.hum g).lat l) = true → mereOk (i.da, f.afmt) = true →
      ∃ t j, exec (.lpassStart g) s = .next t ∧ s.onlyHum t g ∧ (t.hum g).unret = pre ++ j :: post ∧
        j.phase = .running ∧ j.mask = f.mask ∧ j.tries = 0 ∧ j.op = i.op ∧ j.id = i.id ∧
        (∀ l, l < 4 → f.mask.getLsbD l = true → j.weights l = (s.hum g).lat l) ∧
        (t.hum g).lats = (s.hum g).lats ∧ (t.hum g).sump = (s.hum g).sump ∧ (t.hum g).peat = (s.hum g).peat ∧
        (t.hum g).groups = (s.hum g).groups ∧ (t.hum g).mere = (s.hum g).mere ∧ (t.hum g).seq = (s.hum g).seq)

/-- R71, R72, R97, R102: a RESIDENT pass whose rows fill one unbound tile of each masked Lattice, not shared, without memory errors, whose
overflows, if any, cannot lower an offset any more, commits: in each tile the working bank with every row added becomes the committed one,
overflowed elements as ±Inf (R99), CNT rises by 1, and the instruction has finished. R76, R97 to R99: where the offset of an overflowed
tile can still be lowered, nothing commits: its working bank is rebuilt at the lowered offset, and the pass runs again. R102, R103:
a bound tile whose count reaches S with the commit spills into its slot, and one below S does not. R109, R110: in Fast mode a pass of a
shared set ends without a commit while another of the set runs, and the last one commits the tile with the set's number of operations.
Under Paced the steps of the rows and of the commit have been taken (R432, log 49). No other tile, no Lattice and no byte of memory
changes. -/
def Obligations.LpassCommitResult : Prop :=
  ∀ (s : State) (g : Hum) (i : Issued) (f : PassFields) (p : PassRun),
    runningPass (s.hum g) = some (i, f) → i.op = .lpass f → s.passRun g i f = some p → f.out = false → i.mask = f.mask →
    f.mm1.toNat < 256 → s.hasTiles g i (f.mm1.toNat + 1) = true → s.mem.err = [] → (s.hum g).seq.sigs = [] →
    (s.hum g).seq.stall = none →
    let x (l : Nat) := (s.hum g).tile (f.tile.toNat + rankOf f l)
    let y (l : Nat) := (addRows p (i.weights l) (x l).lidx.toNat 0 ((x l).begin f.clr f.clr)
      (s.readActs g i f (kMax p.cm) 0 (f.mm1.toNat + 1)).2.1).1
    let done (l : Nat) := (y l).finalInf.1.commit 1 (leafCount p.env.mode p.cm (i.weights l).k)
    (∀ l ∈ passLats f, (x l).spilling = false) →
    ((f.shr && p.env.mode == 0) = false → (s.hum g).unret = [i] →
      ((∀ l ∈ passLats f, (x l).bind = false ∧ (y l).canLower = false) →
        ∃ t, exec (.lpassCommit g) s = .next t ∧
          (∀ l ∈ passLats f, { (t.hum g).tile (f.tile.toNat + rankOf f l) with evs := {} } = { done l with evs := {} }) ∧
          (∀ k, (∀ l ∈ passLats f, k ≠ f.tile.toNat + rankOf f l) → (t.hum g).tile k = (s.hum g).tile k) ∧
          (t.hum g).unret = [{ i with phase := .done, held := 0 }] ∧ (t.hum g).lats = (s.hum g).lats ∧
          (t.hum g).mere = (s.hum g).mere ∧ t.mem = s.mem ∧ ∀ k, k ≠ g.val → t.hum k = s.hum k) ∧
      (∀ l, passLats f = [l] → (y l).canLower = true →
        ∃ t j, exec (.lpassCommit g) s = .next t ∧ (t.hum g).unret = [j] ∧ j.id = i.id ∧ j.op = i.op ∧ j.phase = .running ∧
          j.mask = f.mask ∧ j.tries = i.tries + 1 ∧
          { (t.hum g).tile f.tile.toNat with evs := {} } = { ((y l).rebuild f.clr).1 with evs := {} } ∧
          (∀ r c, ((t.hum g).tile f.tile.toNat).com r c = (x l).com r c) ∧
          (∀ k, k ≠ f.tile.toNat → (t.hum g).tile k = (s.hum g).tile k) ∧ (t.hum g).mere = (s.hum g).mere ∧ t.mem = s.mem ∧
          ∀ k, k ≠ g.val → t.hum k = s.hum k) ∧
      (∀ l, passLats f = [l] → (y l).canLower = false → (x l).bind = true → (s.env g).v40 = false →
        ∃ t, exec (.lpassCommit g) s = .next t ∧ (t.hum g).unret = [{ i with phase := .done, held := 0 }] ∧
          (if (done l).cnt.toNat ≤ (x l).sm1.toNat then
            { (t.hum g).tile f.tile.toNat with evs := {} } = { done l with evs := {} } ∧ (t.hum g).peat = (s.hum g).peat
          else
            ((t.hum g).tile f.tile.toNat).spilling = true ∧
              (∀ r c, r < 256 → c < 256 → sget 0 ((t.hum g).slot (x l).pslot.toNat) (256 * r + c) =
                enc64 (f64.round .rne ((val64 (sget 0 ((s.hum g).slot (x l).pslot.toNat) (256 * r + c))).add
                  ((done l).value r c)).1).1) ∧
              ∀ q, q ≠ (x l).pslot.toNat → (t.hum g).slot q = (s.hum g).slot q) ∧
          (∀ k, k ≠ f.tile.toNat → (t.hum g).tile k = (s.hum g).tile k) ∧ (t.hum g).mere = (s.hum g).mere ∧
          t.mem.hbm = s.mem.hbm)) ∧
    (∀ l, f.shr = true → p.env.mode = 0 → passLats f = [l] → i.held = tileBit f.tile.toNat → (x l).bind = false →
      ((s.hum g).unret = [i] →
        ∃ t, exec (.lpassCommit g) s = .next t ∧ (t.hum g).unret = [{ i with phase := .done, held := 0 }] ∧
          { (t.hum g).tile f.tile.toNat with evs := {} } = { (y l).finalInf.1.commit 1 1 with evs := {} } ∧
          (∀ k, k ≠ f.tile.toNat → (t.hum g).tile k = (s.hum g).tile k) ∧ (t.hum g).mere = (s.hum g).mere ∧ t.mem = s.mem) ∧
      (∀ j h, (s.hum g).unret = [i, j] → j.op = .lpass h → sharing j.op = some false → j.held = i.held → j.phase = .queued →
        j.id ≠ i.id →
        ∃ t, exec (.lpassCommit g) s = .next t ∧ (t.hum g).unret = [{ i with phase := .ended }, j] ∧
          { (t.hum g).tile f.tile.toNat with evs := {} } = { y l with evs := {} } ∧
          (∀ r c, ((t.hum g).tile f.tile.toNat).com r c = (x l).com r c) ∧
          ((t.hum g).tile f.tile.toNat).cnt = (x l).cnt ∧ (∀ k, k ≠ f.tile.toNat → (t.hum g).tile k = (s.hum g).tile k) ∧
          (t.hum g).mere = (s.hum g).mere ∧ t.mem = s.mem))

/-- R71: the next group of a STREAM pass, without memory errors and without an overflow that can lower an offset, commits from +0 in the
ring tile of each masked Lattice and is handed to the destination station, in ascending rank; after the last group the pass has finished.
R76, R97: where a Lattice's overflow can still lower its offset, its group is not handed on, and the pass runs again on it. R71, R103: the
acknowledgement of a group that its destination has read frees its ring tile; the end of a spill sets OFF to 0, CNT to the operations
that committed while it ran (log 106) and clears SPILLING, and
sets WOFF to 0 where no operation has begun on the tile (R104). Nothing else changes, unless those operations ask for the next spill,
which starts (R102). -/
def Obligations.StreamResult : Prop :=
  (∀ (s : State) (g : Hum) (i : Issued) (f : PassFields) (p : PassRun),
      runningPass (s.hum g) = some (i, f) → i.op = .lpass f → (s.hum g).unret = [i] → s.passRun g i f = some p → f.out = true →
      i.mask = f.mask → s.hasTiles g i (Nat.min (f.mm1.toNat + 1) (256 * (i.groups + 1))) = true →
      ringFree (s.hum g) i f = true → s.mem.err = [] →
      (s.hum g).seq.sigs = [] → (s.hum g).seq.stall = none → 256 * i.groups ≤ f.mm1.toNat →
      let n := Nat.min 256 (f.mm1.toNat + 1 - 256 * i.groups)
      let x (l : Nat) := (s.hum g).tile (ringTile f l i.groups)
      let y (l : Nat) := (addRows p (i.weights l) (x l).lidx.toNat 0 ((x l).begin true true)
        (s.readActs g i f (kMax p.cm) (256 * i.groups) n).2.1).1
      (∀ l ∈ passLats f, (x l).spilling = false ∧ ringTile f l i.groups < 16) →
      ((∀ l ∈ passLats f, (y l).canLower = false) →
        ∃ t, exec (.streamGroupCommit g) s = .next t ∧
          (t.hum g).groups = (s.hum g).groups ++ (passLats f).map (fun l =>
            ⟨BitVec.ofNat 4 (ringTile f l i.groups), f.dest, i.id, i.groups, rankOf f l, false⟩) ∧
          (∀ l ∈ passLats f, { (t.hum g).tile (ringTile f l i.groups) with evs := {} } =
            { (y l).finalInf.1.commit 0 (leafCount p.env.mode p.cm (i.weights l).k) with evs := {} }) ∧
          (∀ k, (∀ l ∈ passLats f, k ≠ ringTile f l i.groups) → (t.hum g).tile k = (s.hum g).tile k) ∧
          (t.hum g).unret = (if f.mm1.toNat < 256 * (i.groups + 1) then [{ i with phase := .done, held := 0 }]
            else [{ i with groups := i.groups + 1, mask := f.mask, tries := 0 }]) ∧
          (t.hum g).lats = (s.hum g).lats ∧ (t.hum g).mere = (s.hum g).mere ∧ t.mem = s.mem ∧
          ∀ k, k ≠ g.val → t.hum k = s.hum k) ∧
      (∀ l, passLats f = [l] → (y l).canLower = true →
        ∃ t j, exec (.streamGroupCommit g) s = .next t ∧ (t.hum g).groups = (s.hum g).groups ∧ (t.hum g).unret = [j] ∧
          j.id = i.id ∧ j.phase = .running ∧ j.groups = i.groups ∧ j.mask = f.mask ∧ j.tries = i.tries + 1 ∧
          { (t.hum g).tile (ringTile f l i.groups) with evs := {} } = { ((y l).rebuild true).1 with evs := {} } ∧
          (t.hum g).mere = (s.hum g).mere ∧ t.mem = s.mem ∧ ∀ k, k ≠ g.val → t.hum k = s.hum k)) ∧
  (∀ (s : State) (g : Hum) (tile : BitVec 4), (∀ j ∈ (s.hum g).unret, j.phase ≠ .queued) → (s.hum g).seq.sigs = [] →
      (s.hum g).seq.stall = none →
      (∀ q, ((s.hum g).groups.find? fun q => q.tile == tile && q.taken) = some q →
        ∃ t, exec (.streamGroupAck g tile) s = .next t ∧ s.onlyHum t g ∧
          t.hum g = { (s.hum g) with groups := (s.hum g).groups.erase q }) ∧
      (((s.hum g).tile tile.toNat).spilling = true →
        let x := (s.hum g).tile tile.toNat
        let n := (x.cut.map fun c => c.chased).getD 0
        (n ≤ x.sm1.toNat →
          ∃ t, exec (.spillComplete g tile) s = .next t ∧ s.onlyHum t g ∧
            (t.hum g).tile tile.toNat =
              { x with off := 0, woff := if x.begun then x.woff else 0, cnt := satAdd (0 : BitVec 7) n, spilling := false, cut := none } ∧
            (∀ k, k ≠ tile.toNat → (t.hum g).tile k = (s.hum g).tile k) ∧ (t.hum g).seq = (s.hum g).seq ∧
            (∀ j ∈ (s.hum g).unret, j.op = .sspill tile → j.phase = .running →
              ∃ k ∈ (t.hum g).unret, k.id = j.id ∧ k.op = j.op ∧ k.phase = .done) ∧
            (t.hum g).mere = (s.hum g).mere ∧ (t.hum g).peat = (s.hum g).peat) ∧
        (x.sm1.toNat < n → x.bind = true → x.begun = false → (s.env g).v40 = false → s.mem.err = [] →
          ∃ t, exec (.spillComplete g tile) s = .next t ∧ ((t.hum g).tile tile.toNat).spilling = true ∧
            (∀ k, k ≠ tile.toNat → (t.hum g).tile k = (s.hum g).tile k) ∧ (t.hum g).mere = (s.hum g).mere)))

/-- R166: a placement on a powered hummock that no launch holds starts the program at its ENTRY with every scalar register, every
descriptor and every origin at 0. -/
def Obligations.PlacementResult : Prop :=
  ∀ (s s1 : State) (g : Hum) (lhum : BitVec 7) (l : Launch) (e : List Byte), s.toPlace lhum.toNat = some l →
    s.canPlace g l.ctx = true → s.capOk g l.ctx = true → s.programEntry l (secOf g) lhum.toNat = (s1, some e) →
    ((s.hum g).power = .running ∨ (s.hum g).power = .still) → (holderOf s1 l lhum e).entry.toNat < field e 4 4 →
    ∃ t, exec (.placement g lhum) s = .next t ∧ (t.hum g).holder = some (holderOf s1 l lhum e) ∧
      (t.hum g).seq.st = .issuing ∧ (t.hum g).seq.pc = BitVec.ofNat 23 (field e 16 4) ∧
      (∀ r : BitVec 5, (t.hum g).seq.reg r = 0) ∧ (∀ d : BitVec 6, (t.hum g).seq.desc1 d = ⟨0, 0⟩) ∧
      (t.hum g).seq.wake = false ∧ (t.hum g).power = .running ∧ (t.hum g).mere = (s.hum g).mere ∧ t.mem.hbm = s.mem.hbm ∧
      ∀ k, k ≠ g.val → t.hum k = s.hum k

/-! ### The commit protocol -/

/-- R244: local commit gives GEN_LAST the value of GEN_OPEN, advances GEN_OPEN, makes C the open epoch's number and starts the commit
sweep over the records first-written in the attempt; no byte of device memory, no page record and no hummock changes. -/
def Obligations.LocalCommitActs : Prop := ∀ s : State, s.commitsLocally s.localCommit

/-- R245: local rollback advances GEN_OPEN, keeps C and discards every open round, contribution and signal of the failed attempt; no
byte of device memory and no page record changes. -/
def Obligations.LocalRollbackActs : Prop := ∀ s : State, s.rollsBack s.localRollback

/-- R255, R257, R258: a member that has prepared and receives COMMIT, or ANSWER 1, for its open epoch and attempt sends COMMIT to its
children and commits locally. R255, R256, R257: a member of rank above 0 that has an attempt open, all of whose writers have
stopped, and that receives ABORT, or ANSWER 2, for it sends ABORT to its children and rolls back. -/
def Obligations.DecisionResult : Prop :=
  (∀ (s : State) (m : CommitMsg), s.hears m → s.ep.st = .prepared → s.ep.rank ≠ 0 →
      (∃ t, exec (.commit m) s = .next t ∧ s.commitsLocally t ∧ s.sendsTo t .commit m s.children) ∧
      (m.info = 1 → ∃ t, exec (.answer m) s = .next t ∧ s.commitsLocally t ∧
        s.sendsTo t .commit { m with info := 0, acause := 0 } s.children)) ∧
  (∀ (s : State) (m : CommitMsg) (id : Nat), s.hears m → (s.ep.st = .running ∨ s.ep.st = .prepared) → s.ep.rank ≠ 0 →
      s.actedOn m.att = false → s.ep.launch = some id → s.quiet id = true → s.err.ctxab = none →
      (∃ t, exec (.abort m) s = .next t ∧ s.rollsBack t ∧ s.sendsKept t .abort m s.children ∧ t.ep.after = some m.info ∧
        t.ep.acted = some (s.openEpoch, m.att) ∧
        ∀ g, (s.hum g).heldBy id = true → (t.hum g).power = .gated ∧ (t.hum g).holder = none) ∧
      (m.info = 2 → s.ep.rejoin = false →
        ∃ t, exec (.answer m) s = .next t ∧ s.rollsBack t ∧
          s.sendsKept t .abort { m with info := m.acause, acause := 0 } s.children ∧ t.ep.after = some m.acause ∧
          t.ep.acted = some (s.openEpoch, m.att)))

/-- R253, R257: a child's first PREPARE for the running attempt is recorded with the members that it covers, and with the member's own
local PREPARE still to come nothing else changes; a second one from the same child is discarded. R254, R256: the coordinator that
has not decided decides ABORT, with cause 0 when its PREPARE timer expires and with the request's cause at an ABORT_REQ: the
decision stands in its journal, and ABORT with that cause goes to every child. -/
def Obligations.PrepareAndAbortRequest : Prop :=
  (∀ (s : State) (m : CommitMsg), s.hears m → (s.ep.st = .running ∨ s.ep.st = .prepared) → s.ep.localPrep = false →
      (s.children.contains m.src.toNat = true → (∀ r ∈ s.ep.reports, r.1 ≠ m.src) →
        exec (.prepare m) s =
          .next { s with ep := { s.ep with reports := s.ep.reports ++ [(m.src, m.cntm1.toNat + 1)] } }) ∧
      ((∃ r ∈ s.ep.reports, r.1 = m.src) → exec (.prepare m) s = .next s)) ∧
  (∀ (s : State) (m : CommitMsg), s.hears m → s.ep.rank = 0 → s.decided = false →
      (∀ d : Decision, d = ⟨s.ep.c + 1, s.ep.att, false, 0⟩ → s.ep.st = .prepared → s.ep.prepTimer = true →
        allPorts.all (fun p => (s.port p).ds == .active) = true → (∃ id, s.ep.launch = some id ∧ s.quiet id = false) →
        ∃ t, exec .prepareTimeout s = .next t ∧ t.ep.decision = some d ∧
          s.sendsTo t .abort { s.ownMsg with info := 0 } s.children ∧ t.ep.failedAtt = some s.ep.att ∧ t.mem.hbm = s.mem.hbm) ∧
      (∀ d : Decision, d = ⟨s.ep.c + 1, s.ep.att, false, m.info⟩ → s.requestLate m = false →
        (s.ep.st = .running ∨ s.ep.st = .prepared) → (∃ id, s.ep.launch = some id ∧ s.quiet id = false) →
        ∃ t, exec (.abortReq m) s = .next t ∧ t.ep.decision = some d ∧
          s.sendsTo t .abort { s.ownMsg with info := m.info } s.children ∧ t.ep.failedAtt = some s.ep.att ∧
          t.mem.hbm = s.mem.hbm))

/-- R258: the coordinator answers a QUERY from its journal: 1 for COMMIT, 2 with the cause for ABORT, where it holds a decision for
that epoch. A member without a decision sends QUERY to the coordinator when DECIDE_MS runs out. Nothing else changes. -/
def Obligations.QueryAnswered : Prop :=
  ∀ (s : State) (m : CommitMsg), s.err.chip = none → s.procReady fcpIx = true →
    (m.mepoch = s.ep.mepoch → s.ep.rank = 0 → m.src.toNat ≠ 0 →
      ∃ t p, exec (.query m) s = .next t ∧ t = { s with cwy := { s.cwy with inject := s.cwy.inject ++ [p] } } ∧
        (∀ d, s.decisionFor m.epoch = some d →
          sentMessage s .answer
            { s.ownMsg with
              epoch := m.epoch, info := if d.commit then 1 else 2, acause := if d.commit then 0 else d.cause, att := d.att }
            m.src.toNat p) ∧
        (s.decisionFor m.epoch = none → sentMessage s .answer { s.ownMsg with epoch := m.epoch } m.src.toNat p)) ∧
    (s.ep.st = .prepared → s.ep.decideTimer = true →
      ∃ t p, exec .decideTimeout s = .next t ∧ t = { s with cwy := { s.cwy with inject := s.cwy.inject ++ [p] } } ∧
        sentMessage s .query s.ownMsg 0 p)

/-- R250, R260: dispatch of the oldest accepted launch that has not ended, at a member to which every member of its group is
reachable, without memory errors and with no message or packet waiting for the attempt, opens the epoch with that launch's attempt; C and GEN_OPEN keep
their values and no byte of device memory changes. -/
def Obligations.DispatchResult : Prop :=
  ∀ (s : State) (l : Launch), s.mayDispatch = true → s.nextLaunch = some l → l.cause = none → s.ep.held = [] →
    s.cwy.later = [] → s.mem.err = [] → s.ep.members.all s.reachable = true →
    ∃ t, exec .dispatch s = .next t ∧ t.ep.st = .running ∧ t.ep.launch = some l.id ∧ t.ep.att = l.att ∧ t.ep.c = s.ep.c ∧
      t.ep.genOpen = s.ep.genOpen ∧ t.ep.sent = false ∧ t.fe.watch = [] ∧ t.mem.hbm = s.mem.hbm ∧ t.hums = s.hums

/-- R253, R254, R255: local PREPARE, once the launch's work is done and its watch records are written. A member whose children have
not all reported waits in PREPARED; the coordinator that covers every member records COMMIT in its journal and commits; another member
that covers its subtree sends PREPARE to its parent with CNTM1 one below the number of members covered. -/
def Obligations.LocalPrepareResult : Prop :=
  ∀ (s s1 : State) (l : Launch), s.running = some l → s.workDone l = true → s.writeWatch l = (s1, .done) → s1.ep = s.ep →
    let sum := s.ep.reports.foldl (fun acc r => acc + r.2) 1
    let heard := s.children.all fun k => s.ep.reports.any fun r => r.1.toNat == k
    (sum ≠ s.subtree ∨ heard = false → ∃ t, exec .localPrepare s = .next t ∧ t.ep.st = .prepared ∧ t.ep.localPrep = true ∧ t.ep.c = s.ep.c ∧
      t.ep.sent = s.ep.sent ∧ t.mem = s1.mem ∧ t.cwy = s1.cwy) ∧
    (sum = s.subtree → heard = true → s.ep.rank = 0 → s.decided = false →
      ∃ t, exec .localPrepare s = .next t ∧ t.ep.decision = some ⟨s.ep.c + 1, s.ep.att, true, 0⟩ ∧ s1.commitsLocally t) ∧
    (sum = s.subtree → heard = true → s.ep.rank ≠ 0 → s.ep.sent = false → ∃ t p, exec .localPrepare s = .next t ∧ t.ep.st = .prepared ∧
      t.ep.sent = true ∧ t.ep.decideTimer = true ∧ t.cwy.inject = s1.cwy.inject ++ [p] ∧
      sentMessage s1 .prepare { s.ownMsg with cntm1 := BitVec.ofNat 16 (sum - 1) } s.parentRank p ∧ t.mem = s1.mem)

/-- R246: when a sweep is done, a record on its list that was pending has its CF inverted after a commit, and a record of a failed
attempt has GEN 0xFF after a rollback; other records stay, and the next sweep that waits starts. R260, R256: a member that has
committed locally leaves the epoch for IDLE, and the launch's hummocks are free; after a rollback with cause 0 or 1 it is IDLE and
the launch waits for the next attempt; with cause 2, 4, 5 or 6 its launch has ended with that cause's status. -/
def Obligations.SweepAndEpochEnd : Prop :=
  (∀ (s : State) (w : Sweep), s.mem.sweep = some w →
      ∃ t, exec .sweepDone s = .next t ∧ t.mem.hbm = s.mem.hbm ∧ t.mem.sweep = s.mem.sweepQ.head? ∧
        t.mem.sweepQ = s.mem.sweepQ.tail ∧
        ∀ f, t.pageRec f =
          if f ∉ w.recs then s.pageRec f
          else if w.commit then
            (if (s.pageRec f).isPending s then { (s.pageRec f) with cf := !(s.pageRec f).cf, gen := 0xFF } else s.pageRec f)
          else if (s.pageRec f).isOpen s then s.pageRec f else { (s.pageRec f) with gen := 0xFF }) ∧
  (∀ (s : State) (id : Nat), s.ep.launch = some id → s.ep.members.all s.reachable = true →
      (s.ep.st = .committing → ∃ t, exec .localCommitComplete s = .next t ∧ t.ep.st = .idle ∧ t.ep.launch = none ∧
        t.ep.c = s.ep.c ∧ t.mem = s.mem ∧ ∀ g, (s.hum g).heldBy id = true → (t.hum g).holder = none) ∧
      (∀ e a c l, s.ep.st = .rollingBack → s.ep.acted = some (e, a) → s.ep.after = some c → s.ep.afterSunder = false →
        s.launchOf id = some l → l.abortAsked = false →
        ∃ t l', exec .localRollbackComplete s = .next t ∧ t.ep.st = .idle ∧ t.ep.launch = none ∧ t.ep.c = s.ep.c ∧ t.mem = s.mem ∧
          t.launchOf id = some l' ∧
          (c = 0 ∨ c = 1 → l'.js = .admitted ∧ l'.att = a + 1 ∧ l'.record = l.record) ∧
          (c = 2 → l'.record.map CplRec.status = some stExpired) ∧
          (c = 4 → l'.record.map CplRec.status = some stProgramFault) ∧
          (c = 5 → l'.record.map CplRec.status = some stDataLost) ∧
          (c = 6 → l'.record.map CplRec.status = some stAborted)))

/-! ### Stacked memory -/

/-- R216, R227, R223, R235: an idle stack with SREF set enters self-refresh. A step of the scrub moves on by one granule position, and
counts a pass at the last one; it writes back and counts a correctable error that it meets, counts an uncorrectable one with an event
and leaves it. A committed invalidation, whose register stands in sector 0's block, waits its turn and for the contributions that translated by what it covers, and when it
completes no translation that it covers is cached. A buffer that
is legal takes effect where no round is open in the sector, and otherwise waits until then. No byte of memory changes. -/
def Obligations.BaseDieResult : Prop :=
  ∀ (s : State) (k : Stack) (x : Sec),
    (s.sectorRuns (k.val / 3) = true → (s.stack k).st = .ready →
      (s.reg (secBase (k.val / 3) + 0x200 + 8 * (k.val % 3))).getLsbD 0 = true →
      ∃ t, exec (.srefEntry k) s = .next t ∧ t.stack k = { (s.stack k) with st := .srefIdle } ∧
        (∀ j, j ≠ k.val → t.stack j = s.stack j) ∧
        { t with mem := { t.mem with stackRegs := s.mem.stackRegs } } = s) ∧
    (s.sectorRuns x = true → s.scrubPaused x = false →
      let z : Scrub := sget ⟨0, 0⟩ s.mem.scrub x
      let first := (x.val * sectorBytes + z.pos.toNat * 96 * 256) / 32
      ∃ t, exec (.patrolScrubStep x) s = .next t ∧ t.mem.hbm = s.mem.hbm ∧
        sget ⟨0, 0⟩ t.mem.scrub x =
          (if z.pos.toNat + 1 = granulesPerChan then ⟨0, satInc z.passes⟩ else ⟨z.pos + 1, z.passes⟩) ∧
        (∀ y, y ≠ x.val → sget ⟨0, 0⟩ t.mem.scrub y = sget ⟨0, 0⟩ s.mem.scrub y) ∧
        (s.mem.err = [] → { t with mem := { t.mem with scrub := s.mem.scrub } } = s) ∧
        ∀ u e, s.mem.err = [(u, e)] → first ≤ u → u < first + 768 → z.pos.toNat < granulesPerChan →
          let k := 96 * x.val + dpaChan (32 * u)
          let c := sget ⟨0, 0⟩ s.mem.chEcc k
          (∀ i v, errVerdict e = .correctable i v → sget 0 t.mem.err u = errFix e i v ∧ t.err = s.err ∧
            sget ⟨0, 0⟩ t.mem.chEcc k = { c with ce := satInc c.ce }) ∧
          (errVerdict e = .uncorrectable → t.mem.err = s.mem.err ∧ t.err.eq0.eseq = s.err.eq0.eseq + 1 ∧
            sget ⟨0, 0⟩ t.mem.chEcc k = { c with ue := satInc c.ue })) ∧
    (∀ m, s.privileged m → s.inReset 0 = false →
      ∃ t sc, exec (.trInvalidate m) s = .next t ∧ t.mem.invs = s.mem.invs ++ [sc] ∧
        sc.ctx = (s.reg 0x820200).extractLsb' 0 6 ∧ sc.allVa = (s.reg 0x820200).getLsbD 6 ∧
        sc.allCtx = (s.reg 0x820200).getLsbD 7 ∧ sc.va2m = (s.reg 0x820208).extractLsb' 21 31 ∧
        { t with mem := { t.mem with invs := s.mem.invs } } = s) ∧
    (∀ i rest, s.mem.invs = i :: rest →
      ((∃ c ∈ s.mem.contribs, i.covers c.leaf = true) → exec .trInvalidateDone s = .next s) ∧
      ((∀ c ∈ s.mem.contribs, i.covers c.leaf = false) →
        ∃ t, exec .trInvalidateDone s = .next t ∧ t.mem.invs = rest ∧
          (∀ e, e ∈ t.mem.tlb ↔ e ∈ s.mem.tlb ∧ i.covers e.2 = false) ∧
          { t with mem := { t.mem with invs := s.mem.invs, tlb := s.mem.tlb } } = s)) ∧
    (∀ m, s.privileged m → s.inReset x = false →
      let base : BitVec 21 := (s.reg (secBase x + 0x3000)).extractLsb' 21 21
      let frames : BitVec 16 := (s.reg (secBase x + 0x3008)).extractLsb' 0 16
      orbLegal x base.toNat frames.toNat = true →
      ∃ t, exec (.orbCommit m x) s = .next t ∧
        t.orbOf x =
          (if s.roundsOpen x = 0 then ⟨base, frames, none⟩ else { s.orbOf x with pend := some (base, frames) }) ∧
        (∀ y, y ≠ x.val → t.orbOf y = s.orbOf y) ∧ { t with mem := { t.mem with orb := s.mem.orb } } = s) ∧
    (∀ b f, (s.orbOf x).pend = some (b, f) → s.roundsOpen x = 0 →
      ∃ t, exec (.orbChangeTakesEffect x) s = .next t ∧ t.orbOf x = ⟨b, f, none⟩ ∧
        (∀ y, y ≠ x.val → t.orbOf y = s.orbOf y) ∧ { t with mem := { t.mem with orb := s.mem.orb } } = s)

/-- R229, R232, R242, R249, R457: SEC_OWN_GO gives the frame that SEC_OWN_CMD names its new entry; where that clears SEALED, every
byte of the frame reads zero and the frame is busy until its zeroing ends; every other byte and entry stays. A master without the
management processor's privilege is counted and changes nothing else. SEC_EP_LOOKUP holds the frame written to it, the ends of a
zeroing and of a copy let accesses to their frame go on. A frame reads zero from the command on that clears
SEALED, which is the model's reading (log 90). R454: to a sector in reset the write waits at its bridge (log 132). -/
def Obligations.OwnershipResult : Prop :=
  ∀ (s : State) (x : Sec) (frame : BitVec 18),
    (∀ m, s.secured m → s.inReset x = false →
      let v := s.reg (secBase x + 0x30000)
      let f := x.val * framesPerSector + (v.extractLsb' 0 18).toNat
      let cleared := (s.owner f).isSealed && !v.getLsbD 24
      (v.extractLsb' 0 18).toNat < framesPerSector →
      ∃ t, exec (.ownMapWrite m x) s = .next t ∧ t.owner f = ⟨v.extractLsb' 18 6, v.getLsbD 24, v.getLsbD 25⟩ ∧
        (∀ j, j ≠ f → t.owner j = s.owner j) ∧
        (∀ a, bget t.mem.hbm a = if cleared && dpaFrame a == f then 0 else bget s.mem.hbm a) ∧
        t.mem.zeroing = (if cleared then s.mem.zeroing ++ [f] else s.mem.zeroing) ∧ t.mem.recs = s.mem.recs ∧
        { t with mem := s.mem } = s) ∧
    (∀ m, s.arrives m = true → masterSecure m = false → s.inReset x = false → exec (.ownMapWrite m x) s = .next s.violReg) ∧
    (s.noStalls → s.cwy.later = [] →
      ∃ t, exec (.frameZeroDone x frame) s = .next t ∧
        (∀ f, f ∈ t.mem.zeroing ↔ f ∈ s.mem.zeroing ∧ f ≠ x.val * framesPerSector + frame.toNat) ∧
        { t with mem := { t.mem with zeroing := s.mem.zeroing } } = s) ∧
    (s.cwy.later = [] → ∃ t, exec (.frameCopyDone x frame) s = .next t ∧
        (∀ f, f ∈ t.mem.copying ↔ f ∈ s.mem.copying ∧ f ≠ x.val * framesPerSector + frame.toNat) ∧
        { t with mem := { t.mem with copying := s.mem.copying } } = s) ∧
    (∀ m, s.privileged m → s.inReset x = false →
      ∃ t, exec (.epLookup m x frame) s = .next t ∧ (t.reg (secBase x + 0x40028)).extractLsb' 0 18 = frame ∧
        (∀ o, o ≠ secBase x + 0x40028 → t.reg o = s.reg o) ∧ { t with regs := s.regs } = s) ∧
    (∀ m, s.arrives m = true → s.inReset x = true →
      exec (.ownMapWrite m x) s =
        .next { s with link := { s.link with regStalls := s.link.regStalls ++ [⟨m, BitVec.ofNat 26 (secBase x + 0x30008), none, .write 1⟩] } } ∧
      exec (.epLookup m x frame) s = .next { s with
        link := { s.link with regStalls := s.link.regStalls ++
          [⟨m, BitVec.ofNat 26 (secBase x + 0x40028), none, .write (frame.setWidth 64)⟩] } })

/-- R111, R112, R113, R128, R129: a contribution whose target stands in an unprotected, unsealed page without errors. In Fast mode,
with no round open on the element, the element becomes the sum rounded once to binary32. In Ordered mode, a first contribution of a
round opens it with the element's value; with P = 1 the round closes at once with its root, and with more it waits. One for a round that
has closed, or of another attempt, is dropped. The sender has one contribution less outstanding. No other byte changes. -/
def Obligations.ReduceContributionResult : Prop :=
  ∀ (s : State) (pos : Nat) (c : Contrib) (g : Hum) (id d : Nat), s.mem.contribs[pos]? = some c → c.src = some (g, id) →
    s.mem.err = [] → s.plainAt c.ctx.toNat c.va.toNat 4 c.leaf d →
    let old := BitVec.ofNat 32 (leNat (bread s.mem.hbm d 4))
    let rest := s.mem.contribs.eraseIdx pos
    let taken := (s.hum g).unret.map fun i =>
      if i.id == id then { i with outstanding := i.outstanding - 1, phase := if i.outstanding ≤ 1 then .done else i.phase } else i
    let noRound := ∀ r ∈ s.mem.rounds, r.dpa ≠ c.dpa
    let fresh := ∀ n, sget none s.mem.closed c.dpa = some n → n.toNat < c.round.toNat
    (s.takes c → c.ordered = false → noRound →
      let sum := (f32.round .rne ((f32.decode old.toNat).1.add (contribVal c.code c.bits).1).1).1
      ∃ t, exec (.reduceContribution pos) s = .next t ∧ storedAt s.mem.hbm t.mem.hbm d (leBytes 4 (enc32 sum).toNat) ∧
        t.mem.contribs = rest ∧ t.mem.rounds = s.mem.rounds ∧ (t.hum g).unret = taken ∧ (∀ k, k ≠ g.val → t.hum k = s.hum k)) ∧
    (s.takes c → c.ordered = true → noRound → fresh → s.orbRoom c = true → c.p.toNat = 1 → c.mode ≠ 2 →
      let root := (orderedRoot old [contribVal c.code c.bits]).1
      ∃ t, exec (.reduceContribution pos) s = .next t ∧ storedAt s.mem.hbm t.mem.hbm d (leBytes 4 root.toNat) ∧
        t.mem.contribs = rest ∧ t.mem.rounds = s.mem.rounds ∧ sget none t.mem.closed c.dpa = some c.round ∧
        (t.hum g).unret = taken ∧ (∀ k, k ≠ g.val → t.hum k = s.hum k)) ∧
    (s.takes c → c.ordered = true → noRound → fresh → s.orbRoom c = true → 1 < c.p.toNat →
      ∃ t, exec (.reduceContribution pos) s = .next t ∧ t.mem.hbm = s.mem.hbm ∧ t.mem.contribs = rest ∧
        t.mem.rounds = s.mem.rounds ++
          [{ dpa := c.dpa, round := c.round, p := c.p, opened := some old, parts := [(c.q, c.code, c.bits)], mode := c.mode
             tag := c.tag, ctx := c.ctx, va := c.va, leaf := c.leaf }] ∧
        (t.hum g).unret = taken ∧ (∀ k, k ≠ g.val → t.hum k = s.hum k)) ∧
    (s.takes c → c.ordered = true → (∃ n, sget none s.mem.closed c.dpa = some n ∧ c.round.toNat ≤ n.toNat) →
      ∃ t, exec (.reduceContribution pos) s = .next t ∧ t.mem.hbm = s.mem.hbm ∧ t.mem.contribs = rest ∧
        t.mem.rounds = s.mem.rounds ∧ (t.hum g).unret = taken) ∧
    (s.framesBusy [c.leaf] = false → (c.att ≠ s.ep.att ∨ c.epoch ≠ s.openEpoch) →
      exec (.reduceContribution pos) s = .next { s with mem := { s.mem with contribs := rest } })

/-! ### The Causeway -/

/-- R322 to R324, R328, R331: the router takes the first packet of its virtual channel and class from an input buffer or from this
device. Without a valid route, or with HOPS 0, it is discarded and counted; with a port that is not UP it is lost and counted; with a
draining port it waits; with a route that is LOCAL it is delivered, or stays in its buffer until its epoch, its attempt, its transfer or
its frame lets it be (R319, R320); otherwise it leaves with HOPS one lower, its class by the entry's
rule, in one link frame of the chosen port, and a buffer's credit returns to its ingress partner. Without a credit it stays, and its
virtual channel counts as stalled (R321, R337). A packet that waited in this device's list (log 95) is delivered, or waits on. -/
def Obligations.PacketForwardResult : Prop :=
  ∀ (s : State) (k : Packet), malformed k = false →
    let first (l : List Packet) := (l.find? fun x => x.vc == k.vc && x.cls == k.cls) = some k
    let left := s.cwy.inject.erase k
    (first s.cwy.inject →
      (s.lookup k = .noroute →
        exec (.packetForward none k) s = .next { s with cwy := { s.cwy with noroute := satInc s.cwy.noroute, inject := left } }) ∧
      (s.lookup k = .hoplim →
        exec (.packetForward none k) s = .next { s with cwy := { s.cwy with hoplim := satInc s.cwy.hoplim, inject := left } }) ∧
      (s.lookup k = .here → s.waitsHere k = true → exec (.packetForward none k) s = .next s) ∧
      (s.lookup k = .here → s.waitsHere k = false →
        exec (.packetForward none k) s = .next { (s.deliver k) with
          cwy := { (s.deliver k).cwy with inject := (s.deliver k).cwy.inject.erase k } }) ∧
      (∀ p, s.lookup k = .lost p →
        ∃ t, exec (.packetForward none k) s = .next t ∧ s.onlyFabric t ∧ t.cwy.inject = left ∧
          t.port p = { (s.port p) with lost := satInc (s.port p).lost } ∧ ∀ q, q ≠ p → t.port q = s.port q) ∧
      (∀ p, s.lookup k = .wait p →
        ∃ t, exec (.packetForward none k) s = .next t ∧ s.onlyFabric t ∧ t.cwy.inject = s.cwy.inject ∧
          (t.port p).replay = (s.port p).replay ∧ ∀ q, q ≠ p → t.port q = s.port q) ∧
      (∀ (p : PortIx) rule, s.lookup k = .out p rule → (k.enc = true → (s.reg (portCtl p)).getLsbD 3 = true) →
        let k' := { k with hops := k.hops - 1, cls := s.classRule none p k.cls rule }
        let f := frameOf (s.port p) (s.portGcm p) k'
        (sget 0 (s.port p).credits (creditKey k'.vc k'.cls) = 0 →
          ∃ t, exec (.packetForward none k) s = .next t ∧ s.onlyFabric t ∧ t.cwy.inject = s.cwy.inject ∧
            ((t.port p).vcOf k.vc.toNat).starved = true ∧ (t.port p).replay = (s.port p).replay) ∧
        (sget 0 (s.port p).credits (creditKey k'.vc k'.cls) ≠ 0 →
        (s.port p).replayBytes + 32 + k'.payload.length ≤ replayBound → (s.port p).replay.length < 4095 →
        ∃ t, exec (.packetForward none k) s = .next t ∧ t.cwy.inject = left ∧ s.sendsFrame t p k' ∧
          t.out = s.out ++ [.frame p f.seq f.pkt f.crc f.tag] ∧ (∀ q, q ≠ p.val → t.port q = s.port q) ∧
          { t with cwy := s.cwy, out := s.out } = s))) ∧
    (¬ first s.cwy.inject → k ∈ s.cwy.later →
      exec (.packetForward none k) s = .next ({ s with cwy := { s.cwy with later := s.cwy.later.erase k } }.deliver k)) ∧
    (∀ (q p : PortIx) rule, first (s.port q).inbuf → s.lookup k = .out p rule →
      (k.enc = true → (s.reg (portCtl p)).getLsbD 3 = true) →
      let k' := { k with hops := k.hops - 1, cls := s.classRule (some q.val) p k.cls rule }
      let f := frameOf (s.port p) (s.portGcm p) k'
      sget 0 (s.port p).credits (creditKey k'.vc k'.cls) ≠ 0 →
      (s.port p).replayBytes + 32 + k'.payload.length ≤ replayBound → (s.port p).replay.length < 4095 →
      ∃ t, exec (.packetForward (some q) k) s = .next t ∧ (t.port q).inbuf = (s.port q).inbuf.erase k ∧ s.sendsFrame t p k' ∧
        t.out = s.out ++ [.frame p f.seq f.pkt f.crc f.tag, .credit q k.vc k.cls] ∧
        (∀ j, j ≠ p.val → j ≠ q.val → t.port j = s.port j) ∧ { t with cwy := s.cwy, out := s.out } = s)

/-- R318 to R320, R179, R222, R487: a packet at its destination. One that is malformed is only counted; one of an older attempt is
discarded and counted, and one of a later attempt waits, as does a transfer's first packet beyond the 1,024 transfers tracked. A WRITE
that is its whole transfer, to an unprotected page, stores its payload
and is acknowledged; a REDUCE sends one contribution for each element, or waits while its reduction unit cannot take it (R129, 01 R19);
a SIGNAL adds to its sluice; an ACK ends the CSEND that waits for
it; a MGMT reply goes back to the binding whose relay it answers, which its last packet ends, and any other MGMT packet makes its source
one that the MGP answers (R400). -/
def Obligations.PacketDeliveredResult : Prop :=
  ∀ (s : State) (k : Packet),
    let va := k.addr.toNat % 2 ^ 52
    (k.type = 0x01 ∨ k.type = 0x02 ∨ k.type = 0x03 ∨ k.type = 0x08 ∨ k.type = 0x18 →
      (malformed k = true →
        exec (deliverCmd k) s = .next { s with cwy := { s.cwy with malf := satInc s.cwy.malf } }) ∧
      (k.type ≠ 0x18 → malformed k = false → s.err.chip = none → s.freshness k = .stale →
        exec (deliverCmd k) s = .next { s with cwy := { s.cwy with stale := satInc s.cwy.stale } }) ∧
      (k.type ≠ 0x18 → malformed k = false → s.err.chip = none → s.freshness k = .later →
        exec (deliverCmd k) s = .next { s with cwy := { s.cwy with later := s.cwy.later ++ [k] } })) ∧
    (k.type = 0x01 ∨ k.type = 0x02 → s.receives k → k.xidx = 0 → (s.cwy.inbound.find? (sameXfer k.src k.xid)) = none →
      1024 ≤ s.cwy.tracking → exec (deliverCmd k) s = .next { s with cwy := { s.cwy with later := s.cwy.later ++ [k] } }) ∧
    (k.type = 0x01 → s.receives k → k.xidx = 0 → k.last = true → k.sig = false → s.cwy.tracking < 1024 →
      (s.cwy.inbound.find? (sameXfer k.src k.xid)) = none →
      ∀ s1 e d, s.xlateSpan k.ctx.toNat va k.payload.length true = (s1, [e], .ok e) →
      s1.plainAt k.ctx.toNat va k.payload.length e d → s.mem.err = [] → s.framesBusy [e] = false →
      ∃ t a, exec (.writePacket k) s = .next t ∧ storedAt s.mem.hbm t.mem.hbm d k.payload ∧ t.cwy.inject = s.cwy.inject ++ [a] ∧
        a.type = 0x08 ∧ a.vc = 1 ∧ a.dst = k.src ∧ a.xid = k.xid ∧ a.addr = 0 ∧ a.payload = [] ∧
        t.cwy.inbound = s.cwy.inbound ∧ t.hums = s.hums ∧ t.sluices = s.sluices ∧ t.mem.contribs = s.mem.contribs) ∧
    (k.type = 0x02 → s.receives k → k.xidx = 0 → (s.cwy.inbound.find? (sameXfer k.src k.xid)) = none →
      s.cwy.tracking < 1024 →
      let code : BitVec 4 := k.addr.extractLsb' 52 4
      let b := contribBytes code
      let body := if k.ord then k.payload.drop 8 else k.payload
      let n := body.length / b
      (s.targetBusy k = true →
        exec (deliverCmd k) s = .next { s with cwy := { s.cwy with later := s.cwy.later ++ [k] } }) ∧
      (s.targetBusy k = false → 0 < b → 0 < n →
      ∀ s1 m e, s.xlateSpan k.ctx.toNat va (4 * n) true = (s1, m, .ok e) →
      ∃ t cs, exec (.reducePacket k) s = .next t ∧ t.mem.contribs = s.mem.contribs ++ cs ∧ cs.length = n ∧
        (∀ i y, cs[i]? = some y → y.src = none ∧ y.xfer = some (k.src, k.xid) ∧ y.ctx = k.ctx ∧
          y.va = BitVec.ofNat 52 (va + 4 * i) ∧ y.code = code ∧ y.bits = BitVec.ofNat 64 (field body (b * i) b) ∧
          y.ordered = k.ord ∧ y.att = k.att) ∧
        t.mem.hbm = s.mem.hbm ∧ t.hums = s.hums ∧ t.sluices = s.sluices ∧ t.cwy.inject = s.cwy.inject)) ∧
    (k.type = 0x03 → s.receives k → (∀ g, (s.hum g).wsen = false) →
      (∀ n, s.sluiceOf k.ctx.toNat k.slu.toNat = some n → (s.sluice n).waiters = [] →
        (s.sluice n).count.toNat + k.addr.toNat % 65536 < 2 ^ 32 →
        ∃ t, exec (.signalPacket k) s = .next t ∧
          t.sluice n = { (s.sluice n) with count := (s.sluice n).count + BitVec.ofNat 32 (k.addr.toNat % 65536) } ∧
          (∀ j, j ≠ n → t.sluice j = s.sluice j) ∧ { t with sluices := s.sluices } = s) ∧
      (s.sluiceOf k.ctx.toNat k.slu.toNat = none →
        exec (.signalPacket k) s = .next { s with fe := { s.fe with violSluice := satInc s.fe.violSluice } })) ∧
    (k.type = 0x08 → s.receives k →
      ∀ o i, (s.cwy.outbound.find? fun o => o.xid == k.xid && o.dst == k.src) = some o →
      ((s.hum o.hum).unret.find? fun i => i.id == o.id) = some i →
      (k.addr.toNat % 4 = 0 →
        ∃ t, exec (.ackPacket k) s = .next t ∧ (∀ x, x ∈ t.cwy.outbound ↔ x ∈ s.cwy.outbound ∧ ¬ (x.xid = o.xid ∧ x.dst = o.dst)) ∧
          (t.hum o.hum).unret =
            ((s.hum o.hum).unret.map fun j => if j.id == o.id then { j with outstanding := 0, phase := .done } else j) ∧
          (∀ j, j ≠ o.hum.val → t.hum j = s.hum j) ∧ t.mem = s.mem ∧ t.sluices = s.sluices) ∧
      (k.addr.toNat % 4 = 1 →
        ∃ t, exec (.ackPacket k) s = .next t ∧ (t.hum o.hum).seq.st = .faulted ∧ t.mem.hbm = s.mem.hbm)) ∧
    (k.type = 0x18 → malformed k = false → s.err.chip = none →
      ((s.mss.relays.find? fun r => r.dst == k.src) = none →
        exec (.mgmtPacket k) s = .next { s with mss := { s.mss with askers := k.src :: s.mss.askers.erase k.src } }) ∧
      ∀ r, (s.mss.relays.find? fun r => r.dst == k.src) = some r → s.bindingUp r.binding = true →
        exec (.mgmtPacket k) s = .next ({ s with mss := { s.mss with
          relays := if (field k.payload 3 1).testBit 6 then s.mss.relays.erase r else s.mss.relays } }.replied r.binding
            ([r.eid] ++ leBytes 4 0x0001B7A4 ++ leBytes 2 k.src.toNat ++ k.payload)))

/-- R321, R331, R332, R336, R337, R419: what a link frame does at an UP port. Its codewords are counted. One that fails its CRC, fails
its tag on a port that runs with GCM, or skips a sequence number is discarded with a NAK that names the next number expected; one already
accepted is discarded and acknowledged; the next one is accepted into the input buffer, deciphered where the port runs with GCM. Credits, membership epochs and acknowledgements are taken. An acknowledgement frees the frames before the number that it names; a NAK frees those and resends every frame from that number on, in
order; a frame resent 8 times, no acknowledgement in 1 ms, and a loss of signal, of alignment or of a lane take the port DOWN. -/
def Obligations.LinkResult : Prop :=
  ∀ (s : State) (p : PortIx) (seq : BitVec 12), (s.port p).ls = .up →
    let x := s.port p
    let nth (n : Nat) : BitVec 12 := x.txSeq - BitVec.ofNat 12 x.replay.length + BitVec.ofNat 12 n
    let fec (y : Port) (chk : FrameCheck) : Port :=
      { y with corr := satAdd y.corr chk.corrected, unc := satAdd y.unc chk.uncorrectable }
    (∀ chk ack body, frameFails chk body = true →
      ∃ t, exec (.linkFrame p seq chk ack body) s = .next t ∧ t.port p = { fec x chk with crc := satInc x.crc } ∧
        (∀ q, q ≠ p.val → t.port q = s.port q) ∧ t.out = s.out ++ [.linkNak p x.rxSeq] ∧ { t with cwy := s.cwy, out := s.out } = s) ∧
    (∀ chk k, frameFails chk (.packet k) = false →
      ∃ t, exec (.linkFrame p seq chk none (.packet k)) s = .next t ∧ (∀ q, q ≠ p.val → t.port q = s.port q) ∧
      { t with cwy := s.cwy, out := s.out } = s ∧ (t.port p).corr = (fec x chk).corr ∧
      (seq = x.rxSeq → s.tagFails p chk k = false →
        (t.port p).inbuf = x.inbuf ++ [if s.portGcm p then x.gcm x.rxFrames k else k] ∧ (t.port p).rxSeq = x.rxSeq + 1 ∧
        t.out = s.out ++ [.linkAck p (x.rxSeq + 1)]) ∧
      (seq = x.rxSeq → s.tagFails p chk k = true →
        t.port p = { fec x chk with crc := satInc x.crc } ∧ t.out = s.out ++ [.linkNak p x.rxSeq]) ∧
      (seq ≠ x.rxSeq → (x.rxSeq - seq).toNat < 2048 → t.port p = fec x chk ∧ t.out = s.out ++ [.linkAck p x.rxSeq]) ∧
      (2048 ≤ (x.rxSeq - seq).toNat → t.port p = fec x chk ∧ t.out = s.out ++ [.linkNak p x.rxSeq])) ∧
    (∀ chk vc cls v (n : Nat), chk.uncorrectable = 0 → ∃ t u w, exec (.linkFrame p seq chk none (.credit vc cls)) s = .next t ∧
      sget 0 (t.port p).credits (creditKey vc cls) = sget 0 x.credits (creditKey vc cls) + 1 ∧ s.onlyPort t p ∧
      exec (.linkFrame p seq chk none (.mepoch v)) s = .next u ∧ u.port p = { fec x chk with pmep := v } ∧ s.onlyPort u p ∧
      (n ≤ x.replay.length → n < 4096 → exec (.linkFrame p seq chk (some (nth n)) .ackOnly) s = .next w ∧
        w.port p = { fec x chk with replay := x.replay.drop n } ∧ s.onlyPort w p)) ∧
    (∀ n, (∀ f ∈ x.replay, f.resent < 7) → n ≤ x.replay.length → n < 4096 →
      let again := x.replay.drop n
      ∃ t, exec (.nak p (nth n)) s = .next t ∧
        t.port p = { x with
          replay := again.map fun f => { f with resent := f.resent + 1 }, naks := satInc x.naks
          replays := satAdd x.replays again.length } ∧
        t.out = s.out ++ again.map (fun f => .frame p f.seq f.pkt f.crc f.tag) ∧ (∀ q, q ≠ p.val → t.port q = s.port q) ∧
        { t with cwy := s.cwy, out := s.out } = s) ∧
    (x.replay.length < 4096 → (∃ f ∈ x.replay, 7 ≤ f.resent) →
      ∃ t, exec (.nak p (nth 0)) s = .next t ∧ s.portLost t p 3) ∧
    (x.replay ≠ [] → ∃ t, exec (.linkAckTimeout p) s = .next t ∧ s.portLost t p 3) ∧
    (s.board.step ≠ 6 → ∀ f : BitVec 2, ∃ t u v, exec (.lossOfSignal p .signal) s = .next t ∧ s.portLost t p 1 ∧
      exec (.lossOfSignal p .fec) s = .next u ∧ s.portLost u p 2 ∧
      exec (.lossOfSignal p (.lane f)) s = .next v ∧ s.portLost v p 5 ∧ (v.port p).rxlos = f)

/-- R333 to R336, R403: a port's way up. A module that comes in is read, released only within the power allowance, and starts DETECT on
an enabled port; one that goes takes the port DOWN. DETECT ends in TRAINING with both lanes, or one under NARROW; TRAINING ends in
EXCHANGE, where the port sends its own ID, the sizes and the membership epoch once the ID is valid; EXCHANGE ends in UP with the
expected partner and in MISWIRED with any other; a port that is DOWN and enabled returns to
DETECT. (During step 7 of start-up the last of these also ends that step.) -/
def Obligations.PortResult : Prop :=
  ∀ (s : State) (p : PortIx), s.board.step ≠ 6 →
    let x := s.port p
    let narrow := (s.reg (portCtl p)).getLsbD 2
    (∀ info, x.modp = false → s.procReady mgpIx = true →
      ∃ t, exec (.moduleInsert p info) s = .next t ∧ (t.port p).modp = true ∧
        t.modReg p = (match info with
          | some i => ⟨true, decide (i.maxp.toNat ≤ s.regField 0x503180 0 8), i.maxp, i.ident, false⟩
          | none => { ModReg.reset with told := true }) ∧
        (t.port p).ls = (if s.portEn p && (x.ls == .off || x.ls == .down) then .detect else x.ls) ∧
        t.err.eq0.eseq = s.err.eq0.eseq + (if (t.modReg p).highpwr then 0 else 1) ∧
        (∀ q, q ≠ p.val → t.port q = s.port q) ∧ t.mem = s.mem ∧ t.hums = s.hums) ∧
    (x.modp = true →
      ∃ t, exec (.moduleRemove p) s = .next t ∧ (t.port p).modp = false ∧ t.modReg p = ModReg.reset ∧
        (x.ls ≠ .off → x.ls ≠ .down → s.portLost t p 4) ∧ (x.ls = .off → (t.port p).ls = .off) ∧
        (x.ls = .down → (t.port p).ls = .down ∧ (t.port p).dcause = 4)) ∧
    (∀ opens shorts rxlos, x.ls = .detect → x.modp = true → s.portEn p = true → (s.modReg p).highpwr = true →
      let bad := opens ||| shorts
      ∃ t, exec (.detectDone p opens shorts rxlos) s = .next t ∧ (t.port p).lopen = opens ∧ (t.port p).lshort = shorts ∧
        (t.port p).rxlos = rxlos ∧ (bad = 0 → (t.port p).ls = .training ∧ (t.port p).width1 = false) ∧
        (bad ≠ 0 → bad ≠ 3 → narrow = true → (t.port p).ls = .training ∧ (t.port p).width1 = true) ∧
        (bad ≠ 0 → (bad = 3 ∨ narrow = false) → s.portLost t p 5)) ∧
    (∀ polinv lswap failed, x.ls = .training →
      ∃ t, exec (.trainingDone p polinv lswap failed) s = .next t ∧ (t.port p).polinv = polinv ∧ (t.port p).lswap = lswap ∧
        (failed = 0 → (t.port p).ls = .exchange ∧ (t.port p).width1 = x.width1 ∧ (t.port p).noid = !s.idValid) ∧
        (failed = 0 → s.idValid = true →
          t.out = s.out ++ [.exchange p s.ownId ((s.reg 0x400000).extractLsb' 16 15) s.ep.mepoch]) ∧
        (failed ≠ 0 → failed ≠ 3 → narrow = true → x.width1 = false → (t.port p).ls = .exchange ∧ (t.port p).width1 = true) ∧
        (failed ≠ 0 → (failed = 3 ∨ narrow = false ∨ x.width1 = true) → s.portLost t p 5)) ∧
    (∀ pid pport sizes mep, x.ls = .exchange →
      ∃ t, exec (.exchangeDone p pid pport sizes mep) s = .next t ∧
        (s.idValid = false → (t.port p).ls = .exchange ∧ (t.port p).noid = true) ∧
        (s.idValid = true → (t.port p).pid = pid ∧ (t.port p).pval = true ∧ (t.port p).pport = pport ∧ (t.port p).pmep = mep ∧
          (t.port p).ls = (if pid.toNat = (s.expected p).1 ∧ pport.toNat = (s.expected p).2 ∧ pid ≠ s.ownId ∧
            sizes = (s.reg 0x400000).extractLsb' 16 15 then .up else .miswired) ∧ s.linkEventSeen t) ∧
        (∀ q, q ≠ p.val → t.port q = s.port q) ∧ t.mem = s.mem ∧ t.hums = s.hums) ∧
    (x.ls = .down → s.portEn p = true → x.modp = true →
      ∃ t, exec (.portRetryTimeout p) s = .next t ∧ t.port p = { x with ls := .detect, dcause := 0 } ∧ s.onlyPort t p)

/-- R315, R327 to R330, R337, R456, R469: writes of EN and DRN, and the ends of a drain, of a table commit and of a high-water window.
EN in a closed region is refused and counted. With the window's end the stall counters grow by the time that their virtual channels
were stalled within it (R337). A commit takes effect only when every affected port is DRAINED, and until then is
pending; a valid ID is in force at once, and with one that is not valid a port at EXCHANGE holds (R333, R343). -/
def Obligations.PortControlResult : Prop :=
  ∀ (s : State) (m : Master) (p : PortIx),
    let x := s.port p
    let old := s.reg (portCtl p)
    (s.privileged m →
      (s.regionOpen 9 = true → old.getLsbD 0 = false →
        ∃ t, exec (.portEnable m p true) s = .next t ∧ t.reg (portCtl p) = old ||| 1 ∧
          t.port p = (if x.ls = .off ∧ x.modp = true then { x with ls := .detect, dcause := 0 } else x) ∧
          (∀ q, q ≠ p.val → t.port q = s.port q) ∧ { t with cwy := s.cwy, regs := s.regs } = s) ∧
      (s.regionOpen 9 = true → old.getLsbD 0 = true →
        ∃ t, exec (.portEnable m p false) s = .next t ∧ t.reg (portCtl p) = old &&& ~~~1#64 ∧ (t.port p).ls = .off ∧
          (t.port p).replay = [] ∧ (t.port p).inbuf = [] ∧ (x.ds = .draining → (t.port p).ds = .drained) ∧
          (∀ q, q ≠ p.val → t.port q = s.port q) ∧ (x.ds ≠ .draining → t.err = s.err) ∧
          { t with cwy := s.cwy, regs := s.regs, err := s.err } = s) ∧
      (s.regionOpen 9 = false → old.getLsbD 0 = false →
        ∃ t, exec (.portEnable m p true) s = .next t ∧ t.reg (portCtl p) = old ∧ t.cwy = s.cwy ∧
          t.cip.violClosed = satInc s.cip.violClosed) ∧
      (old.getLsbD 1 = false →
        ∃ t, exec (.portDrain m p) s = .next t ∧ t.reg (portCtl p) = old ||| 2 ∧
          t.port p = { x with ds := if x.ls = .up then .draining else .drained } ∧ (∀ q, q ≠ p.val → t.port q = s.port q)) ∧
      (old.getLsbD 1 = true → s.ep.decision = none →
        ∃ t, exec (.portResume m p) s = .next t ∧ t.reg (portCtl p) = old &&& ~~~2#64 ∧ t.port p = { x with ds := .active } ∧
          (∀ q, q ≠ p.val → t.port q = s.port q) ∧ t.cwy.inject = s.cwy.inject) ∧
      (s.ep.members = [] →
        ∃ t, exec (.rtCommit m) s = .next t ∧ { t with cwy := s.cwy, err := s.err } = s ∧ t.cwy.ports = s.cwy.ports ∧
          (s.affected.all s.drained = true → t.cwy.pend = false ∧
            (∀ i, i < 2048 → sget 0 t.cwy.rtAct i = copyEntry true ((s.reg (0x480000 + 8 * i)).extractLsb' 0 12)) ∧
            (∀ j, j < 16 → sget 0 t.cwy.ltAct j = (s.reg (0x484000 + 8 * j)).extractLsb' 0 12)) ∧
          (s.affected.all s.drained = false →
            t.cwy.pend = true ∧ t.cwy.rtAct = s.cwy.rtAct ∧ t.cwy.ltAct = s.cwy.ltAct ∧ t.err = s.err)) ∧
      (∀ v : BitVec 64, s.regionOpen 9 = true → v.getLsbD 15 = true → v.toNat < 2 ^ 31 →
        (∀ d, d < 4 → coordOf (v.toNat % 2 ^ 15) d < v.toNat / 2 ^ (16 + 4 * d) % 2 ^ (if d = 3 then 3 else 4) + 1) →
        ∃ t, exec (.cwyIdWrite m v) s = .next t ∧ t.ownId = v.extractLsb' 0 15 ∧ t.cwy.sizes = v.extractLsb' 16 15 ∧ t.regField 0x400000 0 31 = v.toNat ∧
          (∀ o, o ≠ 0x400000 → t.reg o = s.reg o) ∧ { t with cwy := s.cwy, regs := s.regs, out := s.out } = s ∧
          ((∀ q, (s.port q).noid = false) → t.out = s.out)) ∧
      (∀ v : BitVec 64, s.regionOpen 9 = true → v.getLsbD 15 = false → v.toNat < 2 ^ 31 →
        ∃ t, exec (.cwyIdWrite m v) s = .next t ∧ t.ownId = s.ownId ∧ t.cwy.sizes = s.cwy.sizes ∧ t.regField 0x400000 0 31 = v.toNat ∧
          (∀ q : PortIx, t.port q = if (s.port q).ls = .exchange then { s.port q with noid := true } else s.port q) ∧
          { t with cwy := s.cwy, regs := s.regs } = s)) ∧
    (x.ds = .draining → x.replay = [] →
      ∃ t, exec (.portDrained p) s = .next t ∧ t.port p = { x with ds := .drained } ∧
        (∀ q, q ≠ p.val → t.port q = s.port q) ∧ s.linkEventSeen t ∧ { t with cwy := s.cwy, err := s.err } = s) ∧
    (s.cwy.pend = true → s.affected.all s.drained = true → s.ep.members = [] →
      ∃ t, exec .rtCommitTakesEffect s = .next t ∧ t.cwy.pend = false ∧
        (∀ i, i < 2048 → sget 0 t.cwy.rtAct i = copyEntry true ((s.reg (0x480000 + 8 * i)).extractLsb' 0 12)) ∧
        (∀ j, j < 16 → sget 0 t.cwy.ltAct j = (s.reg (0x484000 + 8 * j)).extractLsb' 0 12) ∧
        { t with cwy := s.cwy, err := s.err } = s) ∧
    (∃ t, exec .highWaterWindow s = .next t ∧ s.onlyFabric { t with freeCtr := s.freeCtr } ∧
      ∀ (q : PortIx) v, v < 4 → ∃ ns, ns ≤ s.windowNs ∧
        (((s.port q).vcOf v).starved = false → s.lacksCredit q v = false → ns = 0) ∧
        (t.port q).vcOf v =
          { ((s.port q).vcOf v) with
            high := Nat.max ((s.port q).vcOf v).highNow (s.queueDepth q v), highNow := s.queueDepth q v, starved := s.lacksCredit q v
            stall := satAdd ((s.port q).vcOf v).stall ns })

/-! ### Command packets -/

/-- R270 to R274, R276 to R278, R285: a NOP of the ring is answered by one 32-byte record at the reply ring's tail with OK, its
opcode, PHASE, the state code and its SEQ; HEAD passes its slots, the tail its entry, and the next expected SEQ is one higher; the
front end's journal says so. A packet with another SEQ is answered BAD_SEQ and only consumed; its effect does not happen. One with a
reserved opcode, which the row's operand spells (a choice of the model, log 138), is answered BAD_OPCODE; an opcode of another command
is none of this row's, and nothing happens. -/
def Obligations.CommandRingResult : Prop :=
  ∀ (s : State) (h : Hdr), s.ringHolds h → s.fe.dbq = [] → h.irq = false →
    let i := s.fe.rplTail.toNat
    let wrap := i + 1 = s.rplSize
    let addr := s.reg 0x20 + BitVec.ofNat 64 (32 * i)
    let bytes (opc : BitVec 8) (st : BitVec 16) := leBytes 2 st.toNat ++ [opc, if s.fe.phase then 1 else 0] ++
      leBytes 4 (s.stateCode h.ctx.toNat 0).toNat ++ leBytes 8 h.seq.toNat ++ leBytes 16 0
    let replied (t : State) (opc : BitVec 8) (st : BitVec 16) :=
      t.out = s.out ++ [.hostWrite addr (bytes opc st)] ∧ t.fe.head = s.headAfter h ∧
      t.fe.rplTail = (if wrap then 0 else s.fe.rplTail + 1) ∧ t.fe.phase = (if wrap then !s.fe.phase else s.fe.phase) ∧
      { t with fe := s.fe, out := s.out, jnl := s.jnl } = s ∧ t.fe.ctxs = s.fe.ctxs ∧ t.fe.launches = s.fe.launches ∧
      (s.jots fepIx = true → (t.part fepIx).last = some (t.jview fepIx))
    (h.seq = s.fe.seq → h.rsvd = false → ∃ t, exec (.nop ⟨h, 0⟩) s = .next t ∧ replied t 0 stOK ∧ t.fe.seq = s.fe.seq + 1) ∧
    (h.seq ≠ s.fe.seq → ∃ t, exec (.nop ⟨h, 0⟩) s = .next t ∧ replied t 0 stBadSeq ∧ t.fe.seq = s.fe.seq) ∧
    (∀ opc : BitVec 8, opc.toNat ∉ opcodes → h.seq = s.fe.seq →
      ∃ t, exec (.nop ⟨h, opc⟩) s = .next t ∧ replied t opc stBadOpcode ∧ t.fe.seq = s.fe.seq + 1) ∧
    (∀ opc : BitVec 8, opc ≠ 0 → opc.toNat ∈ opcodes → exec (.nop ⟨h, opc⟩) s = .next s)

/-- R277, R278, R281, R282: CTX_OPEN shows the order of the checks: its class, then LEN and its parameters, then legality. A packet that
breaks its class is answered OK with zero STATE and is counted; any other failure is answered with its status. None has an effect. On
the MGP's own path (R286) SEQ runs by itself, and a control opcode is answered BAD_OPCODE there. A command whose data lie at a sector in
reset waits (14 R352). -/
def Obligations.CommandChecks : Prop :=
  ∀ (s s1 : State) (h : Hdr) (tctx : BitVec 8),
    let c := tctx.toNat
    let no (st : BitVec 16) := Host.Outcome.next (s1.refuses s1 h 0x01 c st)
    (s.mgpHolds h 0x01 = false → s.take h = (s1, .go) → h.path = .ring →
      (h.ctx ≠ 0 → exec (.ctxOpen h tctx) s = .next ((s1.violCmd.reply (mkReply stOK 0x01 0 h 0)).concluded h)) ∧
      (h.ctx = 0 → h.len ≠ 8 → exec (.ctxOpen h tctx) s = no stBadLength) ∧
      (h.ctx = 0 → h.len = 8 → (h.rsvd = true ∨ c = 0 ∨ 64 ≤ c) → exec (.ctxOpen h tctx) s = no stBadParam) ∧
      (h.ctx = 0 → h.len = 8 → h.rsvd = false → 1 ≤ c → c < 64 → (s1.ctx c).st ≠ .free →
        exec (.ctxOpen h tctx) s = no stBadState)) ∧
    (h.path = .mgp → s.mgpUp = true → lenSound h = true →
      let said (opc : BitVec 8) (st : BitVec 16) (n : Nat) := leBytes 2 st.toNat ++ [opc, 0] ++
        leBytes 4 (s.stateCode n 0).toNat ++ leBytes 8 h.seq.toNat ++ leBytes 16 0
      (h.seq = s.fe.mgpSeq → exec (.ctxOpen h tctx) s =
        .next { s with fe := { s.fe with mgpSeq := s.fe.mgpSeq + 1 }, mss := { s.mss with ownRpl := said 0x01 stBadOpcode c } }) ∧
      (h.seq ≠ s.fe.mgpSeq → exec (.ctxOpen h tctx) s =
        .next { s with mss := { s.mss with ownRpl := said 0x01 stBadSeq c } })) ∧
    (∀ first count dst, s.spanHeld (h.ctx.toNat, dst.toNat, 8 * count.toNat) = true →
      exec (.sensorRead h first count dst) s = .next s)

/-- R279, R282, R283, R176 to R178, R152: what the commands on contexts, sluices and the watch do where they are legal, and the DATA
that they answer. CTX_ABORT of a context without a launch ends none; of the running launch before PREPARE it starts the context abort,
and its reply waits with DATA 1. -/
def Obligations.ContextCommandResult : Prop :=
  ∀ (s s1 : State) (h : Hdr) (tctx : BitVec 8),
    (∀ k, (s1.ctx k).sluBase = (s.ctx k).sluBase ∧ (s1.ctx k).sluCount = (s.ctx k).sluCount) →
    let c := tctx.toNat
    let own := h.ctx.toNat
    (s.takesCmd s1 h 0x00 → exec (.nop ⟨h, 0⟩) s = .next (s1.answers s1 h 0x00 own 0 0)) ∧
    (s.takesCmd s1 h 0x01 → h.ctx = 0 → h.len = 8 → 1 ≤ c → c < 64 → (s1.ctx c).st = .free →
      ∃ u, exec (.ctxOpen h tctx) s = .next (s1.answers u h 0x01 c 0 0) ∧
        s1.ctxBecomes u c { (s1.ctx c) with st := .opened, dbSeq := 0 }) ∧
    (s.takesCmd s1 h 0x02 → h.ctx = 0 → h.len = 8 → 1 ≤ c → c < 64 → (s1.ctx c).st = .opened → s1.liveOf c = 0 →
      ∃ u, exec (.ctxClose h tctx) s = .next (s1.answers u h 0x02 c 0 0) ∧ (u.ctx c).st = .free ∧
        (∀ k, k ≠ c → u.ctx k = s1.ctx k) ∧
        (s1.isSealed c = false → s1.ctxBecomes u c { (s1.ctx c) with st := .free }) ∧
        (s1.isSealed c = true → s1.unsealsTo u c)) ∧
    (s.takesCmd s1 h 0x03 → h.ctx = 0 → h.len = 8 → 1 ≤ c → c < 64 → (s1.ctx c).st ≠ .free → s1.queuedOf c = [] →
      (s1.running = none → exec (.ctxAbort h tctx) s = .next (s1.answers s1 h 0x03 c 0 0)) ∧
      (∀ l, s1.running = some l → l.ctx.toNat = c → l.live = true → (s1.ctx c).st = .opened →
        (s1.ep.st = .running ∨ s1.ep.st = .prepared) → s1.ep.sent = false → s1.decided = false →
        s1.ep.failedAtt ≠ some s1.ep.att → s1.err.ctxab = none → s1.err.chip = none → s1.beyond = false →
        ∃ t, exec (.ctxAbort h tctx) s = .next t ∧ t.fe.wait = some (mkReply stOK 0x03 (s1.stateCode c 0) h 1) ∧
          (t.ctx c).st = .aborting ∧ t.ep.failedAtt = some s1.ep.att ∧ t.err.ctxab ≠ none ∧ t.mem.hbm = s1.mem.hbm)) ∧
    (∀ base count, s.takesCmd s1 h 0x04 → h.ctx = 0 → h.len = 8 → c < 64 → base.toNat < 32768 →
      base.toNat + count.toNat ≤ 32768 → s.rangeTaken c base.toNat count.toNat = false → (s1.ctx c).st = .opened →
      s1.liveOf c = 0 →
      ∃ u, exec (.sluiceRange h tctx base count) s = .next (s1.answers u h 0x04 c 0 0) ∧
        s1.ctxBecomes u c { (s1.ctx c) with sluBase := base, sluCount := count }) ∧
    (∀ slu, slu.toNat < (s1.ctx own).sluCount.toNat → h.len = 8 → s1.usable own →
      let n := (s1.ctx own).sluBase.toNat + slu.toNat
      (∀ count, s.takesCmd s1 h 0x05 → (s1.sluice n).waiters = [] →
        ∃ u, exec (.sluiceSet h slu count) s = .next (s1.answers u h 0x05 own 0 (s1.sluice n).count.toNat) ∧
          s1.countBecomes u n count) ∧
      (∀ inc, s.takesCmd s1 h 0x06 → 1 ≤ inc.toNat → inc.toNat ≤ 65535 → (s1.sluice n).waiters = [] →
        (∀ g, (s1.hum g).wsen = false) → (s1.sluice n).count.toNat + inc.toNat < 2 ^ 32 →
        ∃ u, exec (.sluiceSignal h slu inc) s =
            .next (s1.answers u h 0x06 own 0 ((s1.sluice n).count.toNat + inc.toNat)) ∧
          s1.countBecomes u n ((s1.sluice n).count + inc)) ∧
      (s.takesCmd s1 h 0x07 →
        exec (.sluiceRead h slu) s = .next (s1.answers s1 h 0x07 own 0
          ((s1.sluice n).count.toNat + 2 ^ 32 * Nat.min (s1.sluice n).waiters.length 255)))) ∧
    (∀ (tag : BitVec 31) p n, s.takesCmd s1 h 0x08 → h.len = 8 → s1.usable own →
      let rest := (s1.ctx own).armed.filter fun a => a.tag != tag
      (n = 0 → ∃ u, exec (.watchArm h (tag.setWidth 32) p n) s = .next (s1.answers u h 0x08 own 0 rest.length) ∧
        s1.ctxBecomes u own { (s1.ctx own) with armed := rest }) ∧
      (n ≠ 0 → rest.length < 256 →
        ∃ u, exec (.watchArm h (tag.setWidth 32) p n) s = .next (s1.answers u h 0x08 own 0 (rest.length + 1)) ∧
          s1.ctxBecomes u own { (s1.ctx own) with armed := rest ++ [⟨tag, p, n, 0⟩] }))

/-- R279, R280, R290 to R298, R305, R310: what the commands on launches, graphs and completions do where they are legal. A launch that
is admitted stands last in the journal with attempt 1 and the parameter block that it was given; one whose deadline is below the bound is
answered REFUSED_LATE and leaves no launch. GRAPH_REGISTER makes version 1; GRAPH_PATCH makes the next version current; GRAPH_RETIRE
removes a graph without launches. A doorbell takes its slot: with the SEQ expected it admits the graph's current version. -/
def Obligations.LaunchCommandResult : Prop :=
  ∀ (s s1 : State) (h : Hdr),
    let own := h.ctx.toNat
    (h.ctx = 0 → h.len = 0 → s1.cip.drift = 0 →
      (s.takesCmd s1 h 0x21 →
        exec (.quiesce h) s = .next (s1.answers { s1 with fe := { s1.fe with quiesced := true } } h 0x21 own 0
          (s1.fe.launches.countP Launch.live))) ∧
      (s.takesCmd s1 h 0x22 →
        exec (.admitLaunch h) s = .next (s1.answers { s1 with fe := { s1.fe with quiesced := false } } h 0x22 own 0 0))) ∧
    (∀ gid mask image params, s.takesCmd s1 h 0x18 → s.flows → h.ctx = 0 → h.len = 32 → gid.toNat ≤ 4095 → addrOk image 256 = true →
      addrOk params 8 = true → s1.cip.modeActive = true → s1.graphOf gid.toNat = none →
      ∀ s2 i s3 b, s1.readImage 0 image.toNat = (s2, .ok i) → s2.feRead 0 params.toNat i.paramsz = (s3, some b) →
      s3.storeUsed + unitsOf i.paramsz ≤ storeUnits →
      ∃ u, exec (.graphRegister h gid mask image params) s = .next (s1.answers u h 0x18 own 0 1) ∧
        u.fe.graphs = s3.fe.graphs ++
          [{ gid := gid, image := image, ctxmask := mask, paramsz := i.paramsz, nhum := i.nhum, mode := i.mode
             wsteps := i.wsteps, wfixed := i.wfixed, slus := i.slus, versions := [⟨1, b⟩], current := 1, retiring := false }] ∧
        { u with fe := { u.fe with graphs := s3.fe.graphs } } = s3) ∧
    (∀ gid off size inl g, s.takesCmd s1 h 0x19 → h.ctx = 0 → h.len = 24 + size.toNat → gid.toNat ≤ 4095 →
      s.graphOf gid.toNat = some g → s1.graphOf gid.toNat = some g → g.retiring = false → s1.cip.modeActive = true →
      off.toNat % 8 = 0 → size.toNat % 8 = 0 → off.toNat + size.toNat ≤ g.paramsz → inl.length = size.toNat →
      g.current ≠ BitVec.allOnes 32 → s1.storeUsed + unitsOf g.paramsz ≤ storeUnits →
      (g.current :: (s1.boundVersions g.gid).filter fun v => v != g.current).length < 4 →
      (∀ v ∈ g.versions, v.num ≠ g.current + 1) →
      let old := g.bytesOf g.current
      ∃ u g', exec (.graphPatch h gid off size 0 inl) s = .next (s1.answers u h 0x19 own 1 (g.current.toNat + 1)) ∧
        u.graphOf gid.toNat = some g' ∧ g'.current = g.current + 1 ∧
        g'.bytesOf g'.current = old.take off.toNat ++ inl ++ old.drop (off.toNat + size.toNat) ∧
        u.fe.launches = s1.fe.launches ∧ { u with fe := s1.fe } = s1) ∧
    (∀ gid g, s.takesCmd s1 h 0x1A → h.ctx = 0 → h.len = 8 → gid.toNat ≤ 4095 → s1.graphOf gid.toNat = some g →
      g.retiring = false → s1.cip.modeActive = true → (∀ l ∈ s1.fe.launches, l.live = true → l.gid ≠ gid) →
      ∃ u, exec (.graphRetire h gid) s = .next (s1.answers u h 0x1A own 1 0) ∧ u.graphOf gid.toNat = none ∧
        u.fe.launches = s1.fe.launches ∧ { u with fe := s1.fe } = s1) ∧
    (∀ image watch seed deadline inl, s.takesCmd s1 h 0x10 → s.flows → 40 ≤ h.len → addrOk image 256 = true → addrOk watch 64 = true →
      deadline ≠ 0 → s1.cip.modeActive = false → s1.launchLegal own = true →
      ∀ s2 i, s1.readImage own image.toNat = (s2, .ok i) → h.len = 40 + i.paramsz → inl.length = i.paramsz →
      (watch = 0 → i.nwatch = 0) →
      (∀ x ∈ i.slus, x < (s2.ctx own).sluCount.toNat) →
      let d := s2.boundD i.wsteps i.wfixed
      let st := s2.admitStatus own (unitsOf inl.length) i.nhum d deadline.toNat
      (st = stOK →
        ∃ u l, exec (.launch h image 0 watch seed deadline inl) s = .next (s1.answers u h 0x10 own 0 (s2.admitData i.nhum d)) ∧
          u.fe.launches = s2.fe.launches ++ [l] ∧ l.id = s2.fe.nextLaunch ∧ l.ctx = h.ctx ∧ l.seq = h.seq ∧ l.js = .admitted ∧
          l.att = 1 ∧ l.params = inl ∧ l.deadline = deadline ∧ l.seed = seed ∧ l.image = image ∧ l.d = d ∧
          { u with fe := s2.fe } = s2) ∧
      (st ≠ stOK → exec (.launch h image 0 watch seed deadline inl) s =
        .next (s1.refuses s2 h 0x10 own st))) ∧
    (∀ (c : BitVec 6) (i : BitVec 4), s.hostOk = true → s.fe.dbq = [] → (s.ctx c.toNat).submitted.getLsbD i.toNat = false →
      s.ringEn = true → s.ringAvail ≠ 0 →
      ∃ t, exec (.doorbellLaunch c i) s = .next t ∧ t.fe.dbq = [(c, i, s.ringAvail)] ∧
        s.ctxBecomes { t with fe := { t.fe with dbq := [] } } c.toNat
          { (s.ctx c.toNat) with submitted := (s.ctx c.toNat).submitted ||| (1#16 <<< i.toNat) }) ∧
    (∀ (c : BitVec 6) (i : BitVec 4), s.hostOk = true → s.feRuns = true → s.fe.dbq = [] →
      (s.ringEn = true → s.ringAvail = 0) → (s.ctx c.toNat).submitted.getLsbD i.toNat = false →
      let x := s.ctx c.toNat
      let e := bread x.slots (64 * i.toNat) 32
      let status (t : State) := BitVec.ofNat 16 (leNat (bread (t.ctx c.toNat).slots (64 * i.toNat + 32) 2))
      (field e 8 8 ≠ x.dbSeq.toNat →
        ∃ t, exec (.doorbellLaunch c i) s = .next t ∧ status t = stBadSeq ∧ t.fe.launches = s.fe.launches ∧
          (t.ctx c.toNat).dbSeq = x.dbSeq ∧ (t.ctx c.toNat).submitted.getLsbD i.toNat = false) ∧
      (∀ g, field e 8 8 = x.dbSeq.toNat → s.graphOf (field e 0 2) = some g → g.ctxmask.getLsbD c.toNat = true →
        field e 0 2 ≤ 4095 → field e 4 4 ≠ 0 → field e 2 1 < 2 → field e 3 1 = 0 → field e 0x18 8 = 0 →
        s.cip.modeActive = true → g.retiring = false → s.launchLegal c.toNat = true →
        (∀ n ∈ g.slus, n < x.sluCount.toNat) →
        s.admitStatus c.toNat 0 g.nhum (s.boundD g.wsteps g.wfixed) (field e 4 4) = stOK →
        ∃ t l, exec (.doorbellLaunch c i) s = .next t ∧ status t = stOK ∧ t.fe.launches = s.fe.launches ++ [l] ∧
          l.id = s.fe.nextLaunch ∧ l.ctx = c ∧ l.gid = g.gid ∧ l.ver = g.current ∧ l.params = g.bytesOf g.current ∧
          l.seq = x.dbSeq ∧ l.js = .admitted ∧ (t.ctx c.toNat).dbSeq = x.dbSeq + 1 ∧ t.mem = s.mem ∧ t.hums = s.hums)) ∧
    (s.takesCmd s1 h 0x09 → h.len = 0 → s1.usable own →
      (s1.unpublished own = [] → exec (.completionFlush h none) s = .next (s1.answers s1 h 0x09 own 0 0)) ∧
      (∀ l r, s1.unpublished own = [l] → s1.recordDue own = some (l, r) →
        let pos := l.pos.getD ((s1.ctx own).tail, (s1.ctx own).phase)
        let addr := s1.reg (0x2000 + 32 * own) + BitVec.ofNat 64 (32 * pos.1.toNat)
        ∃ u, exec (.completionFlush h none) s = .next (s1.answers u h 0x09 own 0 1) ∧
          u.out = s1.out ++ [.hostWrite addr (recordBytes l r pos.2)] ∧ u.unpublished own = [] ∧ (u.ctx own).st = .opened))

/-- R263, R264, R279, R283, R351, R352, R386 to R388, R402, R415, R420: what the management commands do where they are legal.
MEMBERSHIP resolves by each row of R264's table, and the UP ports' partners read the new membership epoch (13 R336). -/
def Obligations.ManagementCommandResult : Prop :=
  ∀ (s s1 : State) (h : Hdr),
    let own := h.ctx.toNat
    (∀ rec s2 hd s3 r, s.takesCmd s1 h 0x20 → s.flows → h.ctx = 0 → h.len = 8 → addrOk rec 8 = true → memberLegal s1 = true →
      s1.feRead 0 rec.toNat 32 = (s2, some hd) →
      s2.feRead 0 rec.toNat (memberBody (field hd 6 2 + 1) + sigLen) = (s3, some r) →
      let n := field r 6 2 + 1
      let decided := field r 0x10 8
      let refused := exec (.membership h rec) s =
        .next (s1.answers { s3 with fe := { s3.fe with violMember := satInc s3.fe.violMember } } h 0x20 own 0
          s3.ep.mepoch.toNat)
      let taken (w : State) := ∃ u : State, exec (.membership h rec) s = .next (s1.answers u h 0x20 own 0 u.ep.mepoch.toNat) ∧
        u.ep.mepoch.toNat = field r 8 8 ∧ u.ep.members.length = n ∧
        (∀ j d, u.ep.members[j]? = some d → d.toNat = field r (0x20 + 2 * j) 2) ∧
        u.ep.members[u.ep.rank.toNat]? = some s3.ownId ∧ u.ep.c = w.ep.c ∧ u.ep.st = w.ep.st ∧ u.ep.after = w.ep.after ∧
        u.ep.genOpen = w.ep.genOpen ∧ u.ep.genLast = w.ep.genLast ∧ u.ep.rejoin = false ∧
        u.out = w.out ++ ((List.finRange 16).filter fun (p : PortIx) => (w.port p).ls == .up).map (fun p => Out.mep p u.ep.mepoch) ∧
        { u with ep := w.ep, jnl := w.jnl, out := w.out } = w
      (s3.memberRecordOk r n = false → refused) ∧
      (s3.memberRecordOk r n = true →
        (s3.ep.st = .idle → s3.ep.mepoch = 0 → taken { s3 with ep := { s3.ep with c := BitVec.ofNat 64 decided } }) ∧
        (s3.ep.st = .idle → s3.ep.mepoch ≠ 0 →
          (decided = s3.ep.c.toNat → taken s3) ∧ (decided ≠ s3.ep.c.toNat → refused)) ∧
        (s3.ep.st = .sundered →
          (decided = s3.ep.c.toNat → taken { s3 with ep := { s3.ep with st := .idle } }) ∧
          (decided ≠ s3.ep.c.toNat → refused)) ∧
        (s3.ep.st = .doubt →
          (decided = s3.openEpoch.toNat → taken s3.localCommit) ∧
          (decided = s3.ep.c.toNat → ∃ w : State, w = { s3 with ep := { s3.ep with after := none } } ∧
            taken { w.localRollback with ep := { w.localRollback.ep with after := some 2 } }) ∧
          (decided ≠ s3.openEpoch.toNat → decided ≠ s3.ep.c.toNat → refused)))) ∧
    (∀ level target, s.takesCmd s1 h 0x23 → h.ctx = 0 → h.len = 8 → s1.ep.launch = none → s1.err.chip = none → s1.beyond = false →
      (∀ g : Hum, level = 2 → target.toNat = g.val → s1.sectorRun (secOf g) = none → s1.engineRun g = none →
        ∃ t r, exec (.reset h level target) s = .next t ∧ t.engineRun g = some r ∧ r.code = errCode 2 0x40 h.ctx.toNat 0x061 ∧ (t.hum g).power = .inReset ∧
          (t.hum g).mere = [] ∧ (t.hum g).sump = [] ∧ (t.hum g).peat = [] ∧ (t.hum g).lats = [] ∧ (t.hum g).seq = Sequencer.reset ∧
          (t.hum g).holder = none ∧ (∀ k, k ≠ g.val → t.hum k = s1.hum k) ∧ t.mem = s1.mem ∧
          t.fe.wait = some (mkReply stOK 0x23 (s1.stateCode own 0) h (2 + 256 * g.val))) ∧
      (∀ x : Sec, level = 3 → target.toNat = x.val → s1.sectorRun x = none →
        ∃ t r, exec (.reset h level target) s = .next t ∧ t.sectorRun x = some r ∧ r.code = errCode 3 0x40 h.ctx.toNat 0x061 ∧ (t.proc x).st = .starting ∧
          (∀ n, n / 4096 = x.val → t.sluice n = Sluice.reset) ∧
          (∀ n, n / 4096 ≠ x.val → s1.waitersGone t n fun g => secOf g == x.val) ∧
          (∀ g, secOf g ≠ x.val → t.hum g = s1.hum g) ∧ t.mem.hbm = s1.mem.hbm ∧ t.mem.recs = s1.mem.recs ∧
          t.mem.own = s1.mem.own ∧ t.mem.keys = s1.mem.keys ∧
          t.fe.wait = some (mkReply stOK 0x23 (s1.stateCode own 0) h (3 + 256 * x.val)))) ∧
    (∀ first count dst s2 e d, s.takesCmd s1 h 0x80 → s.flows → h.ctx = 0 → h.len = 16 → first.toNat ≤ 139 →
      first.toNat + count.toNat ≤ 140 → addrOk dst 8 = true → s1.mem.err = [] → s1.xlateSpan 0 dst.toNat (8 * count.toNat) true = (s2, [e], .ok e) →
      s2.plainAt 0 dst.toNat (8 * count.toNat) e d →
      ∃ u, exec (.sensorRead h first count dst) s = .next (s1.answers u h 0x80 own 0 count.toNat) ∧
        storedAt s1.mem.hbm u.mem.hbm d
          ((List.range count.toNat).flatMap fun i => leBytes 8 (sget 0 s1.mss.sens (first.toNat + i)).toNat) ∧
        u.mss = s1.mss ∧ u.hums = s1.hums) ∧
    (∀ offset size dst s2 e d, s.takesCmd s1 h 0x81 → s.flows → h.ctx = 0 → h.len = 24 → offset.toNat + size.toNat ≤ 2 ^ 24 →
      addrOk dst 1 = true → s1.mem.err = [] → s1.xlateSpan 0 dst.toNat size.toNat true = (s2, [e], .ok e) →
      s2.plainAt 0 dst.toNat size.toNat e d →
      ∃ u, exec (.logRead h offset size dst) s = .next (s1.answers u h 0x81 own 0 size.toNat) ∧
        storedAt s1.mem.hbm u.mem.hbm d (flashRead s1.fw.flash (logBase + offset.toNat) size.toNat) ∧ u.fw = s1.fw ∧ u.hums = s1.hums) ∧
    (∀ kind (g : Hum) dst, s.takesCmd s1 h 0x82 → h.ctx = 0 → h.len = 16 → kind.toNat ≤ 1 → addrOk dst 32 = true →
      (s1.hum g).holder = none →
      ∃ t : State, exec (.bistRun h kind 0 (BitVec.ofNat 8 g.val) dst) s = .next (t.concluded h) ∧ (t.hum g).power = .inReset ∧
        (t.hum g).mere = [] ∧ (∀ k, k ≠ g.val → t.hum k = s1.hum k) ∧
        t.mss.bist = s1.mss.bist ++
          [⟨kind, 0, BitVec.ofNat 8 g.val, h.ctx, dst, mkReply stOK 0x82 (s1.stateCode own 0) h 0⟩] ∧
        { t with hums := s1.hums, mss := s1.mss } = s1) ∧
    (∀ b : Bool, s.takesCmd s1 h 0x83 → h.ctx = 0 → h.len = 8 → s.slotFit b = true →
      (s1.actHeld b = true →
        ∃ u, exec (.fwActivate h (if b then 1 else 0)) s = .next (s1.answers u h 0x83 own 0 1) ∧ u.fw.pend = some b ∧
          u.fw.handoff = s1.fw.handoff ∧ u.fw.procs = s1.fw.procs ∧ u.mem = s1.mem ∧ u.hums = s1.hums) ∧
      (s1.actHeld b = false →
        ∃ u, exec (.fwActivate h (if b then 1 else 0)) s = .next (s1.answers u h 0x83 own 0 0) ∧ u.fw.handoff = some (1, b) ∧
          u.fw.pend = none ∧ (∀ i, i < 11 → s1.procReady i = true → (u.proc i).st = .quiescing) ∧
          (∀ i, s1.procReady i = false → u.proc i = s1.proc i) ∧ { u with fw := s1.fw, jnl := s1.jnl } = s1)) ∧
    (∀ tctx kref key sid, s.takesCmd s1 h 0x90 → h.path = .session sid → h.len = 8 → tctx.toNat < 64 →
      s1.sessionKey h.path kref = some key → s.sessionKey h.path kref = some key → (s1.ctx tctx.toNat).st = .opened →
      s1.liveOf tctx.toNat = 0 →
      ∃ u, exec (.sealCtx h tctx kref) s = .next (s1.answers u h 0x90 tctx.toNat 0 0) ∧ sget 0 u.mem.keys tctx.toNat = key ∧
        u.isSealed tctx.toNat = true ∧ (∀ k, k ≠ tctx.toNat → sget 0 u.mem.keys k = sget 0 s1.mem.keys k) ∧
        { u with mem := { u.mem with keys := s1.mem.keys, loaded := s1.mem.loaded } } = s1) ∧
    (∀ tctx, s.takesCmd s1 h 0x91 → h.path ≠ .ring → h.path ≠ .mailbox → h.len = 8 → tctx.toNat < 64 →
      (s1.ctx tctx.toNat).st = .opened → s1.liveOf tctx.toNat = 0 →
      ∃ u, exec (.unsealCtx h tctx) s = .next (s1.answers u h 0x91 tctx.toNat 0 0) ∧ s1.unsealsTo u tctx.toNat ∧
        u.fe = s1.fe ∧ u.hums = s1.hums) ∧
    (∀ x tctx fl first count, s.takesCmd s1 h 0x92 → h.path ≠ .ring → h.path ≠ .mailbox → h.len = 16 → x.toNat < 8 → tctx.toNat < 64 →
      fl.toNat < 4 → first.toNat + count.toNat ≤ framesPerSector →
      let lo := x.toNat * framesPerSector + first.toNat
      let hit (f : Nat) : Bool := decide (lo ≤ f) && decide (f < lo + count.toNat)
      ∃ u, exec (.frameOwn h x tctx fl first count) s = .next (s1.answers u h 0x92 tctx.toNat 0 count.toNat) ∧
        (∀ f, u.owner f = if hit f then ⟨tctx.setWidth 6, fl.getLsbD 0, fl.getLsbD 1⟩ else s1.owner f) ∧
        (∀ a, bget u.mem.hbm a =
          if hit (dpaFrame a) && (s1.owner (dpaFrame a)).isSealed && !fl.getLsbD 0 then 0 else bget s1.mem.hbm a) ∧
        { u with mem := s1.mem } = s1)

/-- R262, R284, R288, R302, R305 to R308, R312, R376, R461: rings and deadlines. A 0-to-1 change of EN starts a ring at entry 0 with
PHASE 1, where its size is legal, and clears no block. A slot or a reply whose DMA fails blocks the ring until FE_RING_RESUME, which
writes the reply again. The oldest record due of a context is written at its position, and a write that fails keeps it and blocks the
context. A launch whose deadline passes before PREPARE ends its attempt; one that has never been dispatched, or that a split has left
at its member, ends EXPIRED; while the FEP restarts the deadline is noted. -/
def Obligations.RingResult : Prop :=
  ∀ (s : State) (m : Master) (c : BitVec 6) (v : BitVec 64) (resp : DmaResp),
    let x := s.ctx c.toNat
    (s.privileged m → v.toNat < 2 ^ 15 → v.getLsbD 0 = true → (s.reg 0x40).getLsbD 0 = false → s.regionOpen 8 = true →
      (ringSize (s.regField 0x08 0 5) ≠ none → ringSize (s.regField 0x28 0 5) ≠ none →
        ∃ t, exec (.feRingEnable m v) s = .next t ∧ t.fe = { s.fe with head := 0, rplTail := 0, phase := true } ∧
          t.reg 0x10 = 0 ∧ t.reg 0x30 = 0 ∧ (t.reg 0x40).getLsbD 0 = true ∧ { t with fe := s.fe, regs := s.regs } = s) ∧
      ((ringSize (s.regField 0x08 0 5) = none ∨ ringSize (s.regField 0x28 0 5) = none) → s.fe.dbq = [] →
        ∃ t, exec (.feRingEnable m v) s = .next t ∧ t.fe = s.fe ∧ { t with regs := s.regs } = s)) ∧
    (s.feReady = true → s.ringEn = true → s.ringAvail ≠ 0 →
      ∃ t, exec (.ringDmaFailed false resp) s = .next t ∧ t.fe = { s.fe with rdblk := true } ∧
        t.err.eq1.eseq = s.err.eq1.eseq + 1 ∧ t.feReady = false ∧ t.mem = s.mem ∧ t.hums = s.hums) ∧
    (∀ r, s.hostOk = true → s.ringEn = true → s.fe.heldReply = some r → s.fe.rplTail ≠ 0 → s.fe.wrblk = false →
      ∃ t, exec (.ringDmaFailed true resp) s = .next t ∧ t.fe = { s.fe with rplTail := s.fe.rplTail - 1, wrblk := true } ∧
        t.err.eq1.eseq = s.err.eq1.eseq + 1 ∧ t.mem = s.mem ∧ t.hums = s.hums) ∧
    (s.fe.wrblk = true → exec (.ringDmaFailed true resp) s = .next s) ∧
    (s.privileged m →
      (s.fe.wrblk = false → exec (.ringResume m) s = .next { s with fe := { s.fe with rdblk := false, wrblk := false } }) ∧
      (∀ r, s.fe.wrblk = true → s.fe.heldReply = some r →
        exec (.ringResume m) s = .next (State.ringReply { s with fe := { s.fe with rdblk := false, wrblk := false } } r))) ∧
    (∀ l r, x.st ≠ .blocked → s.recordDue c.toNat = some (l, r) →
      let pos := l.pos.getD (x.tail, x.phase)
      let wrap := pos.1.toNat + 1 = (s.cplSize c.toNat).getD 128
      (∃ t, exec (.completionRecordWrite c) s = .next t ∧
        t.out = s.out ++ [.hostWrite (s.reg (0x2000 + 32 * c.toNat) + BitVec.ofNat 64 (32 * pos.1.toNat)) (recordBytes l r pos.2)] ∧
        (∀ y, y ∈ t.fe.launches ↔ y ∈ s.fe.launches ∧ y.id ≠ l.id) ∧
        t.ctx c.toNat = { x with tail := if wrap then 0 else pos.1 + 1, phase := if wrap then !pos.2 else pos.2 } ∧
        (∀ k, k ≠ c.toNat → t.ctx k = s.ctx k) ∧ { t with fe := s.fe, out := s.out, jnl := s.jnl } = s) ∧
      (∃ t, exec (.completionWriteFailed c resp) s = .next t ∧ (t.ctx c.toNat).st = .blocked ∧
        (t.ctx c.toNat).tail = x.tail ∧ t.err.eq1.eseq = s.err.eq1.eseq + 1 ∧
        t.fe.launches = (s.fe.launches.map fun y => if y.id == l.id then
          { y with pos := none, record := y.record.map fun r => { r with held := true } } else y) ∧
        t.mem = s.mem ∧ t.hums = s.hums)) ∧
    (s.privileged m → v.toNat < 2 ^ 17 → v.getLsbD 0 = true → (s.reg (0x2008 + 32 * c.toNat)).getLsbD 0 = false →
      s.regionOpen 8 = true → (∀ l ∈ s.fe.launches, l.pos = none) →
      let n := v.toNat / 2 % 32
      ∃ t, exec (.cplRingEnable m c v) s = .next t ∧ (t.reg (0x2008 + 32 * c.toNat)).getLsbD 0 = true ∧
        t.fe.launches = s.fe.launches ∧ { t with fe := s.fe, regs := s.regs, jnl := s.jnl } = s ∧
        (7 ≤ n ∧ n ≤ 16 → t.ctx c.toNat = { x with tail := 0, phase := true } ∧ t.reg (0x2010 + 32 * c.toNat) = 0) ∧
        (n < 7 ∨ 16 < n → t.fe = s.fe ∧ t.reg (0x2010 + 32 * c.toNat) = s.reg (0x2010 + 32 * c.toNat))) ∧
    (∀ id l, s.launchOf id = some l → l.live = true → s.procReady fepIx = false →
      exec (.deadlineExpiry id) s = .next (s.modLaunch l.id fun y => { y with late := true })) ∧
    (∀ id l, s.launchOf id = some l → l.live = true → s.procReady fepIx = true →
      (s.ep.launch ≠ some l.id → (s.ep.st = .sundered ∨ l.att = 1) →
        exec (.deadlineExpiry id) s = .next (s.endLaunch l.id stExpired false)) ∧
      (s.ep.launch = some l.id → s.ep.st = .sundered →
        exec (.deadlineExpiry id) s = .next (((s.endLaunch l.id stExpired false).gateHums l.id).leaveEpoch)) ∧
      (s.ep.launch = some l.id → (s.ep.st = .running ∨ s.ep.st = .prepared) → s.ep.sent = true →
        ∃ t, exec (.deadlineExpiry id) s = .next t ∧ t.ep = s.ep ∧ t.mem = s.mem ∧ t.hums = s.hums ∧
          t.fe.launches = s.fe.launches.map fun y => if y.id == l.id then { y with late := true } else y) ∧
      (s.ep.launch = some l.id → (s.ep.st = .running ∨ s.ep.st = .prepared) → s.ep.sent = false → s.decided = false →
        s.ep.failedAtt ≠ some s.ep.att →
        ∃ t, exec (.deadlineExpiry id) s = .next t ∧ t.ep.failedAtt = some s.ep.att ∧ t.mem.hbm = s.mem.hbm))

/-! ### Recovery and firmware -/

/-- R345, R348 to R355, R360, R361, R365, R366, R370, R382: where each hang, escalation, timeout and strobe enters the reset ladder and
with which code, and what the end of each level leaves. A unit hangs where it holds an unfinished handshake; which state holds one at a
sector's memory, its translation, a mesh crossing and the router is the model's reading (log 124). A level beyond chip reset, or the
halt of PCEN = 0, contains every other (R354, R358): then no level starts, and none that runs completes. -/
def Obligations.LadderResult : Prop :=
  ∀ s : State,
    (s.monitorsRun = true → s.board.coreOn = true → s.beyond = false →
      (∀ (g : Hum) (cls : BitVec 8), (s.hum g).counted = true → (s.hum g).holder ≠ none → s.ep.failedAtt ≠ some s.ep.att →
        s.err.ctxab = none → s.err.chip = none → (∃ i ∈ (s.hum g).unret, opClass i.op = cls.toNat ∧ i.phase ≠ .done) →
        ∃ t r, exec (.hangDeclared (.station g cls)) s = .next t ∧ t.err.ctxab = some (s.runCtx, r) ∧
          r.code = errCode 1 cls.toNat g 0x001 ∧ t.mem.hbm = s.mem.hbm) ∧
      (∀ g : Hum, (s.hum g).waiting = true → (s.hum g).holder ≠ none → s.ep.failedAtt ≠ some s.ep.att → s.err.ctxab = none → s.err.chip = none →
        ∃ t r, exec (.hangDeclared (.sequencer g)) s = .next t ∧ t.err.ctxab = some (s.runCtx, r) ∧
          r.code = errCode 1 0x01 g 0x001) ∧
      (s.attemptFailed = true → ∀ x : Sec, s.memBusy x = true →
        ∃ t, exec (.hangDeclared (.sectorMem x)) s = .next t ∧ { t with err := s.err } = s ∧
        t.err.sectors = s.err.sectors ∧ t.err.last = s.err.last ∧ t.err.eq0.eseq = s.err.eq0.eseq + 1) ∧
      (∀ x : Sec, s.attemptFailed = false → s.err.chip = none → s.sectorRun x = none →
        (s.memBusy x = true →
          ∃ t, exec (.hangDeclared (.sectorMem x)) s = .next t ∧ t.sectorResets s x (errCode 3 0x10 x 0x001)) ∧
        (s.walkBusy x = true →
          ∃ t, exec (.hangDeclared (.translation x)) s = .next t ∧ t.sectorResets s x (errCode 3 0x11 x 0x001))) ∧
      (∀ x : Sec, s.orbStuck x = true → s.ep.failedAtt ≠ some s.ep.att → s.err.ctxab = none → s.err.chip = none →
        ∃ t r, exec (.hangDeclared (.orbFull x)) s = .next t ∧ t.err.ctxab = some (s.runCtx, r) ∧
          r.code = errCode 1 0x10 x 0x002) ∧
      (∀ a b : Sec, meshLinked a b = true → s.meshBusy = true → s.attemptFailed = false → s.err.chip = none →
        s.sectorRun a = none → s.sectorRun b = none →
        ∃ t ra rb, exec (.hangDeclared (.meshCrossing a b)) s = .next t ∧ t.sectorRun a = some ra ∧ t.sectorRun b = some rb ∧
          ra.code = errCode 3 0x12 a 0x001 ∧ rb.code = errCode 3 0x12 a 0x001 ∧ t.mem.hbm = s.mem.hbm) ∧
      (∀ p : PortIx, s.hubBusy = true → s.attemptFailed = false → s.err.chip = none →
        ∃ t, exec (.hangDeclared (.hubRouter p)) s = .next t ∧ t.chipResets s (errCode 4 0x31 p 0x001) ∧
          t.err.chipNoHold = true) ∧
      (∀ x : Sec, (s.memBusy x = false → exec (.hangDeclared (.sectorMem x)) s = .next s) ∧
        (s.walkBusy x = false → exec (.hangDeclared (.translation x)) s = .next s) ∧
        (s.orbStuck x = false → exec (.hangDeclared (.orbFull x)) s = .next s)) ∧
      (∀ a b : Sec, meshLinked a b = false ∨ s.meshBusy = false → exec (.hangDeclared (.meshCrossing a b)) s = .next s) ∧
      (s.hubBusy = false → ∀ p : PortIx, exec (.hangDeclared (.hubRouter p)) s = .next s)) ∧
    (∀ r, s.err.chip = some r → s.err.pcreq = false → s.err.halted = false →
      ((s.reg 0x300008).getLsbD 0 = true → ∃ t, exec (.levelEscalation .chip) s = .next t ∧ t.err.pcreq = true ∧
        t.board = { s.board with pwrcycN := false } ∧ t.out = s.out ++ [.pin 4 false] ∧ t.mem.hbm = s.mem.hbm) ∧
      ((s.reg 0x300008).getLsbD 0 = false → ∃ t, exec (.levelEscalation .chip) s = .next t ∧ t.err.halted = true ∧
        t.err.pcreq = s.err.pcreq ∧ t.board = s.board ∧ t.out = s.out ∧ t.mem.hbm = s.mem.hbm)) ∧
    (∀ (x : Sec) r, s.sectorRun x = some r → s.err.chip = none → s.beyond = false →
      ∃ t, exec (.levelEscalation (.sector x)) s = .next t ∧ t.chipResets s (recode r.code 4 0x053)) ∧
    (∀ (g : Hum) r, s.engineRun g = some r → s.err.chip = none → s.sectorRun (secOf g) = none → s.beyond = false →
      ∃ t, exec (.levelEscalation (.engine g)) s = .next t ∧ t.sectorResets s (secOf g) (recode r.code 3 0x052)) ∧
    (∀ c r, s.err.ctxab = some (c, r) → s.noReset → s.beyond = false → ∀ id stuck, s.ep.launch = some id →
      ∃ t, exec (.levelEscalation (.context stuck)) s = .next t ∧ t.err.ctxab = none ∧ s.stuckReset t id stuck) ∧
    (∀ c r us id, s.err.ctxab = some (c, r) → s.ep.launch = some id →
      ∃ t, exec (.contextAbortComplete us) s = .next t ∧ t.err.ctxab = none ∧ t.mem.hbm = s.mem.hbm ∧
        (∀ g, (s.hum g).heldBy id = true → (t.hum g).power = .gated ∧ (t.hum g).holder = none) ∧
        (∀ k, (s.ctx k).st = .aborting → (t.ctx k).st = .opened)) ∧
    (s.noStalls → ∀ (g : Hum) r us, s.engineRun g = some r →
      ∃ t, exec (.engineResetComplete g us) s = .next t ∧ t.engineRun g = none ∧
        t.hum g = { Hummock.reset with
          power := .running, vset := s.commonSet, nextId := (s.hum g).nextId
          sealedLast := (s.hum g).lastSealed, ue := (s.hum g).ue } ∧
        (∀ k, k ≠ g.val → t.hum k = s.hum k) ∧ t.mem = s.mem) ∧
    (s.noStalls → ∀ (x : Sec) r us, s.sectorRun x = some r →
      ((s.board.xtal = false ∨ s.beyond = true ∨ (s.part x).bad = true) → exec (.sectorResetComplete x us) s = .next s) ∧
      (s.board.xtal = true → s.beyond = false → (s.part x).bad = false →
        ∃ t, exec (.sectorResetComplete x us) s = .next t ∧ t.sectorRun x = none ∧
          ((s.proc x).st = .starting → (t.proc x).st = .ready) ∧
          (∀ g, secOf g = x.val → (s.hum g).power = .inReset → (t.hum g).power = .gated) ∧
          (∀ k, k < 3 → (s.stack (3 * x.val + k)).st ≠ .failed → (t.stack (3 * x.val + k)).st = .ready) ∧
          t.mem.hbm = s.mem.hbm)) ∧
    (s.noStalls → ∀ r us, s.err.chip = some r → s.fe.launches = [] → s.fe.dbq = [] → s.ep.waitMsgs = [] →
      ((s.board.xtal = false ∨ s.err.pcreq = true ∨ s.err.halted = true ∨ s.canRebuild = false) →
        exec (.chipResetComplete us) s = .next s) ∧
      (s.board.xtal = true → s.err.pcreq = false → s.err.halted = false → s.canRebuild = true →
        ∃ t, exec (.chipResetComplete us) s = .next t ∧ t.err.chip = none ∧
        (∀ i, i < 11 → (s.proc i).st = .starting → (t.proc i).st = .ready) ∧
        (∀ g, g < 96 → (s.hum g).power = .inReset → (t.hum g).power = .gated) ∧
        (s.fe.graphs = [] → t.cip.modeActive = (s.reg 0x100028).getLsbD 0) ∧ t.mem.hbm = s.mem.hbm)) ∧
    (s.ep.failedAtt = some s.ep.att → s.ep.contained = false → s.err.ctxab = none → s.noReset → s.beyond = false →
      ∀ id stuck, s.ep.launch = some id → ∃ t, exec (.containmentTimeout stuck) s = .next t ∧ s.stuckReset t id stuck) ∧
    (∀ (u : BridgeUnit) rd, (∀ a ∈ s.link.regStalls, a.m ≠ .host ∨ a.unit ≠ u) →
      ∃ t, exec (.bridgeTimeout ⟨.host, rd⟩ u) s = .next t ∧ { t with err := s.err, out := s.out } = s ∧
        t.out = s.out ++ (if rd then [.completion (leBytes 8 0) false] else []) ∧
        t.err.eq0.eseq = s.err.eq0.eseq + 1 ∧ t.err.sectors = s.err.sectors ∧ t.err.engines = s.err.engines ∧
        t.err.chip = s.err.chip) ∧
    (∀ (u : BridgeUnit) rd a, (s.link.regStalls.find? fun a => a.m == .host && a.unit == u) = some a →
      ∃ t, exec (.bridgeTimeout ⟨.host, rd⟩ u) s = .next t ∧ t.link.regStalls = s.link.regStalls.erase a ∧
        (a.op = .read → a.half = none → t.out = s.out ++ [.completion (leBytes 8 0) false]) ∧
        (∀ v, a.op = .write v → t.out = s.out) ∧ t.hums = s.hums ∧ t.mem = s.mem ∧ t.regs = s.regs) ∧
    (∀ (m : Master) rd, (m = .fw ∨ m = .mgp) → s.err.chip = none → s.beyond = false →
      (∃ t, exec (.bridgeTimeout ⟨m, rd⟩ .hub) s = .next t ∧ t.chipResets s (errCode 4 0x31 0 0x020)) ∧
      (∀ x : Sec, s.sectorRun x = none →
        ∃ t, exec (.bridgeTimeout ⟨m, rd⟩ (.sector x)) s = .next t ∧ t.sectorResets s x (errCode 3 0x10 x 0x020)) ∧
      (∀ g : Hum, s.sectorRun (secOf g) = none → s.engineRun g = none →
        ∃ t r, exec (.bridgeTimeout ⟨m, rd⟩ (.hummock g)) s = .next t ∧ t.engineRun g = some r ∧
          r.code = errCode 2 0x01 g 0x020 ∧ (t.hum g).power = .inReset ∧ t.mem.hbm = s.mem.hbm)) ∧
    (∀ m, s.privileged m →
      (s.err.chip = none → s.beyond = false →
        ∃ t, exec (.errResetChip m) s = .next t ∧ t.chipResets s (errCode 4 0x40 0 0x062)) ∧
      (s.beyond = true ∨ s.err.chip ≠ none → exec (.errResetChip m) s = .next s) ∧
      (s.beyond = true → exec (.errResetPwrcyc m) s = .next s) ∧
      ((s.reg 0x300008).getLsbD 0 = true → s.beyond = false → ∃ t, exec (.errResetPwrcyc m) s = .next t ∧ t.err.pcreq = true ∧
        t.board.pwrcycN = false ∧ t.out = s.out ++ [.pin 4 false] ∧ t.mem.hbm = s.mem.hbm) ∧
      ((s.reg 0x300008).getLsbD 0 = false → s.err.chip = none → s.beyond = false → ∃ t, exec (.errResetPwrcyc m) s = .next t ∧ t.err.halted = true ∧
        t.board = s.board ∧ t.chipResets s (errCode 5 0x40 0 0x062)))

/-- R359, R371, R374, R375, R380 to R382, R385 to R389, R391 to R395, R398: a processor whose watchdog fires restarts at its component's
entry address with its latches written and a dump assembled, from a reloaded instruction SRAM where the check of its code fails, and
enters the ladder at its third firing within a second. The MGP, which does not, is booted from the other slot where the active one fails
verification. One that reports ready has rebuilt its state from its partition, whose records are cut off at the first bad one; one whose
partition cannot be read does not. A handoff quiesces, writes a record for each processor, loads the new components, and reverts where
they do not verify or a step misses its bound. A log entry takes the next number and its place in the ring; it waits for the flash while
the MGP does not run; the mirror starts where the log stands, and an entry that does not reach the host counts as dropped. -/
def Obligations.FirmwareResult : Prop :=
  ∀ (s : State) (i : Proc),
    (∀ pc tcause ok, procRuns (s.proc i).st = true →
      let n := ((s.proc i).fires.filter fun t => s.fw.ms < t + 1000).length
      let a := if i.val = mgpIx ∧ s.digestOk s.fw.actSlot = false ∧ s.digestOk (!s.fw.actSlot) = true then !s.fw.actSlot else s.fw.actSlot
      let intact := ok = true ∧ (s.coreOf i).codeOk = true ∧ i.val ≠ mgpIx
      (n < 2 ∨ i.val = mgpIx → s.fw.handoff = none →
        ∃ t, exec (.watchdogFire i pc tcause ok) s = .next t ∧ (t.proc i).st = .starting ∧
          (t.proc i).restarts = satInc (s.proc i).restarts ∧ (sget Latch.reset t.err.latches i).pc = pc ∧
          (sget Latch.reset t.err.latches i).tcause = tcause ∧ t.err.dumps = satInc s.err.dumps ∧
          (∀ k, k ≠ i.val → t.proc k = s.proc k) ∧ (i.val = mgpIx → t.mss.sessions = []) ∧
          (i.val ≠ mgpIx → t.mss = s.mss) ∧ t.hums = s.hums ∧ t.mem = s.mem ∧ t.ep = s.ep ∧ t.fe = s.fe ∧
          t.fw.actSlot = a ∧ (t.coreOf i).pc = BitVec.ofNat 64 (s.fw.component a i).2.2 ∧ (t.coreOf i).x = [] ∧
          (intact → (t.coreOf i).isram = (s.coreOf i).isram) ∧
          (¬ intact → (s.fw.component a i).1 + (s.fw.component a i).2.1 ≤ 96 * 2 ^ 20 →
            (t.coreOf i).isram = ((s.loadCore a i).coreOf i).isram) ∧
          (t.coreOf i).dsram = (s.coreOf i).dsram) ∧
      (2 ≤ n → s.fw.handoff = none → i.val < 8 → s.err.chip = none → s.beyond = false → s.sectorRun i = none →
        ∃ t, exec (.watchdogFire i pc tcause ok) s = .next t ∧ t.sectorResets s i (errCode 3 0x20 i 0x030))) ∧
    ((s.rebuild i).part i = { (s.part i) with recs := (s.part i).valid }) ∧
    (∀ (j : FcpBody), i.val = fcpIx → (s.part i).intact = false →
      Partition.last { (s.part i) with recs := (s.part i).valid } = some j.body →
      (s.rebuild i).ep = { s.ep with
        c := j.c, genOpen := j.genOpen, genLast := j.genLast, decision := j.decision, lastCommit := j.lastCommit
        mepoch := j.mepoch, members := j.members, rank := j.rank, st := j.st, att := j.att } ∧
      (s.rebuild i).cwy = { s.cwy with nextXid := j.nextXid }) ∧
    (∀ us, ((s.proc i).st = .starting ∨ (s.proc i).st = .rebuilding) → s.fw.handoff = none →
      ((s.part i).bad = true → exec (.fwReady i us) s = .next s) ∧
      ((s.part i).bad = false → (i.val < 8 ∨ i.val = mgpIx) → s.mss.waiting = [] →
        let u := s.rebuild i
        u.fw.handoff = none →
        ∃ t, exec (.fwReady i us) s = .next t ∧ (t.proc i).st = .ready ∧ (∀ k, k ≠ i.val → t.proc k = s.proc k) ∧
          t.err.eq0.eseq = u.err.eq0.eseq + 1 ∧ { t with fw := u.fw, err := u.err, jnl := u.jnl } = u)) ∧
    ((s.proc i).st = .starting → i.val < 8 → s.err.chip = none → s.beyond = false → s.sectorRun i = none →
      ∃ t, exec (.fwRecoveryTimeout i) s = .next t ∧ t.sectorResets s i (errCode 3 0x20 i 0x030)) ∧
    (∀ b, s.fw.handoff = some (1, b) →
      (s.allQuiet = false → exec .activationStart s = .next s) ∧
      (s.allQuiet = true → s.digestOk b = false → ∃ t, exec .activationStart s = .next t ∧ t.fw.reverting = true ∧
        (∀ k, k < 11 → (t.proc k).st = .starting ∧ (t.coreOf k).isram = ((s.loadCore s.fw.actSlot k).coreOf k).isram) ∧
        { t with fw := s.fw } = s) ∧
      (s.allQuiet = true → s.digestOk b = true → ∃ t, exec .activationStart s = .next t ∧ t.fw.handoff = some (3, b) ∧
        (∀ k, k < 11 → (t.proc k).st = .handingOff ∧ (t.coreOf k).isram = ((s.loadCore b k).coreOf k).isram ∧
          ∃ r, t.handOf k = some r ∧ r.hover = s.fw.active.hover ∧ r.idx.toNat = k ∧ r.damage = 0 ∧ r.slot = 0xFF ∧
            r.body.length ≤ 131072 ∧ r.jseq = (s.part k).nextSeq - 1) ∧
        { t with fw := s.fw, jnl := s.jnl, freeCtr := s.freeCtr } = s)) ∧
    (∀ b, s.fw.handoff = none → s.fw.pend = some b → s.actHeld b = false → s.mgpUp = true →
      ∃ t, exec .activationStart s = .next t ∧ t.fw.handoff = some (1, b) ∧ t.fw.pend = none ∧
        (∀ k, k < 11 → s.procReady k = true → (t.proc k).st = .quiescing) ∧ (∀ k, s.procReady k = false → t.proc k = s.proc k) ∧
        { t with fw := s.fw, jnl := s.jnl } = s) ∧
    (∀ k b, s.fw.handoff = some (k, b) →
      (s.fw.reverting = false → ∃ t, exec .handoffTimeout s = .next t ∧ t.fw.reverting = true ∧ t.fw.handoff = some (k, b) ∧
        (∀ j, j < 11 → (t.proc j).st = .starting) ∧ { t with fw := s.fw } = s) ∧
      (s.fw.reverting = true → s.err.chip = none → s.beyond = false →
        ∃ t, exec .handoffTimeout s = .next t ∧ t.chipResets s (errCode 4 0x24 11 0x030))) ∧
    (∀ idx sev tp code lcnt (x : LogIn), s.board.standby = true → s.traced sev tp = true → x.args.length = 5 →
      let e : LogEnt := ⟨s.fw.logSeq, idx, sev, tp, code, lcnt, x.args⟩
      ((s.reg 0x508210).getLsbD 0 = false →
        ∃ t, exec (.logEntry idx sev tp code lcnt x) s = .next t ∧ t.fw.logSeq = s.fw.logSeq + 1 ∧
          sget LogEnt.empty t.fw.log (s.fw.logSeq.toNat % logSize) = e ∧
          (∀ k, k ≠ s.fw.logSeq.toNat % logSize → sget LogEnt.empty t.fw.log k = sget LogEnt.empty s.fw.log k) ∧
          (sev.toNat < 2 → t.fw.flash = s.fw.flash ∧ t.jnl = s.jnl) ∧
          (2 ≤ sev.toNat → s.procReady mgpIx = false → t.fw.flash = s.fw.flash ∧ t.fw.unsaved = s.fw.unsaved ++ [[entBytes e]]) ∧
          { t with fw := s.fw, jnl := s.jnl } = s) ∧
      (∀ n, (s.reg 0x508210).getLsbD 0 = true → s.mirrorSize = some n → sev.toNat < 2 →
        let full := (s.fw.htail.toNat + 1) % n = s.regField 0x508218 0 20 % n
        (s.link.up = true → x.taken = true → ¬ full →
          ∃ t, exec (.logEntry idx sev tp code lcnt x) s = .next t ∧ t.fw.drop = s.fw.drop ∧
            t.out = s.out ++ [.hostWrite (s.reg 0x508208 + BitVec.ofNat 64 (64 * (s.fw.logSeq.toNat % n))) (entBytes e)] ∧
            t.fw.htail = BitVec.ofNat 20 ((s.fw.logSeq.toNat + 1) % n)) ∧
        (s.link.up = false ∨ x.taken = false ∨ full →
          ∃ t, exec (.logEntry idx sev tp code lcnt x) s = .next t ∧ t.out = s.out ∧ t.fw.drop = satInc s.fw.drop ∧
            t.fw.htail = s.fw.htail))) ∧
    (∀ m v, s.privileged m → v.toNat < 2 ^ 17 → v.getLsbD 0 = true → (s.reg 0x508210).getLsbD 0 = false →
      let n := 2 ^ (v.toNat / 2 % 32)
      10 ≤ v.toNat / 2 % 32 → v.toNat / 2 % 32 ≤ 20 →
      ∃ t, exec (.logMirrorEnable m v) s = .next t ∧ (t.reg 0x508210).toNat % 2 ^ 17 = v.toNat ∧
        t.reg 0x508218 = BitVec.ofNat 64 (s.fw.logSeq.toNat % n) ∧ t.fw.htail.toNat = s.fw.logSeq.toNat % n ∧
        t.fw.flash = s.fw.flash ∧ { t with fw := s.fw, regs := s.regs } = s)

/-! ### Management -/

/-- R385, R386, R387, R405, R406, R504: PLDM requests on an MCTP binding (codes: log 40). RequestUpdate starts an update unless one runs,
an activation is pending or in progress, or it comes over PCIe before the release; the table and the component are passed; each unit of
the image goes into the slot that is not active, which reads VERIFIED = 0 from the first write; the whole image is verified under R385
and its slot recorded; ActivateFirmware starts a handoff to the slot, or leaves it pending where R387 holds it; the two cancellations end
the download and the update. -/
def Obligations.UpdateResult : Prop :=
  ∀ (s : State) (b : Binding),
    (s.onBinding b →
      (∃ f, exec (.queryDeviceIdentifiers b) s = .next (s.repliedFree b (0x01 :: 0x00 :: f))) ∧
      (∃ f, exec (.getFirmwareParameters b) s = .next (s.repliedFree b (0x02 :: 0x00 :: f))) ∧
      (∃ f, exec (.getStatus b) s = .next (s.repliedFree b (0x1B :: 0x00 :: updCode s.mss.upd :: f))) ∧
      (s.fw.pend = none → s.fw.handoff = none → s.mss.upd = .idle → s.hostEarly b = false →
        exec (.requestUpdate b) s =
          .next ({ s with mss := { s.mss with upd := .learn, updOn := b } }.replied b [0x10, 0x00])) ∧
      ((s.fw.pend ≠ none ∨ s.fw.handoff ≠ none ∨ s.mss.upd ≠ .idle ∨ s.hostEarly b = true) →
        exec (.requestUpdate b) s = .next (s.replied b [0x10, 0x8A])) ∧
      (∀ comp, s.mss.upd = .learn →
        exec (.passComponentTable b comp) s =
          .next ({ s with mss := { s.mss with upd := .ready } }.replied b [0x13, 0x00, if comp = 0x0001 then 0 else 1])) ∧
      (∀ size, s.mss.upd = .ready → 0 < size.toNat → size.toNat ≤ 96 * 2 ^ 20 →
        exec (.updateComponent b 0x0001 size) s =
          .next (({ s with mss := { s.mss with upd := .download, updOff := 0, updSize := size } }.replied b [0x14, 0x00, 0]).replied b
            (0x15 :: (leBytes 4 0 ++ leBytes 4 (Nat.min 4096 size.toNat))))) ∧
      (∀ data, s.mss.upd = .download → s.mss.updSize.toNat ≤ 96 * 2 ^ 20 → s.mss.updOff.toNat < s.mss.updSize.toNat →
        data.length = Nat.min 4096 (s.mss.updSize.toNat - s.mss.updOff.toNat) →
        let x := !s.fw.actSlot
        let at_ := slotBase x + s.mss.updOff.toNat
        let off := s.mss.updOff.toNat + data.length
        let whole := off = s.mss.updSize.toNat
        ∃ u : State, exec (.requestFirmwareData b s.mss.updOff data) s = .next (u.replied b (if whole then [0x16, 0] else
            0x15 :: (leBytes 4 off ++ leBytes 4 (Nat.min 4096 (s.mss.updSize.toNat - off))))) ∧
          u.mss.updOff.toNat = off ∧ (u.fw.slot x).verified = false ∧
          u.fw.slot s.fw.actSlot = s.fw.slot s.fw.actSlot ∧ u.fw.actSlot = s.fw.actSlot ∧
          (∀ k y, data[k]? = some y → sget 0xFF u.fw.flash (at_ + k) = y) ∧
          (∀ a, a < at_ ∨ at_ + data.length ≤ a → s.mss.updOff ≠ 0 ∨ a < slotBase x ∨ slotBase x + 96 * 2 ^ 20 ≤ a →
            sget 0xFF u.fw.flash a = sget 0xFF s.fw.flash a) ∧
          (u.mss.upd = if whole then .verify else .download) ∧ { u with fw := s.fw, mss := s.mss } = s) ∧
      (s.mss.upd = .apply → s.slotFit (!s.fw.actSlot) = true → s.hostEarly b = false →
        (s.actHeld (!s.fw.actSlot) = false →
          ∃ u : State, exec (.activateFirmware b) s = .next (u.replied b [0x1A, 0x00, 1, 0]) ∧ u.mss.upd = .idle ∧
            u.fw.handoff = some (1, !s.fw.actSlot) ∧ u.fw.pend = none ∧
            (∀ i, i < 11 → s.procReady i = true → (u.proc i).st = .quiescing) ∧
            { u with fw := s.fw, mss := s.mss, jnl := s.jnl } = s) ∧
        (s.actHeld (!s.fw.actSlot) = true →
          ∃ u : State, exec (.activateFirmware b) s = .next (u.replied b [0x1A, 0x00, 1, 0]) ∧ u.mss.upd = .idle ∧
            u.fw.pend = some (!s.fw.actSlot) ∧ u.fw.handoff = s.fw.handoff ∧ u.fw.actSlot = s.fw.actSlot ∧
            u.err.eq0.eseq = s.err.eq0.eseq + 1 ∧ u.mem = s.mem ∧ u.hums = s.hums)) ∧
      ((s.mss.upd = .download ∨ s.mss.upd = .verify ∨ s.mss.upd = .apply) →
        exec (.cancelUpdateComponent b) s = .next ({ s with mss := { s.mss with upd := .ready } }.replied b [0x1C, 0x00])) ∧
      (s.mss.upd ≠ .idle →
        exec (.cancelUpdate b) s = .next ({ s with mss := { s.mss with upd := .idle } }.replied b [0x1D, 0x00])) ∧
      (s.mss.upd = .idle → exec (.cancelUpdate b) s = .next (s.replied b [0x1D, 0x80]))) ∧
    (s.mss.upd = .verify → s.procReady mgpIx = true →
      let x := !s.fw.actSlot
      let o := s.mss.updOn
      (s.fw.imageOk x →
        ∃ u : State, (s.carries o → exec (.verifyComplete true) s = .next ((u.replied o [0x17, 0]).replied o [0x18, 0])) ∧
          (o = .pcie → s.link.up = false → exec (.verifyComplete true) s = .next u) ∧
          u.mss.upd = .apply ∧ (u.fw.slot x).verified = true ∧
          (u.fw.slot x).svn.toNat = field (flashRead s.fw.flash (slotBase x) 0x140) 0x10 4 ∧
          u.fw.slot s.fw.actSlot = s.fw.slot s.fw.actSlot ∧ u.fw.flash = s.fw.flash ∧ u.fw.actSlot = s.fw.actSlot ∧
          { u with fw := s.fw, mss := s.mss } = s) ∧
      (∀ ok, ok = false ∨ ¬ s.fw.imageOk x → s.carries o →
        ∃ u : State, exec (.verifyComplete ok) s = .next (u.replied o [0x17, 1]) ∧ u.mss.upd = .ready ∧
          (u.fw.slot x).verified = false ∧ u.fw.slot s.fw.actSlot = s.fw.slot s.fw.actSlot ∧ u.fw.flash = s.fw.flash ∧
          { u with fw := s.fw, mss := s.mss } = s))

/-- R375, R407, R409, R410, R413, R480, R485 to R487 (codes: log 40): what the attestation and MCTP control requests answer. A report
carries the caller's nonce and what R413 places in it, signed by the device's key; while a handoff, or a command decided before it, is
still under way it waits. A request that finds the MGP restarting waits too (R375), on DOE until it is aborted. SET_ENDPOINT_ID gives its
binding its endpoint ID; a relay leaves as a MGMT packet. The I3C address is assigned where none is. -/
def Obligations.AttestationResult : Prop :=
  (∃ u : List Byte, u.length = 16 ∧ ∀ (s : State) (b : Binding), s.onBinding b →
    exec (.getEndpointUuid b) s = .next (s.replied b (0x03 :: 0 :: u))) ∧
  ∀ (s : State) (b : Binding),
    (s.onPath b →
      exec (.getVersion b) s = .next (s.replied b [0x10, 0x04, 0, 0, 0, 2, 0x00, 0x12, 0x00, 0x13]) ∧
      (∃ f, exec (.getCapabilities b) s = .next (s.repliedFree b (0x61 :: f))) ∧
      (∃ f : List Byte, f.length = 36 ∧ (f.drop 10).take 4 = [0, 0, 0, 0] ∧
        exec (.negotiateAlgorithms b) s = .next (s.repliedFree b (0x63 :: f))) ∧
      exec (.getDigests b) s = .next (s.replied b [0x7F, 0x07, 0x81]) ∧
      exec (.getCertificate b) s = .next (s.replied b [0x7F, 0x07, 0x82]) ∧
      exec (.challenge b) s = .next (s.replied b [0x7F, 0x07, 0x83]) ∧
      exec (.getMeasurements b) s = .next (s.replied b [0x7F, 0x07, 0xE0]) ∧
      (∀ nonce, s.fw.handoff = none → s.mss.bist = [] → s.fe.wait = none →
        ∃ r sg, exec (.getReport b nonce) s = .next (s.replied b (vendorMsg (0x90 :: (r ++ sg)))) ∧ r.length = 256 ∧
          sg.length = 49856 ∧ sg = slice (Config.dikSign s.mss.dik r) 0 49856 ∧ (r.drop 8).take 32 = leBytes 32 nonce.toNat ∧
          (r.drop 72).take 4 = leBytes 4 s.fw.active.svn.toNat ∧ (r.drop 152).take 8 = leBytes 8 s.ep.mepoch.toNat ∧
          (r.drop 160).take 8 = leBytes 8 s.ep.c.toNat ∧ (r.drop 168).take 8 = leBytes 8 s.mem.loaded.toNat) ∧
      (∀ nonce, s.fw.handoff ≠ none ∨ s.mss.bist ≠ [] ∨ s.fe.wait ≠ none →
        exec (.getReport b nonce) s = .next { s with mss := { s.mss with waiting := s.mss.waiting ++ [(b, .report nonce)] } }) ∧
      ∀ o n, exec (.getChain b o n) s =
        .next (s.replied b (vendorMsg (0x91 :: (Config.certChain.drop o.toNat).take n.toNat)))) ∧
    (s.bindingUp .doe = true → s.procReady mgpIx = false → s.mss.waiting = [] →
      exec (.getVersion .doe) s = .next { s with mss := { s.mss with waiting := [(.doe, .version)] } }) ∧
    (s.onBinding b →
      (∀ eid, eid ≠ 0 → eid ≠ 0xFF →
        ∃ u : State, exec (.setEndpointId b eid) s = .next (u.replied b [0x01, 0, 0, eid, 0]) ∧ u.eidOf b = eid ∧
          (∀ k, bindingIx k ≠ bindingIx b → u.eidOf k = s.eidOf k) ∧
          { u with mss := { u.mss with eids := s.mss.eids } } = s) ∧
      (∀ eid, eid = 0 ∨ eid = 0xFF → exec (.setEndpointId b eid) s = .next (s.replied b [0x01, 0x02])) ∧
      exec (.getEndpointId b) s = .next (s.replied b [0x02, 0, s.eidOf b, 0, 0]) ∧
      (∀ ty, ty = 0xFF ∨ ty = 0 →
        exec (.getMctpVersionSupport b ty) s = .next (s.replied b [0x04, 0, 1, 0xF1, 0xF3, 0xFF, 0x00])) ∧
      (∀ ty, ty = 0x01 ∨ ty = 0x05 ∨ ty = 0x7F →
        ∃ f, exec (.getMctpVersionSupport b ty) s = .next (s.repliedFree b (0x04 :: 0 :: f))) ∧
      (∀ ty, ty ≠ 0xFF → ty ≠ 0 → ty ≠ 0x01 → ty ≠ 0x05 → ty ≠ 0x7F →
        exec (.getMctpVersionSupport b ty) s = .next (s.replied b [0x04, 0x80])) ∧
      exec (.getMessageTypeSupport b) s = .next (s.replied b [0x05, 0, 4, 0x00, 0x01, 0x05, 0x7F]) ∧
      (∃ f : List Byte, f.length = 2 ∧
        exec (.getVendorDefinedMessageSupport b 0) s = .next (s.repliedFree b ([0x06, 0, 0xFF, 1, 0x00, 0x01, 0xB7, 0xA4] ++ f))) ∧
      (∀ eid (dst : BitVec 16) payload, let d : BitVec 15 := dst.setWidth 15
        (d ≠ s.ownId → (s.routeOf d).getLsbD 8 = true →
          ∃ p, exec (.mctpRelay b eid dst payload) s =
            .next { s with
              cwy := { s.cwy with inject := s.cwy.inject ++ [p] }, mss := { s.mss with relays := s.mss.relays ++ [⟨b, eid, d⟩] } } ∧
            p.type = 0x18 ∧ p.vc = 3 ∧ p.dst = d ∧ p.src = s.ownId ∧ p.payload = payload) ∧
        (d = s.ownId ∨ (s.routeOf d).getLsbD 8 = false → exec (.mctpRelay b eid dst payload) s = .next s))) ∧
    (b ≠ .doe → s.bindingUp b = true → s.procReady mgpIx = false →
      let queued (i : Instr) := { s with mss := { s.mss with waiting := s.mss.waiting ++ [(b, .cmd i)] } }
      (∀ i ∈ [Instr.queryDeviceIdentifiers b, .getFirmwareParameters b, .requestUpdate b, .activateFirmware b, .getStatus b,
        .cancelUpdateComponent b, .cancelUpdate b, .getEndpointId b, .getEndpointUuid b, .getMessageTypeSupport b],
        exec i s = .next (queued i)) ∧
      (∀ m packet, exec (.cmd b m packet) s = .next (queued (.cmd b m packet)))) ∧
    (s.onPath .doe →
      exec (.doeDiscovery 0) s = .next (s.replied .doe [0x01, 0x00, 0x00, 0x01]) ∧
      exec (.doeDiscovery 1) s = .next (s.replied .doe [0x01, 0x00, 0x01, 0x00]) ∧
      ∀ k, k ≠ 0 → k ≠ 1 → exec (.doeDiscovery k) s = .next (s.replied .doe [0xFF, 0xFF, 0x00, 0x00])) ∧
    (s.link.up = true →
      ∃ t, exec .doeAbort s = .next t ∧ (∀ w, w ∈ t.mss.waiting ↔ w ∈ s.mss.waiting ∧ (w.1 ≠ .doe ∨ w.2 = .mailbox)) ∧
        { t with mss := { t.mss with waiting := s.mss.waiting } } = s) ∧
    (∀ addr, s.board.standby = true →
      (s.mss.i3c = none → exec (.entdaa addr) s = .next { s with mss := { s.mss with i3c := some addr } } ∧
        exec (.setdasa addr) s = .next { s with mss := { s.mss with i3c := some addr } }) ∧
      (s.mss.i3c ≠ none → exec (.entdaa addr) s = .next s ∧ exec (.setdasa addr) s = .next s))

/-- R409 to R412, R415 to R419, R479: sessions and what they carry, on an MCTP binding. SESS_OPEN opens none of more than four;
SESS_KEY derives the session's keys, authenticated where its signature verifies against the fabric manager key, and ends the session
where it does not; a message of an open session whose tag does not check is discarded (a choice of the model, log 140); one that lacks
what it needs is answered with zero data and counted; what an open session answers goes out as a record under its response key (its
layout is a choice of the model, log 140). Keys go where their target says, and the counters of a port's key restart with a new key
only; the fabric manager key is set, replaced and cleared; EGRESS and INGRESS wait their turn, and are refused, or end with nothing
moved, where R416 or R417 does not hold; CMD runs the management packet that it carries, with the effect of that packet's row, and
answers any other opcode BAD_OPCODE. -/
def Obligations.SessionResult : Prop :=
  ∀ (s : State) (b : Binding) (m : SessIn),
    let sid := m.id
    (s.onBinding b →
      (∀ nonce, s.mss.sessions.length < 4 →
        ∃ u r x, exec (.sessOpen b nonce) s = .next (State.replied u b (vendorMsg r)) ∧ u.mss.sessions = s.mss.sessions ++ [x] ∧
          x.id = s.mss.nextSess ∧ x.binding = b ∧ x.opened = false ∧ x.auth = false ∧ u.mss.nextSess = s.mss.nextSess + 1 ∧
          r.take 1 = [0x81] ∧ x.th = 0x01 :: (leBytes 32 nonce.toNat ++ r) ∧
          (∃ m2, m2.length = 1601 ∧ r = m2 ++ slice (Config.dikSign s.mss.dik (0x01 :: (leBytes 32 nonce.toNat ++ m2))) 0 49856) ∧
          { u with mss := s.mss, freeCtr := s.freeCtr } = s) ∧
      (∀ nonce, 4 ≤ s.mss.sessions.length → exec (.sessOpen b nonce) s = .next (s.replied b [0x7F, 0x03, 0])) ∧
      (∀ ct x, s.sessionOf sid = some x → x.binding = b → x.opened = false →
        (∃ u y, exec (.sessKey b sid ct none) s = .next (State.replied u b (vendorMsg [0x82])) ∧ s.sessionBecomes u sid y ∧
          y.opened = true ∧ y.auth = false ∧ y.secret.length = 88 ∧ y.keys = x.keys ∧ { u with mss := s.mss } = s) ∧
        (∀ sg k, s.mss.fmkey = some k → Config.slhVerify k (x.th ++ 0x02 :: ct) sg = true →
          ∃ u y, exec (.sessKey b sid ct (some sg)) s = .next (State.replied u b (vendorMsg [0x82])) ∧ s.sessionBecomes u sid y ∧
            y.opened = true ∧ y.auth = true ∧ { u with mss := s.mss } = s) ∧
        (∀ sg, (∀ k, s.mss.fmkey = some k → Config.slhVerify k (x.th ++ 0x02 :: ct) sg = false) →
          ∃ u : State, exec (.sessKey b sid ct (some sg)) s = .next (u.replied b [0x7F, 0x01, 0]) ∧ u.sessionOf sid = none ∧
            (∀ k, k ≠ sid → u.sessionOf k = s.sessionOf k) ∧ u.err.eq0.eseq = s.err.eq0.eseq + 1 ∧ u.mem = s.mem)) ∧
      (s.genuine b m = false →
        exec (.sessClose b m) s = .next s ∧ (∀ tgt key, exec (.keyPut b m tgt key) s = .next s) ∧
        (∀ key sig, exec (.fmkeySet b m key sig) s = .next s) ∧ exec (.fmkeyClear b m) s = .next s ∧
        (∀ packet, exec (.cmd b m packet) s = .next s) ∧
        (∀ ctx sec first count addr, exec (.egress b m ctx sec first count addr) s = .next s ∧
          exec (.ingress b m ctx sec first count addr) s = .next s)) ∧
      (∀ bs,
        (s.openOn b sid = false →
          s.refusedMsg b sid bs = { s with mss := { s.mss with viol := satInc s.mss.viol } }.replied b (vendorMsg bs)) ∧
        (∀ x, s.sessionOn b sid = some x → x.opened = true →
          ∃ u : State, s.refusedMsg b sid bs = u.replied b (x.record (vendorMsg bs)) ∧ u.mss.viol = satInc s.mss.viol ∧
            s.sessionBecomes u sid x.spoken ∧ { u with mss := s.mss } = s)) ∧
      (∃ t, exec (.sessionTimeout sid) s = .next t ∧ t.sessionOf sid = none ∧ (∀ k, k ≠ sid → t.sessionOf k = s.sessionOf k) ∧
        { t with mss := { t.mss with sessions := s.mss.sessions } } = s)) ∧
    (s.heardAs b m → s.openOn b sid = false → exec (.sessClose b m) s = .next (s.refusedMsg b sid [0x83])) ∧
    (s.heardAs b m → ∀ x, s.sessionOn b sid = some x → x.opened = true →
      let told (u : State) (bs : List Byte) : State := u.replied b (x.record (vendorMsg bs))
      (∃ u, exec (.sessClose b m) s = .next (told u [0x83]) ∧ u.sessionOf sid = none ∧
        (∀ k, k ≠ sid → u.sessionOf k = s.sessionOf k) ∧ { u with mss := s.mss } = s) ∧
      (x.auth = true →
        (∀ kref key, ∃ u y, exec (.keyPut b m (.xts kref) key) s = .next (told u [0xA0]) ∧ s.sessionBecomes u sid y ∧
          (y.keys.find? fun k => k.1 == kref) = some (kref, key) ∧ { y with keys := x.keys } = x.spoken ∧
          { u with mss := s.mss } = s) ∧
        (∀ (st : BitVec 2) tx set key, st.toNat < 3 →
          ∃ u, exec (.keyPut b m (.ide st tx set) key) s = .next (told u [0xA0]) ∧
            sget none (u.ideOf st.toNat).keys ((if tx then 2 else 0) + (if set then 1 else 0)) = some key ∧
            ((u.ideOf st.toNat).secure = true ↔ (u.ideOf st.toNat).keyed = true ∧ (s.ideOf st.toNat).enabled = true) ∧
            (∀ k, k ≠ st.toNat → u.ideOf k = s.ideOf k) ∧ { u with mss := s.mss, link := s.link } = s) ∧
        (∀ (p : PortIx) key, ∃ u, exec (.keyPut b m (.gcm p) key) s = .next (told u [0xA0]) ∧
          u.port p = (if (s.port p).key = some key then s.port p
            else { (s.port p) with key := some key, frames := 0, rxFrames := 0 }) ∧
          (∀ q, q ≠ p.val → u.port q = s.port q) ∧ u.mem = s.mem) ∧
        (∃ u, exec (.fmkeyClear b m) s = .next (told u [0xA2]) ∧ u.mss.fmkey = none ∧
          u.err.eq0.eseq = s.err.eq0.eseq + 1 ∧ s.sessionBecomes u sid x.spoken) ∧
        (∀ key g k, s.mss.fmkey = some k → Config.slhVerify k (leBytes 64 key.toNat) g = true →
          ∃ u, exec (.fmkeySet b m key (some g)) s = .next (told u [0xA1]) ∧ u.mss.fmkey = some key ∧
            u.err.eq0.eseq = s.err.eq0.eseq + 1 ∧ s.sessionBecomes u sid x.spoken) ∧
        (∀ ctx sec first count addr,
          let e : XferReq := ⟨true, b, sid, ctx, sec, first, count, addr⟩
          let i : XferReq := ⟨false, b, sid, ctx, sec, first, count, addr⟩
          let queued (x : XferReq) : State := { s with mss := { (s.heard sid).mss with xfers := s.mss.xfers ++ [x] } }
          (s.mss.xfers ≠ [] ∨ s.xferOk e = true → exec (.egress b m ctx sec first count addr) s = .next (queued e)) ∧
          (s.mss.xfers ≠ [] ∨ s.xferOk i = true → exec (.ingress b m ctx sec first count addr) s = .next (queued i)) ∧
          (s.mss.xfers = [] → s.xferOk e = false →
            exec (.egress b m ctx sec first count addr) s = .next (s.refusedMsg b sid [0xB0, 0, 0, 0, 0])) ∧
          (s.mss.xfers = [] → s.xferOk i = false →
            exec (.ingress b m ctx sec first count addr) s = .next (s.refusedMsg b sid [0xB1, 0, 0, 0, 0]))) ∧
        (∀ packet, ∃ t, exec (.cmd b m packet) s = .next t ∧
          let f (off n : Nat) : Nat := field packet (0x20 + off) n
          let byte (off : Nat) := BitVec.ofNat 8 (f off 1)
          let word (off : Nat) := BitVec.ofNat 32 (f off 4)
          let quad (off : Nat) := BitVec.ofNat 64 (f off 8)
          let hd (zeros : List (Nat × Nat)) := parseHdr (.session sid) packet zeros
          (field packet 0 1 = 0x80 → exec (.sensorRead (hd [(2, 6)]) (byte 0) (byte 1) (quad 8)) s = .next t) ∧
          (field packet 0 1 = 0x81 → exec (.logRead (hd [(0xC, 4)]) (quad 0) (word 8) (quad 0x10)) s = .next t) ∧
          (field packet 0 1 = 0x82 → exec (.bistRun (hd [(3, 5)]) (byte 0) (byte 1) (byte 2) (quad 8)) s = .next t) ∧
          (field packet 0 1 = 0x83 → exec (.fwActivate (hd [(1, 7)]) (byte 0)) s = .next t) ∧
          (field packet 0 1 = 0x90 → exec (.sealCtx (hd [(1, 3)]) (byte 0) (word 4)) s = .next t) ∧
          (field packet 0 1 = 0x91 → exec (.unsealCtx (hd [(1, 7)]) (byte 0)) s = .next t) ∧
          (field packet 0 1 = 0x92 →
            exec (.frameOwn (hd [(3, 1), (0xC, 4)]) (byte 0) (byte 1) (byte 2) (word 4) (word 8)) s = .next t) ∧
          (field packet 0 1 ∉ [0x80, 0x81, 0x82, 0x83, 0x90, 0x91, 0x92] → s.board.coreOn = true →
            lenSound (hd []) = true → (hd []).seq = x.seq →
            ∃ u, t = told u (0xC0 ::
                replyBytes (mkReply stBadOpcode (BitVec.ofNat 8 (field packet 0 1)) (s.stateCode (hd []).ctx.toNat 0) (hd []) 0) false) ∧
              s.sessionBecomes u sid { x.spoken with seq := x.seq + 1 } ∧ { u with mss := s.mss } = s))) ∧
      (∀ key sig, s.mss.fmkey = none →
        ∃ u, exec (.fmkeySet b m key sig) s = .next (told u [0xA1]) ∧ u.mss.fmkey = some key ∧
          u.err.eq0.eseq = s.err.eq0.eseq + 1 ∧ s.sessionBecomes u sid x.spoken)) ∧
    (s.heardAs b m → s.authOn b sid = false →
      (∀ tgt key, exec (.keyPut b m tgt key) s = .next (s.refusedMsg b sid [0xA0])) ∧
      exec (.fmkeyClear b m) s = .next (s.refusedMsg b sid [0xA2]) ∧
      (∀ key sig k, s.mss.fmkey = some k → exec (.fmkeySet b m key sig) s = .next (s.refusedMsg b sid [0xA1])) ∧
      (∀ ctx sec first count addr,
        exec (.egress b m ctx sec first count addr) s = .next (s.refusedMsg b sid [0xB0, 0, 0, 0, 0]) ∧
        exec (.ingress b m ctx sec first count addr) s = .next (s.refusedMsg b sid [0xB1, 0, 0, 0, 0])) ∧
      (∀ packet, exec (.cmd b m packet) s = .next (s.refusedMsg b sid (0xC0 :: List.replicate 32 0)))) ∧
    (∀ x data, s.mss.xfers = [x] →
      (s.xferOk x = false → ∃ t, exec (.egressIngressDone 1 data) s = .next t ∧ t.mss.xfers = [] ∧ t.mss.viol = satInc s.mss.viol ∧
        t.mem = s.mem) ∧
      (s.xferOk x = true → 0 < x.count.toNat → s.mem.err = [] →
        let f := x.sec.val * framesPerSector + x.first.toNat
        dpaReserved (f * frameBytes) = false → s.ownOk .mgp f (!x.egress) = true → s.wakeStacks (f * frameBytes) frameBytes = s →
        ∃ u : State, u.mss.xfers = [] ∧
          (x.egress = true → u.mem.hbm = s.mem.hbm ∧ u.out = s.out ++
            [.hostWrite x.addr (plainRead s.mem.hbm (s.frameKey f) (f * frameBytes) frameBytes)]) ∧
          (x.egress = false → u.out = s.out ∧
            u.mem.hbm = plainWrite s.mem.hbm (s.frameKey f) (f * frameBytes) (slice data 0 frameBytes)) ∧
          (∀ y, s.sessionOn x.binding x.sid = some y → s.carries x.binding → exec (.egressIngressDone 1 data) s =
            .next (u.replied x.binding (y.record (vendorMsg ((if x.egress then 0xB0 else 0xB1) :: leBytes 4 1))))) ∧
          (s.sessionOn x.binding x.sid = none → exec (.egressIngressDone 1 data) s = .next u)))

/-! ### Power -/

/-- R15, R390, R430 to R434, R436 to R442, R447, R450: what the requests of operating point, pace and cap do; the end of a ramp, which the
regulators of the sectors and the hub follow; the pace's permits, each for one step (log 49); the cap's action of every tick, which in a
ramp or under Paced only clears CAPG (a choice of the model, log 150); gating, wake requests, their tokens and the end of a wake; the
clamp's engagement, which abandons a handoff that has loaded no image, and its release; and the loss of a reference clock. -/
def Obligations.PowerResult : Prop :=
  ∀ s : State,
    (∀ m (point : BitVec 2), s.powerWrites m → 4800 ≤ s.capW → s.regField 0x200000 0 2 ≠ point.toNat → point ≠ s.pwc.active →
      let now := s.pwc.rateOf s.pwc.active.toNat s.admitPaced
      let new := s.pwc.rateOf point.toNat s.admitPaced
      point ≠ 3 →
      (now ≤ new → ∃ t, exec (.opPointRequest m point) s = .next t ∧
        t.entersPoint point (if s.pwc.ramp then s.pwc.admitPt else s.pwc.active) ∧ (t.reg 0x200000).extractLsb' 0 2 = point ∧
        t.mem = s.mem ∧ t.fe = s.fe) ∧
      (new < now → s.fasterLaunch new = false →
        ∃ t, exec (.opPointRequest m point) s = .next t ∧ t.entersPoint point point ∧ t.mem = s.mem ∧ t.fe = s.fe) ∧
      (new < now → s.fasterLaunch new = true →
        ∃ t, exec (.opPointRequest m point) s = .next t ∧ t.pwc.active = s.pwc.active ∧ t.pwc.pend = some point ∧
          t.pwc.admitPt = point ∧ t.pwc.ramp = s.pwc.ramp ∧ t.mem = s.mem ∧ t.fe = s.fe)) ∧
    (∀ m, s.privileged m → s.regionOpen 9 = true →
      ∃ t, exec (.opPointRequest m 3) s = .next t ∧ { t with regs := s.regs } = s ∧ ∀ o, t.reg o = s.reg o) ∧
    (∀ m, s.powerWrites m →
      ((s.reg 0x200000).getLsbD 2 = false → s.pwc.paceAct = false →
        ∃ t, exec (.pacedRequest m true) s = .next t ∧ (t.reg 0x200000).getLsbD 2 = true ∧
          t.pwc.paceAct = !s.unpacedLaunch ∧ t.pwc.pacePend = s.unpacedLaunch ∧
          (∀ g, { t.hum g with vset := (s.hum g).vset } = s.hum g) ∧ t.mem = s.mem ∧ t.fe = s.fe) ∧
      ((s.reg 0x200000).getLsbD 2 = true → s.pwc.paceAct = true →
        ∃ t, exec (.pacedRequest m false) s = .next t ∧ (t.reg 0x200000).getLsbD 2 = false ∧ t.pwc.paceAct = false ∧
          t.pwc.pacePend = false ∧ s.drivenTo t s.pwc.common ∧ t.mem = s.mem ∧ t.fe = s.fe)) ∧
    (∀ w, s.pwc.pend = some w → s.pwc.clamp = false → s.pwpUp = true →
      let r := s.pwc.rateOf w.toNat s.admitPaced
      (s.fasterLaunch r = false → ∃ t, exec .opLowerTakesEffect s = .next t ∧ t.entersPoint w w ∧ t.mem = s.mem ∧ t.hums = s.hums) ∧
      (s.fasterLaunch r = true → exec .opLowerTakesEffect s = .next s)) ∧
    (s.pwc.pacePend = true → s.pwpUp = true →
      (s.unpacedLaunch = false → ∃ t, exec .pacedTakesEffect s = .next t ∧ t.pwc.paceAct = true ∧ t.pwc.pacePend = false ∧
        (∀ g, { t.hum g with vset := (s.hum g).vset } = s.hum g) ∧ t.mem = s.mem) ∧
      (s.unpacedLaunch = true → exec .pacedTakesEffect s = .next s)) ∧
    (s.pwc.ramp = true → s.pwc.clamp = false →
      (s.pwpUp = true → ∃ t, exec .setpointRampDone s = .next t ∧ t.pwc.ramp = false ∧ t.pwc.active = s.pwc.active ∧
        t.pwc.admitPt = s.pwc.pend.getD s.pwc.active ∧ t.pwc.shared = s.pwc.vsetOf s.pwc.active.toNat ∧
        (s.pwc.paceAct = false → s.drivenTo t (s.pwc.vsetOf s.pwc.active.toNat)) ∧
        (∀ g, { t.hum g with vset := (s.hum g).vset } = s.hum g) ∧
        { t with pwc := s.pwc, hums := s.hums, freeCtr := s.freeCtr } = s) ∧
      (s.pwpUp = false → exec .setpointRampDone s = .next s)) ∧
    (∀ x : Sec,
      (s.pwc.paceAct = true → s.err.chip = none → s.board.xtal = true →
        ∃ t, exec (.pacePermit x) s = .next t ∧ { t with hums := s.hums } = s ∧
          ∀ g, t.hum g = if secOf g = x.val ∧ (s.hum g).power = .running then { (s.hum g) with steps := (s.hum g).steps + 1 }
            else s.hum g) ∧
      (s.pwc.paceAct = false ∨ s.board.xtal = false → exec (.pacePermit x) s = .next s)) ∧
    (∀ m (w : BitVec 13), s.privileged m → s.regionOpen 9 = true →
      (∃ t, exec (.capWrite m w) s = .next t ∧ (t.reg 0x200010).extractLsb' 0 13 = w ∧
        (∀ o, o ≠ 0x200010 → t.reg o = s.reg o) ∧ t.mem = s.mem ∧ t.fe = s.fe ∧ t.hums = s.hums) ∧
      (s.pwpUp = true → s.pwc.clamp = false → s.regField 0x200010 0 13 ≠ w.toNat → w.toNat < 4800 → s.pwc.active ≠ 0 →
        s.pwc.rateOf 0 s.admitPaced < s.pwc.rateOf s.pwc.active.toNat s.admitPaced →
        s.fasterLaunch (s.pwc.rateOf 0 s.admitPaced) = false →
        ∃ t, exec (.capWrite m w) s = .next t ∧ t.entersPoint 0 0)) ∧
    (∀ watts coreA : BitVec 16, s.board.coreOn = true →
      ∃ t, exec (.capTick watts coreA) s = .next t ∧ t.pwc.pkgW = watts ∧ t.pwc.coreA = coreA ∧
        t.pwc.energy = s.pwc.energy + watts.setWidth 64 ∧ t.mem = s.mem ∧ t.fe = s.fe ∧ t.regs = s.regs ∧
        let c := s.pwc.common
        let top := s.pwc.vsetOf s.pwc.active.toNat
        let one := s.pwc.clamp = true ∨ (s.pwc.ramp = false ∧ s.pwc.paceAct = false)
        (s.pwpUp = false → t.hums = s.hums ∧ t.pwc.common = c) ∧
        (s.pwpUp = true →
          (s.capW < watts.toNat → one → s.capFloor < c → s.drivenTo t (Nat.max s.capFloor (c - 5))) ∧
          (∀ h, s.capW < watts.toNat → one → c ≤ s.capFloor → s.hottest = some h →
            t.hum h = { (s.hum h).gate with capg := true } ∧ (∀ k, k ≠ h → t.hum k = s.hum k) ∧ t.pwc.common = c) ∧
          (s.capW < watts.toNat → ¬ one → t.hums = s.hums ∧ t.pwc.common = c) ∧
          (∀ h, 100 * watts.toNat ≤ 98 * s.capW → s.lowestCapg = some h →
            t.hum h = { (s.hum h) with capg := false } ∧ (∀ k, k ≠ h → t.hum k = s.hum k) ∧ t.pwc.common = c) ∧
          (100 * watts.toNat ≤ 98 * s.capW → s.lowestCapg = none → one → s.pwc.clamp = false → c < top →
            s.drivenTo t (Nat.min top (c + 5))) ∧
          (100 * watts.toNat ≤ 98 * s.capW → s.lowestCapg = none → ¬ one ∨ s.pwc.clamp = true →
            t.hums = s.hums ∧ t.pwc.common = c) ∧
          (watts.toNat ≤ s.capW → 98 * s.capW < 100 * watts.toNat → t.hums = s.hums ∧ t.pwc.common = c))) ∧
    (∀ g : Hum,
      ((s.hum g).power = .running ∨ (s.hum g).power = .still →
        ((s.hum g).holder = none → s.regField 0x200018 0 16 ≠ 0 → s.procReady (secOf g) = true → s.err.chip = none →
          ∃ t, exec (.idleGateTimeout g) s = .next t ∧ s.onlyHum t g ∧ t.hum g = (s.hum g).gate ∧ (t.hum g).mere = [] ∧
            (t.hum g).power = .gated) ∧
        ((s.hum g).holder ≠ none → exec (.idleGateTimeout g) s = .next s)) ∧
      (s.board.coreOn = true → s.err.chip = none →
        ((s.hum g).power = .still →
          ∃ t, exec (.wakeRequest g) s = .next t ∧ s.onlyHum t g ∧
            t.hum g = { (s.hum g) with power := .running, seq := { (s.hum g).seq with st := .issuing } }) ∧
        ((s.hum g).power = .gated → (∀ w ∈ s.pwc.wakeQ, w.g ≠ g) → (∀ w ∈ s.pwc.granted, w.g ≠ g) →
          exec (.wakeRequest g) s =
            .next (({ s with pwc := { s.pwc with
              wakeQ := s.pwc.wakeQ ++ [⟨g, (s.hum g).holder.isSome || s.nextQueued⟩] } } : State).jot (secOf g))) ∧
        ((s.hum g).power = .gated → (∃ w, (w ∈ s.pwc.wakeQ ∨ w ∈ s.pwc.granted) ∧ w.g = g) →
          let up (w : WakeReq) : WakeReq :=
            if w.g = g then { w with cls1 := w.cls1 || ((s.hum g).holder.isSome || s.nextQueued) } else w
          exec (.wakeRequest g) s =
            .next (({ s with pwc := { s.pwc with
              wakeQ := s.pwc.wakeQ.map up, granted := s.pwc.granted.map up } } : State).jot (secOf g)))) ∧
      (∀ w, (s.pwc.granted.find? fun w => w.g == g) = some w → (s.hum g).power ≠ .waking →
        exec (.wakeComplete g) s =
          .next (({ s with pwc := { s.pwc with granted := s.pwc.granted.erase w } } : State).jot pwpIx)) ∧
      (∀ w, (s.pwc.granted.find? fun w => w.g == g) = some w → (s.hum g).power = .waking → s.noStalls → s.pwc.clamp = false →
        ((s.hum g).holder = none →
          ∃ t, exec (.wakeComplete g) s = .next t ∧ t.pwc.granted = s.pwc.granted.erase w ∧ t.pwc.wakes = satInc s.pwc.wakes ∧
            (t.hum g).power = .running ∧ (s.pwc.paceAct = false → (t.hum g).vset = BitVec.ofNat 10 s.pwc.common) ∧ (t.hum g).mere = [] ∧
            (t.hum g).seq.st = .idle ∧ (∀ k, k ≠ g.val → t.hum k = s.hum k) ∧ t.mem = s.mem) ∧
        (∀ x, (s.hum g).holder = some x →
          let pc := if (s.hum g).seq.st = .gated then (s.hum g).wvec else x.entry
          pc.toNat < x.codeLen →
          ∃ t, exec (.wakeComplete g) s = .next t ∧ t.pwc.granted = s.pwc.granted.erase w ∧ (t.hum g).power = .running ∧
            (t.hum g).holder = some x ∧ (t.hum g).seq.st = .issuing ∧ (t.hum g).seq.pc = pc ∧
            ((t.hum g).seq.wake = true ↔ (s.hum g).seq.st = .gated) ∧ (∀ r : BitVec 5, (t.hum g).seq.reg r = 0) ∧
            (t.hum g).mere = [] ∧ (∀ k, k ≠ g.val → t.hum k = s.hum k) ∧ t.mem = s.mem))) ∧
    (s.pwpUp = true → ∀ w, nextWake s.voidWakes.servable = some w →
      (s.pwc.granted.length < 4 →
        ∃ t, exec .wakeTokenGrant s = .next t ∧ t.pwc.granted = s.pwc.granted ++ [w] ∧
          t.pwc.wakeQ = s.voidWakes.pwc.wakeQ.erase w ∧ t.hum w.g = { (s.hum w.g) with power := .waking } ∧
          (∀ k, k ≠ w.g.val → t.hum k = s.hum k) ∧ { t with pwc := s.pwc, hums := s.hums, jnl := s.jnl } = s) ∧
      (∀ y, 4 ≤ s.pwc.granted.length → w.cls1 = true → (s.pwc.granted.filter fun x => !x.cls1).getLast? = some y → y.g ≠ w.g →
        ∃ t, exec .wakeTokenGrant s = .next t ∧ t.pwc.granted = s.pwc.granted.erase y ++ [w] ∧ y ∈ t.pwc.wakeQ ∧
          (t.hum y.g).power = .gated ∧ (t.hum w.g).power = .waking) ∧
      (4 ≤ s.pwc.granted.length → w.cls1 = false → exec .wakeTokenGrant s = .next s.voidWakes)) ∧
    (s.board.coreOn = true → s.pwc.clamp = false → s.fw.handoff = none →
      (∃ t, exec (.prochotN false) s = .next t ∧ t.pwc.clamp = true ∧ t.pwc.eProchot = true ∧ t.pwc.admitPt = 0 ∧
        s.drivenTo t 620 ∧ t.pwc.shared = 620 ∧ t.board.prochotN = false ∧ t.board.alertN = false ∧ t.mem = s.mem ∧ t.fe = s.fe) ∧
      (∃ t, exec (.powerOverLimit true) s = .next t ∧ t.pwc.clamp = true ∧ t.pwc.ePower = true ∧ t.pwc.admitPt = 0 ∧
        s.drivenTo t 620 ∧ t.pwc.shared = 620 ∧ t.board.alertN = false ∧ t.mem = s.mem ∧ t.fe = s.fe)) ∧
    (∀ b, s.board.coreOn = true → s.pwc.clamp = false → s.fw.handoff = some (1, b) → s.fe.launches = [] → s.fe.dbq = [] →
      s.ep.waitMsgs = [] →
      ∃ t, exec (.powerOverLimit true) s = .next t ∧ t.pwc.clamp = true ∧ t.fw.handoff = none ∧ t.fw.pend = some (s.fw.pend.getD b) ∧
        ∀ i, i < 11 → (t.proc i).st = if (s.proc i).st = .quiescing then .ready else (s.proc i).st) ∧
    (∀ us, s.pwc.clamp = true → s.pwc.anyCause = false → s.pwc.clearMs = 10 →
      ∃ t, exec (.clampRelease us) s = .next t ∧ t.pwc.clamp = false ∧ t.pwc.ramp = true ∧ t.mem = s.mem ∧ t.fe = s.fe) ∧
    (∀ us, s.pwc.clearMs ≠ 10 → exec (.clampRelease us) s = .next s) ∧
    (s.board.standby = true →
      (∃ t, exec (.clockLoss .sysXtal) s = .next t ∧ t.board.xtal = false ∧ t.err.eq0.eseq = s.err.eq0.eseq + 1 ∧
        { t with board := s.board, err := s.err } = s) ∧
      (∃ t, exec (.clockLoss .pcie) s = .next t ∧ t.board.pcieClock = false ∧ t.link.up = false ∧ t.link.ide = [] ∧ (t.reg 0x40).getLsbD 0 = false ∧
        t.mem = s.mem ∧ t.hums = s.hums ∧ t.ep = s.ep) ∧
      (∃ t, exec (.clockLoss .dz) s = .next t ∧ t.mem = s.mem ∧ t.hums = s.hums ∧ ∀ p : PortIx,
        ((s.port p).ls = .off ∨ (s.port p).ls = .down → t.port p = s.port p) ∧
        ((s.port p).ls ≠ .off → (s.port p).ls ≠ .down →
          (t.port p).ls = .down ∧ (t.port p).dcause = 1 ∧ (t.port p).replay = [])))

/-! ### Configuration integrity, events and the host -/

/-- R461, R462, R467 to R471: a strobe of CIP_CFG_OPEN opens the regions of its mask that have no drift; a commit closes a region whose
checksum is its reference, and leaves another open with an event; a check of a closed region that differs records a drift, and the FEP's
rewrite restores what its copy holds. An event is written at its queue's tail with its phase, a write that fails blocks the queue and
keeps the event, a write of the head asks for it again, and a queue that is enabled starts at entry 0 with phase 1. -/
def Obligations.ConfigAndEventResult : Prop :=
  ∀ (s : State) (m : Master) (mask : BitVec 10) (r : Fin 10) (q : Fin 2),
    (s.privileged m →
      exec (.cipCfgOpen m mask) s =
        .next { s with cip := { s.cip with isOpen := s.cip.isOpen ||| (mask &&& ~~~s.cip.drift) } } ∧
      (∃ t, exec (.cipCfgCommit m mask) s = .next t ∧ t.regs = s.regs ∧ t.mem = s.mem ∧
        (∀ k, k < 10 → t.regionOpen k =
          if mask.getLsbD k = true ∧ s.regionCrc k = s.cfgRefOf k then false else s.regionOpen k) ∧
        (∀ k, k < 10 → mask.getLsbD k = true → sget 0 t.cip.cur k = s.regionCrc k) ∧
        ∀ k, k < 10 → mask.getLsbD k = true → s.regionCrc k = s.cfgRefOf k → sget [] t.cip.copies k = s.configCopy k)) ∧
    (s.regionRuns r = true →
      ∃ t, exec (.configCheckPass r) s = .next t ∧ sget 0 t.cip.cur r = s.regionCrc r ∧ t.regs = s.regs ∧ t.mem = s.mem ∧
        (s.regionOpen r = true ∨ s.regionCrc r = s.cfgRefOf r → t.cip.drift = s.cip.drift ∧ t.err = s.err) ∧
        (s.regionOpen r = false → s.regionCrc r ≠ s.cfgRefOf r → s.cip.drift.getLsbD r = false →
          t.cip.drift.getLsbD r = true ∧ t.err.eq0.eseq = s.err.eq0.eseq + 1)) ∧
    (s.regionRuns r = true → s.cip.drift.getLsbD r = true → s.procReady fepIx = true → s.regionOpen r = false →
      copyCrc (sget [] s.cip.copies r) r = s.cfgRefOf r →
      ∃ t, exec (.driftRewriteDone r) s = .next t ∧ t.cip.drift.getLsbD r = false ∧
        (∀ o ∈ regionOffs r, ∀ k mk, cfgScope o = some (k, mk) →
          t.reg o = (s.reg o &&& ~~~mk) ||| (sget 0 (sget [] s.cip.copies r) o &&& mk)) ∧
        (∀ o, o ∉ regionOffs r → t.reg o = s.reg o) ∧ t.err.eq0.eseq = s.err.eq0.eseq + 1 ∧ t.mem = s.mem) ∧
    (∀ e, s.eqReady q = some e →
      let x := s.eq q
      let wrap := x.tail.toNat + 1 = (s.eqSize q).getD 1024
      (∃ t rest, exec (.eventQueueWrite q) s = .next t ∧
        t.out = s.out ++ (.hostWrite (s.reg (eqBase q) + BitVec.ofNat 64 (32 * x.tail.toNat)) (eventBytes e x.phase) :: rest) ∧
        (t.eq q).backlog = x.backlog.tail ∧ (t.eq q).tail = (if wrap then 0 else x.tail + 1) ∧
        (t.eq q).phase = (if wrap then !x.phase else x.phase) ∧ (t.eq q).blkd = false ∧ t.mem = s.mem ∧ t.fe = s.fe) ∧
      (∀ resp, ∃ t, exec (.eventWriteFailed q resp) s = .next t ∧ (t.eq q).blkd = true ∧ (t.eq q).backlog = x.backlog ∧
        (t.eq q).tail = x.tail ∧ t.mem = s.mem ∧ t.fe = s.fe)) ∧
    (s.privileged m →
      (∀ idx, ∃ t, exec (.eqHeadWrite m q idx) s = .next t ∧ (t.reg (eqBase q + 0x10)).extractLsb' 0 16 = idx ∧
        (∀ o, o ≠ eqBase q + 0x10 → t.reg o = s.reg o) ∧ t.eq q = { (s.eq q) with retry := (s.eq q).blkd } ∧
        { t with regs := s.regs, err := s.err } = s) ∧
      (∀ v : BitVec 64, v.getLsbD 0 = true → (s.reg (eqBase q + 8)).getLsbD 0 = false →
        let n := v.toNat / 2 % 32
        ∃ t, exec (.eqEnable m q v) s = .next t ∧ (t.reg (eqBase q + 8)).getLsbD 0 = true ∧
          { t with regs := s.regs, err := s.err } = s ∧
          (8 ≤ n ∧ n ≤ 16 → t.reg (eqBase q + 0x10) = 0 ∧ t.eq q = { (s.eq q) with tail := 0, phase := true }) ∧
          (n < 8 ∨ 16 < n → t.reg (eqBase q + 0x10) = s.reg (eqBase q + 0x10) ∧ t.err = s.err)))

/-- R6, R7, R187, R294, R354, R366, R367, R453, R454, R456, R458, R469, R475 to R483: a reset of the link disables the rings and ends
the host's streams, and its coming up, in the width that its lanes permit, releases the device after start-up. BAR2 reads and writes the
plain bytes of its window, those that its byte enables name, drops a poisoned write with a report, and stalls where the bytes are not
reachable. A read of a hummock's block answers its register. An unmasked vector that is pending is sent with its table entry's address
and data, in D0; a stream whose integrity fails leaves Secure. A write of a stored register takes effect, and a read then
answers its fields with reserved bits as zero; in a closed region the write is refused and counted; an access to a sector in reset waits
at its bridge. Configuration reads answer the function's identity and its link; a processor writes its own status word. -/
def Obligations.HostResult : Prop :=
  ∀ s : State,
    (∀ c, ∃ t, exec (.hostLinkReset c) s = .next t ∧ t.link.up = false ∧ t.link.ide = [] ∧ t.link.bar2Log2 = 28 ∧
      t.link.stalls = [] ∧ (∀ o, o = 0x40 ∨ o = 0x301008 ∨ o = 0x301108 ∨ o = 0x508210 → (t.reg o).getLsbD 0 = false) ∧
      (∀ k, k < 64 → (t.reg (0x2008 + 32 * k)).getLsbD 0 = false) ∧ t.regionOpen 8 = true ∧ t.fe.heldReply = none ∧
      t.mem = s.mem ∧ t.hums = s.hums ∧ t.ep = s.ep ∧ t.sluices = s.sluices) ∧
    (s.board.coreOn = false ∨ s.board.step < 5 →
      exec .hostLinkUp s = .next { s with link := { s.link with perst := false }, board := { s.board with pcieClock := true } }) ∧
    (s.board.coreOn = true → 5 ≤ s.board.step →
      ∃ t lanes n, exec .hostLinkUp s = .next t ∧ t.link.up = true ∧ t.link.perst = false ∧
        trainedLanes lanes = some (n, t.link.lanes) ∧ t.link.width = BitVec.ofNat 6 n ∧
        1 ≤ t.link.rate.toNat ∧ t.link.rate.toNat ≤ 7 ∧ t.mem = s.mem ∧ t.hums = s.hums ∧
        (s.board.step ≠ 7 → t.board = { s.board with pcieClock := true }) ∧
        (s.board.step = 7 → s.board.stopped = false → s.board.released = false →
          t.board = { s.board with pcieClock := true, released := true, step := 8 } ∧ .drs ∈ t.out ∧
            ∀ r, r < 10 → r ≠ 8 → t.regionOpen r = false)) ∧
    (∀ (o : BitVec 42) n d, s.bar2Plain o.toNat n d →
      exec (.bar2Access o (.read n)) s = .next { s with out := s.out ++ [.completion (bread s.mem.hbm d n) false] }) ∧
    (∀ (o : BitVec 42) bs d, s.bar2Plain o.toNat bs.length d →
      ∃ t, exec (.bar2Access o (.write bs)) s = .next t ∧ storedAt s.mem.hbm t.mem.hbm d bs ∧
        { t with mem := { t.mem with hbm := s.mem.hbm } } = s) ∧
    (∀ (o : BitVec 42) bs d, s.bar2Plain o.toNat bs.length d → (∀ k, (s.stack k).st ≠ .srefIdle) →
      ∃ t, exec (.bar2Access o (.masked bs)) s = .next t ∧
        (∀ i b, bs[i]? = some b → bget t.mem.hbm (d + i) = b.getD (bget s.mem.hbm (d + i))) ∧
        (∀ a, a < d ∨ d + bs.length ≤ a → bget t.mem.hbm a = bget s.mem.hbm a) ∧
        { t with mem := { t.mem with hbm := s.mem.hbm } } = s) ∧
    (∀ (o : BitVec 42) n, s.hostOk = true → o.toNat + n ≤ 2 ^ s.link.bar2Log2 →
      exec (.bar2Access o (.poisoned n)) s = .next { s with out := s.out ++ [.aerPoison] }) ∧
    (∀ (o : BitVec 42) op, s.hostOk = true → o.toNat + bar2Len op ≤ 2 ^ s.link.bar2Log2 → (∀ n, op ≠ .poisoned n) →
      s.bar2Open (s.bar2Dpa o.toNat) (bar2Len op) = false →
      exec (.bar2Access o op) s = .next { s with link := { s.link with stalls := s.link.stalls ++ [(o, op)] } }) ∧
    (∀ o n, (s.link.stalls.find? fun x => !s.sectorRuns (dpaSector (s.bar2Dpa x.1.toNat))) = some (o, .read n) →
      exec .bar2StallTimeout s =
        .next { s with link := { s.link with stalls := s.link.stalls.erase (o, .read n) }
                       out := s.out ++ [.completion (List.replicate n 0) false] }) ∧
    (∀ (g : Hum) (o : BitVec 19), s.hostOk = true →
      (o.toNat % 8 = 0 → o.toNat < 0x40000 → (s.hum g).power = .running → s.humOpen g = true →
        (∀ a ∈ s.link.regStalls, a.unit ≠ .hummock g) →
        exec (.humBlockRead .host g o) s =
          .next { s with out := s.out ++ [.completion (leBytes 8 (readHumReg (s.hum g) g o.toNat).toNat) false] }) ∧
      (o.toNat % 8 ≠ 0 →
        exec (.humBlockRead .host g o) s = .next { s with out := s.out ++ [.completion (leBytes 8 0) false] }) ∧
      (o.toNat % 8 = 0 → s.inReset (secOf g) = true →
        exec (.humBlockRead .host g o) s = .next { s with link := { s.link with regStalls := s.link.regStalls ++
          [⟨.host, BitVec.ofNat 26 (0x1000000 + 0x80000 * g.val + o.toNat), none, .read⟩] } })) ∧
    (∀ v : BitVec 11, s.hostOk = true →
      ∃ t, exec (.msixUnmask v) s = .next t ∧ sget false t.link.unmasked v.toNat = true ∧
        (sget false s.link.pba v.toNat = true → t.out = s.out ++ [s.msixMsg v] ∧ sget false t.link.pba v.toNat = false) ∧
        (sget false s.link.pba v.toNat = false → t.out = s.out) ∧ { t with link := s.link, out := s.out } = s) ∧
    (∀ k : BitVec 2, ((s.ideOf k.toNat).secure = true →
        ∃ t, exec (.ideIntegrityFailure k) s = .next t ∧ t.ideOf k.toNat = { (s.ideOf k.toNat) with secure := false } ∧
          (∀ j, j ≠ k.toNat → t.ideOf j = s.ideOf j) ∧ t.out = s.out ++ [.aer k] ∧ { t with link := s.link, out := s.out } = s) ∧
      ((s.ideOf k.toNat).secure = false → exec (.ideIntegrityFailure k) s = .next s)) ∧
    (∀ (m : Master) (off : BitVec 26) v, off.toNat ∈ plainRegs →
      let new := mergeFlds m none (regFlds off.toNat) (s.reg off.toNat) v
      (s.privileged m → s.regionOpen 8 = true → s.regionOpen 9 = true → (∀ a ∈ s.link.regStalls, a.unit ≠ .hub) →
        ∃ t, exec (.registerWrite m .bar0 off none (.write v)) s = .next t ∧ s.regBecomes t off.toNat new ∧
          { t with regs := s.regs } = s ∧
          (m = .host → exec (.registerWrite m .bar0 off none .read) t = .next { t with out := t.out ++
            [.completion (leBytes 8 (mergeFlds m none (regFlds off.toNat) 0 v).toNat) false] })) ∧
      (s.privileged m → s.regionOpen 8 = false → s.regionOpen 9 = false → new ≠ s.reg off.toNat →
        (∀ a ∈ s.link.regStalls, a.unit ≠ .hub) →
        ∃ t, exec (.registerWrite m .bar0 off none (.write v)) s = .next t ∧ (∀ o, t.reg o = s.reg o) ∧
          t.cip.violClosed = satInc s.cip.violClosed ∧ { t with regs := s.regs, cip := s.cip } = s)) ∧
    (∀ (m : Master) (off : BitVec 26) half op, s.arrives m = true →
      (∀ x, off.toNat % 8 = 0 → bridgeOf off.toNat = .sector x → s.inReset x = true → regSized op = true →
        exec (.registerWrite m .bar0 off half op) s =
          .next { s with link := { s.link with regStalls := s.link.regStalls ++ [⟨m, off, half, op⟩] } }) ∧
      (∀ v, off.toNat % 8 ≠ 0 → exec (.registerWrite m .bar0 off half (.write v)) s = .next s) ∧
      exec (.registerWrite m .bar0 off half .oddWrite) s = .next s ∧
      (m = .host → exec (.registerWrite m .bar0 off none .oddRead) s =
          .next { s with out := s.out ++ [.completion (leBytes 8 0) false] }) ∧
      (m = .host → exec (.registerWrite m .bar0 off half .poisoned) s = .next { s with out := s.out ++ [.aerPoison] })) ∧
    (∀ (m : Master) (c : BitVec 6) v, s.hostOk = true →
      ∃ t, exec (.registerWrite m .bar4 (BitVec.ofNat 26 (65536 * c.toNat + 8)) none (.write v)) s = .next t ∧
        s.regBecomes t (0x2010 + 32 * c.toNat) (v &&& 0xFFFF) ∧ { t with regs := s.regs } = s) ∧
    (∀ m v, s.link.up = true → s.err.halted = false → s.board.released = true →
      (28 ≤ v.toNat → v.toNat ≤ 42 →
        exec (.registerWrite m .bar2Size 0 none (.write v)) s = .next { s with link := { s.link with bar2Log2 := v.toNat } }) ∧
      (v.toNat % 4 = 3 ∨ (∀ p ∈ s.link.pba, p.2 = false ∨ sget false s.link.unmasked p.1 = false) →
        exec (.registerWrite m .powerState 0 none (.write v)) s =
          .next { s with link := { s.link with d3 := v.toNat % 4 == 3 } }) ∧
      (∀ k : BitVec 11, v.toNat % 4 ≠ 3 → s.link.pba = [(k.toNat, true)] → sget false s.link.unmasked k.toNat = true →
        ∃ t, exec (.registerWrite m .powerState 0 none (.write v)) s = .next t ∧ t.link.d3 = false ∧
          sget false t.link.pba k.toNat = false ∧ t.out = s.out ++ [s.msixMsg k] ∧ { t with link := s.link, out := s.out } = s) ∧
      (∃ w : BitVec 32, w.getLsbD 0 = s.doeBusy ∧
        exec (.registerWrite m .doeStatus 0 none .read) s = .next { s with out := s.out ++ [.configData w] }) ∧
      (∃ w : BitVec 32, w.extractLsb' 16 16 = 0x0096 ∧
        exec (.registerWrite m .config 0 none .read) s = .next { s with out := s.out ++ [.configData w] }) ∧
      (∃ w : BitVec 32, w.extractLsb' 8 24 = 0x120000 ∧
        exec (.registerWrite m .config 8 none .read) s = .next { s with out := s.out ++ [.configData w] }) ∧
      ∃ w : BitVec 32, w.extractLsb' 0 4 = s.link.rate ∧ w.extractLsb' 4 6 = s.link.width ∧
        exec (.registerWrite m .linkStatus 0 none .read) s = .next { s with out := s.out ++ [.configData w] }) ∧
    (∀ m sp off half op, s.link.up = true → s.err.halted = false → s.board.released = false →
      (sp = .config ∨ sp = .linkStatus ∨ sp = .bar2Size ∨ sp = .ideEnable ∨ sp = .powerState ∨ sp = .doeStatus) →
      exec (.registerWrite m sp off half op) s = .next { s with out := s.out ++ [.retryStatus] }) ∧
    (∀ i v, i < 11 → (s.proc i).st ≠ .off →
      ∃ t, exec (.registerWrite .fw .procStatus (BitVec.ofNat 26 i) none (.write v)) s = .next t ∧
        sget Latch.reset t.err.latches i = { (sget Latch.reset s.err.latches i) with status := v } ∧
        (∀ k, k ≠ i → sget Latch.reset t.err.latches k = sget Latch.reset s.err.latches k) ∧ { t with err := s.err } = s)

/-! ### Board, sensors and start-up -/

/-- R216, R289, R371, R374, R375, R385, R402 to R404, R421, R423, R441, R443, R495, R496, R501 to R504: standby power starts the MGP and
reads the FRU record (its format: log 153); the power-on hold keeps while a rail is missing or came out of sequence, which a FATAL entry
reports (log 154), and releases the core with every processor ready, every hummock Gated and the stacks training; a stack that fails
stops start-up, and otherwise the default buffers and tables stand and discovery runs; its timeout ends step 7. A loss of core or of
standby power leaves what the flash, the fuses and the MGP keep. Contacts, bit by bit, modules, sensors and a hummock's self-test are
recorded. -/
def Obligations.BoardResult : Prop :=
  ∀ s : State,
    (∀ b, s.board.standby = false →
      ((b.slotAOk = true ∨ b.slotBOk = true) → b.strapTest = false →
        ∃ t, exec (.standbyPowerGood b) s = .next t ∧ t.board.standby = true ∧ t.board.step = 3 ∧ (t.proc mgpIx).st = .ready ∧
          (t.fw.slot t.fw.actSlot).verified = true ∧ ((s.fw.actSlot = false → b.slotAOk = true) →
            (s.fw.actSlot = true → b.slotBOk = true) → t.fw.actSlot = s.fw.actSlot) ∧
          (∀ e id dims, b.fru = some e → fruId e = some (id, dims) → t.reg 0x400000 = BitVec.ofNat 64 (id.toNat + 2 ^ 15 + dims.toNat * 2 ^ 16)) ∧
          t.cip.modeActive = (t.reg 0x100028).getLsbD 0 ∧ t.mem = s.mem ∧ t.hums = s.hums) ∧
      (b.slotAOk = false → b.slotBOk = false →
        ∃ t, exec (.standbyPowerGood b) s = .next t ∧ t.board.standby = true ∧ t.board.stopped = true ∧ t.board.step = 1 ∧
          t.mem = s.mem ∧ t.hums = s.hums)) ∧
    (∀ up : PowerUp, let b := up.rails.foldl Board.rail s.board
      (s.board.standby = true → s.board.coreOn = false → b.offender ≠ none ∨ b.settled ≠ 0x3FF →
        ∃ t, exec (.powerOnHoldRelease up) s = .next t ∧ t.board = b ∧ t.fw.logSeq = s.fw.logSeq + 1 ∧ t.mem = s.mem ∧
          t.hums = s.hums) ∧
      (b.offender = none → b.settled = 0x3FF → s.holdReady = true → s.board.strapBist = false → s.board.prochotN = true →
      ∃ t, exec (.powerOnHoldRelease up) s = .next t ∧ t.board.coreOn = true ∧ t.board.step = 5 ∧ t.board.pwrcycN = true ∧
        (∀ i, i < 11 → (t.proc i).st = .ready ∧ (t.coreOf i).isram = ((s.loadCore s.fw.actSlot i).coreOf i).isram) ∧
        (∀ k, k < 24 → (t.stack k).st = .training) ∧
        t.pwc.common = s.pwc.vsetOf 1 ∧ t.pwc.shared = s.pwc.vsetOf 1 ∧ t.mss.trip = none ∧ t.mem.hbm = s.mem.hbm ∧ t.hums = s.hums)) ∧
    (s.board.step = 5 → s.board.coreOn = true → s.board.stopped = false →
      (∃ t, exec (.hbmTrainingDone 0) s = .next t ∧ 6 ≤ t.board.step ∧ t.board.stopped = false ∧
        (∀ k, k < 24 → (t.stack k).st = .ready) ∧
        (∀ x, x < 8 → t.orbOf x = ⟨BitVec.ofNat 21 ((x * sectorBytes + 0x46C0000000) / frameBytes), 2048, none⟩) ∧
        (∀ p : PortIx, t.portEn p = (s.portUsed p || s.portEn p)) ∧ t.mem.hbm = s.mem.hbm ∧
        (s.ep.members = [] → t.hums = s.hums)) ∧
      (∀ failed : BitVec 24, failed ≠ 0 → ∃ t, exec (.hbmTrainingDone failed) s = .next t ∧ t.board.stopped = true ∧
        t.board.step = 5 ∧ (∀ k, k < 24 → (t.stack k).st = if failed.getLsbD k then .failed else .ready) ∧
        t.mem.hbm = s.mem.hbm ∧ t.hums = s.hums)) ∧
    (s.board.step = 6 → s.board.coreOn = true → s.board.stopped = false →
      (s.link.up = false → ∃ t, exec .discoveryTimeout s = .next t ∧ t.board = { s.board with step := 7 } ∧ t.mem = s.mem ∧
        t.cwy.ports = s.cwy.ports) ∧
      (s.link.up = true → s.board.released = false → ∃ t, exec .discoveryTimeout s = .next t ∧
        t.board = { s.board with released := true, step := 8 } ∧ .drs ∈ t.out ∧ t.mem = s.mem ∧ t.cwy.ports = s.cwy.ports)) ∧
    (∀ rail, s.board.coreOn = true →
      ∃ t, exec (.corePowerLoss rail) s = .next t ∧ t.board.coreOn = false ∧ t.board.released = false ∧
        t.board.standby = s.board.standby ∧ t.board.pwrcycN = s.board.pwrcycN ∧ t.board.offender = some rail ∧
        t.board.settled.getLsbD rail = false ∧ t.hums = [] ∧ t.mem = MemState.reset ∧ t.ep = EpochState.reset ∧ t.sluices = [] ∧
        t.fe = FrontEnd.reset ∧ t.fw.slotA = s.fw.slotA ∧ t.fw.slotB = s.fw.slotB ∧ t.fw.svnMin = s.fw.svnMin ∧
        t.mss.fmkey = s.mss.fmkey ∧ t.mss.sessions = [] ∧ t.pwc.rates = s.pwc.rates ∧ t.cip.serial = s.cip.serial) ∧
    (∃ t, exec .standbyPowerLoss s = .next t ∧ t.board.standby = false ∧ t.board.coreOn = false ∧ t.hums = [] ∧
      t.mem = MemState.reset ∧ t.regs = [] ∧ t.ep = EpochState.reset ∧ t.fw.flash = s.fw.flash ∧
      t.fw.actSlot = s.fw.actSlot ∧ t.fw.slotA = s.fw.slotA ∧ t.fw.slotB = s.fw.slotB ∧ t.fw.svnMin = s.fw.svnMin ∧
      t.mss.fmkey = s.mss.fmkey ∧ t.mss.sessions = []) ∧
    (s.board.standby = true → s.procReady mgpIx = true → s.board.step ≠ 6 →
      (∀ fs, (∀ f ∈ fs, ∃ o ∈ s.mss.contacts, o.code = f.code ∧ (f.isOpen = true → o.isOpen = true) ∧ (f.low = true → o.low = true) ∧
          (f.high = true → o.high = true)) →
        exec (.contactCheck fs) s = .next { s with mss := { s.mss with contacts := fs } }) ∧
      (∀ o f : ContactFault, s.mss.contacts = [o] → o.code = f.code → o.isOpen = f.isOpen →
        (o.low = false ∧ f.low = true ∨ o.high = false ∧ f.high = true) →
        ∃ t, exec (.contactCheck [f]) s = .next t ∧ t.mss.contacts = [f] ∧ t.err.eq0.eseq = s.err.eq0.eseq + 1 ∧
          { t with mss := s.mss, err := s.err } = s) ∧
      (∀ f, (∀ o ∈ s.mss.contacts, o.code ≠ f.code) → f.isOpen = true ∨ f.low = true ∨ f.high = true → ∃ t, exec (.contactCheck [f]) s = .next t ∧ t.mss.contacts = [f] ∧ t.mem = s.mem ∧
        (f.isOpen = false → t.err.eq0.eseq = s.err.eq0.eseq + 1 ∧ { t with mss := s.mss, err := s.err } = s) ∧
        (f.isOpen = true → f.code = 0 → t.link.up = false ∧ t.link.perst = true) ∧
        (f.isOpen = true → f.code = 1 → t.board.prochotN = true))) ∧
    (∀ bus, exec (.smbusTimeout bus) s = .next s) ∧
    (∀ b bs r, s.mss.bist = b :: bs → b.scope = 0 → b.target.toNat < 96 → s.noStalls →
      s.spanHeld (b.ctx.toNat, b.dst.toNat, 16) = false →
      let bad := r.misr ≠ golden 0 b.kind.toNat
      ∃ t, exec (.bistComplete [r]) s = .next t ∧ t.mss.bist = bs ∧
        (t.mss.withheld.getLsbD b.target.toNat = true ↔ bad ∨ s.mss.withheld.getLsbD b.target.toNat = true) ∧
        t.hum b.target.toNat = { Hummock.reset with
          power := .running, vset := s.commonSet, nextId := (s.hum b.target.toNat).nextId
          sealedLast := (s.hum b.target.toNat).lastSealed, ue := (s.hum b.target.toNat).ue } ∧
        ∀ k, k ≠ b.target.toNat → t.hum k = s.hum k) ∧
    (∀ rs : List (Option Reading), s.board.standby = true → s.mss.waiting = [] → (∀ b, s.fw.handoff ≠ some (1, b)) →
      ∃ t, exec (.sensorSample rs) s = .next t ∧ t.fw.ms = s.fw.ms + 1 ∧
        { t.mem with stackRegs := s.mem.stackRegs } = s.mem ∧ t.fe = s.fe ∧
        (∀ k x, k < 24 → rs[104 + k]? = some (some x) →
          t.stack k = { (s.stack k) with hot := decide ((85 : Int) * 16 < x.value.toInt) }) ∧
        (s.fw.handoff = none → ∀ i, t.proc i =
          if (s.proc i).st = .starting ∧ (s.proc i).since + 20 ≤ s.fw.ms + 1 then { (s.proc i) with st := .rebuilding }
          else s.proc i) ∧
        (s.procReady mgpIx = false → t.mss.sens = s.mss.sens) ∧
        (∀ ch x, s.procReady mgpIx = true → ch < 140 → rs[ch]? = some (some x) →
          let v := sget 0 t.mss.sens ch
          v.extractLsb' 0 16 = x.value ∧ v.getLsbD 32 = true ∧
            v.extractLsb' 48 16 = (sget 0 s.mss.sens ch).extractLsb' 48 16 + 1 ∧
            (ch < 104 → (v.getLsbD 33 = true ↔ 90 * 16 < x.value.toInt) ∧ (v.getLsbD 34 = true ↔ 100 * 16 ≤ x.value.toInt)) ∧
            (104 ≤ ch → ch < 128 →
              (v.getLsbD 33 = true ↔ 85 * 16 < x.value.toInt) ∧ (v.getLsbD 34 = true ↔ 95 * 16 ≤ x.value.toInt))) ∧
        (∀ ch, s.procReady mgpIx = true → ch < 140 → rs[ch]? = some none → (sget 0 t.mss.sens ch).getLsbD 32 = false) ∧
        (∀ ch x, s.board.coreOn = true → ch < 104 → rs[ch]? = some (some x) → 100 * 16 ≤ x.value.toInt →
          t.pwc.clamp = true ∧ t.board.alertN = false ∧
            (110 * 16 ≤ x.value.toInt → s.mss.trip = none → t.board.thermtripN = false ∧ t.mss.trip ≠ none))) ∧
    (∀ (p : PortIx) (i : ModuleInfo), s.procReady mgpIx = true → (s.port p).modp = true → (s.modReg p).read = false →
      let fits : Bool := i.maxp.toNat ≤ s.regField 0x503180 0 8
      (∃ t, exec (.moduleReadRetry p (some i)) s = .next t ∧ t.modReg p = ⟨true, fits, i.maxp, i.ident, false⟩ ∧
        (∀ k, k ≠ p.val → t.modReg k = s.modReg k) ∧ (fits = false → t.err.eq0.eseq = s.err.eq0.eseq + 1) ∧
        { t with mss := s.mss, err := s.err } = s) ∧
      ((s.modReg p).told = true → exec (.moduleReadRetry p none) s = .next s) ∧
      ((s.modReg p).told = false → ∃ t, exec (.moduleReadRetry p none) s = .next t ∧ (t.modReg p).told = true ∧
        t.err.eq0.eseq = s.err.eq0.eseq + 1 ∧ { t with mss := s.mss, err := s.err } = s))

/-! ### The memories -/

/-- The model's own form of memory (log 4): at reset device memory and every Mere stand in canonical form. -/
def Obligations.ResetMemories : Prop := State.reset.memoriesOk ∧ State.reset.pending = [] ∧ ∀ a, bget State.reset.mem.hbm a = 0

/-- The model's own form of memory: every step keeps it, whatever the command. -/
def Obligations.StepKeepsMemories : Prop := ∀ s t : State, s.memoriesOk → step s = .next t → t.memoriesOk

/-! ### Rules stated whole -/

/-- After R82: each Lattice queues up to four issued instructions; issue to a full queue stalls the sequencer by handshake. Said where
nothing else of the hummock waits to start, so that the step does nothing beside. -/
def Obligations.LatticeQueueHoldsFour : Prop :=
  ∀ (i : Instr) (s : State) (g : Hum) (op : StOp), stationOp i = some (g, op) → isLattice op = true → s.issues g →
    s.inCode g ((s.hum g).seq.pc + 1) → s.onlyLatticeQueued g → (s.hum g).unret.length < 32 →
    ((∃ l, l < 4 ∧ (latMask op).getLsbD l = true ∧ 4 ≤ (s.hum g).latOccupancy l) →
      ∃ t, exec i s = .next t ∧ s.seqBecomes t g { (s.hum g).seq with st := .waitQueue, stall := some .queue }) ∧
    ((∀ l, l < 4 → (latMask op).getLsbD l = true → (s.hum g).latOccupancy l < 4) →
      exec i s = .next (s.entered g (s.entry g i op)))

/-- After R173: PLD reads the parameter block that the launch bound at admission, at an offset that is a multiple of 8 and lies within the
block, and otherwise raises the fault of R174; a GRAPH_PATCH changes no running launch's block; a doorbell launch binds the graph's
current version. Its commands' clauses are said where no doorbell waits, whose launch would be taken by the same step. -/
def Obligations.ParameterBlock : Prop :=
  ∀ (s : State) (g : Hum),
    (∀ xd xa imm, let off := ((s.hum g).seq.reg xa + BitVec.ofInt 64 imm.toInt).toNat
      s.issues g → s.inCode g ((s.hum g).seq.pc + 1) →
      (∀ x l, (s.hum g).holder = some x → s.launchOf x.launch = some l → off % 8 = 0 → off + 8 ≤ l.params.length →
        ∃ t, exec (.pld g xd xa imm) s = .next t ∧ s.onlyHum t g ∧ (s.hum g).alikeButSeq (t.hum g) ∧
          (s.hum g).seq.alikeButRegs (t.hum g).seq ∧ (t.hum g).seq.pc = (s.hum g).seq.pc + 1 ∧
          ∀ r : BitVec 5, (t.hum g).seq.reg r =
            if r = 0 then 0 else if r = xd then BitVec.ofNat 64 (leNat ((l.params.drop off).take 8)) else (s.hum g).seq.reg r) ∧
      ((off % 8 ≠ 0 ∨ (s.paramsOf g).length < off + 8) → ∃ t, exec (.pld g xd xa imm) s = .next t ∧ s.faults t g 5 0x1A)) ∧
    (∀ h gid off size src inl, s.fe.dbq = [] → ∃ t, exec (.graphPatch h gid off size src inl) s = .next t ∧ ∀ k : Hum, t.paramsOf k = s.paramsOf k) ∧
    (∀ c i t l, exec (.doorbellLaunch c i) s = .next t → s.fe.dbq = [] → t.fe.launches = s.fe.launches ++ [l] →
      ∃ x, s.graphOf l.gid.toNat = some x ∧ l.ver = x.current ∧ l.params = x.bytesOf x.current)

/-- R411: the MGP keeps up to four sessions, and a fifth SESS_OPEN is refused with ERROR Busy; a session ends at SESS_CLOSE, at its
timeout, at an MGP restart and at a power cycle; a chip reset does not end it, unless it takes back an MGP that a handoff was booting;
and its keys not yet loaded go with it. -/
def Obligations.SessionsEnd : Prop :=
  ∀ s : State,
    (∀ b nonce, s.onBinding b →
      (s.mss.sessions.length < 4 →
        ∃ t, exec (.sessOpen b nonce) s = .next t ∧ t.mss.sessions.length = s.mss.sessions.length + 1) ∧
      (4 ≤ s.mss.sessions.length → exec (.sessOpen b nonce) s = .next (s.replied b [0x7F, 0x03, 0]))) ∧
    (∀ b (m : SessIn) kref, s.heardAs b m → s.openOn b m.id = true →
      ∃ t, exec (.sessClose b m) s = .next t ∧ t.sessionOf m.id = none ∧ (∀ k, k ≠ m.id → t.sessionOf k = s.sessionOf k) ∧
        t.sessionKey (.session m.id) kref = none ∧ t.mem.keys = s.mem.keys) ∧
    (∀ sid kref, s.procReady mgpIx = true →
      ∃ t, exec (.sessionTimeout sid) s = .next t ∧ t.sessionOf sid = none ∧ (∀ k, k ≠ sid → t.sessionOf k = s.sessionOf k) ∧
        t.sessionKey (.session sid) kref = none ∧ t.mem.keys = s.mem.keys) ∧
    (∀ pc tcause ok sid kref, procRuns (s.proc mgpIx).st = true →
      ∃ t, exec (.watchdogFire 11 pc tcause ok) s = .next t ∧ t.mss.sessions = [] ∧ t.sessionKey (.session sid) kref = none ∧
        t.mem.keys = s.mem.keys) ∧
    (∀ rail, s.board.coreOn = true → ∃ t, exec (.corePowerLoss rail) s = .next t ∧ t.mss.sessions = []) ∧
    (∃ t, exec .standbyPowerLoss s = .next t ∧ t.mss.sessions = []) ∧
    (∀ m, s.privileged m → (∀ b, s.fw.handoff ≠ some (5, b)) →
      ∃ t, exec (.errResetChip m) s = .next t ∧ t.mss.sessions = s.mss.sessions)

/-- R462, R463: a ring write that fails leaves its entry at the head of the backlog, sets BLKD and raises the vector; the queue then
writes nothing until ERR_EQ_HEAD is written, which retries; BLKD stands until the retry succeeds. After an entry is written the vector
is raised if the mask has the bit of its type. -/
def Obligations.EventRingFailure : Prop :=
  ∀ (s : State) (q : Fin 2) (e : BitVec 8 × BitVec 32 × BitVec 16 × List Byte), s.eqReady q = some e →
    let x := s.eq q
    let vec := (s.reg (eqBase q + 8)).extractLsb' 6 11
    (∀ resp, ∃ t u : State, exec (.eventWriteFailed q resp) s = .next t ∧ u.raised t vec ∧
      { u with err := s.err } = s ∧ u.eq q = { x with blkd := true, retry := false } ∧
      exec (.eventQueueWrite q) t = .next t ∧
      ∀ m idx, s.privileged m → (x.tail.toNat + 1) % (s.eqSize q).getD 1024 ≠ idx.toNat % (s.eqSize q).getD 1024 →
        ∃ v, exec (.eqHeadWrite m q idx) t = .next v ∧ (v.eq q).blkd = true ∧ v.eqReady q = some e) ∧
    (∃ t u : State, exec (.eventQueueWrite q) s = .next t ∧ u.out = s.out ++
        [.hostWrite (s.reg (eqBase q) + BitVec.ofNat 64 (32 * x.tail.toNat)) (eventBytes e x.phase)] ∧
      { u with err := s.err, out := s.out } = s ∧ (u.eq q).blkd = false ∧ (u.eq q).backlog = x.backlog.tail ∧
      if (s.reg (eqBase q + 0x28)).getLsbD e.1.toNat = true then u.raised t vec else t = u)
end

