-- ==== Sys2Proof/Laws/Store.lean ====
section
/-!
SUPPORT. Sys2Proof/Laws/Store.lean: what reading and writing a sparse table do, and the canonical form that every operation on
a table keeps.
-/

namespace Sys2Proof.Machine

variable {α : Type}

@[simp] theorem sget_nil (d : α) (k : Nat) : sget d [] k = d := rfl

/-! ### Reading after writing -/

theorem sget_sdel_same (d : α) (m : Store α) (k : Nat) : sget d (sdel m k) k = d := by
  induction m with
  | nil => rfl
  | cons p m ih =>
    obtain ⟨j, v⟩ := p
    by_cases h : j = k
    · simp only [sdel, if_pos h]; exact ih
    · simp only [sdel, if_neg h, sget]; exact ih

theorem sget_sdel_ne (d : α) (m : Store α) {k n : Nat} (h : n ≠ k) : sget d (sdel m k) n = sget d m n := by
  induction m with
  | nil => rfl
  | cons p m ih =>
    obtain ⟨j, v⟩ := p
    by_cases hj : j = k
    · have : j ≠ n := fun e => h (e ▸ hj)
      simp only [sdel, if_pos hj, sget, if_neg this]; exact ih
    · by_cases hn : j = n
      · simp only [sdel, if_neg hj, sget, if_pos hn]
      · simp only [sdel, if_neg hj, sget, if_neg hn]; exact ih

theorem sget_sins_same (d : α) (m : Store α) (k : Nat) (v : α) : sget d (sins m k v) k = v := by
  induction m with
  | nil => simp [sins, sget]
  | cons p m ih =>
    obtain ⟨j, w⟩ := p
    by_cases h : j = k
    · simp only [sins, if_pos h, sget, if_true]
    · by_cases hl : k < j
      · simp only [sins, if_neg h, if_pos hl, sget, if_true]
      · simp only [sins, if_neg h, if_neg hl, sget]; exact ih

theorem sget_sins_ne (d : α) (m : Store α) (v : α) {k n : Nat} (h : n ≠ k) : sget d (sins m k v) n = sget d m n := by
  induction m with
  | nil => simp [sins, sget, Ne.symm h]
  | cons p m ih =>
    obtain ⟨j, w⟩ := p
    by_cases hj : j = k
    · subst hj
      simp only [sins, if_true, sget, if_neg (Ne.symm h)]
    · by_cases hl : k < j
      · simp only [sins, if_neg hj, if_pos hl, sget, if_neg (Ne.symm h)]
      · by_cases hn : j = n
        · simp only [sins, if_neg hj, if_neg hl, sget, if_pos hn]
        · simp only [sins, if_neg hj, if_neg hl, sget, if_neg hn]; exact ih

variable [DecidableEq α]

/-- What is read at the key written is what was written. -/
@[simp] theorem sget_sset_same (d : α) (m : Store α) (k : Nat) (v : α) : sget d (sset d m k v) k = v := by
  by_cases h : v = d
  · subst h; simp only [sset, if_true, sget_sdel_same]
  · simp only [sset, if_neg h, sget_sins_same]

/-- Every other key reads as before. -/
theorem sget_sset_ne (d : α) (m : Store α) (v : α) {k n : Nat} (h : n ≠ k) : sget d (sset d m k v) n = sget d m n := by
  by_cases hv : v = d
  · simp only [sset, if_pos hv, sget_sdel_ne d m h]
  · simp only [sset, if_neg hv, sget_sins_ne d m v h]

/-- The same read with another default. -/
theorem sget_sset_other (d e : α) (m : Store α) (v : α) {k n : Nat} (h : n ≠ k) :
    sget e (sset d m k v) n = sget e m n := by
  by_cases hv : v = d
  · simp only [sset, if_pos hv, sget_sdel_ne e m h]
  · simp only [sset, if_neg hv, sget_sins_ne e m v h]

theorem sget_sset (d : α) (m : Store α) (k n : Nat) (v : α) :
    sget d (sset d m k v) n = if n = k then v else sget d m n := by
  by_cases h : n = k
  · subst h; simp
  · simp [sget_sset_ne d m v h, h]

/-! ### The canonical form -/

/-- Keys strictly rising from lo on, and no entry equal to the default: `swf` in a form for induction. -/
def sfrom (d : α) : Nat → Store α → Prop
  | _, [] => True
  | lo, (j, v) :: m => lo ≤ j ∧ v ≠ d ∧ sfrom d (j + 1) m

omit [DecidableEq α] in
theorem sfrom_mono {d : α} {m : Store α} {a b : Nat} (h : a ≤ b) (w : sfrom d b m) : sfrom d a m := by
  cases m with
  | nil => trivial
  | cons p m => exact ⟨h.trans w.1, w.2⟩

theorem swf_cons (d : α) (j : Nat) (v : α) (m : Store α) :
    swf d ((j, v) :: m) = true ↔ v ≠ d ∧ sfrom d (j + 1) m := by
  induction m generalizing j v with
  | nil => simp [swf, sfrom]
  | cons p m ih =>
    obtain ⟨k, w⟩ := p
    simp only [swf, Bool.and_eq_true, decide_eq_true_eq, ih, sfrom]
    exact ⟨fun h => ⟨h.1.1, h.1.2, h.2⟩, fun h => ⟨⟨h.1, h.2.1⟩, h.2.2⟩⟩

theorem swf_iff (d : α) (m : Store α) : swf d m = true ↔ sfrom d 0 m := by
  cases m with
  | nil => simp [swf, sfrom]
  | cons p m => obtain ⟨j, v⟩ := p; rw [swf_cons]; simp [sfrom]

omit [DecidableEq α] in
theorem sfrom_sdel {d : α} {m : Store α} {lo k : Nat} (w : sfrom d lo m) : sfrom d lo (sdel m k) := by
  induction m generalizing lo with
  | nil => trivial
  | cons p m ih =>
    obtain ⟨j, v⟩ := p
    by_cases h : j = k
    · simp only [sdel, if_pos h]
      exact sfrom_mono (Nat.le_succ_of_le w.1) (ih w.2.2)
    · simp only [sdel, if_neg h]
      exact ⟨w.1, w.2.1, ih w.2.2⟩

omit [DecidableEq α] in
theorem sfrom_sins {d : α} {m : Store α} {lo k : Nat} {v : α} (hv : v ≠ d) (hk : lo ≤ k) (w : sfrom d lo m) :
    sfrom d lo (sins m k v) := by
  induction m generalizing lo with
  | nil => exact ⟨hk, hv, trivial⟩
  | cons p m ih =>
    obtain ⟨j, x⟩ := p
    by_cases h : j = k
    · subst h
      simp only [sins, if_true]
      exact ⟨w.1, hv, w.2.2⟩
    · by_cases hl : k < j
      · simp only [sins, if_neg h, if_pos hl]
        exact ⟨hk, hv, hl, w.2⟩
      · simp only [sins, if_neg h, if_neg hl]
        exact ⟨w.1, w.2.1, ih (by omega) w.2.2⟩

omit [DecidableEq α] in
theorem sfrom_filter {d : α} {m : Store α} {lo : Nat} (p : Nat × α → Bool) (w : sfrom d lo m) :
    sfrom d lo (m.filter p) := by
  induction m generalizing lo with
  | nil => trivial
  | cons q m ih =>
    obtain ⟨j, v⟩ := q
    by_cases h : p (j, v)
    · rw [List.filter_cons_of_pos h]
      exact ⟨w.1, w.2.1, ih w.2.2⟩
    · rw [List.filter_cons_of_neg h]
      exact sfrom_mono (Nat.le_succ_of_le w.1) (ih w.2.2)

/-- Deleting keeps the canonical form. -/
theorem swf_sdel {d : α} {m : Store α} (k : Nat) (w : swf d m = true) : swf d (sdel m k) = true :=
  (swf_iff d _).2 (sfrom_sdel ((swf_iff d m).1 w))

/-- Writing keeps the canonical form. -/
theorem swf_sset {d : α} {m : Store α} (k : Nat) (v : α) (w : swf d m = true) : swf d (sset d m k v) = true := by
  by_cases h : v = d
  · simp only [sset, if_pos h]; exact swf_sdel k w
  · simp only [sset, if_neg h]
    exact (swf_iff d _).2 (sfrom_sins h (Nat.zero_le k) ((swf_iff d m).1 w))

/-- Dropping entries keeps the canonical form. -/
theorem swf_filter {d : α} {m : Store α} (p : Nat × α → Bool) (w : swf d m = true) : swf d (m.filter p) = true :=
  (swf_iff d _).2 (sfrom_filter p ((swf_iff d m).1 w))

theorem swf_sclear {d : α} {m : Store α} (lo hi : Nat) (w : swf d m = true) : swf d (sclear m lo hi) = true :=
  swf_filter _ w

theorem swf_scopy {d : α} {m : Store α} (lo n dst : Nat) (w : swf d m = true) : swf d (scopy d m lo n dst) = true := by
  unfold scopy
  generalize srange m lo (lo + n) = l
  have h := swf_sclear dst (dst + n) w
  generalize sclear m dst (dst + n) = a at h
  induction l generalizing a with
  | nil => exact h
  | cons p l ih => exact ih _ (swf_sset _ _ h)

/-! ### Byte memories -/

@[simp] theorem bget_bset_same (m : List Host.Cell) (a : Nat) (b : Byte) : bget (bset m a b) a = b :=
  sget_sset_same 0 m a b

theorem bget_bset_ne (m : List Host.Cell) (b : Byte) {a n : Nat} (h : n ≠ a) : bget (bset m a b) n = bget m n :=
  sget_sset_ne 0 m b h

/-- A byte below the bytes written reads as before. -/
theorem bget_bwrite_lt (m : List Host.Cell) (bs : List Byte) {a n : Nat} (h : n < a) :
    bget (bwrite m a bs) n = bget m n := by
  induction bs generalizing m a with
  | nil => rfl
  | cons b bs ih =>
    rw [bwrite, ih (bset m a b) (Nat.lt_succ_of_lt h), bget_bset_ne m b (Nat.ne_of_lt h)]

/-- A byte above the bytes written reads as before. -/
theorem bget_bwrite_ge (m : List Host.Cell) (bs : List Byte) {a n : Nat} (h : a + bs.length ≤ n) :
    bget (bwrite m a bs) n = bget m n := by
  induction bs generalizing m a with
  | nil => rfl
  | cons b bs ih =>
    simp only [List.length_cons] at h
    rw [bwrite, ih (bset m a b) (by omega), bget_bset_ne m b (by omega)]

/-- What is read where bytes were written is what was written. -/
theorem bread_bwrite (m : List Host.Cell) (a : Nat) (bs : List Byte) : bread (bwrite m a bs) a bs.length = bs := by
  induction bs generalizing m a with
  | nil => rfl
  | cons b bs ih =>
    simp only [bwrite, List.length_cons, bread, ih]
    rw [bget_bwrite_lt _ bs (Nat.lt_succ_self a), bget_bset_same]

/-- The canonical form of a byte memory: addresses strictly rising, no byte 0x00 listed. -/
abbrev Memory.wf (m : List Host.Cell) : Bool := swf (0 : Byte) m

theorem Memory.wf_nil : Memory.wf [] = true := rfl

theorem Memory.wf_bset {m : List Host.Cell} (a : Nat) (b : Byte) (w : Memory.wf m = true) : Memory.wf (bset m a b) = true :=
  swf_sset a b w

theorem Memory.wf_bwrite {m : List Host.Cell} (a : Nat) (bs : List Byte) (w : Memory.wf m = true) :
    Memory.wf (bwrite m a bs) = true := by
  induction bs generalizing m a with
  | nil => exact w
  | cons b bs ih => exact ih (a + 1) (Memory.wf_bset a b w)

end Sys2Proof.Machine
end

