-- ==== Sys2Proof/Laws/State.lean ====
section
/-!
SUPPORT. Sys2Proof/Laws/State.lean: what each update of one part of the state leaves alone, field by field, and what it makes of
the part that it updates.
-/

namespace Sys2Proof.Machine

/-! ### State.setHum -/

@[simp] theorem State.setHum_pending (s : State) (g : Nat) (h : Hummock) : (s.setHum g h).pending = s.pending := rfl
@[simp] theorem State.setHum_freeCtr (s : State) (g : Nat) (h : Hummock) : (s.setHum g h).freeCtr = s.freeCtr := rfl
@[simp] theorem State.setHum_regs (s : State) (g : Nat) (h : Hummock) : (s.setHum g h).regs = s.regs := rfl
@[simp] theorem State.setHum_sluices (s : State) (g : Nat) (h : Hummock) : (s.setHum g h).sluices = s.sluices := rfl
@[simp] theorem State.setHum_flight (s : State) (g : Nat) (h : Hummock) : (s.setHum g h).flight = s.flight := rfl
@[simp] theorem State.setHum_mem (s : State) (g : Nat) (h : Hummock) : (s.setHum g h).mem = s.mem := rfl
@[simp] theorem State.setHum_ep (s : State) (g : Nat) (h : Hummock) : (s.setHum g h).ep = s.ep := rfl
@[simp] theorem State.setHum_fe (s : State) (g : Nat) (h : Hummock) : (s.setHum g h).fe = s.fe := rfl
@[simp] theorem State.setHum_cwy (s : State) (g : Nat) (h : Hummock) : (s.setHum g h).cwy = s.cwy := rfl
@[simp] theorem State.setHum_err (s : State) (g : Nat) (h : Hummock) : (s.setHum g h).err = s.err := rfl
@[simp] theorem State.setHum_fw (s : State) (g : Nat) (h : Hummock) : (s.setHum g h).fw = s.fw := rfl
@[simp] theorem State.setHum_mss (s : State) (g : Nat) (h : Hummock) : (s.setHum g h).mss = s.mss := rfl
@[simp] theorem State.setHum_pwc (s : State) (g : Nat) (h : Hummock) : (s.setHum g h).pwc = s.pwc := rfl
@[simp] theorem State.setHum_jnl (s : State) (g : Nat) (h : Hummock) : (s.setHum g h).jnl = s.jnl := rfl
@[simp] theorem State.setHum_cip (s : State) (g : Nat) (h : Hummock) : (s.setHum g h).cip = s.cip := rfl
@[simp] theorem State.setHum_link (s : State) (g : Nat) (h : Hummock) : (s.setHum g h).link = s.link := rfl
@[simp] theorem State.setHum_board (s : State) (g : Nat) (h : Hummock) : (s.setHum g h).board = s.board := rfl
@[simp] theorem State.setHum_out (s : State) (g : Nat) (h : Hummock) : (s.setHum g h).out = s.out := rfl

/-! ### State.modHum -/

@[simp] theorem State.modHum_pending (s : State) (g : Nat) (f : Hummock → Hummock) : (s.modHum g f).pending = s.pending := rfl
@[simp] theorem State.modHum_freeCtr (s : State) (g : Nat) (f : Hummock → Hummock) : (s.modHum g f).freeCtr = s.freeCtr := rfl
@[simp] theorem State.modHum_regs (s : State) (g : Nat) (f : Hummock → Hummock) : (s.modHum g f).regs = s.regs := rfl
@[simp] theorem State.modHum_sluices (s : State) (g : Nat) (f : Hummock → Hummock) : (s.modHum g f).sluices = s.sluices := rfl
@[simp] theorem State.modHum_flight (s : State) (g : Nat) (f : Hummock → Hummock) : (s.modHum g f).flight = s.flight := rfl
@[simp] theorem State.modHum_mem (s : State) (g : Nat) (f : Hummock → Hummock) : (s.modHum g f).mem = s.mem := rfl
@[simp] theorem State.modHum_ep (s : State) (g : Nat) (f : Hummock → Hummock) : (s.modHum g f).ep = s.ep := rfl
@[simp] theorem State.modHum_fe (s : State) (g : Nat) (f : Hummock → Hummock) : (s.modHum g f).fe = s.fe := rfl
@[simp] theorem State.modHum_cwy (s : State) (g : Nat) (f : Hummock → Hummock) : (s.modHum g f).cwy = s.cwy := rfl
@[simp] theorem State.modHum_err (s : State) (g : Nat) (f : Hummock → Hummock) : (s.modHum g f).err = s.err := rfl
@[simp] theorem State.modHum_fw (s : State) (g : Nat) (f : Hummock → Hummock) : (s.modHum g f).fw = s.fw := rfl
@[simp] theorem State.modHum_mss (s : State) (g : Nat) (f : Hummock → Hummock) : (s.modHum g f).mss = s.mss := rfl
@[simp] theorem State.modHum_pwc (s : State) (g : Nat) (f : Hummock → Hummock) : (s.modHum g f).pwc = s.pwc := rfl
@[simp] theorem State.modHum_jnl (s : State) (g : Nat) (f : Hummock → Hummock) : (s.modHum g f).jnl = s.jnl := rfl
@[simp] theorem State.modHum_cip (s : State) (g : Nat) (f : Hummock → Hummock) : (s.modHum g f).cip = s.cip := rfl
@[simp] theorem State.modHum_link (s : State) (g : Nat) (f : Hummock → Hummock) : (s.modHum g f).link = s.link := rfl
@[simp] theorem State.modHum_board (s : State) (g : Nat) (f : Hummock → Hummock) : (s.modHum g f).board = s.board := rfl
@[simp] theorem State.modHum_out (s : State) (g : Nat) (f : Hummock → Hummock) : (s.modHum g f).out = s.out := rfl

/-! ### State.setSluice -/

@[simp] theorem State.setSluice_pending (s : State) (n : Nat) (x : Sluice) : (s.setSluice n x).pending = s.pending := rfl
@[simp] theorem State.setSluice_freeCtr (s : State) (n : Nat) (x : Sluice) : (s.setSluice n x).freeCtr = s.freeCtr := rfl
@[simp] theorem State.setSluice_regs (s : State) (n : Nat) (x : Sluice) : (s.setSluice n x).regs = s.regs := rfl
@[simp] theorem State.setSluice_hums (s : State) (n : Nat) (x : Sluice) : (s.setSluice n x).hums = s.hums := rfl
@[simp] theorem State.setSluice_flight (s : State) (n : Nat) (x : Sluice) : (s.setSluice n x).flight = s.flight := rfl
@[simp] theorem State.setSluice_mem (s : State) (n : Nat) (x : Sluice) : (s.setSluice n x).mem = s.mem := rfl
@[simp] theorem State.setSluice_ep (s : State) (n : Nat) (x : Sluice) : (s.setSluice n x).ep = s.ep := rfl
@[simp] theorem State.setSluice_fe (s : State) (n : Nat) (x : Sluice) : (s.setSluice n x).fe = s.fe := rfl
@[simp] theorem State.setSluice_cwy (s : State) (n : Nat) (x : Sluice) : (s.setSluice n x).cwy = s.cwy := rfl
@[simp] theorem State.setSluice_err (s : State) (n : Nat) (x : Sluice) : (s.setSluice n x).err = s.err := rfl
@[simp] theorem State.setSluice_fw (s : State) (n : Nat) (x : Sluice) : (s.setSluice n x).fw = s.fw := rfl
@[simp] theorem State.setSluice_mss (s : State) (n : Nat) (x : Sluice) : (s.setSluice n x).mss = s.mss := rfl
@[simp] theorem State.setSluice_pwc (s : State) (n : Nat) (x : Sluice) : (s.setSluice n x).pwc = s.pwc := rfl
@[simp] theorem State.setSluice_jnl (s : State) (n : Nat) (x : Sluice) : (s.setSluice n x).jnl = s.jnl := rfl
@[simp] theorem State.setSluice_cip (s : State) (n : Nat) (x : Sluice) : (s.setSluice n x).cip = s.cip := rfl
@[simp] theorem State.setSluice_link (s : State) (n : Nat) (x : Sluice) : (s.setSluice n x).link = s.link := rfl
@[simp] theorem State.setSluice_board (s : State) (n : Nat) (x : Sluice) : (s.setSluice n x).board = s.board := rfl
@[simp] theorem State.setSluice_out (s : State) (n : Nat) (x : Sluice) : (s.setSluice n x).out = s.out := rfl

/-! ### State.setCtx -/

@[simp] theorem State.setCtx_pending (s : State) (c : Nat) (x : Ctx) : (s.setCtx c x).pending = s.pending := rfl
@[simp] theorem State.setCtx_freeCtr (s : State) (c : Nat) (x : Ctx) : (s.setCtx c x).freeCtr = s.freeCtr := rfl
@[simp] theorem State.setCtx_regs (s : State) (c : Nat) (x : Ctx) : (s.setCtx c x).regs = s.regs := rfl
@[simp] theorem State.setCtx_hums (s : State) (c : Nat) (x : Ctx) : (s.setCtx c x).hums = s.hums := rfl
@[simp] theorem State.setCtx_sluices (s : State) (c : Nat) (x : Ctx) : (s.setCtx c x).sluices = s.sluices := rfl
@[simp] theorem State.setCtx_flight (s : State) (c : Nat) (x : Ctx) : (s.setCtx c x).flight = s.flight := rfl
@[simp] theorem State.setCtx_mem (s : State) (c : Nat) (x : Ctx) : (s.setCtx c x).mem = s.mem := rfl
@[simp] theorem State.setCtx_ep (s : State) (c : Nat) (x : Ctx) : (s.setCtx c x).ep = s.ep := rfl
@[simp] theorem State.setCtx_cwy (s : State) (c : Nat) (x : Ctx) : (s.setCtx c x).cwy = s.cwy := rfl
@[simp] theorem State.setCtx_err (s : State) (c : Nat) (x : Ctx) : (s.setCtx c x).err = s.err := rfl
@[simp] theorem State.setCtx_fw (s : State) (c : Nat) (x : Ctx) : (s.setCtx c x).fw = s.fw := rfl
@[simp] theorem State.setCtx_mss (s : State) (c : Nat) (x : Ctx) : (s.setCtx c x).mss = s.mss := rfl
@[simp] theorem State.setCtx_pwc (s : State) (c : Nat) (x : Ctx) : (s.setCtx c x).pwc = s.pwc := rfl
@[simp] theorem State.setCtx_jnl (s : State) (c : Nat) (x : Ctx) : (s.setCtx c x).jnl = s.jnl := rfl
@[simp] theorem State.setCtx_cip (s : State) (c : Nat) (x : Ctx) : (s.setCtx c x).cip = s.cip := rfl
@[simp] theorem State.setCtx_link (s : State) (c : Nat) (x : Ctx) : (s.setCtx c x).link = s.link := rfl
@[simp] theorem State.setCtx_board (s : State) (c : Nat) (x : Ctx) : (s.setCtx c x).board = s.board := rfl
@[simp] theorem State.setCtx_out (s : State) (c : Nat) (x : Ctx) : (s.setCtx c x).out = s.out := rfl

/-! ### State.modCtx -/

@[simp] theorem State.modCtx_pending (s : State) (c : Nat) (f : Ctx → Ctx) : (s.modCtx c f).pending = s.pending := rfl
@[simp] theorem State.modCtx_freeCtr (s : State) (c : Nat) (f : Ctx → Ctx) : (s.modCtx c f).freeCtr = s.freeCtr := rfl
@[simp] theorem State.modCtx_regs (s : State) (c : Nat) (f : Ctx → Ctx) : (s.modCtx c f).regs = s.regs := rfl
@[simp] theorem State.modCtx_hums (s : State) (c : Nat) (f : Ctx → Ctx) : (s.modCtx c f).hums = s.hums := rfl
@[simp] theorem State.modCtx_sluices (s : State) (c : Nat) (f : Ctx → Ctx) : (s.modCtx c f).sluices = s.sluices := rfl
@[simp] theorem State.modCtx_flight (s : State) (c : Nat) (f : Ctx → Ctx) : (s.modCtx c f).flight = s.flight := rfl
@[simp] theorem State.modCtx_mem (s : State) (c : Nat) (f : Ctx → Ctx) : (s.modCtx c f).mem = s.mem := rfl
@[simp] theorem State.modCtx_ep (s : State) (c : Nat) (f : Ctx → Ctx) : (s.modCtx c f).ep = s.ep := rfl
@[simp] theorem State.modCtx_cwy (s : State) (c : Nat) (f : Ctx → Ctx) : (s.modCtx c f).cwy = s.cwy := rfl
@[simp] theorem State.modCtx_err (s : State) (c : Nat) (f : Ctx → Ctx) : (s.modCtx c f).err = s.err := rfl
@[simp] theorem State.modCtx_fw (s : State) (c : Nat) (f : Ctx → Ctx) : (s.modCtx c f).fw = s.fw := rfl
@[simp] theorem State.modCtx_mss (s : State) (c : Nat) (f : Ctx → Ctx) : (s.modCtx c f).mss = s.mss := rfl
@[simp] theorem State.modCtx_pwc (s : State) (c : Nat) (f : Ctx → Ctx) : (s.modCtx c f).pwc = s.pwc := rfl
@[simp] theorem State.modCtx_jnl (s : State) (c : Nat) (f : Ctx → Ctx) : (s.modCtx c f).jnl = s.jnl := rfl
@[simp] theorem State.modCtx_cip (s : State) (c : Nat) (f : Ctx → Ctx) : (s.modCtx c f).cip = s.cip := rfl
@[simp] theorem State.modCtx_link (s : State) (c : Nat) (f : Ctx → Ctx) : (s.modCtx c f).link = s.link := rfl
@[simp] theorem State.modCtx_board (s : State) (c : Nat) (f : Ctx → Ctx) : (s.modCtx c f).board = s.board := rfl
@[simp] theorem State.modCtx_out (s : State) (c : Nat) (f : Ctx → Ctx) : (s.modCtx c f).out = s.out := rfl

/-! ### State.setPort -/

@[simp] theorem State.setPort_pending (s : State) (p : Nat) (x : Port) : (s.setPort p x).pending = s.pending := rfl
@[simp] theorem State.setPort_freeCtr (s : State) (p : Nat) (x : Port) : (s.setPort p x).freeCtr = s.freeCtr := rfl
@[simp] theorem State.setPort_regs (s : State) (p : Nat) (x : Port) : (s.setPort p x).regs = s.regs := rfl
@[simp] theorem State.setPort_hums (s : State) (p : Nat) (x : Port) : (s.setPort p x).hums = s.hums := rfl
@[simp] theorem State.setPort_sluices (s : State) (p : Nat) (x : Port) : (s.setPort p x).sluices = s.sluices := rfl
@[simp] theorem State.setPort_flight (s : State) (p : Nat) (x : Port) : (s.setPort p x).flight = s.flight := rfl
@[simp] theorem State.setPort_mem (s : State) (p : Nat) (x : Port) : (s.setPort p x).mem = s.mem := rfl
@[simp] theorem State.setPort_ep (s : State) (p : Nat) (x : Port) : (s.setPort p x).ep = s.ep := rfl
@[simp] theorem State.setPort_fe (s : State) (p : Nat) (x : Port) : (s.setPort p x).fe = s.fe := rfl
@[simp] theorem State.setPort_err (s : State) (p : Nat) (x : Port) : (s.setPort p x).err = s.err := rfl
@[simp] theorem State.setPort_fw (s : State) (p : Nat) (x : Port) : (s.setPort p x).fw = s.fw := rfl
@[simp] theorem State.setPort_mss (s : State) (p : Nat) (x : Port) : (s.setPort p x).mss = s.mss := rfl
@[simp] theorem State.setPort_pwc (s : State) (p : Nat) (x : Port) : (s.setPort p x).pwc = s.pwc := rfl
@[simp] theorem State.setPort_jnl (s : State) (p : Nat) (x : Port) : (s.setPort p x).jnl = s.jnl := rfl
@[simp] theorem State.setPort_cip (s : State) (p : Nat) (x : Port) : (s.setPort p x).cip = s.cip := rfl
@[simp] theorem State.setPort_link (s : State) (p : Nat) (x : Port) : (s.setPort p x).link = s.link := rfl
@[simp] theorem State.setPort_board (s : State) (p : Nat) (x : Port) : (s.setPort p x).board = s.board := rfl
@[simp] theorem State.setPort_out (s : State) (p : Nat) (x : Port) : (s.setPort p x).out = s.out := rfl

/-! ### State.modPort -/

@[simp] theorem State.modPort_pending (s : State) (p : Nat) (f : Port → Port) : (s.modPort p f).pending = s.pending := rfl
@[simp] theorem State.modPort_freeCtr (s : State) (p : Nat) (f : Port → Port) : (s.modPort p f).freeCtr = s.freeCtr := rfl
@[simp] theorem State.modPort_regs (s : State) (p : Nat) (f : Port → Port) : (s.modPort p f).regs = s.regs := rfl
@[simp] theorem State.modPort_hums (s : State) (p : Nat) (f : Port → Port) : (s.modPort p f).hums = s.hums := rfl
@[simp] theorem State.modPort_sluices (s : State) (p : Nat) (f : Port → Port) : (s.modPort p f).sluices = s.sluices := rfl
@[simp] theorem State.modPort_flight (s : State) (p : Nat) (f : Port → Port) : (s.modPort p f).flight = s.flight := rfl
@[simp] theorem State.modPort_mem (s : State) (p : Nat) (f : Port → Port) : (s.modPort p f).mem = s.mem := rfl
@[simp] theorem State.modPort_ep (s : State) (p : Nat) (f : Port → Port) : (s.modPort p f).ep = s.ep := rfl
@[simp] theorem State.modPort_fe (s : State) (p : Nat) (f : Port → Port) : (s.modPort p f).fe = s.fe := rfl
@[simp] theorem State.modPort_err (s : State) (p : Nat) (f : Port → Port) : (s.modPort p f).err = s.err := rfl
@[simp] theorem State.modPort_fw (s : State) (p : Nat) (f : Port → Port) : (s.modPort p f).fw = s.fw := rfl
@[simp] theorem State.modPort_mss (s : State) (p : Nat) (f : Port → Port) : (s.modPort p f).mss = s.mss := rfl
@[simp] theorem State.modPort_pwc (s : State) (p : Nat) (f : Port → Port) : (s.modPort p f).pwc = s.pwc := rfl
@[simp] theorem State.modPort_jnl (s : State) (p : Nat) (f : Port → Port) : (s.modPort p f).jnl = s.jnl := rfl
@[simp] theorem State.modPort_cip (s : State) (p : Nat) (f : Port → Port) : (s.modPort p f).cip = s.cip := rfl
@[simp] theorem State.modPort_link (s : State) (p : Nat) (f : Port → Port) : (s.modPort p f).link = s.link := rfl
@[simp] theorem State.modPort_board (s : State) (p : Nat) (f : Port → Port) : (s.modPort p f).board = s.board := rfl
@[simp] theorem State.modPort_out (s : State) (p : Nat) (f : Port → Port) : (s.modPort p f).out = s.out := rfl

/-! ### State.setProc -/

@[simp] theorem State.setProc_pending (s : State) (i : Nat) (x : ProcReg) : (s.setProc i x).pending = s.pending := rfl
@[simp] theorem State.setProc_freeCtr (s : State) (i : Nat) (x : ProcReg) : (s.setProc i x).freeCtr = s.freeCtr := rfl
@[simp] theorem State.setProc_regs (s : State) (i : Nat) (x : ProcReg) : (s.setProc i x).regs = s.regs := rfl
@[simp] theorem State.setProc_hums (s : State) (i : Nat) (x : ProcReg) : (s.setProc i x).hums = s.hums := rfl
@[simp] theorem State.setProc_sluices (s : State) (i : Nat) (x : ProcReg) : (s.setProc i x).sluices = s.sluices := rfl
@[simp] theorem State.setProc_flight (s : State) (i : Nat) (x : ProcReg) : (s.setProc i x).flight = s.flight := rfl
@[simp] theorem State.setProc_mem (s : State) (i : Nat) (x : ProcReg) : (s.setProc i x).mem = s.mem := rfl
@[simp] theorem State.setProc_ep (s : State) (i : Nat) (x : ProcReg) : (s.setProc i x).ep = s.ep := rfl
@[simp] theorem State.setProc_fe (s : State) (i : Nat) (x : ProcReg) : (s.setProc i x).fe = s.fe := rfl
@[simp] theorem State.setProc_cwy (s : State) (i : Nat) (x : ProcReg) : (s.setProc i x).cwy = s.cwy := rfl
@[simp] theorem State.setProc_err (s : State) (i : Nat) (x : ProcReg) : (s.setProc i x).err = s.err := rfl
@[simp] theorem State.setProc_mss (s : State) (i : Nat) (x : ProcReg) : (s.setProc i x).mss = s.mss := rfl
@[simp] theorem State.setProc_pwc (s : State) (i : Nat) (x : ProcReg) : (s.setProc i x).pwc = s.pwc := rfl
@[simp] theorem State.setProc_jnl (s : State) (i : Nat) (x : ProcReg) : (s.setProc i x).jnl = s.jnl := rfl
@[simp] theorem State.setProc_cip (s : State) (i : Nat) (x : ProcReg) : (s.setProc i x).cip = s.cip := rfl
@[simp] theorem State.setProc_link (s : State) (i : Nat) (x : ProcReg) : (s.setProc i x).link = s.link := rfl
@[simp] theorem State.setProc_board (s : State) (i : Nat) (x : ProcReg) : (s.setProc i x).board = s.board := rfl
@[simp] theorem State.setProc_out (s : State) (i : Nat) (x : ProcReg) : (s.setProc i x).out = s.out := rfl

/-! ### State.setStack -/

@[simp] theorem State.setStack_pending (s : State) (k : Nat) (x : StackReg) : (s.setStack k x).pending = s.pending := rfl
@[simp] theorem State.setStack_freeCtr (s : State) (k : Nat) (x : StackReg) : (s.setStack k x).freeCtr = s.freeCtr := rfl
@[simp] theorem State.setStack_regs (s : State) (k : Nat) (x : StackReg) : (s.setStack k x).regs = s.regs := rfl
@[simp] theorem State.setStack_hums (s : State) (k : Nat) (x : StackReg) : (s.setStack k x).hums = s.hums := rfl
@[simp] theorem State.setStack_sluices (s : State) (k : Nat) (x : StackReg) : (s.setStack k x).sluices = s.sluices := rfl
@[simp] theorem State.setStack_flight (s : State) (k : Nat) (x : StackReg) : (s.setStack k x).flight = s.flight := rfl
@[simp] theorem State.setStack_ep (s : State) (k : Nat) (x : StackReg) : (s.setStack k x).ep = s.ep := rfl
@[simp] theorem State.setStack_fe (s : State) (k : Nat) (x : StackReg) : (s.setStack k x).fe = s.fe := rfl
@[simp] theorem State.setStack_cwy (s : State) (k : Nat) (x : StackReg) : (s.setStack k x).cwy = s.cwy := rfl
@[simp] theorem State.setStack_err (s : State) (k : Nat) (x : StackReg) : (s.setStack k x).err = s.err := rfl
@[simp] theorem State.setStack_fw (s : State) (k : Nat) (x : StackReg) : (s.setStack k x).fw = s.fw := rfl
@[simp] theorem State.setStack_mss (s : State) (k : Nat) (x : StackReg) : (s.setStack k x).mss = s.mss := rfl
@[simp] theorem State.setStack_pwc (s : State) (k : Nat) (x : StackReg) : (s.setStack k x).pwc = s.pwc := rfl
@[simp] theorem State.setStack_jnl (s : State) (k : Nat) (x : StackReg) : (s.setStack k x).jnl = s.jnl := rfl
@[simp] theorem State.setStack_cip (s : State) (k : Nat) (x : StackReg) : (s.setStack k x).cip = s.cip := rfl
@[simp] theorem State.setStack_link (s : State) (k : Nat) (x : StackReg) : (s.setStack k x).link = s.link := rfl
@[simp] theorem State.setStack_board (s : State) (k : Nat) (x : StackReg) : (s.setStack k x).board = s.board := rfl
@[simp] theorem State.setStack_out (s : State) (k : Nat) (x : StackReg) : (s.setStack k x).out = s.out := rfl

/-! ### State.setOrb -/

@[simp] theorem State.setOrb_pending (s : State) (x : Nat) (o : Orb) : (s.setOrb x o).pending = s.pending := rfl
@[simp] theorem State.setOrb_freeCtr (s : State) (x : Nat) (o : Orb) : (s.setOrb x o).freeCtr = s.freeCtr := rfl
@[simp] theorem State.setOrb_regs (s : State) (x : Nat) (o : Orb) : (s.setOrb x o).regs = s.regs := rfl
@[simp] theorem State.setOrb_hums (s : State) (x : Nat) (o : Orb) : (s.setOrb x o).hums = s.hums := rfl
@[simp] theorem State.setOrb_sluices (s : State) (x : Nat) (o : Orb) : (s.setOrb x o).sluices = s.sluices := rfl
@[simp] theorem State.setOrb_flight (s : State) (x : Nat) (o : Orb) : (s.setOrb x o).flight = s.flight := rfl
@[simp] theorem State.setOrb_ep (s : State) (x : Nat) (o : Orb) : (s.setOrb x o).ep = s.ep := rfl
@[simp] theorem State.setOrb_fe (s : State) (x : Nat) (o : Orb) : (s.setOrb x o).fe = s.fe := rfl
@[simp] theorem State.setOrb_cwy (s : State) (x : Nat) (o : Orb) : (s.setOrb x o).cwy = s.cwy := rfl
@[simp] theorem State.setOrb_err (s : State) (x : Nat) (o : Orb) : (s.setOrb x o).err = s.err := rfl
@[simp] theorem State.setOrb_fw (s : State) (x : Nat) (o : Orb) : (s.setOrb x o).fw = s.fw := rfl
@[simp] theorem State.setOrb_mss (s : State) (x : Nat) (o : Orb) : (s.setOrb x o).mss = s.mss := rfl
@[simp] theorem State.setOrb_pwc (s : State) (x : Nat) (o : Orb) : (s.setOrb x o).pwc = s.pwc := rfl
@[simp] theorem State.setOrb_jnl (s : State) (x : Nat) (o : Orb) : (s.setOrb x o).jnl = s.jnl := rfl
@[simp] theorem State.setOrb_cip (s : State) (x : Nat) (o : Orb) : (s.setOrb x o).cip = s.cip := rfl
@[simp] theorem State.setOrb_link (s : State) (x : Nat) (o : Orb) : (s.setOrb x o).link = s.link := rfl
@[simp] theorem State.setOrb_board (s : State) (x : Nat) (o : Orb) : (s.setOrb x o).board = s.board := rfl
@[simp] theorem State.setOrb_out (s : State) (x : Nat) (o : Orb) : (s.setOrb x o).out = s.out := rfl

/-! ### State.setErr -/

@[simp] theorem State.setErr_pending (s : State) (u : Nat) (e : BitVec 288) : (s.setErr u e).pending = s.pending := rfl
@[simp] theorem State.setErr_freeCtr (s : State) (u : Nat) (e : BitVec 288) : (s.setErr u e).freeCtr = s.freeCtr := rfl
@[simp] theorem State.setErr_regs (s : State) (u : Nat) (e : BitVec 288) : (s.setErr u e).regs = s.regs := rfl
@[simp] theorem State.setErr_hums (s : State) (u : Nat) (e : BitVec 288) : (s.setErr u e).hums = s.hums := rfl
@[simp] theorem State.setErr_sluices (s : State) (u : Nat) (e : BitVec 288) : (s.setErr u e).sluices = s.sluices := rfl
@[simp] theorem State.setErr_flight (s : State) (u : Nat) (e : BitVec 288) : (s.setErr u e).flight = s.flight := rfl
@[simp] theorem State.setErr_ep (s : State) (u : Nat) (e : BitVec 288) : (s.setErr u e).ep = s.ep := rfl
@[simp] theorem State.setErr_fe (s : State) (u : Nat) (e : BitVec 288) : (s.setErr u e).fe = s.fe := rfl
@[simp] theorem State.setErr_cwy (s : State) (u : Nat) (e : BitVec 288) : (s.setErr u e).cwy = s.cwy := rfl
@[simp] theorem State.setErr_err (s : State) (u : Nat) (e : BitVec 288) : (s.setErr u e).err = s.err := rfl
@[simp] theorem State.setErr_fw (s : State) (u : Nat) (e : BitVec 288) : (s.setErr u e).fw = s.fw := rfl
@[simp] theorem State.setErr_mss (s : State) (u : Nat) (e : BitVec 288) : (s.setErr u e).mss = s.mss := rfl
@[simp] theorem State.setErr_pwc (s : State) (u : Nat) (e : BitVec 288) : (s.setErr u e).pwc = s.pwc := rfl
@[simp] theorem State.setErr_jnl (s : State) (u : Nat) (e : BitVec 288) : (s.setErr u e).jnl = s.jnl := rfl
@[simp] theorem State.setErr_cip (s : State) (u : Nat) (e : BitVec 288) : (s.setErr u e).cip = s.cip := rfl
@[simp] theorem State.setErr_link (s : State) (u : Nat) (e : BitVec 288) : (s.setErr u e).link = s.link := rfl
@[simp] theorem State.setErr_board (s : State) (u : Nat) (e : BitVec 288) : (s.setErr u e).board = s.board := rfl
@[simp] theorem State.setErr_out (s : State) (u : Nat) (e : BitVec 288) : (s.setErr u e).out = s.out := rfl

/-! ### State.setReg -/

@[simp] theorem State.setReg_pending (s : State) (off : Nat) (v : BitVec 64) : (s.setReg off v).pending = s.pending := rfl
@[simp] theorem State.setReg_freeCtr (s : State) (off : Nat) (v : BitVec 64) : (s.setReg off v).freeCtr = s.freeCtr := rfl
@[simp] theorem State.setReg_hums (s : State) (off : Nat) (v : BitVec 64) : (s.setReg off v).hums = s.hums := rfl
@[simp] theorem State.setReg_sluices (s : State) (off : Nat) (v : BitVec 64) : (s.setReg off v).sluices = s.sluices := rfl
@[simp] theorem State.setReg_flight (s : State) (off : Nat) (v : BitVec 64) : (s.setReg off v).flight = s.flight := rfl
@[simp] theorem State.setReg_mem (s : State) (off : Nat) (v : BitVec 64) : (s.setReg off v).mem = s.mem := rfl
@[simp] theorem State.setReg_ep (s : State) (off : Nat) (v : BitVec 64) : (s.setReg off v).ep = s.ep := rfl
@[simp] theorem State.setReg_fe (s : State) (off : Nat) (v : BitVec 64) : (s.setReg off v).fe = s.fe := rfl
@[simp] theorem State.setReg_cwy (s : State) (off : Nat) (v : BitVec 64) : (s.setReg off v).cwy = s.cwy := rfl
@[simp] theorem State.setReg_err (s : State) (off : Nat) (v : BitVec 64) : (s.setReg off v).err = s.err := rfl
@[simp] theorem State.setReg_fw (s : State) (off : Nat) (v : BitVec 64) : (s.setReg off v).fw = s.fw := rfl
@[simp] theorem State.setReg_mss (s : State) (off : Nat) (v : BitVec 64) : (s.setReg off v).mss = s.mss := rfl
@[simp] theorem State.setReg_pwc (s : State) (off : Nat) (v : BitVec 64) : (s.setReg off v).pwc = s.pwc := rfl
@[simp] theorem State.setReg_jnl (s : State) (off : Nat) (v : BitVec 64) : (s.setReg off v).jnl = s.jnl := rfl
@[simp] theorem State.setReg_cip (s : State) (off : Nat) (v : BitVec 64) : (s.setReg off v).cip = s.cip := rfl
@[simp] theorem State.setReg_link (s : State) (off : Nat) (v : BitVec 64) : (s.setReg off v).link = s.link := rfl
@[simp] theorem State.setReg_board (s : State) (off : Nat) (v : BitVec 64) : (s.setReg off v).board = s.board := rfl
@[simp] theorem State.setReg_out (s : State) (off : Nat) (v : BitVec 64) : (s.setReg off v).out = s.out := rfl

/-! ### State.jot -/

@[simp] theorem State.jot_pending (s : State) (i : Nat) : (s.jot i).pending = s.pending := rfl
@[simp] theorem State.jot_freeCtr (s : State) (i : Nat) : (s.jot i).freeCtr = s.freeCtr := rfl
@[simp] theorem State.jot_regs (s : State) (i : Nat) : (s.jot i).regs = s.regs := rfl
@[simp] theorem State.jot_hums (s : State) (i : Nat) : (s.jot i).hums = s.hums := rfl
@[simp] theorem State.jot_sluices (s : State) (i : Nat) : (s.jot i).sluices = s.sluices := rfl
@[simp] theorem State.jot_flight (s : State) (i : Nat) : (s.jot i).flight = s.flight := rfl
@[simp] theorem State.jot_mem (s : State) (i : Nat) : (s.jot i).mem = s.mem := rfl
@[simp] theorem State.jot_ep (s : State) (i : Nat) : (s.jot i).ep = s.ep := rfl
@[simp] theorem State.jot_fe (s : State) (i : Nat) : (s.jot i).fe = s.fe := rfl
@[simp] theorem State.jot_cwy (s : State) (i : Nat) : (s.jot i).cwy = s.cwy := rfl
@[simp] theorem State.jot_err (s : State) (i : Nat) : (s.jot i).err = s.err := rfl
@[simp] theorem State.jot_fw (s : State) (i : Nat) : (s.jot i).fw = s.fw := rfl
@[simp] theorem State.jot_mss (s : State) (i : Nat) : (s.jot i).mss = s.mss := rfl
@[simp] theorem State.jot_pwc (s : State) (i : Nat) : (s.jot i).pwc = s.pwc := rfl
@[simp] theorem State.jot_cip (s : State) (i : Nat) : (s.jot i).cip = s.cip := rfl
@[simp] theorem State.jot_link (s : State) (i : Nat) : (s.jot i).link = s.link := rfl
@[simp] theorem State.jot_board (s : State) (i : Nat) : (s.jot i).board = s.board := rfl
@[simp] theorem State.jot_out (s : State) (i : Nat) : (s.jot i).out = s.out := rfl

/-- The record that an action of a running processor leaves says how its part of the state stands. -/
theorem State.jot_part {s : State} {i : Nat} (h : s.jots i = true) :
    (s.jot i).part i = (s.part i).put (recRoom i) (s.jview i) := by
  simp [State.part, State.jot, h]

/-- While the processor restarts nothing is recorded. -/
theorem State.jot_off {s : State} {i : Nat} (h : s.jots i = false) : s.jot i = s := by simp [State.jot, h]

theorem State.jot_part_ne (s : State) {i k : Nat} (h : k ≠ i) : (s.jot i).part k = s.part k := by
  cases hj : s.jots i <;> simp [State.part, State.jot, hj, sget_sset_ne _ _ _ h]

theorem Partition.last_put (p : Partition) (room : Nat) (b : JBody) : (p.put room b).last = some b := by
  unfold Partition.put
  split
  · assumption
  · split <;> simp [Partition.last]

theorem State.jot_last {s : State} {i : Nat} (h : s.jots i = true) : ((s.jot i).part i).last = some (s.jview i) := by
  rw [State.jot_part h, Partition.last_put]

/-! ### State.emit -/

@[simp] theorem State.emit_pending (s : State) (o : Out) : (s.emit o).pending = s.pending := rfl
@[simp] theorem State.emit_freeCtr (s : State) (o : Out) : (s.emit o).freeCtr = s.freeCtr := rfl
@[simp] theorem State.emit_regs (s : State) (o : Out) : (s.emit o).regs = s.regs := rfl
@[simp] theorem State.emit_hums (s : State) (o : Out) : (s.emit o).hums = s.hums := rfl
@[simp] theorem State.emit_sluices (s : State) (o : Out) : (s.emit o).sluices = s.sluices := rfl
@[simp] theorem State.emit_flight (s : State) (o : Out) : (s.emit o).flight = s.flight := rfl
@[simp] theorem State.emit_mem (s : State) (o : Out) : (s.emit o).mem = s.mem := rfl
@[simp] theorem State.emit_ep (s : State) (o : Out) : (s.emit o).ep = s.ep := rfl
@[simp] theorem State.emit_fe (s : State) (o : Out) : (s.emit o).fe = s.fe := rfl
@[simp] theorem State.emit_cwy (s : State) (o : Out) : (s.emit o).cwy = s.cwy := rfl
@[simp] theorem State.emit_err (s : State) (o : Out) : (s.emit o).err = s.err := rfl
@[simp] theorem State.emit_fw (s : State) (o : Out) : (s.emit o).fw = s.fw := rfl
@[simp] theorem State.emit_mss (s : State) (o : Out) : (s.emit o).mss = s.mss := rfl
@[simp] theorem State.emit_pwc (s : State) (o : Out) : (s.emit o).pwc = s.pwc := rfl
@[simp] theorem State.emit_jnl (s : State) (o : Out) : (s.emit o).jnl = s.jnl := rfl
@[simp] theorem State.emit_cip (s : State) (o : Out) : (s.emit o).cip = s.cip := rfl
@[simp] theorem State.emit_link (s : State) (o : Out) : (s.emit o).link = s.link := rfl
@[simp] theorem State.emit_board (s : State) (o : Out) : (s.emit o).board = s.board := rfl

/-! ### State.setEq -/

@[simp] theorem State.setEq_pending (s : State) (q : Nat) (x : EventQ) : (s.setEq q x).pending = s.pending := by unfold State.setEq; split <;> rfl
@[simp] theorem State.setEq_freeCtr (s : State) (q : Nat) (x : EventQ) : (s.setEq q x).freeCtr = s.freeCtr := by unfold State.setEq; split <;> rfl
@[simp] theorem State.setEq_regs (s : State) (q : Nat) (x : EventQ) : (s.setEq q x).regs = s.regs := by unfold State.setEq; split <;> rfl
@[simp] theorem State.setEq_hums (s : State) (q : Nat) (x : EventQ) : (s.setEq q x).hums = s.hums := by unfold State.setEq; split <;> rfl
@[simp] theorem State.setEq_sluices (s : State) (q : Nat) (x : EventQ) : (s.setEq q x).sluices = s.sluices := by unfold State.setEq; split <;> rfl
@[simp] theorem State.setEq_flight (s : State) (q : Nat) (x : EventQ) : (s.setEq q x).flight = s.flight := by unfold State.setEq; split <;> rfl
@[simp] theorem State.setEq_mem (s : State) (q : Nat) (x : EventQ) : (s.setEq q x).mem = s.mem := by unfold State.setEq; split <;> rfl
@[simp] theorem State.setEq_ep (s : State) (q : Nat) (x : EventQ) : (s.setEq q x).ep = s.ep := by unfold State.setEq; split <;> rfl
@[simp] theorem State.setEq_fe (s : State) (q : Nat) (x : EventQ) : (s.setEq q x).fe = s.fe := by unfold State.setEq; split <;> rfl
@[simp] theorem State.setEq_cwy (s : State) (q : Nat) (x : EventQ) : (s.setEq q x).cwy = s.cwy := by unfold State.setEq; split <;> rfl
@[simp] theorem State.setEq_fw (s : State) (q : Nat) (x : EventQ) : (s.setEq q x).fw = s.fw := by unfold State.setEq; split <;> rfl
@[simp] theorem State.setEq_mss (s : State) (q : Nat) (x : EventQ) : (s.setEq q x).mss = s.mss := by unfold State.setEq; split <;> rfl
@[simp] theorem State.setEq_pwc (s : State) (q : Nat) (x : EventQ) : (s.setEq q x).pwc = s.pwc := by unfold State.setEq; split <;> rfl
@[simp] theorem State.setEq_jnl (s : State) (q : Nat) (x : EventQ) : (s.setEq q x).jnl = s.jnl := by unfold State.setEq; split <;> rfl
@[simp] theorem State.setEq_cip (s : State) (q : Nat) (x : EventQ) : (s.setEq q x).cip = s.cip := by unfold State.setEq; split <;> rfl
@[simp] theorem State.setEq_link (s : State) (q : Nat) (x : EventQ) : (s.setEq q x).link = s.link := by unfold State.setEq; split <;> rfl
@[simp] theorem State.setEq_board (s : State) (q : Nat) (x : EventQ) : (s.setEq q x).board = s.board := by unfold State.setEq; split <;> rfl
@[simp] theorem State.setEq_out (s : State) (q : Nat) (x : EventQ) : (s.setEq q x).out = s.out := by unfold State.setEq; split <;> rfl

/-! ### State.event -/

@[simp] theorem State.event_pending (s : State) (q ty : Nat) (bs : List Byte) : (s.event q ty bs).pending = s.pending := by unfold State.event; exact State.setEq_pending _ _ _
@[simp] theorem State.event_freeCtr (s : State) (q ty : Nat) (bs : List Byte) : (s.event q ty bs).freeCtr = s.freeCtr := by unfold State.event; exact State.setEq_freeCtr _ _ _
@[simp] theorem State.event_regs (s : State) (q ty : Nat) (bs : List Byte) : (s.event q ty bs).regs = s.regs := by unfold State.event; exact State.setEq_regs _ _ _
@[simp] theorem State.event_hums (s : State) (q ty : Nat) (bs : List Byte) : (s.event q ty bs).hums = s.hums := by unfold State.event; exact State.setEq_hums _ _ _
@[simp] theorem State.event_sluices (s : State) (q ty : Nat) (bs : List Byte) : (s.event q ty bs).sluices = s.sluices := by unfold State.event; exact State.setEq_sluices _ _ _
@[simp] theorem State.event_flight (s : State) (q ty : Nat) (bs : List Byte) : (s.event q ty bs).flight = s.flight := by unfold State.event; exact State.setEq_flight _ _ _
@[simp] theorem State.event_mem (s : State) (q ty : Nat) (bs : List Byte) : (s.event q ty bs).mem = s.mem := by unfold State.event; exact State.setEq_mem _ _ _
@[simp] theorem State.event_ep (s : State) (q ty : Nat) (bs : List Byte) : (s.event q ty bs).ep = s.ep := by unfold State.event; exact State.setEq_ep _ _ _
@[simp] theorem State.event_fe (s : State) (q ty : Nat) (bs : List Byte) : (s.event q ty bs).fe = s.fe := by unfold State.event; exact State.setEq_fe _ _ _
@[simp] theorem State.event_cwy (s : State) (q ty : Nat) (bs : List Byte) : (s.event q ty bs).cwy = s.cwy := by unfold State.event; exact State.setEq_cwy _ _ _
@[simp] theorem State.event_fw (s : State) (q ty : Nat) (bs : List Byte) : (s.event q ty bs).fw = s.fw := by unfold State.event; exact State.setEq_fw _ _ _
@[simp] theorem State.event_mss (s : State) (q ty : Nat) (bs : List Byte) : (s.event q ty bs).mss = s.mss := by unfold State.event; exact State.setEq_mss _ _ _
@[simp] theorem State.event_pwc (s : State) (q ty : Nat) (bs : List Byte) : (s.event q ty bs).pwc = s.pwc := by unfold State.event; exact State.setEq_pwc _ _ _
@[simp] theorem State.event_jnl (s : State) (q ty : Nat) (bs : List Byte) : (s.event q ty bs).jnl = s.jnl := by unfold State.event; exact State.setEq_jnl _ _ _
@[simp] theorem State.event_cip (s : State) (q ty : Nat) (bs : List Byte) : (s.event q ty bs).cip = s.cip := by unfold State.event; exact State.setEq_cip _ _ _
@[simp] theorem State.event_link (s : State) (q ty : Nat) (bs : List Byte) : (s.event q ty bs).link = s.link := by unfold State.event; exact State.setEq_link _ _ _
@[simp] theorem State.event_board (s : State) (q ty : Nat) (bs : List Byte) : (s.event q ty bs).board = s.board := by unfold State.event; exact State.setEq_board _ _ _
@[simp] theorem State.event_out (s : State) (q ty : Nat) (bs : List Byte) : (s.event q ty bs).out = s.out := by unfold State.event; exact State.setEq_out _ _ _

/-! ### State.modLaunch -/

@[simp] theorem State.modLaunch_pending (s : State) (id : Nat) (f : Launch → Launch) : (s.modLaunch id f).pending = s.pending := rfl
@[simp] theorem State.modLaunch_freeCtr (s : State) (id : Nat) (f : Launch → Launch) : (s.modLaunch id f).freeCtr = s.freeCtr := rfl
@[simp] theorem State.modLaunch_regs (s : State) (id : Nat) (f : Launch → Launch) : (s.modLaunch id f).regs = s.regs := rfl
@[simp] theorem State.modLaunch_hums (s : State) (id : Nat) (f : Launch → Launch) : (s.modLaunch id f).hums = s.hums := rfl
@[simp] theorem State.modLaunch_sluices (s : State) (id : Nat) (f : Launch → Launch) : (s.modLaunch id f).sluices = s.sluices := rfl
@[simp] theorem State.modLaunch_flight (s : State) (id : Nat) (f : Launch → Launch) : (s.modLaunch id f).flight = s.flight := rfl
@[simp] theorem State.modLaunch_mem (s : State) (id : Nat) (f : Launch → Launch) : (s.modLaunch id f).mem = s.mem := rfl
@[simp] theorem State.modLaunch_ep (s : State) (id : Nat) (f : Launch → Launch) : (s.modLaunch id f).ep = s.ep := rfl
@[simp] theorem State.modLaunch_cwy (s : State) (id : Nat) (f : Launch → Launch) : (s.modLaunch id f).cwy = s.cwy := rfl
@[simp] theorem State.modLaunch_err (s : State) (id : Nat) (f : Launch → Launch) : (s.modLaunch id f).err = s.err := rfl
@[simp] theorem State.modLaunch_fw (s : State) (id : Nat) (f : Launch → Launch) : (s.modLaunch id f).fw = s.fw := rfl
@[simp] theorem State.modLaunch_mss (s : State) (id : Nat) (f : Launch → Launch) : (s.modLaunch id f).mss = s.mss := rfl
@[simp] theorem State.modLaunch_pwc (s : State) (id : Nat) (f : Launch → Launch) : (s.modLaunch id f).pwc = s.pwc := rfl
@[simp] theorem State.modLaunch_jnl (s : State) (id : Nat) (f : Launch → Launch) : (s.modLaunch id f).jnl = s.jnl := rfl
@[simp] theorem State.modLaunch_cip (s : State) (id : Nat) (f : Launch → Launch) : (s.modLaunch id f).cip = s.cip := rfl
@[simp] theorem State.modLaunch_link (s : State) (id : Nat) (f : Launch → Launch) : (s.modLaunch id f).link = s.link := rfl
@[simp] theorem State.modLaunch_board (s : State) (id : Nat) (f : Launch → Launch) : (s.modLaunch id f).board = s.board := rfl
@[simp] theorem State.modLaunch_out (s : State) (id : Nat) (f : Launch → Launch) : (s.modLaunch id f).out = s.out := rfl

/-! ### State.modTag -/

@[simp] theorem State.modTag_pending (s : State) (tag : Nat) (f : TagCount → TagCount) : (s.modTag tag f).pending = s.pending := rfl
@[simp] theorem State.modTag_freeCtr (s : State) (tag : Nat) (f : TagCount → TagCount) : (s.modTag tag f).freeCtr = s.freeCtr := rfl
@[simp] theorem State.modTag_regs (s : State) (tag : Nat) (f : TagCount → TagCount) : (s.modTag tag f).regs = s.regs := rfl
@[simp] theorem State.modTag_hums (s : State) (tag : Nat) (f : TagCount → TagCount) : (s.modTag tag f).hums = s.hums := rfl
@[simp] theorem State.modTag_sluices (s : State) (tag : Nat) (f : TagCount → TagCount) : (s.modTag tag f).sluices = s.sluices := rfl
@[simp] theorem State.modTag_flight (s : State) (tag : Nat) (f : TagCount → TagCount) : (s.modTag tag f).flight = s.flight := rfl
@[simp] theorem State.modTag_mem (s : State) (tag : Nat) (f : TagCount → TagCount) : (s.modTag tag f).mem = s.mem := rfl
@[simp] theorem State.modTag_ep (s : State) (tag : Nat) (f : TagCount → TagCount) : (s.modTag tag f).ep = s.ep := rfl
@[simp] theorem State.modTag_cwy (s : State) (tag : Nat) (f : TagCount → TagCount) : (s.modTag tag f).cwy = s.cwy := rfl
@[simp] theorem State.modTag_err (s : State) (tag : Nat) (f : TagCount → TagCount) : (s.modTag tag f).err = s.err := rfl
@[simp] theorem State.modTag_fw (s : State) (tag : Nat) (f : TagCount → TagCount) : (s.modTag tag f).fw = s.fw := rfl
@[simp] theorem State.modTag_mss (s : State) (tag : Nat) (f : TagCount → TagCount) : (s.modTag tag f).mss = s.mss := rfl
@[simp] theorem State.modTag_pwc (s : State) (tag : Nat) (f : TagCount → TagCount) : (s.modTag tag f).pwc = s.pwc := rfl
@[simp] theorem State.modTag_jnl (s : State) (tag : Nat) (f : TagCount → TagCount) : (s.modTag tag f).jnl = s.jnl := rfl
@[simp] theorem State.modTag_cip (s : State) (tag : Nat) (f : TagCount → TagCount) : (s.modTag tag f).cip = s.cip := rfl
@[simp] theorem State.modTag_link (s : State) (tag : Nat) (f : TagCount → TagCount) : (s.modTag tag f).link = s.link := rfl
@[simp] theorem State.modTag_board (s : State) (tag : Nat) (f : TagCount → TagCount) : (s.modTag tag f).board = s.board := rfl
@[simp] theorem State.modTag_out (s : State) (tag : Nat) (f : TagCount → TagCount) : (s.modTag tag f).out = s.out := rfl

/-! ### State.modFe -/

@[simp] theorem State.modFe_pending (s : State) (f : FrontEnd → FrontEnd) : (s.modFe f).pending = s.pending := rfl
@[simp] theorem State.modFe_freeCtr (s : State) (f : FrontEnd → FrontEnd) : (s.modFe f).freeCtr = s.freeCtr := rfl
@[simp] theorem State.modFe_regs (s : State) (f : FrontEnd → FrontEnd) : (s.modFe f).regs = s.regs := rfl
@[simp] theorem State.modFe_hums (s : State) (f : FrontEnd → FrontEnd) : (s.modFe f).hums = s.hums := rfl
@[simp] theorem State.modFe_sluices (s : State) (f : FrontEnd → FrontEnd) : (s.modFe f).sluices = s.sluices := rfl
@[simp] theorem State.modFe_flight (s : State) (f : FrontEnd → FrontEnd) : (s.modFe f).flight = s.flight := rfl
@[simp] theorem State.modFe_mem (s : State) (f : FrontEnd → FrontEnd) : (s.modFe f).mem = s.mem := rfl
@[simp] theorem State.modFe_ep (s : State) (f : FrontEnd → FrontEnd) : (s.modFe f).ep = s.ep := rfl
@[simp] theorem State.modFe_cwy (s : State) (f : FrontEnd → FrontEnd) : (s.modFe f).cwy = s.cwy := rfl
@[simp] theorem State.modFe_err (s : State) (f : FrontEnd → FrontEnd) : (s.modFe f).err = s.err := rfl
@[simp] theorem State.modFe_fw (s : State) (f : FrontEnd → FrontEnd) : (s.modFe f).fw = s.fw := rfl
@[simp] theorem State.modFe_mss (s : State) (f : FrontEnd → FrontEnd) : (s.modFe f).mss = s.mss := rfl
@[simp] theorem State.modFe_pwc (s : State) (f : FrontEnd → FrontEnd) : (s.modFe f).pwc = s.pwc := rfl
@[simp] theorem State.modFe_jnl (s : State) (f : FrontEnd → FrontEnd) : (s.modFe f).jnl = s.jnl := rfl
@[simp] theorem State.modFe_cip (s : State) (f : FrontEnd → FrontEnd) : (s.modFe f).cip = s.cip := rfl
@[simp] theorem State.modFe_link (s : State) (f : FrontEnd → FrontEnd) : (s.modFe f).link = s.link := rfl
@[simp] theorem State.modFe_board (s : State) (f : FrontEnd → FrontEnd) : (s.modFe f).board = s.board := rfl
@[simp] theorem State.modFe_out (s : State) (f : FrontEnd → FrontEnd) : (s.modFe f).out = s.out := rfl
@[simp] theorem State.modFe_fe (s : State) (f : FrontEnd → FrontEnd) : (s.modFe f).fe = f s.fe := rfl

/-! ### State.modEp -/

@[simp] theorem State.modEp_pending (s : State) (f : EpochState → EpochState) : (s.modEp f).pending = s.pending := rfl
@[simp] theorem State.modEp_freeCtr (s : State) (f : EpochState → EpochState) : (s.modEp f).freeCtr = s.freeCtr := rfl
@[simp] theorem State.modEp_regs (s : State) (f : EpochState → EpochState) : (s.modEp f).regs = s.regs := rfl
@[simp] theorem State.modEp_hums (s : State) (f : EpochState → EpochState) : (s.modEp f).hums = s.hums := rfl
@[simp] theorem State.modEp_sluices (s : State) (f : EpochState → EpochState) : (s.modEp f).sluices = s.sluices := rfl
@[simp] theorem State.modEp_flight (s : State) (f : EpochState → EpochState) : (s.modEp f).flight = s.flight := rfl
@[simp] theorem State.modEp_mem (s : State) (f : EpochState → EpochState) : (s.modEp f).mem = s.mem := rfl
@[simp] theorem State.modEp_fe (s : State) (f : EpochState → EpochState) : (s.modEp f).fe = s.fe := rfl
@[simp] theorem State.modEp_cwy (s : State) (f : EpochState → EpochState) : (s.modEp f).cwy = s.cwy := rfl
@[simp] theorem State.modEp_err (s : State) (f : EpochState → EpochState) : (s.modEp f).err = s.err := rfl
@[simp] theorem State.modEp_fw (s : State) (f : EpochState → EpochState) : (s.modEp f).fw = s.fw := rfl
@[simp] theorem State.modEp_mss (s : State) (f : EpochState → EpochState) : (s.modEp f).mss = s.mss := rfl
@[simp] theorem State.modEp_pwc (s : State) (f : EpochState → EpochState) : (s.modEp f).pwc = s.pwc := rfl
@[simp] theorem State.modEp_jnl (s : State) (f : EpochState → EpochState) : (s.modEp f).jnl = s.jnl := rfl
@[simp] theorem State.modEp_cip (s : State) (f : EpochState → EpochState) : (s.modEp f).cip = s.cip := rfl
@[simp] theorem State.modEp_link (s : State) (f : EpochState → EpochState) : (s.modEp f).link = s.link := rfl
@[simp] theorem State.modEp_board (s : State) (f : EpochState → EpochState) : (s.modEp f).board = s.board := rfl
@[simp] theorem State.modEp_out (s : State) (f : EpochState → EpochState) : (s.modEp f).out = s.out := rfl
@[simp] theorem State.modEp_ep (s : State) (f : EpochState → EpochState) : (s.modEp f).ep = f s.ep := rfl

/-! ### State.modMem -/

@[simp] theorem State.modMem_pending (s : State) (f : MemState → MemState) : (s.modMem f).pending = s.pending := rfl
@[simp] theorem State.modMem_freeCtr (s : State) (f : MemState → MemState) : (s.modMem f).freeCtr = s.freeCtr := rfl
@[simp] theorem State.modMem_regs (s : State) (f : MemState → MemState) : (s.modMem f).regs = s.regs := rfl
@[simp] theorem State.modMem_hums (s : State) (f : MemState → MemState) : (s.modMem f).hums = s.hums := rfl
@[simp] theorem State.modMem_sluices (s : State) (f : MemState → MemState) : (s.modMem f).sluices = s.sluices := rfl
@[simp] theorem State.modMem_flight (s : State) (f : MemState → MemState) : (s.modMem f).flight = s.flight := rfl
@[simp] theorem State.modMem_ep (s : State) (f : MemState → MemState) : (s.modMem f).ep = s.ep := rfl
@[simp] theorem State.modMem_fe (s : State) (f : MemState → MemState) : (s.modMem f).fe = s.fe := rfl
@[simp] theorem State.modMem_cwy (s : State) (f : MemState → MemState) : (s.modMem f).cwy = s.cwy := rfl
@[simp] theorem State.modMem_err (s : State) (f : MemState → MemState) : (s.modMem f).err = s.err := rfl
@[simp] theorem State.modMem_fw (s : State) (f : MemState → MemState) : (s.modMem f).fw = s.fw := rfl
@[simp] theorem State.modMem_mss (s : State) (f : MemState → MemState) : (s.modMem f).mss = s.mss := rfl
@[simp] theorem State.modMem_pwc (s : State) (f : MemState → MemState) : (s.modMem f).pwc = s.pwc := rfl
@[simp] theorem State.modMem_jnl (s : State) (f : MemState → MemState) : (s.modMem f).jnl = s.jnl := rfl
@[simp] theorem State.modMem_cip (s : State) (f : MemState → MemState) : (s.modMem f).cip = s.cip := rfl
@[simp] theorem State.modMem_link (s : State) (f : MemState → MemState) : (s.modMem f).link = s.link := rfl
@[simp] theorem State.modMem_board (s : State) (f : MemState → MemState) : (s.modMem f).board = s.board := rfl
@[simp] theorem State.modMem_out (s : State) (f : MemState → MemState) : (s.modMem f).out = s.out := rfl
@[simp] theorem State.modMem_mem (s : State) (f : MemState → MemState) : (s.modMem f).mem = f s.mem := rfl

/-! ### State.modFw -/

@[simp] theorem State.modFw_pending (s : State) (f : Firmware → Firmware) : (s.modFw f).pending = s.pending := rfl
@[simp] theorem State.modFw_freeCtr (s : State) (f : Firmware → Firmware) : (s.modFw f).freeCtr = s.freeCtr := rfl
@[simp] theorem State.modFw_regs (s : State) (f : Firmware → Firmware) : (s.modFw f).regs = s.regs := rfl
@[simp] theorem State.modFw_hums (s : State) (f : Firmware → Firmware) : (s.modFw f).hums = s.hums := rfl
@[simp] theorem State.modFw_sluices (s : State) (f : Firmware → Firmware) : (s.modFw f).sluices = s.sluices := rfl
@[simp] theorem State.modFw_flight (s : State) (f : Firmware → Firmware) : (s.modFw f).flight = s.flight := rfl
@[simp] theorem State.modFw_mem (s : State) (f : Firmware → Firmware) : (s.modFw f).mem = s.mem := rfl
@[simp] theorem State.modFw_ep (s : State) (f : Firmware → Firmware) : (s.modFw f).ep = s.ep := rfl
@[simp] theorem State.modFw_fe (s : State) (f : Firmware → Firmware) : (s.modFw f).fe = s.fe := rfl
@[simp] theorem State.modFw_cwy (s : State) (f : Firmware → Firmware) : (s.modFw f).cwy = s.cwy := rfl
@[simp] theorem State.modFw_err (s : State) (f : Firmware → Firmware) : (s.modFw f).err = s.err := rfl
@[simp] theorem State.modFw_mss (s : State) (f : Firmware → Firmware) : (s.modFw f).mss = s.mss := rfl
@[simp] theorem State.modFw_pwc (s : State) (f : Firmware → Firmware) : (s.modFw f).pwc = s.pwc := rfl
@[simp] theorem State.modFw_jnl (s : State) (f : Firmware → Firmware) : (s.modFw f).jnl = s.jnl := rfl
@[simp] theorem State.modFw_cip (s : State) (f : Firmware → Firmware) : (s.modFw f).cip = s.cip := rfl
@[simp] theorem State.modFw_link (s : State) (f : Firmware → Firmware) : (s.modFw f).link = s.link := rfl
@[simp] theorem State.modFw_board (s : State) (f : Firmware → Firmware) : (s.modFw f).board = s.board := rfl
@[simp] theorem State.modFw_out (s : State) (f : Firmware → Firmware) : (s.modFw f).out = s.out := rfl
@[simp] theorem State.modFw_fw (s : State) (f : Firmware → Firmware) : (s.modFw f).fw = f s.fw := rfl

/-! ### State.modCwy -/

@[simp] theorem State.modCwy_pending (s : State) (f : Fabric → Fabric) : (s.modCwy f).pending = s.pending := rfl
@[simp] theorem State.modCwy_freeCtr (s : State) (f : Fabric → Fabric) : (s.modCwy f).freeCtr = s.freeCtr := rfl
@[simp] theorem State.modCwy_regs (s : State) (f : Fabric → Fabric) : (s.modCwy f).regs = s.regs := rfl
@[simp] theorem State.modCwy_hums (s : State) (f : Fabric → Fabric) : (s.modCwy f).hums = s.hums := rfl
@[simp] theorem State.modCwy_sluices (s : State) (f : Fabric → Fabric) : (s.modCwy f).sluices = s.sluices := rfl
@[simp] theorem State.modCwy_flight (s : State) (f : Fabric → Fabric) : (s.modCwy f).flight = s.flight := rfl
@[simp] theorem State.modCwy_mem (s : State) (f : Fabric → Fabric) : (s.modCwy f).mem = s.mem := rfl
@[simp] theorem State.modCwy_ep (s : State) (f : Fabric → Fabric) : (s.modCwy f).ep = s.ep := rfl
@[simp] theorem State.modCwy_fe (s : State) (f : Fabric → Fabric) : (s.modCwy f).fe = s.fe := rfl
@[simp] theorem State.modCwy_err (s : State) (f : Fabric → Fabric) : (s.modCwy f).err = s.err := rfl
@[simp] theorem State.modCwy_fw (s : State) (f : Fabric → Fabric) : (s.modCwy f).fw = s.fw := rfl
@[simp] theorem State.modCwy_mss (s : State) (f : Fabric → Fabric) : (s.modCwy f).mss = s.mss := rfl
@[simp] theorem State.modCwy_pwc (s : State) (f : Fabric → Fabric) : (s.modCwy f).pwc = s.pwc := rfl
@[simp] theorem State.modCwy_jnl (s : State) (f : Fabric → Fabric) : (s.modCwy f).jnl = s.jnl := rfl
@[simp] theorem State.modCwy_cip (s : State) (f : Fabric → Fabric) : (s.modCwy f).cip = s.cip := rfl
@[simp] theorem State.modCwy_link (s : State) (f : Fabric → Fabric) : (s.modCwy f).link = s.link := rfl
@[simp] theorem State.modCwy_board (s : State) (f : Fabric → Fabric) : (s.modCwy f).board = s.board := rfl
@[simp] theorem State.modCwy_out (s : State) (f : Fabric → Fabric) : (s.modCwy f).out = s.out := rfl
@[simp] theorem State.modCwy_cwy (s : State) (f : Fabric → Fabric) : (s.modCwy f).cwy = f s.cwy := rfl

/-! ### State.modErr -/

@[simp] theorem State.modErr_pending (s : State) (f : ErrBlock → ErrBlock) : (s.modErr f).pending = s.pending := rfl
@[simp] theorem State.modErr_freeCtr (s : State) (f : ErrBlock → ErrBlock) : (s.modErr f).freeCtr = s.freeCtr := rfl
@[simp] theorem State.modErr_regs (s : State) (f : ErrBlock → ErrBlock) : (s.modErr f).regs = s.regs := rfl
@[simp] theorem State.modErr_hums (s : State) (f : ErrBlock → ErrBlock) : (s.modErr f).hums = s.hums := rfl
@[simp] theorem State.modErr_sluices (s : State) (f : ErrBlock → ErrBlock) : (s.modErr f).sluices = s.sluices := rfl
@[simp] theorem State.modErr_flight (s : State) (f : ErrBlock → ErrBlock) : (s.modErr f).flight = s.flight := rfl
@[simp] theorem State.modErr_mem (s : State) (f : ErrBlock → ErrBlock) : (s.modErr f).mem = s.mem := rfl
@[simp] theorem State.modErr_ep (s : State) (f : ErrBlock → ErrBlock) : (s.modErr f).ep = s.ep := rfl
@[simp] theorem State.modErr_fe (s : State) (f : ErrBlock → ErrBlock) : (s.modErr f).fe = s.fe := rfl
@[simp] theorem State.modErr_cwy (s : State) (f : ErrBlock → ErrBlock) : (s.modErr f).cwy = s.cwy := rfl
@[simp] theorem State.modErr_fw (s : State) (f : ErrBlock → ErrBlock) : (s.modErr f).fw = s.fw := rfl
@[simp] theorem State.modErr_mss (s : State) (f : ErrBlock → ErrBlock) : (s.modErr f).mss = s.mss := rfl
@[simp] theorem State.modErr_pwc (s : State) (f : ErrBlock → ErrBlock) : (s.modErr f).pwc = s.pwc := rfl
@[simp] theorem State.modErr_jnl (s : State) (f : ErrBlock → ErrBlock) : (s.modErr f).jnl = s.jnl := rfl
@[simp] theorem State.modErr_cip (s : State) (f : ErrBlock → ErrBlock) : (s.modErr f).cip = s.cip := rfl
@[simp] theorem State.modErr_link (s : State) (f : ErrBlock → ErrBlock) : (s.modErr f).link = s.link := rfl
@[simp] theorem State.modErr_board (s : State) (f : ErrBlock → ErrBlock) : (s.modErr f).board = s.board := rfl
@[simp] theorem State.modErr_out (s : State) (f : ErrBlock → ErrBlock) : (s.modErr f).out = s.out := rfl
@[simp] theorem State.modErr_err (s : State) (f : ErrBlock → ErrBlock) : (s.modErr f).err = f s.err := rfl

/-! ### State.modPwc -/

@[simp] theorem State.modPwc_pending (s : State) (f : Power → Power) : (s.modPwc f).pending = s.pending := rfl
@[simp] theorem State.modPwc_freeCtr (s : State) (f : Power → Power) : (s.modPwc f).freeCtr = s.freeCtr := rfl
@[simp] theorem State.modPwc_regs (s : State) (f : Power → Power) : (s.modPwc f).regs = s.regs := rfl
@[simp] theorem State.modPwc_hums (s : State) (f : Power → Power) : (s.modPwc f).hums = s.hums := rfl
@[simp] theorem State.modPwc_sluices (s : State) (f : Power → Power) : (s.modPwc f).sluices = s.sluices := rfl
@[simp] theorem State.modPwc_flight (s : State) (f : Power → Power) : (s.modPwc f).flight = s.flight := rfl
@[simp] theorem State.modPwc_mem (s : State) (f : Power → Power) : (s.modPwc f).mem = s.mem := rfl
@[simp] theorem State.modPwc_ep (s : State) (f : Power → Power) : (s.modPwc f).ep = s.ep := rfl
@[simp] theorem State.modPwc_fe (s : State) (f : Power → Power) : (s.modPwc f).fe = s.fe := rfl
@[simp] theorem State.modPwc_cwy (s : State) (f : Power → Power) : (s.modPwc f).cwy = s.cwy := rfl
@[simp] theorem State.modPwc_err (s : State) (f : Power → Power) : (s.modPwc f).err = s.err := rfl
@[simp] theorem State.modPwc_fw (s : State) (f : Power → Power) : (s.modPwc f).fw = s.fw := rfl
@[simp] theorem State.modPwc_mss (s : State) (f : Power → Power) : (s.modPwc f).mss = s.mss := rfl
@[simp] theorem State.modPwc_jnl (s : State) (f : Power → Power) : (s.modPwc f).jnl = s.jnl := rfl
@[simp] theorem State.modPwc_cip (s : State) (f : Power → Power) : (s.modPwc f).cip = s.cip := rfl
@[simp] theorem State.modPwc_link (s : State) (f : Power → Power) : (s.modPwc f).link = s.link := rfl
@[simp] theorem State.modPwc_board (s : State) (f : Power → Power) : (s.modPwc f).board = s.board := rfl
@[simp] theorem State.modPwc_out (s : State) (f : Power → Power) : (s.modPwc f).out = s.out := rfl
@[simp] theorem State.modPwc_pwc (s : State) (f : Power → Power) : (s.modPwc f).pwc = f s.pwc := rfl

/-! ### State.modMss -/

@[simp] theorem State.modMss_pending (s : State) (f : Mss → Mss) : (s.modMss f).pending = s.pending := rfl
@[simp] theorem State.modMss_freeCtr (s : State) (f : Mss → Mss) : (s.modMss f).freeCtr = s.freeCtr := rfl
@[simp] theorem State.modMss_regs (s : State) (f : Mss → Mss) : (s.modMss f).regs = s.regs := rfl
@[simp] theorem State.modMss_hums (s : State) (f : Mss → Mss) : (s.modMss f).hums = s.hums := rfl
@[simp] theorem State.modMss_sluices (s : State) (f : Mss → Mss) : (s.modMss f).sluices = s.sluices := rfl
@[simp] theorem State.modMss_flight (s : State) (f : Mss → Mss) : (s.modMss f).flight = s.flight := rfl
@[simp] theorem State.modMss_mem (s : State) (f : Mss → Mss) : (s.modMss f).mem = s.mem := rfl
@[simp] theorem State.modMss_ep (s : State) (f : Mss → Mss) : (s.modMss f).ep = s.ep := rfl
@[simp] theorem State.modMss_fe (s : State) (f : Mss → Mss) : (s.modMss f).fe = s.fe := rfl
@[simp] theorem State.modMss_cwy (s : State) (f : Mss → Mss) : (s.modMss f).cwy = s.cwy := rfl
@[simp] theorem State.modMss_err (s : State) (f : Mss → Mss) : (s.modMss f).err = s.err := rfl
@[simp] theorem State.modMss_fw (s : State) (f : Mss → Mss) : (s.modMss f).fw = s.fw := rfl
@[simp] theorem State.modMss_pwc (s : State) (f : Mss → Mss) : (s.modMss f).pwc = s.pwc := rfl
@[simp] theorem State.modMss_jnl (s : State) (f : Mss → Mss) : (s.modMss f).jnl = s.jnl := rfl
@[simp] theorem State.modMss_cip (s : State) (f : Mss → Mss) : (s.modMss f).cip = s.cip := rfl
@[simp] theorem State.modMss_link (s : State) (f : Mss → Mss) : (s.modMss f).link = s.link := rfl
@[simp] theorem State.modMss_board (s : State) (f : Mss → Mss) : (s.modMss f).board = s.board := rfl
@[simp] theorem State.modMss_out (s : State) (f : Mss → Mss) : (s.modMss f).out = s.out := rfl
@[simp] theorem State.modMss_mss (s : State) (f : Mss → Mss) : (s.modMss f).mss = f s.mss := rfl

/-! ### State.modCip -/

@[simp] theorem State.modCip_pending (s : State) (f : Cip → Cip) : (s.modCip f).pending = s.pending := rfl
@[simp] theorem State.modCip_freeCtr (s : State) (f : Cip → Cip) : (s.modCip f).freeCtr = s.freeCtr := rfl
@[simp] theorem State.modCip_regs (s : State) (f : Cip → Cip) : (s.modCip f).regs = s.regs := rfl
@[simp] theorem State.modCip_hums (s : State) (f : Cip → Cip) : (s.modCip f).hums = s.hums := rfl
@[simp] theorem State.modCip_sluices (s : State) (f : Cip → Cip) : (s.modCip f).sluices = s.sluices := rfl
@[simp] theorem State.modCip_flight (s : State) (f : Cip → Cip) : (s.modCip f).flight = s.flight := rfl
@[simp] theorem State.modCip_mem (s : State) (f : Cip → Cip) : (s.modCip f).mem = s.mem := rfl
@[simp] theorem State.modCip_ep (s : State) (f : Cip → Cip) : (s.modCip f).ep = s.ep := rfl
@[simp] theorem State.modCip_fe (s : State) (f : Cip → Cip) : (s.modCip f).fe = s.fe := rfl
@[simp] theorem State.modCip_cwy (s : State) (f : Cip → Cip) : (s.modCip f).cwy = s.cwy := rfl
@[simp] theorem State.modCip_err (s : State) (f : Cip → Cip) : (s.modCip f).err = s.err := rfl
@[simp] theorem State.modCip_fw (s : State) (f : Cip → Cip) : (s.modCip f).fw = s.fw := rfl
@[simp] theorem State.modCip_mss (s : State) (f : Cip → Cip) : (s.modCip f).mss = s.mss := rfl
@[simp] theorem State.modCip_pwc (s : State) (f : Cip → Cip) : (s.modCip f).pwc = s.pwc := rfl
@[simp] theorem State.modCip_jnl (s : State) (f : Cip → Cip) : (s.modCip f).jnl = s.jnl := rfl
@[simp] theorem State.modCip_link (s : State) (f : Cip → Cip) : (s.modCip f).link = s.link := rfl
@[simp] theorem State.modCip_board (s : State) (f : Cip → Cip) : (s.modCip f).board = s.board := rfl
@[simp] theorem State.modCip_out (s : State) (f : Cip → Cip) : (s.modCip f).out = s.out := rfl
@[simp] theorem State.modCip_cip (s : State) (f : Cip → Cip) : (s.modCip f).cip = f s.cip := rfl

/-! ### State.modLink -/

@[simp] theorem State.modLink_pending (s : State) (f : HostLink → HostLink) : (s.modLink f).pending = s.pending := rfl
@[simp] theorem State.modLink_freeCtr (s : State) (f : HostLink → HostLink) : (s.modLink f).freeCtr = s.freeCtr := rfl
@[simp] theorem State.modLink_regs (s : State) (f : HostLink → HostLink) : (s.modLink f).regs = s.regs := rfl
@[simp] theorem State.modLink_hums (s : State) (f : HostLink → HostLink) : (s.modLink f).hums = s.hums := rfl
@[simp] theorem State.modLink_sluices (s : State) (f : HostLink → HostLink) : (s.modLink f).sluices = s.sluices := rfl
@[simp] theorem State.modLink_flight (s : State) (f : HostLink → HostLink) : (s.modLink f).flight = s.flight := rfl
@[simp] theorem State.modLink_mem (s : State) (f : HostLink → HostLink) : (s.modLink f).mem = s.mem := rfl
@[simp] theorem State.modLink_ep (s : State) (f : HostLink → HostLink) : (s.modLink f).ep = s.ep := rfl
@[simp] theorem State.modLink_fe (s : State) (f : HostLink → HostLink) : (s.modLink f).fe = s.fe := rfl
@[simp] theorem State.modLink_cwy (s : State) (f : HostLink → HostLink) : (s.modLink f).cwy = s.cwy := rfl
@[simp] theorem State.modLink_err (s : State) (f : HostLink → HostLink) : (s.modLink f).err = s.err := rfl
@[simp] theorem State.modLink_fw (s : State) (f : HostLink → HostLink) : (s.modLink f).fw = s.fw := rfl
@[simp] theorem State.modLink_mss (s : State) (f : HostLink → HostLink) : (s.modLink f).mss = s.mss := rfl
@[simp] theorem State.modLink_pwc (s : State) (f : HostLink → HostLink) : (s.modLink f).pwc = s.pwc := rfl
@[simp] theorem State.modLink_jnl (s : State) (f : HostLink → HostLink) : (s.modLink f).jnl = s.jnl := rfl
@[simp] theorem State.modLink_cip (s : State) (f : HostLink → HostLink) : (s.modLink f).cip = s.cip := rfl
@[simp] theorem State.modLink_board (s : State) (f : HostLink → HostLink) : (s.modLink f).board = s.board := rfl
@[simp] theorem State.modLink_out (s : State) (f : HostLink → HostLink) : (s.modLink f).out = s.out := rfl
@[simp] theorem State.modLink_link (s : State) (f : HostLink → HostLink) : (s.modLink f).link = f s.link := rfl

/-! ### State.modBoard -/

@[simp] theorem State.modBoard_pending (s : State) (f : Board → Board) : (s.modBoard f).pending = s.pending := rfl
@[simp] theorem State.modBoard_freeCtr (s : State) (f : Board → Board) : (s.modBoard f).freeCtr = s.freeCtr := rfl
@[simp] theorem State.modBoard_regs (s : State) (f : Board → Board) : (s.modBoard f).regs = s.regs := rfl
@[simp] theorem State.modBoard_hums (s : State) (f : Board → Board) : (s.modBoard f).hums = s.hums := rfl
@[simp] theorem State.modBoard_sluices (s : State) (f : Board → Board) : (s.modBoard f).sluices = s.sluices := rfl
@[simp] theorem State.modBoard_flight (s : State) (f : Board → Board) : (s.modBoard f).flight = s.flight := rfl
@[simp] theorem State.modBoard_mem (s : State) (f : Board → Board) : (s.modBoard f).mem = s.mem := rfl
@[simp] theorem State.modBoard_ep (s : State) (f : Board → Board) : (s.modBoard f).ep = s.ep := rfl
@[simp] theorem State.modBoard_fe (s : State) (f : Board → Board) : (s.modBoard f).fe = s.fe := rfl
@[simp] theorem State.modBoard_cwy (s : State) (f : Board → Board) : (s.modBoard f).cwy = s.cwy := rfl
@[simp] theorem State.modBoard_err (s : State) (f : Board → Board) : (s.modBoard f).err = s.err := rfl
@[simp] theorem State.modBoard_fw (s : State) (f : Board → Board) : (s.modBoard f).fw = s.fw := rfl
@[simp] theorem State.modBoard_mss (s : State) (f : Board → Board) : (s.modBoard f).mss = s.mss := rfl
@[simp] theorem State.modBoard_pwc (s : State) (f : Board → Board) : (s.modBoard f).pwc = s.pwc := rfl
@[simp] theorem State.modBoard_jnl (s : State) (f : Board → Board) : (s.modBoard f).jnl = s.jnl := rfl
@[simp] theorem State.modBoard_cip (s : State) (f : Board → Board) : (s.modBoard f).cip = s.cip := rfl
@[simp] theorem State.modBoard_link (s : State) (f : Board → Board) : (s.modBoard f).link = s.link := rfl
@[simp] theorem State.modBoard_out (s : State) (f : Board → Board) : (s.modBoard f).out = s.out := rfl
@[simp] theorem State.modBoard_board (s : State) (f : Board → Board) : (s.modBoard f).board = f s.board := rfl

/-! ### State.violReg -/

@[simp] theorem State.violReg_pending (s : State) : (s.violReg).pending = s.pending := rfl
@[simp] theorem State.violReg_freeCtr (s : State) : (s.violReg).freeCtr = s.freeCtr := rfl
@[simp] theorem State.violReg_regs (s : State) : (s.violReg).regs = s.regs := rfl
@[simp] theorem State.violReg_hums (s : State) : (s.violReg).hums = s.hums := rfl
@[simp] theorem State.violReg_sluices (s : State) : (s.violReg).sluices = s.sluices := rfl
@[simp] theorem State.violReg_flight (s : State) : (s.violReg).flight = s.flight := rfl
@[simp] theorem State.violReg_mem (s : State) : (s.violReg).mem = s.mem := rfl
@[simp] theorem State.violReg_ep (s : State) : (s.violReg).ep = s.ep := rfl
@[simp] theorem State.violReg_fe (s : State) : (s.violReg).fe = s.fe := rfl
@[simp] theorem State.violReg_cwy (s : State) : (s.violReg).cwy = s.cwy := rfl
@[simp] theorem State.violReg_err (s : State) : (s.violReg).err = s.err := rfl
@[simp] theorem State.violReg_fw (s : State) : (s.violReg).fw = s.fw := rfl
@[simp] theorem State.violReg_mss (s : State) : (s.violReg).mss = s.mss := rfl
@[simp] theorem State.violReg_pwc (s : State) : (s.violReg).pwc = s.pwc := rfl
@[simp] theorem State.violReg_link (s : State) : (s.violReg).link = s.link := rfl
@[simp] theorem State.violReg_board (s : State) : (s.violReg).board = s.board := rfl
@[simp] theorem State.violReg_out (s : State) : (s.violReg).out = s.out := rfl

/-! ### State.violFrame -/

@[simp] theorem State.violFrame_pending (s : State) : (s.violFrame).pending = s.pending := rfl
@[simp] theorem State.violFrame_freeCtr (s : State) : (s.violFrame).freeCtr = s.freeCtr := rfl
@[simp] theorem State.violFrame_regs (s : State) : (s.violFrame).regs = s.regs := rfl
@[simp] theorem State.violFrame_hums (s : State) : (s.violFrame).hums = s.hums := rfl
@[simp] theorem State.violFrame_sluices (s : State) : (s.violFrame).sluices = s.sluices := rfl
@[simp] theorem State.violFrame_flight (s : State) : (s.violFrame).flight = s.flight := rfl
@[simp] theorem State.violFrame_mem (s : State) : (s.violFrame).mem = s.mem := rfl
@[simp] theorem State.violFrame_ep (s : State) : (s.violFrame).ep = s.ep := rfl
@[simp] theorem State.violFrame_fe (s : State) : (s.violFrame).fe = s.fe := rfl
@[simp] theorem State.violFrame_cwy (s : State) : (s.violFrame).cwy = s.cwy := rfl
@[simp] theorem State.violFrame_err (s : State) : (s.violFrame).err = s.err := rfl
@[simp] theorem State.violFrame_fw (s : State) : (s.violFrame).fw = s.fw := rfl
@[simp] theorem State.violFrame_mss (s : State) : (s.violFrame).mss = s.mss := rfl
@[simp] theorem State.violFrame_pwc (s : State) : (s.violFrame).pwc = s.pwc := rfl
@[simp] theorem State.violFrame_link (s : State) : (s.violFrame).link = s.link := rfl
@[simp] theorem State.violFrame_board (s : State) : (s.violFrame).board = s.board := rfl
@[simp] theorem State.violFrame_out (s : State) : (s.violFrame).out = s.out := rfl

/-! ### State.violCmd -/

@[simp] theorem State.violCmd_pending (s : State) : (s.violCmd).pending = s.pending := rfl
@[simp] theorem State.violCmd_freeCtr (s : State) : (s.violCmd).freeCtr = s.freeCtr := rfl
@[simp] theorem State.violCmd_regs (s : State) : (s.violCmd).regs = s.regs := rfl
@[simp] theorem State.violCmd_hums (s : State) : (s.violCmd).hums = s.hums := rfl
@[simp] theorem State.violCmd_sluices (s : State) : (s.violCmd).sluices = s.sluices := rfl
@[simp] theorem State.violCmd_flight (s : State) : (s.violCmd).flight = s.flight := rfl
@[simp] theorem State.violCmd_mem (s : State) : (s.violCmd).mem = s.mem := rfl
@[simp] theorem State.violCmd_ep (s : State) : (s.violCmd).ep = s.ep := rfl
@[simp] theorem State.violCmd_cwy (s : State) : (s.violCmd).cwy = s.cwy := rfl
@[simp] theorem State.violCmd_err (s : State) : (s.violCmd).err = s.err := rfl
@[simp] theorem State.violCmd_fw (s : State) : (s.violCmd).fw = s.fw := rfl
@[simp] theorem State.violCmd_mss (s : State) : (s.violCmd).mss = s.mss := rfl
@[simp] theorem State.violCmd_pwc (s : State) : (s.violCmd).pwc = s.pwc := rfl
@[simp] theorem State.violCmd_jnl (s : State) : (s.violCmd).jnl = s.jnl := rfl
@[simp] theorem State.violCmd_cip (s : State) : (s.violCmd).cip = s.cip := rfl
@[simp] theorem State.violCmd_link (s : State) : (s.violCmd).link = s.link := rfl
@[simp] theorem State.violCmd_board (s : State) : (s.violCmd).board = s.board := rfl
@[simp] theorem State.violCmd_out (s : State) : (s.violCmd).out = s.out := rfl

/-! ### State.violSluice -/

@[simp] theorem State.violSluice_pending (s : State) : (s.violSluice).pending = s.pending := rfl
@[simp] theorem State.violSluice_freeCtr (s : State) : (s.violSluice).freeCtr = s.freeCtr := rfl
@[simp] theorem State.violSluice_regs (s : State) : (s.violSluice).regs = s.regs := rfl
@[simp] theorem State.violSluice_hums (s : State) : (s.violSluice).hums = s.hums := rfl
@[simp] theorem State.violSluice_sluices (s : State) : (s.violSluice).sluices = s.sluices := rfl
@[simp] theorem State.violSluice_flight (s : State) : (s.violSluice).flight = s.flight := rfl
@[simp] theorem State.violSluice_mem (s : State) : (s.violSluice).mem = s.mem := rfl
@[simp] theorem State.violSluice_ep (s : State) : (s.violSluice).ep = s.ep := rfl
@[simp] theorem State.violSluice_cwy (s : State) : (s.violSluice).cwy = s.cwy := rfl
@[simp] theorem State.violSluice_err (s : State) : (s.violSluice).err = s.err := rfl
@[simp] theorem State.violSluice_fw (s : State) : (s.violSluice).fw = s.fw := rfl
@[simp] theorem State.violSluice_mss (s : State) : (s.violSluice).mss = s.mss := rfl
@[simp] theorem State.violSluice_pwc (s : State) : (s.violSluice).pwc = s.pwc := rfl
@[simp] theorem State.violSluice_jnl (s : State) : (s.violSluice).jnl = s.jnl := rfl
@[simp] theorem State.violSluice_cip (s : State) : (s.violSluice).cip = s.cip := rfl
@[simp] theorem State.violSluice_link (s : State) : (s.violSluice).link = s.link := rfl
@[simp] theorem State.violSluice_board (s : State) : (s.violSluice).board = s.board := rfl
@[simp] theorem State.violSluice_out (s : State) : (s.violSluice).out = s.out := rfl

/-! ### Reading back -/

@[simp] theorem State.hum_setHum_same (s : State) (g : Nat) (h : Hummock) : (s.setHum g h).hum g = h :=
  sget_sset_same _ _ _ _

theorem State.hum_setHum_ne (s : State) (h : Hummock) {g k : Nat} (n : k ≠ g) : (s.setHum g h).hum k = s.hum k :=
  sget_sset_ne _ _ _ n

@[simp] theorem State.hum_modHum_same (s : State) (g : Nat) (f : Hummock → Hummock) : (s.modHum g f).hum g = f (s.hum g) :=
  State.hum_setHum_same _ _ _

theorem State.hum_modHum_ne (s : State) (f : Hummock → Hummock) {g k : Nat} (n : k ≠ g) : (s.modHum g f).hum k = s.hum k :=
  State.hum_setHum_ne _ _ n

@[simp] theorem State.sluice_setSluice_same (s : State) (n : Nat) (x : Sluice) : (s.setSluice n x).sluice n = x :=
  sget_sset_same _ _ _ _

theorem State.sluice_setSluice_ne (s : State) (x : Sluice) {n k : Nat} (h : k ≠ n) : (s.setSluice n x).sluice k = s.sluice k :=
  sget_sset_ne _ _ _ h

@[simp] theorem State.ctx_setCtx_same (s : State) (c : Nat) (x : Ctx) : (s.setCtx c x).ctx c = x := sget_sset_same _ _ _ _

theorem State.ctx_setCtx_ne (s : State) (x : Ctx) {c k : Nat} (h : k ≠ c) : (s.setCtx c x).ctx k = s.ctx k := sget_sset_ne _ _ _ h

@[simp] theorem State.port_setPort_same (s : State) (p : Nat) (x : Port) : (s.setPort p x).port p = x := sget_sset_same _ _ _ _

theorem State.port_setPort_ne (s : State) (x : Port) {p k : Nat} (h : k ≠ p) : (s.setPort p x).port k = s.port k :=
  sget_sset_ne _ _ _ h

@[simp] theorem State.proc_setProc_same (s : State) (i : Nat) (x : ProcReg) : (s.setProc i x).proc i = x :=
  sget_sset_same _ _ _ _

theorem State.proc_setProc_ne (s : State) (x : ProcReg) {i k : Nat} (h : k ≠ i) : (s.setProc i x).proc k = s.proc k :=
  sget_sset_ne _ _ _ h

@[simp] theorem State.stack_setStack_same (s : State) (k : Nat) (x : StackReg) : (s.setStack k x).stack k = x :=
  sget_sset_same _ _ _ _

@[simp] theorem State.orbOf_setOrb_same (s : State) (x : Nat) (o : Orb) : (s.setOrb x o).orbOf x = o := sget_sset_same _ _ _ _

@[simp] theorem State.reg_setReg_same (s : State) (off : Nat) (v : BitVec 64) : (s.setReg off v).reg off = v :=
  sget_sset_same _ _ _ _

theorem State.reg_setReg_ne (s : State) (v : BitVec 64) {off o : Nat} (h : o ≠ off) : (s.setReg off v).reg o = s.reg o := by
  unfold State.reg State.setReg
  exact sget_sset_other _ _ _ _ h

@[simp] theorem Hummock.tile_setTile_same (h : Hummock) (t : Nat) (x : SumpTile) : (h.setTile t x).tile t = x :=
  sget_sset_same _ _ _ _

theorem Hummock.tile_setTile_ne (h : Hummock) (x : SumpTile) {t k : Nat} (n : k ≠ t) : (h.setTile t x).tile k = h.tile k :=
  sget_sset_ne _ _ _ n

@[simp] theorem Hummock.lat_setLat_same (h : Hummock) (l : Nat) (x : Lattice) : (h.setLat l x).lat l = x :=
  sget_sset_same _ _ _ _

theorem Hummock.lat_setLat_ne (h : Hummock) (x : Lattice) {l k : Nat} (n : k ≠ l) : (h.setLat l x).lat k = h.lat k :=
  sget_sset_ne _ _ _ n

@[simp] theorem Hummock.slot_setSlot_same (h : Hummock) (p : Nat) (x : Store (BitVec 64)) : (h.setSlot p x).slot p = x :=
  sget_sset_same _ _ _ _

theorem Hummock.slot_setSlot_ne (h : Hummock) (x : Store (BitVec 64)) {p k : Nat} (n : k ≠ p) :
    (h.setSlot p x).slot k = h.slot k :=
  sget_sset_ne _ _ _ n

/-! ### Waiters that leave (07 R177) -/

theorem sget_waitersGone (m : Store Sluice) (f : Sluice → Sluice) (h : f Sluice.reset = Sluice.reset) (n : Nat) :
    sget Sluice.reset (m.foldr (fun p acc => sset Sluice.reset acc p.1 (f p.2)) []) n = f (sget Sluice.reset m n) := by
  induction m with
  | nil => simp [h]
  | cons p m ih =>
    obtain ⟨j, v⟩ := p
    by_cases e : j = n
    · subst e; simp [sget]
    · simp only [List.foldr_cons, sget, e, if_false]
      rw [sget_sset_ne _ _ _ (Ne.symm e), ih]

/-- What `unwait` does to each sluice: the waiters named leave its queue. -/
theorem State.unwait_sluice (s : State) (gone : Nat → Bool) (n : Nat) :
    (s.unwait gone).sluice n =
      { s.sluice n with waiters := (s.sluice n).waiters.filter fun w => match w.hum with | some g => !gone g | none => true } := by
  unfold State.unwait State.sluice
  dsimp only
  split
  · rename_i h
    have key : ∀ m : Store Sluice, (m.all fun p => p.2.waiters.all fun w => match w.hum with | some g => !gone g | none => true) = true →
        ∀ n, ((sget Sluice.reset m n).waiters.filter fun w => match w.hum with | some g => !gone g | none => true) =
          (sget Sluice.reset m n).waiters := by
      intro m
      induction m with
      | nil => intro _ n; rfl
      | cons p m ih =>
        intro hm n
        simp only [List.all_cons, Bool.and_eq_true] at hm
        obtain ⟨j, v⟩ := p
        simp only [sget]
        split
        · exact List.filter_eq_self.2 fun w hw => List.all_eq_true.1 hm.1 w hw
        · exact ih hm.2 n
    rw [key _ h]
  · exact sget_waitersGone s.sluices
      (fun x => { x with waiters := x.waiters.filter fun w => match w.hum with | some g => !gone g | none => true }) rfl n

/-! ### Processors -/

theorem State.coreOf_loadCore_ne (s : State) (b : Bool) {i k : Nat} (h : k ≠ i) : (s.loadCore b i).coreOf k = s.coreOf k :=
  sget_sset_ne _ _ _ h

theorem State.coreOf_startCore_ne (s : State) (b : Bool) {i k : Nat} (h : k ≠ i) : (s.startCore b i).coreOf k = s.coreOf k := by
  simp [State.startCore, State.modFw, State.coreOf, sget_sset_ne _ _ _ h]

theorem State.proc_startCore_ne (s : State) (b : Bool) {i k : Nat} (h : k ≠ i) : (s.startCore b i).proc k = s.proc k := by
  simp [State.startCore, State.modFw, State.proc, sget_sset_ne _ _ _ h]

@[simp] theorem State.startCore_isram (s : State) (b : Bool) (i : Nat) :
    ((s.startCore b i).coreOf i).isram = (s.coreOf i).isram := by
  simp [State.startCore, State.modFw, State.coreOf]

@[simp] theorem State.startCore_st (s : State) (b : Bool) (i : Nat) : ((s.startCore b i).proc i).st = .starting := by
  simp [State.startCore, State.modFw, State.proc]

/-- Loading a component touches no processor's registers and no other part of the state than the cores. -/
theorem State.loadCore_frame (s : State) (b : Bool) (i : Nat) :
    { s.loadCore b i with fw := s.fw } = s ∧ (s.loadCore b i).fw.procs = s.fw.procs ∧ (s.loadCore b i).fw.flash = s.fw.flash :=
  ⟨rfl, rfl, rfl⟩

/-- Records that a rebuild keeps are those up to the first bad one (15 R380). -/
theorem State.rebuild_part (s : State) (i : Nat) : (s.rebuild i).part i = { s.part i with recs := (s.part i).valid } := by
  have h (t : State) (b : JBody) : (t.applyBody i b).jnl = t.jnl := by cases b <;> rfl
  unfold State.rebuild
  dsimp only
  split <;> simp [State.part, h]

end Sys2Proof.Machine
end

