-- ==== Sys2Proof/Laws/Memory.lean ====
section
/-!
SUPPORT. Sys2Proof/Laws/Memory.lean: which memory operations leave device memory as it is, that the others keep its canonical
form, and where a write lands.
-/

namespace Sys2Proof.Machine

/-- A fold whose every step keeps a property keeps it. -/
theorem foldl_keeps {σ τ : Type} (P : σ → Prop) (f : σ → τ → σ) (h : ∀ s x, P s → P (f s x)) (l : List τ) (s : σ) (p : P s) :
    P (l.foldl f s) := by
  induction l generalizing s with
  | nil => exact p
  | cons x l ih => exact ih _ (h s x p)

/-! ### Reads leave device memory alone -/

@[simp] theorem countEcc_hbm (s : State) (sec chan ce ue : Nat) : (countEcc s sec chan ce ue).mem.hbm = s.mem.hbm := by
  unfold countEcc; split <;> rfl

@[simp] theorem countSram_hbm (s : State) (sec ce ue : Nat) : (countSram s sec ce ue).mem.hbm = s.mem.hbm := rfl

@[simp] theorem State.setErr_hbm (s : State) (u : Nat) (e : BitVec 288) : (s.setErr u e).mem.hbm = s.mem.hbm := rfl

@[simp] theorem State.memEvent_mem (s : State) (kind sector chan src ctx addr seq : Nat) :
    (s.memEvent kind sector chan src ctx addr seq).mem = s.mem := State.event_mem _ _ _ _

@[simp] theorem State.eccHbm_hbm (s : State) (lo hi ctx : Nat) : (s.eccHbm lo hi ctx).1.mem.hbm = s.mem.hbm := by
  unfold State.eccHbm
  refine foldl_keeps (fun a : State × Option Nat => a.1.mem.hbm = s.mem.hbm) _ ?_ _ _ rfl
  intro a p h
  dsimp only
  split <;> simp [h]

@[simp] theorem State.settleSram_hbm (s : State) (g kind lo hi : Nat) : (s.settleSram g kind lo hi).mem.hbm = s.mem.hbm := by
  unfold State.settleSram
  dsimp only
  split
  · rfl
  · refine foldl_keeps (fun t : State => t.mem.hbm = s.mem.hbm) _ ?_ _ _ rfl
    intro t p h
    exact h

@[simp] theorem State.eccSram_hbm (s : State) (g kind lo hi ctx : Nat) :
    (s.eccSram g kind lo hi ctx).1.mem.hbm = s.mem.hbm := by
  unfold State.eccSram
  dsimp only
  rw [State.settleSram_hbm]
  refine foldl_keeps (fun a : State × Bool => a.1.mem.hbm = s.mem.hbm) _ ?_ _ _ rfl
  intro a p h
  split <;> simp [h]

@[simp] theorem State.eccWrite_hbm (s : State) (a n : Nat) : (s.eccWrite a n).mem.hbm = s.mem.hbm := rfl

@[simp] theorem State.eccSramWrite_hbm (s : State) (g kind a n : Nat) : (s.eccSramWrite g kind a n).mem.hbm = s.mem.hbm := rfl

@[simp] theorem State.wakeStacks_hbm (s : State) (a n : Nat) : (s.wakeStacks a n).mem.hbm = s.mem.hbm := by
  unfold State.wakeStacks
  refine foldl_keeps (fun t : State => t.mem.hbm = s.mem.hbm) _ ?_ _ _ rfl
  intro t i h
  dsimp only
  split
  · exact h
  · exact h

@[simp] theorem State.awaitZero_hbm (s : State) (f : Nat) : (s.awaitZero f).mem.hbm = s.mem.hbm := by
  unfold State.awaitZero
  split <;> rfl

@[simp] theorem State.physRead_hbm (s : State) (who : Accessor) (a n ctx : Nat) :
    (s.physRead who a n ctx).s.mem.hbm = s.mem.hbm := by
  unfold State.physRead
  split
  · rfl
  · split
    · rfl
    · simp

@[simp] theorem State.readEntry_hbm (s : State) (c t i : Nat) : (s.readEntry c t i).1.mem.hbm = s.mem.hbm := by
  simp [State.readEntry]

@[simp] theorem State.walk_hbm (s : State) (c va fuel level t : Nat) :
    (s.walk c va fuel level t).1.mem.hbm = s.mem.hbm := by
  induction fuel generalizing s level t with
  | zero => rfl
  | succ n ih =>
    grind [State.walk, State.readEntry_hbm]

@[simp] theorem State.draw_hbm (s : State) : s.draw.2.mem.hbm = s.mem.hbm := rfl

@[simp] theorem State.xlate_hbm (s : State) (u c va : Nat) (write : Bool) : (s.xlate u c va write).1.mem.hbm = s.mem.hbm := by
  grind [State.xlate, State.walk_hbm, State.draw_hbm]

@[simp] theorem State.xlateVia_hbm (s : State) (unit : Option Nat) (c a n : Nat) (write : Bool) :
    (s.xlateVia unit c a n write).1.mem.hbm = s.mem.hbm := by
  unfold State.xlateVia
  refine foldl_keeps (fun r : State × List TlbEntry × Xlat => r.1.mem.hbm = s.mem.hbm) _ ?_ _ _ rfl
  intro r p h
  split
  · split
    · exact h
    · have hx := State.xlate_hbm r.1 (unit.getD (vaSector p.1)) c p.1 write
      split <;> simp_all
  · exact h

@[simp] theorem State.xlateSpan_hbm (s : State) (c a n : Nat) (write : Bool) :
    (s.xlateSpan c a n write).1.mem.hbm = s.mem.hbm := State.xlateVia_hbm _ _ _ _ _ _

@[simp] theorem State.vaRead_hbm (s : State) (m : List TlbEntry) (c a n : Nat) :
    (s.vaRead m c a n).s.mem.hbm = s.mem.hbm := by
  unfold State.vaRead
  refine foldl_keeps (fun r : Access => r.s.mem.hbm = s.mem.hbm) _ ?_ _ _ rfl
  grind [State.physRead_hbm]

@[simp] theorem State.readAt_hbm (s : State) (g : Nat) (m : List TlbEntry) (d : DescCap) (a n : Nat) :
    (s.readAt g m d a n).1.mem.hbm = s.mem.hbm := by
  grind [State.readAt, State.vaRead_hbm, State.eccSram_hbm]

@[simp] theorem State.feGet_hbm (s : State) (c va n : Nat) : (s.feGet c va n).1.mem.hbm = s.mem.hbm := by
  have hx := State.xlateSpan_hbm s c va n false
  unfold State.feGet
  split
  · rename_i h
    rw [h] at hx
    refine foldl_keeps (fun r : State × Option (List Byte) => r.1.mem.hbm = s.mem.hbm) _ ?_ _ _ hx
    intro r p h
    simpa using h
  · rename_i h
    rw [h] at hx
    simpa [State.xlatEvent] using hx
  · rename_i h
    rw [h] at hx
    exact hx

@[simp] theorem State.feRead_hbm (s : State) (c va n : Nat) : (s.feRead c va n).1.mem.hbm = s.mem.hbm := by
  have h := State.feGet_hbm s c va n
  unfold State.feRead
  split <;> simp_all

/-! ### Writes keep the canonical form of device memory -/

theorem unitWrite_wf {m : List Host.Cell} (k : Option (BitVec 512)) (u : Nat) (bs : List Byte) (w : Memory.wf m = true) :
    Memory.wf (unitWrite m k u bs) = true := by
  unfold unitWrite
  split <;> exact Memory.wf_bwrite _ _ w

theorem plainWrite_wf {m : List Host.Cell} (k : Option (BitVec 512)) (a : Nat) (bs : List Byte) (w : Memory.wf m = true) :
    Memory.wf (plainWrite m k a bs) = true := by
  unfold plainWrite
  split
  · exact Memory.wf_bwrite _ _ w
  · exact foldl_keeps (fun h => Memory.wf h = true) _ (fun _ _ h => unitWrite_wf _ _ _ h) _ _ w

theorem errOver_wf {m : List Host.Cell} (ps : Store (BitVec 288)) (w : Memory.wf m = true) : Memory.wf (errOver ps m) = true :=
  foldl_keeps (fun h => Memory.wf h = true) _ (fun _ _ h => Memory.wf_bwrite _ _ h) _ _ w

theorem State.settleErr_wf {s : State} (lo hi : Nat) (w : Memory.wf s.mem.hbm = true) :
    Memory.wf (s.settleErr lo hi).mem.hbm = true := by
  unfold State.settleErr
  split
  · exact w
  · exact errOver_wf _ w

/-- All that a physical write can do (R213, R230): nothing, a counted violation, or the bytes stored in plain or enciphered form. -/
theorem State.physWrite_cases (s : State) (who : Accessor) (a : Nat) (bs : List Byte) :
    s.physWrite who a bs = s ∨ s.physWrite who a bs = s.violFrame ∨
    ∃ t : State, t = ((s.awaitZero (dpaFrame a)).wakeStacks a bs.length).settleErr (a / 32) ((a + bs.length + 31) / 32) ∧
      s.physWrite who a bs = ({ t with mem := { t.mem with
        hbm := plainWrite t.mem.hbm (t.frameKey (dpaFrame a)) a bs } } : State).eccWrite a bs.length := by
  unfold State.physWrite
  split
  · exact .inl rfl
  · split
    · exact .inr (.inl rfl)
    · exact .inr (.inr ⟨_, rfl, rfl⟩)

theorem State.physWrite_wf {s : State} (who : Accessor) (a : Nat) (bs : List Byte) (w : Memory.wf s.mem.hbm = true) :
    Memory.wf (s.physWrite who a bs).mem.hbm = true := by
  obtain h | h | ⟨t, ht, h⟩ := s.physWrite_cases who a bs
  · rwa [h]
  · rwa [h, State.violFrame_mem]
  · have wt : Memory.wf t.mem.hbm = true := by
      rw [ht]
      apply State.settleErr_wf
      rwa [State.wakeStacks_hbm, State.awaitZero_hbm]
    rw [h, State.eccWrite_hbm]
    exact plainWrite_wf _ _ _ wt

theorem State.moveFrame_wf {s : State} (f g : Nat) (w : Memory.wf s.mem.hbm = true) :
    Memory.wf (s.moveFrame f g).mem.hbm = true := by
  unfold State.moveFrame
  dsimp only
  split
  · exact swf_scopy _ _ _ w
  · exact foldl_keeps (fun h => Memory.wf h = true) _ (fun _ _ h => unitWrite_wf _ _ _ h) _ _ w

theorem State.copyFrame_wf {s : State} (f g : Nat) (w : Memory.wf s.mem.hbm = true) :
    Memory.wf (s.copyFrame f g).mem.hbm = true := by
  unfold State.copyFrame
  dsimp only
  apply State.moveFrame_wf
  apply State.settleErr_wf
  rwa [State.eccHbm_hbm, State.wakeStacks_hbm, State.wakeStacks_hbm]

theorem State.noteCopy_hbm (s : State) (fa : Nat) : (s.noteCopy fa).mem.hbm = s.mem.hbm := rfl

theorem State.openPage_wf {s : State} (leaf : BitVec 64) (whole : Bool) (w : Memory.wf s.mem.hbm = true) :
    Memory.wf (s.openPage leaf whole).1.mem.hbm = true := by
  unfold State.openPage
  dsimp only
  split
  · exact w
  · split
    · exact w
    · split
      · exact State.moveFrame_wf _ _ w
      · rw [State.noteCopy_hbm]
        exact State.copyFrame_wf _ _ w

theorem State.vaWrite_wf {s : State} (m : List TlbEntry) (c a : Nat) (bs : List Byte) (whole : List Nat)
    (w : Memory.wf s.mem.hbm = true) : Memory.wf (s.vaWrite m c a bs whole).1.mem.hbm = true := by
  unfold State.vaWrite
  refine foldl_keeps (fun r : State × Trouble × List Byte => Memory.wf r.1.mem.hbm = true) _ ?_ _ _ w
  grind [State.openPage_wf, State.physWrite_wf, State.violFrame]

theorem State.writeAt_wf {s : State} (g : Nat) (m : List TlbEntry) (d : DescCap) (whole : List Nat) (a : Nat) (bs : List Byte)
    (w : Memory.wf s.mem.hbm = true) : Memory.wf (s.writeAt g m d whole a bs).1.mem.hbm = true := by
  unfold State.writeAt
  split
  · exact State.vaWrite_wf _ _ _ _ _ w
  · simpa using w

theorem State.writePieces_wf {s : State} (m : List TlbEntry) (c va : Nat) (bs : List Byte) (w : Memory.wf s.mem.hbm = true) :
    Memory.wf (s.writePieces m c va bs).mem.hbm = true :=
  foldl_keeps (fun r : State × List Byte => Memory.wf r.1.mem.hbm = true) _ (fun _ _ h => State.physWrite_wf _ _ _ h) _ (s, bs) w

theorem State.feWrite_wf {s : State} (c va : Nat) (bs : List Byte) (w : Memory.wf s.mem.hbm = true) :
    Memory.wf (s.feWrite c va bs).1.mem.hbm = true := by
  have hx := State.xlateSpan_hbm s c va bs.length true
  unfold State.feWrite
  split <;> rename_i h <;> rw [h] at hx <;> dsimp only at hx ⊢ <;> apply State.writePieces_wf <;> simpa [State.xlatEvent, hx] using w

theorem State.feWriteOpen_wf {s : State} (c va : Nat) (bs : List Byte) (w : Memory.wf s.mem.hbm = true) :
    Memory.wf (s.feWriteOpen c va bs).1.mem.hbm = true := by
  have hx := State.xlateSpan_hbm s c va bs.length true
  unfold State.feWriteOpen
  split <;> rename_i h <;> rw [h] at hx <;> dsimp only at hx ⊢
  · have hw := State.vaWrite_wf (s := _) ‹List TlbEntry› c va bs [] (hx ▸ w)
    split <;> simp_all
  · simpa [State.xlatEvent, hx] using w
  · simpa [hx] using w

theorem State.ownWrite_wf {s : State} (f : Nat) (e : OwnEntry) (w : Memory.wf s.mem.hbm = true) :
    Memory.wf (s.ownWrite f e).mem.hbm = true := by
  have h := swf_sclear (d := (0 : Byte)) (f * frameBytes) ((f + 1) * frameBytes) w
  unfold State.ownWrite
  dsimp only
  split
  · generalize ht : State.wakeStacks _ (f * frameBytes) frameBytes = t
    have e : t.mem.hbm = s.mem.hbm := by rw [← ht, State.wakeStacks_hbm]; rfl
    rw [← e] at h
    exact h
  · exact w

theorem reset_hbm_wf : Memory.wf State.reset.mem.hbm = true := rfl

/-! ### Where a write lands -/

/-- A write of plain bytes to a frame that is not sealed changes no byte outside those written. -/
theorem plainWrite_outside (m : List Host.Cell) {a n : Nat} (bs : List Byte) (h : n < a ∨ a + bs.length ≤ n) :
    bget (plainWrite m none a bs) n = bget m n := by
  rcases h with h | h
  · exact bget_bwrite_lt m bs h
  · exact bget_bwrite_ge m bs h

/-- What a write of plain bytes to a frame that is not sealed stores reads back. -/
theorem plainRead_plainWrite (m : List Host.Cell) (a : Nat) (bs : List Byte) :
    plainRead (plainWrite m none a bs) none a bs.length = bs := bread_bwrite m a bs

/-! ### Journal records -/

/-- A record whose stored CRC is the right one is the one that a rebuild takes. -/
theorem JRec.crcOk_iff (r : JRec) : r.crcOk = true ↔ r.crc = crc32c (r.framed 0) := by
  simp only [JRec.crcOk, JRec.crc, beq_iff_eq]
  constructor
  · intro h
    simp [h]
  · intro h
    have := congrArg (crc32c (r.framed 0) ^^^ ·) h
    simpa [← BitVec.xor_assoc] using this

end Sys2Proof.Machine
end

