-- ==== Sys2Proof/Laws/PerInstr.lean ====
section
/-! SUPPORT. Statements that hold of every command, one lemma per constructor of Instr. -/

namespace Sys2Proof.Laws.SeqWord

/-- A command has an instruction word exactly when it is an instruction of a station sequencer
(R155). -/
def Statement (i : Instr) : Prop := (encodeSeqWord i).isSome = (seqHum i).isSome

theorem nopInstr (x0) : Statement (.nopInstr x0) := rfl
theorem endProg (x0) : Statement (.endProg x0) := rfl
theorem waitp (x0) : Statement (.waitp x0) := rfl
theorem fence (x0 x1) : Statement (.fence x0 x1) := rfl
theorem br (x0 x1) : Statement (.br x0 x1) := rfl
theorem brc (x0 x1 x2 x3 x4) : Statement (.brc x0 x1 x2 x3 x4) := rfl
theorem loop (x0 x1 x2) : Statement (.loop x0 x1 x2) := rfl
theorem li (x0 x1 x2) : Statement (.li x0 x1 x2) := rfl
theorem lui (x0 x1 x2) : Statement (.lui x0 x1 x2) := rfl
theorem add (x0 x1 x2 x3 x4) : Statement (.add x0 x1 x2 x3 x4) := rfl
theorem sub (x0 x1 x2 x3 x4) : Statement (.sub x0 x1 x2 x3 x4) := rfl
theorem and (x0 x1 x2 x3 x4) : Statement (.and x0 x1 x2 x3 x4) := rfl
theorem or (x0 x1 x2 x3 x4) : Statement (.or x0 x1 x2 x3 x4) := rfl
theorem xor (x0 x1 x2 x3 x4) : Statement (.xor x0 x1 x2 x3 x4) := rfl
theorem shl (x0 x1 x2 x3 x4) : Statement (.shl x0 x1 x2 x3 x4) := rfl
theorem shr (x0 x1 x2 x3 x4) : Statement (.shr x0 x1 x2 x3 x4) := rfl
theorem mul (x0 x1 x2 x3 x4) : Statement (.mul x0 x1 x2 x3 x4) := rfl
theorem pld (x0 x1 x2 x3) : Statement (.pld x0 x1 x2 x3) := rfl
theorem srd (x0 x1 x2) : Statement (.srd x0 x1 x2) := rfl
theorem swr (x0 x1 x2) : Statement (.swr x0 x1 x2) := rfl
theorem dset (x0 x1 x2) : Statement (.dset x0 x1 x2) := rfl
theorem dpatch (x0 x1 x2 x3) : Statement (.dpatch x0 x1 x2 x3) := rfl
theorem dadd (x0 x1 x2 x3) : Statement (.dadd x0 x1 x2 x3) := rfl
theorem signal (x0 x1 x2 x3 x4 x5) : Statement (.signal x0 x1 x2 x3 x4 x5) := rfl
theorem wait (x0 x1 x2 x3) : Statement (.wait x0 x1 x2 x3) := rfl
theorem lload (x0 x1 x2 x3 x4 x5) : Statement (.lload x0 x1 x2 x3 x4 x5) := rfl
theorem lpass (x0 x1) : Statement (.lpass x0 x1) := rfl
theorem scfg (x0 x1) : Statement (.scfg x0 x1) := rfl
theorem sspill (x0 x1) : Statement (.sspill x0 x1) := rfl
theorem sclr (x0 x1 x2) : Statement (.sclr x0 x1 x2) := rfl
theorem wmove (x0 x1) : Statement (.wmove x0 x1) := rfl
theorem wconv (x0 x1) : Statement (.wconv x0 x1) := rfl
theorem wred (x0 x1) : Statement (.wred x0 x1) := rfl
theorem csend (x0 x1) : Statement (.csend x0 x1) := rfl
theorem ropAdd (x0 x1) : Statement (.ropAdd x0 x1) := rfl
theorem ropSub (x0 x1) : Statement (.ropSub x0 x1) := rfl
theorem ropMul (x0 x1) : Statement (.ropMul x0 x1) := rfl
theorem div (x0 x1) : Statement (.div x0 x1) := rfl
theorem fma (x0 x1) : Statement (.fma x0 x1) := rfl
theorem axpb (x0 x1) : Statement (.axpb x0 x1) := rfl
theorem sqrt (x0 x1) : Statement (.sqrt x0 x1) := rfl
theorem recip (x0 x1) : Statement (.recip x0 x1) := rfl
theorem rsqrt (x0 x1) : Statement (.rsqrt x0 x1) := rfl
theorem exp (x0 x1) : Statement (.exp x0 x1) := rfl
theorem exp2 (x0 x1) : Statement (.exp2 x0 x1) := rfl
theorem log (x0 x1) : Statement (.log x0 x1) := rfl
theorem log2 (x0 x1) : Statement (.log2 x0 x1) := rfl
theorem tanh (x0 x1) : Statement (.tanh x0 x1) := rfl
theorem sigmoid (x0 x1) : Statement (.sigmoid x0 x1) := rfl
theorem gelu (x0 x1) : Statement (.gelu x0 x1) := rfl
theorem max (x0 x1) : Statement (.max x0 x1) := rfl
theorem min (x0 x1) : Statement (.min x0 x1) := rfl
theorem maxnum (x0 x1) : Statement (.maxnum x0 x1) := rfl
theorem minnum (x0 x1) : Statement (.minnum x0 x1) := rfl
theorem cvt (x0 x1) : Statement (.cvt x0 x1) := rfl
theorem rope (x0 x1) : Statement (.rope x0 x1) := rfl
theorem rsum (x0 x1) : Statement (.rsum x0 x1) := rfl
theorem rmax (x0 x1) : Statement (.rmax x0 x1) := rfl
theorem rssq (x0 x1) : Statement (.rssq x0 x1) := rfl
theorem lnorm (x0 x1) : Statement (.lnorm x0 x1) := rfl
theorem rmsn (x0 x1) : Statement (.rmsn x0 x1) := rfl
theorem smxr (x0 x1) : Statement (.smxr x0 x1) := rfl
theorem smxb (x0 x1) : Statement (.smxb x0 x1) := rfl
theorem aupd (x0 x1) : Statement (.aupd x0 x1) := rfl
theorem amrg (x0 x1) : Statement (.amrg x0 x1) := rfl
theorem anorm (x0 x1) : Statement (.anorm x0 x1) := rfl
theorem xent (x0 x1) : Statement (.xent x0 x1) := rfl
theorem instructionRetire (x0 x1) : Statement (.instructionRetire x0 x1) := rfl
theorem signalAtHome (x0) : Statement (.signalAtHome x0) := rfl
theorem lloadStart (x0 x1) : Statement (.lloadStart x0 x1) := rfl
theorem lloadComplete (x0 x1) : Statement (.lloadComplete x0 x1) := rfl
theorem lpassStart (x0) : Statement (.lpassStart x0) := rfl
theorem lpassCommit (x0) : Statement (.lpassCommit x0) := rfl
theorem spillComplete (x0 x1) : Statement (.spillComplete x0 x1) := rfl
theorem streamGroupCommit (x0) : Statement (.streamGroupCommit x0) := rfl
theorem streamGroupAck (x0 x1) : Statement (.streamGroupAck x0 x1) := rfl
theorem placement (x0 x1) : Statement (.placement x0 x1) := rfl
theorem dispatch : Statement (.dispatch) := rfl
theorem localPrepare : Statement (.localPrepare) := rfl
theorem prepare (x0) : Statement (.prepare x0) := rfl
theorem commit (x0) : Statement (.commit x0) := rfl
theorem abort (x0) : Statement (.abort x0) := rfl
theorem abortReq (x0) : Statement (.abortReq x0) := rfl
theorem query (x0) : Statement (.query x0) := rfl
theorem answer (x0) : Statement (.answer x0) := rfl
theorem prepareTimeout : Statement (.prepareTimeout) := rfl
theorem decideTimeout : Statement (.decideTimeout) := rfl
theorem sweepDone : Statement (.sweepDone) := rfl
theorem frameCopyDone (x0 x1) : Statement (.frameCopyDone x0 x1) := rfl
theorem srefEntry (x0) : Statement (.srefEntry x0) := rfl
theorem patrolScrubStep (x0) : Statement (.patrolScrubStep x0) := rfl
theorem trInvalidate (x0) : Statement (.trInvalidate x0) := rfl
theorem trInvalidateDone : Statement (.trInvalidateDone) := rfl
theorem orbCommit (x0 x1) : Statement (.orbCommit x0 x1) := rfl
theorem orbChangeTakesEffect (x0) : Statement (.orbChangeTakesEffect x0) := rfl
theorem ownMapWrite (x0 x1) : Statement (.ownMapWrite x0 x1) := rfl
theorem frameZeroDone (x0 x1) : Statement (.frameZeroDone x0 x1) := rfl
theorem epLookup (x0 x1 x2) : Statement (.epLookup x0 x1 x2) := rfl
theorem reduceContribution (x0) : Statement (.reduceContribution x0) := rfl
theorem packetForward (x0 x1) : Statement (.packetForward x0 x1) := rfl
theorem writePacket (x0) : Statement (.writePacket x0) := rfl
theorem reducePacket (x0) : Statement (.reducePacket x0) := rfl
theorem signalPacket (x0) : Statement (.signalPacket x0) := rfl
theorem ackPacket (x0) : Statement (.ackPacket x0) := rfl
theorem mgmtPacket (x0) : Statement (.mgmtPacket x0) := rfl
theorem linkFrame (x0 x1 x2 x3 x4) : Statement (.linkFrame x0 x1 x2 x3 x4) := rfl
theorem nak (x0 x1) : Statement (.nak x0 x1) := rfl
theorem linkAckTimeout (x0) : Statement (.linkAckTimeout x0) := rfl
theorem lossOfSignal (x0 x1) : Statement (.lossOfSignal x0 x1) := rfl
theorem moduleInsert (x0 x1) : Statement (.moduleInsert x0 x1) := rfl
theorem moduleRemove (x0) : Statement (.moduleRemove x0) := rfl
theorem detectDone (x0 x1 x2 x3) : Statement (.detectDone x0 x1 x2 x3) := rfl
theorem trainingDone (x0 x1 x2 x3) : Statement (.trainingDone x0 x1 x2 x3) := rfl
theorem exchangeDone (x0 x1 x2 x3 x4) : Statement (.exchangeDone x0 x1 x2 x3 x4) := rfl
theorem portRetryTimeout (x0) : Statement (.portRetryTimeout x0) := rfl
theorem portEnable (x0 x1 x2) : Statement (.portEnable x0 x1 x2) := rfl
theorem portDrain (x0 x1) : Statement (.portDrain x0 x1) := rfl
theorem portResume (x0 x1) : Statement (.portResume x0 x1) := rfl
theorem portDrained (x0) : Statement (.portDrained x0) := rfl
theorem rtCommit (x0) : Statement (.rtCommit x0) := rfl
theorem rtCommitTakesEffect : Statement (.rtCommitTakesEffect) := rfl
theorem cwyIdWrite (x0 x1) : Statement (.cwyIdWrite x0 x1) := rfl
theorem highWaterWindow : Statement .highWaterWindow := rfl
theorem nop (x0) : Statement (.nop x0) := rfl
theorem ctxOpen (x0 x1) : Statement (.ctxOpen x0 x1) := rfl
theorem ctxClose (x0 x1) : Statement (.ctxClose x0 x1) := rfl
theorem ctxAbort (x0 x1) : Statement (.ctxAbort x0 x1) := rfl
theorem sluiceRange (x0 x1 x2 x3) : Statement (.sluiceRange x0 x1 x2 x3) := rfl
theorem sluiceSet (x0 x1 x2) : Statement (.sluiceSet x0 x1 x2) := rfl
theorem sluiceSignal (x0 x1 x2) : Statement (.sluiceSignal x0 x1 x2) := rfl
theorem sluiceRead (x0 x1) : Statement (.sluiceRead x0 x1) := rfl
theorem watchArm (x0 x1 x2 x3) : Statement (.watchArm x0 x1 x2 x3) := rfl
theorem completionFlush (x0 x1) : Statement (.completionFlush x0 x1) := rfl
theorem launch (x0 x1 x2 x3 x4 x5 x6) : Statement (.launch x0 x1 x2 x3 x4 x5 x6) := rfl
theorem doorbellLaunch (x0 x1) : Statement (.doorbellLaunch x0 x1) := rfl
theorem graphRegister (x0 x1 x2 x3 x4) : Statement (.graphRegister x0 x1 x2 x3 x4) := rfl
theorem graphPatch (x0 x1 x2 x3 x4 x5) : Statement (.graphPatch x0 x1 x2 x3 x4 x5) := rfl
theorem graphRetire (x0 x1) : Statement (.graphRetire x0 x1) := rfl
theorem membership (x0 x1) : Statement (.membership x0 x1) := rfl
theorem quiesce (x0) : Statement (.quiesce x0) := rfl
theorem admitLaunch (x0) : Statement (.admitLaunch x0) := rfl
theorem reset (x0 x1 x2) : Statement (.reset x0 x1 x2) := rfl
theorem sensorRead (x0 x1 x2 x3) : Statement (.sensorRead x0 x1 x2 x3) := rfl
theorem logRead (x0 x1 x2 x3) : Statement (.logRead x0 x1 x2 x3) := rfl
theorem bistRun (x0 x1 x2 x3 x4) : Statement (.bistRun x0 x1 x2 x3 x4) := rfl
theorem fwActivate (x0 x1) : Statement (.fwActivate x0 x1) := rfl
theorem sealCtx (x0 x1 x2) : Statement (.sealCtx x0 x1 x2) := rfl
theorem unsealCtx (x0 x1) : Statement (.unsealCtx x0 x1) := rfl
theorem frameOwn (x0 x1 x2 x3 x4 x5) : Statement (.frameOwn x0 x1 x2 x3 x4 x5) := rfl
theorem feRingEnable (x0 x1) : Statement (.feRingEnable x0 x1) := rfl
theorem ringDmaFailed (x0 x1) : Statement (.ringDmaFailed x0 x1) := rfl
theorem ringResume (x0) : Statement (.ringResume x0) := rfl
theorem completionRecordWrite (x0) : Statement (.completionRecordWrite x0) := rfl
theorem completionWriteFailed (x0 x1) : Statement (.completionWriteFailed x0 x1) := rfl
theorem cplRingEnable (x0 x1 x2) : Statement (.cplRingEnable x0 x1 x2) := rfl
theorem deadlineExpiry (x0) : Statement (.deadlineExpiry x0) := rfl
theorem hangDeclared (x0) : Statement (.hangDeclared x0) := rfl
theorem levelEscalation (x0) : Statement (.levelEscalation x0) := rfl
theorem contextAbortComplete (x0) : Statement (.contextAbortComplete x0) := rfl
theorem engineResetComplete (x0 x1) : Statement (.engineResetComplete x0 x1) := rfl
theorem sectorResetComplete (x0 x1) : Statement (.sectorResetComplete x0 x1) := rfl
theorem chipResetComplete (x0) : Statement (.chipResetComplete x0) := rfl
theorem containmentTimeout (x0) : Statement (.containmentTimeout x0) := rfl
theorem bridgeTimeout (x0 x1) : Statement (.bridgeTimeout x0 x1) := rfl
theorem errResetChip (x0) : Statement (.errResetChip x0) := rfl
theorem errResetPwrcyc (x0) : Statement (.errResetPwrcyc x0) := rfl
theorem watchdogFire (x0 x1 x2 x3) : Statement (.watchdogFire x0 x1 x2 x3) := rfl
theorem fwReady (x0 x1) : Statement (.fwReady x0 x1) := rfl
theorem fwRecoveryTimeout (x0) : Statement (.fwRecoveryTimeout x0) := rfl
theorem activationStart : Statement (.activationStart) := rfl
theorem handoffTimeout : Statement (.handoffTimeout) := rfl
theorem logEntry (x0 x1 x2 x3 x4 x5) : Statement (.logEntry x0 x1 x2 x3 x4 x5) := rfl
theorem logMirrorEnable (x0 x1) : Statement (.logMirrorEnable x0 x1) := rfl
theorem sensorSample (x0) : Statement (.sensorSample x0) := rfl
theorem moduleReadRetry (x0 x1) : Statement (.moduleReadRetry x0 x1) := rfl
theorem queryDeviceIdentifiers (x0) : Statement (.queryDeviceIdentifiers x0) := rfl
theorem getFirmwareParameters (x0) : Statement (.getFirmwareParameters x0) := rfl
theorem requestUpdate (x0) : Statement (.requestUpdate x0) := rfl
theorem passComponentTable (x0 x1) : Statement (.passComponentTable x0 x1) := rfl
theorem updateComponent (x0 x1 x2) : Statement (.updateComponent x0 x1 x2) := rfl
theorem requestFirmwareData (x0 x1 x2) : Statement (.requestFirmwareData x0 x1 x2) := rfl
theorem activateFirmware (x0) : Statement (.activateFirmware x0) := rfl
theorem getStatus (x0) : Statement (.getStatus x0) := rfl
theorem cancelUpdateComponent (x0) : Statement (.cancelUpdateComponent x0) := rfl
theorem cancelUpdate (x0) : Statement (.cancelUpdate x0) := rfl
theorem getVersion (x0) : Statement (.getVersion x0) := rfl
theorem getCapabilities (x0) : Statement (.getCapabilities x0) := rfl
theorem negotiateAlgorithms (x0) : Statement (.negotiateAlgorithms x0) := rfl
theorem getDigests (x0) : Statement (.getDigests x0) := rfl
theorem getCertificate (x0) : Statement (.getCertificate x0) := rfl
theorem challenge (x0) : Statement (.challenge x0) := rfl
theorem getMeasurements (x0) : Statement (.getMeasurements x0) := rfl
theorem sessOpen (x0 x1) : Statement (.sessOpen x0 x1) := rfl
theorem sessKey (x0 x1 x2 x3) : Statement (.sessKey x0 x1 x2 x3) := rfl
theorem sessClose (x0 x1) : Statement (.sessClose x0 x1) := rfl
theorem sessionTimeout (x0) : Statement (.sessionTimeout x0) := rfl
theorem getReport (x0 x1) : Statement (.getReport x0 x1) := rfl
theorem getChain (x0 x1 x2) : Statement (.getChain x0 x1 x2) := rfl
theorem keyPut (x0 x1 x2 x3) : Statement (.keyPut x0 x1 x2 x3) := rfl
theorem fmkeySet (x0 x1 x2 x3) : Statement (.fmkeySet x0 x1 x2 x3) := rfl
theorem fmkeyClear (x0 x1) : Statement (.fmkeyClear x0 x1) := rfl
theorem egress (x0 x1 x2 x3 x4 x5 x6) : Statement (.egress x0 x1 x2 x3 x4 x5 x6) := rfl
theorem ingress (x0 x1 x2 x3 x4 x5 x6) : Statement (.ingress x0 x1 x2 x3 x4 x5 x6) := rfl
theorem cmd (x0 x1 x2) : Statement (.cmd x0 x1 x2) := rfl
theorem setEndpointId (x0 x1) : Statement (.setEndpointId x0 x1) := rfl
theorem getEndpointId (x0) : Statement (.getEndpointId x0) := rfl
theorem getEndpointUuid (x0) : Statement (.getEndpointUuid x0) := rfl
theorem getMctpVersionSupport (x0 x1) : Statement (.getMctpVersionSupport x0 x1) := rfl
theorem getMessageTypeSupport (x0) : Statement (.getMessageTypeSupport x0) := rfl
theorem getVendorDefinedMessageSupport (x0 x1) : Statement (.getVendorDefinedMessageSupport x0 x1) := rfl
theorem mctpRelay (x0 x1 x2 x3) : Statement (.mctpRelay x0 x1 x2 x3) := rfl
theorem doeDiscovery (x0) : Statement (.doeDiscovery x0) := rfl
theorem doeAbort : Statement (.doeAbort) := rfl
theorem opPointRequest (x0 x1) : Statement (.opPointRequest x0 x1) := rfl
theorem pacedRequest (x0 x1) : Statement (.pacedRequest x0 x1) := rfl
theorem opLowerTakesEffect : Statement (.opLowerTakesEffect) := rfl
theorem pacedTakesEffect : Statement (.pacedTakesEffect) := rfl
theorem setpointRampDone : Statement (.setpointRampDone) := rfl
theorem pacePermit (x0) : Statement (.pacePermit x0) := rfl
theorem capWrite (x0 x1) : Statement (.capWrite x0 x1) := rfl
theorem capTick (x0 x1) : Statement (.capTick x0 x1) := rfl
theorem idleGateTimeout (x0) : Statement (.idleGateTimeout x0) := rfl
theorem wakeRequest (x0) : Statement (.wakeRequest x0) := rfl
theorem wakeTokenGrant : Statement (.wakeTokenGrant) := rfl
theorem wakeComplete (x0) : Statement (.wakeComplete x0) := rfl
theorem prochotN (x0) : Statement (.prochotN x0) := rfl
theorem powerOverLimit (x0) : Statement (.powerOverLimit x0) := rfl
theorem clampRelease (x0) : Statement (.clampRelease x0) := rfl
theorem clockLoss (x0) : Statement (.clockLoss x0) := rfl
theorem cipCfgOpen (x0 x1) : Statement (.cipCfgOpen x0 x1) := rfl
theorem cipCfgCommit (x0 x1) : Statement (.cipCfgCommit x0 x1) := rfl
theorem configCheckPass (x0) : Statement (.configCheckPass x0) := rfl
theorem driftRewriteDone (x0) : Statement (.driftRewriteDone x0) := rfl
theorem eventQueueWrite (x0) : Statement (.eventQueueWrite x0) := rfl
theorem eventWriteFailed (x0 x1) : Statement (.eventWriteFailed x0 x1) := rfl
theorem eqHeadWrite (x0 x1 x2) : Statement (.eqHeadWrite x0 x1 x2) := rfl
theorem eqEnable (x0 x1 x2) : Statement (.eqEnable x0 x1 x2) := rfl
theorem hostLinkReset (x0) : Statement (.hostLinkReset x0) := rfl
theorem hostLinkUp : Statement .hostLinkUp := rfl
theorem bar2Access (x0 x1) : Statement (.bar2Access x0 x1) := rfl
theorem bar2StallTimeout : Statement (.bar2StallTimeout) := rfl
theorem humBlockRead (x0 x1 x2) : Statement (.humBlockRead x0 x1 x2) := rfl
theorem msixUnmask (x0) : Statement (.msixUnmask x0) := rfl
theorem ideIntegrityFailure (x0) : Statement (.ideIntegrityFailure x0) := rfl
theorem registerWrite (x0 x1 x2 x3 x4) : Statement (.registerWrite x0 x1 x2 x3 x4) := rfl
theorem standbyPowerGood (x0) : Statement (.standbyPowerGood x0) := rfl
theorem powerOnHoldRelease (x0) : Statement (.powerOnHoldRelease x0) := rfl
theorem corePowerLoss (x0) : Statement (.corePowerLoss x0) := rfl
theorem standbyPowerLoss : Statement (.standbyPowerLoss) := rfl
theorem contactCheck (x0) : Statement (.contactCheck x0) := rfl
theorem smbusTimeout (x0) : Statement (.smbusTimeout x0) := rfl
theorem localCommitComplete : Statement (.localCommitComplete) := rfl
theorem localRollbackComplete : Statement (.localRollbackComplete) := rfl
theorem hbmTrainingDone (x0) : Statement (.hbmTrainingDone x0) := rfl
theorem discoveryTimeout : Statement (.discoveryTimeout) := rfl
theorem verifyComplete (x0) : Statement (.verifyComplete x0) := rfl
theorem bistComplete (x0) : Statement (.bistComplete x0) := rfl
theorem egressIngressDone (x0 x1) : Statement (.egressIngressDone x0 x1) := rfl
theorem entdaa (x0) : Statement (.entdaa x0) := rfl
theorem setdasa (x0) : Statement (.setdasa x0) := rfl

end Sys2Proof.Laws.SeqWord
end

