-- ==== Sys2Proof/Laws/Sequencer.lean ====
section
/-!
SUPPORT. Sys2Proof/Laws/Sequencer.lean: what the issue of an instruction does, said once: to the checks before and after it, and
for an instruction that changes its sequencer alone.
-/

namespace Sys2Proof.Machine

theorem State.codeFault_of_inCode {s : State} {g : Fin 96} (h : s.inCode g (s.hum g).seq.pc) : s.codeFault g = s := by
  obtain ⟨x, hx, hp⟩ := h
  simp [State.codeFault, hx, Nat.not_le.2 hp]

theorem State.issues.inCode {s : State} {g : Fin 96} (h : s.issues g) : s.inCode g (s.hum g).seq.pc := h.2.2.2

/-- Issue on a sequencer that issues: the effect, and the check of the PC that it leaves. -/
theorem State.issue_of_issues {s : State} {g : Fin 96} (h : s.issues g) (act : State → State) :
    s.issue g act = (let t := act s; if (t.hum g).seq.st == .issuing then t.codeFault g else t) := by
  have hi := h.inCode
  obtain ⟨h1, h2, h3, x, hx, _⟩ := h
  have hcan : (s.hum g).canIssue = true := by simp [Hummock.canIssue, h1, h2, hx]
  have hf : ((s.hum g).seq.st == SeqSt.faulted) = false := by rw [h2]; rfl
  simp only [State.issue, hcan, State.codeFault_of_inCode hi, hf, if_pos h3]
  rfl

/-- An instruction that changes its sequencer alone, goes on issuing and stays in the code. -/
theorem State.issue_seq {s : State} {g : Fin 96} (h : s.issues g) (f : Sequencer → Sequencer)
    (hf : (f (s.hum g).seq).st = .issuing) (hp : s.inCode g (f (s.hum g).seq).pc) :
    s.seqBecomes (s.issue g fun t => t.modHum g fun h => h.modSeq f) g (f (s.hum g).seq) := by
  have e : (s.modHum g fun h => h.modSeq f).hum g = (s.hum g).modSeq f := State.hum_modHum_same _ _ _
  have hs : ((s.hum g).modSeq f).seq.st = .issuing := hf
  rw [State.issue_of_issues h]
  simp only [e, hs, beq_self_eq_true, if_true]
  rw [State.codeFault_of_inCode]
  · refine ⟨⟨rfl, fun k hk => ?_⟩, ?_, ?_⟩
    · exact State.hum_modHum_ne _ _ hk
    · rw [e]; rfl
    · rw [e]; rfl
  · obtain ⟨y, hy, hz⟩ := hp
    exact ⟨y, by rw [e]; exact hy, by rw [e]; exact hz⟩

/-! ### Scalar registers -/

@[simp] theorem Sequencer.reg_zero (q : Sequencer) : q.reg 0 = 0 := rfl

/-- Reading a register after a write: x0 reads 0 and takes no write (R166). -/
theorem Sequencer.reg_setReg (q : Sequencer) (xd : BitVec 5) (v : BitVec 64) (r : BitVec 5) :
    (q.setReg xd v).reg r = if r = 0 then 0 else if r = xd then v else q.reg r := by
  by_cases h0 : r = 0
  · rw [if_pos h0, Sequencer.reg, if_pos h0]
  · rw [if_neg h0, Sequencer.reg, Sequencer.reg, if_neg h0, if_neg h0, Sequencer.setReg]
    by_cases hd : xd = 0
    · rw [if_pos hd, if_neg (fun e => h0 (e.trans hd))]
    · rw [if_neg hd]
      by_cases hr : r = xd
      · rw [if_pos hr, hr]; exact sget_sset_same _ _ _ _
      · rw [if_neg hr]
        exact sget_sset_ne _ _ _ fun e => hr (BitVec.eq_of_toNat_eq e)

@[simp] theorem Sequencer.setReg_pc (q : Sequencer) (xd : BitVec 5) (v : BitVec 64) : (q.setReg xd v).pc = q.pc := by
  unfold Sequencer.setReg; split <;> rfl

@[simp] theorem Sequencer.setReg_st (q : Sequencer) (xd : BitVec 5) (v : BitVec 64) : (q.setReg xd v).st = q.st := by
  unfold Sequencer.setReg; split <;> rfl

theorem Sequencer.setReg_alike (q : Sequencer) (xd : BitVec 5) (v : BitVec 64) : q.alikeButRegs (q.setReg xd v) := by
  unfold Sequencer.setReg Sequencer.alikeButRegs; split <;> rfl

end Sys2Proof.Machine
end

