-- ==== Sys2Proof/WellFormed.lean ====
section
/-!
DEFINITION. Sys2Proof/WellFormed.lean: the lengths that the specification fixes for a command's variable operands: packets
(13 R317), Lerkar packets (11 R271, R280; 12 R292; 16 R410), log entries (15 R392), and sensor samples (16 R401). What else an
operand must keep is a check of the command's own, and its meaning answers it.
-/

namespace Sys2Proof

/-- LEN counts the payload and is at most 4,096 (13 R317). -/
def Packet.wellFormed (p : Packet) : Bool := p.payload.length == p.len.toNat && decide (p.payload.length ≤ 4096)

/-- A link frame carries a well-formed packet or none. -/
def FrameBody.wellFormed : FrameBody → Bool
  | .packet pkt => pkt.wellFormed
  | .credit .. | .mepoch .. | .ackOnly => true

/-- Sensor channels (16 R401). -/
def sensorChannels : Nat := 140

/-- The largest number of parameter bytes of a Lerkar packet (11 R271). -/
def maxParams : Nat := 4064

def Instr.wellFormed : Instr → Bool
  | .packetForward _ pkt | .writePacket pkt | .reducePacket pkt | .signalPacket pkt | .ackPacket pkt | .mgmtPacket pkt =>
    pkt.wellFormed
  | .linkFrame _ _ _ _ body => body.wellFormed
  | .logEntry _ _ _ _ _ x => x.args.length == 5
  | .sensorSample readings => readings.length == sensorChannels
  | .launch _ _ _ _ _ _ inl => decide (40 + inl.length ≤ maxParams)
  | .graphPatch _ _ _ _ _ inl => decide (24 + inl.length ≤ maxParams)
  | .sessKey _ _ ct sig => ct.length == 1568 && (sig.all fun x => x.length == 49856)
  | .mctpRelay _ _ _ payload => decide (payload.length ≤ 4096)
  | .cmd _ _ packet => decide (32 ≤ packet.length ∧ packet.length ≤ 32 + maxParams)
  | .nopInstr .. | .endProg .. | .waitp .. | .fence .. | .br .. | .brc .. | .loop .. | .li .. | .lui .. | .add ..
  | .sub .. | .and .. | .or .. | .xor .. | .shl .. | .shr .. | .mul .. | .pld .. | .srd .. | .swr .. | .dset ..
  | .dpatch .. | .dadd .. | .signal .. | .wait .. | .lload .. | .lpass .. | .scfg .. | .sspill .. | .sclr ..
  | .wmove .. | .wconv .. | .wred .. | .csend .. | .ropAdd .. | .ropSub .. | .ropMul .. | .div .. | .fma ..
  | .axpb .. | .sqrt .. | .recip .. | .rsqrt .. | .exp .. | .exp2 .. | .log .. | .log2 .. | .tanh .. | .sigmoid ..
  | .gelu .. | .max .. | .min .. | .maxnum .. | .minnum .. | .cvt .. | .rope .. | .rsum .. | .rmax .. | .rssq ..
  | .lnorm .. | .rmsn .. | .smxr .. | .smxb .. | .aupd .. | .amrg .. | .anorm .. | .xent .. | .instructionRetire ..
  | .signalAtHome .. | .lloadStart .. | .lloadComplete .. | .lpassStart .. | .lpassCommit .. | .spillComplete ..
  | .streamGroupCommit .. | .streamGroupAck .. | .placement .. | .dispatch .. | .localPrepare .. | .prepare ..
  | .commit .. | .abort .. | .abortReq .. | .query .. | .answer .. | .prepareTimeout .. | .decideTimeout ..
  | .sweepDone .. | .frameCopyDone .. | .srefEntry .. | .patrolScrubStep .. | .trInvalidate .. | .trInvalidateDone ..
  | .orbCommit .. | .orbChangeTakesEffect .. | .ownMapWrite .. | .frameZeroDone .. | .epLookup ..
  | .reduceContribution .. | .nak .. | .linkAckTimeout .. | .lossOfSignal .. | .moduleInsert .. | .moduleRemove ..
  | .detectDone .. | .trainingDone .. | .exchangeDone .. | .portRetryTimeout .. | .portEnable .. | .portDrain ..
  | .portResume .. | .portDrained .. | .rtCommit .. | .rtCommitTakesEffect .. | .cwyIdWrite .. | .highWaterWindow ..
  | .nop .. | .ctxOpen .. | .ctxClose .. | .ctxAbort .. | .sluiceRange .. | .sluiceSet .. | .sluiceSignal ..
  | .sluiceRead .. | .watchArm .. | .completionFlush .. | .doorbellLaunch .. | .graphRegister .. | .graphRetire ..
  | .membership .. | .quiesce .. | .admitLaunch .. | .reset .. | .sensorRead .. | .logRead .. | .bistRun ..
  | .fwActivate .. | .sealCtx .. | .unsealCtx .. | .frameOwn .. | .feRingEnable .. | .ringDmaFailed .. | .ringResume ..
  | .completionRecordWrite .. | .completionWriteFailed .. | .cplRingEnable .. | .deadlineExpiry .. | .hangDeclared ..
  | .levelEscalation .. | .contextAbortComplete .. | .engineResetComplete .. | .sectorResetComplete ..
  | .chipResetComplete .. | .containmentTimeout .. | .bridgeTimeout .. | .errResetChip .. | .errResetPwrcyc ..
  | .watchdogFire .. | .fwReady .. | .fwRecoveryTimeout .. | .activationStart .. | .handoffTimeout ..
  | .logMirrorEnable .. | .moduleReadRetry .. | .queryDeviceIdentifiers .. | .getFirmwareParameters ..
  | .requestFirmwareData .. | .requestUpdate .. | .passComponentTable .. | .updateComponent .. | .activateFirmware .. | .getStatus ..
  | .cancelUpdateComponent .. | .cancelUpdate .. | .getVersion .. | .getCapabilities .. | .negotiateAlgorithms ..
  | .getDigests .. | .getCertificate .. | .challenge .. | .getMeasurements .. | .sessOpen ..
  | .sessClose .. | .sessionTimeout .. | .getReport .. | .getChain .. | .keyPut .. | .fmkeySet .. | .fmkeyClear ..
  | .egress .. | .ingress .. | .setEndpointId .. | .getEndpointId .. | .getEndpointUuid ..
  | .getMctpVersionSupport .. | .getMessageTypeSupport .. | .getVendorDefinedMessageSupport .. | .doeDiscovery ..
  | .doeAbort .. | .opPointRequest .. | .pacedRequest .. | .opLowerTakesEffect .. | .pacedTakesEffect ..
  | .setpointRampDone .. | .pacePermit .. | .capWrite .. | .capTick .. | .idleGateTimeout .. | .wakeRequest ..
  | .wakeTokenGrant .. | .wakeComplete .. | .prochotN .. | .powerOverLimit .. | .clampRelease .. | .clockLoss ..
  | .cipCfgOpen .. | .cipCfgCommit .. | .configCheckPass .. | .driftRewriteDone .. | .eventQueueWrite ..
  | .eventWriteFailed .. | .eqHeadWrite .. | .eqEnable .. | .hostLinkReset .. | .hostLinkUp .. | .bar2Access ..
  | .bar2StallTimeout .. | .humBlockRead .. | .msixUnmask .. | .ideIntegrityFailure .. | .registerWrite ..
  | .standbyPowerGood .. | .powerOnHoldRelease .. | .corePowerLoss .. | .standbyPowerLoss .. | .contactCheck ..
  | .smbusTimeout .. | .localCommitComplete .. | .localRollbackComplete .. | .hbmTrainingDone ..
  | .discoveryTimeout .. | .verifyComplete .. | .bistComplete .. | .egressIngressDone .. | .entdaa .. | .setdasa .. => true

end Sys2Proof
end

