-- ==== Sys2Proof/Tests/Slice0.lean ====
section
/-!
SUPPORT. Sys2Proof/Tests/Slice0.lean: tests on small states: ill-formed commands, sequencer words written out from the encoding
tables, one step of a command, and for the statements concrete states and operands that meet their hypotheses.
-/

namespace Sys2Proof.Tests

open Machine

set_option Elab.async false

/-! ### States for the tests -/

/-- The next state of an outcome; reset where there is none. -/
def after (o : Host.Outcome State Fault Refusal) : State :=
  match o with
  | .next t => t
  | _ => State.reset

/-- A device that has started up: every processor ready, the host link up. -/
def up : State :=
  { State.reset with
    board := { Board.reset with standby := true, coreOn := true, released := true, step := 8 }
    link := { HostLink.reset with up := true, perst := false }
    fw := { Firmware.reset with procs := (List.range 12).map fun i => (i, ⟨.ready, 0, [], 0⟩) } }

/-- The program of launch 1 as placed on a hummock: 64 instructions, 4 descriptors, Fast mode. -/
def held : Holder :=
  { launch := 1, att := 1, ctx := 1, lhum := 0, nhum := 1, mode := 0, seed := 0, imgCtx := 1, code := 0, codeLen := 64
    descBase := 0x1000, ndesc := 4, entry := 0, isSealed := false }

/-- A hummock on which it issues at PC 0, with x1 = 5, x2 = 0xFFFFFFFFFFFFFFFF and x3 = 40. -/
def busy : Hummock :=
  { Hummock.reset with
    power := .running, holder := some held
    seq := { Sequencer.reset with st := .issuing, x := [(1, 5), (2, 0xFFFFFFFFFFFFFFFF), (3, 40)] } }

def job : Launch :=
  { id := 1, ctx := 1, seq := 7, gid := 0xFFFF, ver := 0, image := 0, imgCtx := 1, mode := 0, nhum := 1
    params := leBytes 16 0x11112222333344445555666677778888, watch := 0, seed := 0, deadline := 100, d := 10, rate := 1
    paced := false, js := .dispatched, att := 1, epoch := 1, numOvf := false, cause := none, fired := none, late := false
    abortAsked := false, ended := 0, record := none, pos := none }

/-- Launch 1 of context 1 runs on hummock 3, in attempt 1 of epoch 1. Context 1 holds the sluices 0 to 7. -/
def run : State :=
  { up with
    hums := [(3, busy)]
    ep := { EpochState.reset with st := .running, launch := some 1, att := 1 }
    fe := { FrontEnd.reset with
      ctxs := [(0, { Ctx.reset with st := .opened }), (1, { Ctx.reset with st := .opened, sluCount := 8 })]
      launches := [job], nextLaunch := 2 } }

/-- run with hummock 3 changed. -/
def runWith (f : Hummock → Hummock) : State := { run with hums := [(3, f busy)] }

theorem run_issues : run.issues 3 := ⟨rfl, rfl, rfl, held, rfl, by decide⟩
theorem run_inCode : run.inCode 3 1 := ⟨held, rfl, by decide⟩
theorem run_allRetired : run.allRetired 3 := ⟨rfl, rfl⟩
theorem run_idleIssue : run.idleIssue 3 := ⟨run_issues, run_inCode, run_allRetired⟩

/-! ### Well-formed operands -/

/-- A WRITE packet of device 0 to itself, of eight bytes. -/
def wr8 : Packet :=
  { type := 0x01, vc := 0, cls := false, last := true, sig := false, ord := false, enc := false, flagRsvd := false, len := 8
    dst := 0, src := 0, ctx := 1, hops := 8, att := 1, epoch := 1, xidx := 0, xid := 0, slu := 0, addr := 0x200000
    payload := [1, 2, 3, 4, 5, 6, 7, 8] }

theorem test_packet_length : (Instr.writePacket wr8).wellFormed = true ∧
    (Instr.writePacket { wr8 with len := 9 }).wellFormed = false ∧ (Instr.mgmtPacket { wr8 with len := 0 }).wellFormed = false := by
  decide
/-- A frame whose codewords needed no correction, by its CRC and tag. -/
def clean (crc : BitVec 32) : FrameCheck := ⟨crc, [], 0, 0⟩

theorem test_frame_body : (Instr.linkFrame 0 0 (clean 0) none (.packet { wr8 with len := 7 })).wellFormed = false ∧
    (Instr.linkFrame 0 0 (clean 0) none .ackOnly).wellFormed = true := by decide
theorem test_log_arguments : (Instr.logEntry 0 0 0 0 0 ⟨[0, 0, 0, 0], false⟩).wellFormed = false ∧
    (Instr.logEntry 0 0 0 0 0 ⟨[0, 0, 0, 0, 0], false⟩).wellFormed = true := by decide
theorem test_sensor_channels : (Instr.sensorSample []).wellFormed = false ∧
    (Instr.sensorSample (List.replicate 140 none)).wellFormed = true := by simp [Instr.wellFormed, sensorChannels]
theorem test_launch_parameters :
    (Instr.launch ⟨.ring, false, 0, 0, 0, false⟩ 0 0 0 0 0 (List.replicate 4025 0)).wellFormed = false ∧
    (Instr.graphPatch ⟨.ring, false, 0, 0, 0, false⟩ 0 0 0 0 (List.replicate 4041 0)).wellFormed = false := by
  simp only [Instr.wellFormed, maxParams, List.length_replicate]; decide
theorem test_session_key_length : (Instr.sessKey .smbus 1 [] none).wellFormed = false := by decide
theorem test_relay_length : (Instr.mctpRelay .smbus 0 0 (List.replicate 4097 0)).wellFormed = false := by
  simp only [Instr.wellFormed, List.length_replicate]; decide
theorem test_cmd_length : (Instr.cmd .smbus ⟨1, [], []⟩ (List.replicate 31 0)).wellFormed = false := by decide

/-! ### Words of the sequencer, from R167 to R170, R176, R177 -/

/-- R176: SLU = 5, INC = 1, WMASK = Causeway. -/
theorem test_word_signal : decodeSeqWord 3 0x30000A0002000020 = some (.signal 3 5 1 false 0 1) := by decide
/-- R177: SLU = 5, THR = 1, CONS = 1. -/
theorem test_word_wait : decodeSeqWord 3 0x31000A0000000300 = some (.wait 3 5 1 true) := by decide
/-- R167, R169: LI x1, 7: XD in [55:51]. -/
theorem test_word_li : decodeSeqWord 3 0x1008000000000007 = some (.li 3 1 7) := by decide
/-- R169: BRC LT x1, x2, -1: XA in [50:46], XB in [45:41], COND in [40:38]. -/
theorem test_word_brc : decodeSeqWord 3 0x09004480FFFFFFFF = some (.brc 3 1 2 2 0xFFFFFFFF) := by decide
/-- R169: DPATCH d1, EBASE, x2: TD in [55:50], FIELD in [49:46], XA in [45:41]. -/
theorem test_word_dpatch : decodeSeqWord 3 0x2104040000000000 = some (.dpatch 3 1 0 2) := by decide
/-- R79: LLOAD Lattice 2, d3, WFMT 9, K = 256, N = 16. -/
theorem test_word_lload : decodeSeqWord 3 0x40830097F8780000 = some (.lload 3 2 3 9 255 15) := by decide
/-- R107: SCLR tile 5, CPEAT. -/
theorem test_word_sclr : decodeSeqWord 3 0x4A58000000000000 = some (.sclr 3 5 true) := by decide
/-- R191, R194: ROPC 0x14, CVT. -/
theorem test_word_cvt : decodeSeqWord 3 0x6000000500000000 =
    some (.cvt 3 ⟨0, 0, 0, 0, 0, 0, 0, 0, 0, false, false⟩) := by decide
/-- R194: a reserved ROPC; R167: a reserved opcode. -/
theorem test_word_reserved : decodeSeqWord 3 0x6000000540000000 = none ∧ decodeSeqWord 3 0xFF00000000000000 = none := by decide
/-- No row of the table gives bits. -/
theorem test_table_words : decodeTableWord 64 0x31000A0000000300 = none := rfl
theorem witness_round_trip : encodeSeqWord (.wait 3 5 1 true) = some 0x31000A0000000300 ∧ seqHum (.wait 3 5 1 true) = some 3 := by
  decide

/-! ### The sequencer -/

theorem witness_scalar : scalarResult (fun k => (run.hum k).seq) (.add 3 4 1 3 0) = some (3, 4, 45) ∧ run.issues 3 ∧
    run.inCode 3 ((run.hum (3 : Hum)).seq.pc + 1) := ⟨by decide, run_issues, run_inCode⟩
/-- R168: ADD with XB = 0 takes sext(IMM); results wrap modulo 2^64; a shift counts modulo 64. -/
theorem test_scalar_values :
    (let x (i : Instr) := ((after (exec i run)).hum 3).seq.reg 4
     [x (.li 3 4 0xFFFFFFFF), x (.lui 3 4 2), x (.add 3 4 2 1 9), x (.add 3 4 1 0 0xFFFFFFFE), x (.sub 3 4 1 3 0), x (.and 3 4 1 3 0),
      x (.or 3 4 1 3 0), x (.xor 3 4 2 1 0), x (.shl 3 4 1 0 65), x (.shr 3 4 2 0 60), x (.mul 3 4 2 1 0)]) =
    [0xFFFFFFFFFFFFFFFF, 0x200000000, 4, 3, 0xFFFFFFFFFFFFFFDD, 0, 45, 0xFFFFFFFFFFFFFFFA, 10, 15, 0xFFFFFFFFFFFFFFFB] := by decide
theorem test_x0_discards : ((after (exec (.li 3 0 7) run)).hum 3).seq.x = busy.seq.x := by decide

theorem witness_control :
    run.issues 3 ∧ run.inCode 3 (branchTarget (run.hum 3).seq.pc 4) ∧
    branchTaken (run.hum 3).seq 1 2 2 = some false ∧ branchTaken (run.hum 3).seq 2 1 2 = some true ∧
    run.inCode 3 (branchTarget (run.hum 3).seq.pc 63) :=
  ⟨run_issues, ⟨held, rfl, by decide⟩, by decide, by decide, ⟨held, rfl, by decide⟩⟩
theorem test_branch_targets :
    (let p (i : Instr) := ((after (exec i run)).hum 3).seq.pc.toNat
     [p (.nopInstr 3), p (.br 3 4), p (.brc 3 2 1 2 6), p (.brc 3 1 2 2 6), p (.brc 3 1 2 4 6), p (.loop 3 1 9), p (.loop 3 0 9)]) =
    [1, 4, 6, 1, 6, 9, 9] := by decide
/-- LOOP on a register that holds 1 falls through. -/
theorem test_loop_ends :
    (let t := after (exec (.loop 3 1 9) (runWith fun h => { h with seq := { h.seq with x := [(1, 1)] } }))
     ((t.hum 3).seq.pc, (t.hum 3).seq.reg 1)) = (1, 0) := by decide

theorem witness_hummock_registers : run.issues 3 ∧ run.inCode 3 ((run.hum 3).seq.pc + 1) ∧
    run.inCode 3 (((run.hum 3).seq.reg 1).extractLsb' 0 23) := ⟨run_issues, run_inCode, ⟨held, rfl, by decide⟩⟩
/-- R187: HUM_SEQ_STATUS read at PC 0 shows STATE = ISSUING and PC = 1. -/
theorem test_srd_status : ((after (exec (.srd 3 4 0x1000) run)).hum 3).seq.reg 4 = 0x1000001 := by decide
theorem test_swr_wakevec : ((after (exec (.swr 3 1 0x1010) run)).hum 3).wvec = 5 := by decide

theorem witness_sequencer_faults : run.issues 3 ∧ ¬ run.inCode 3 (((run.hum 3).seq.reg 2).extractLsb' 0 23) ∧
    (((run.hum 3).seq.reg 1 + BitVec.ofInt 64 (0 : BitVec 32).toInt).toNat % 8 ≠ 0) ∧
    (run.hum 3).holder = some held ∧ held.ndesc ≤ (4 : BitVec 32).toNat :=
  ⟨run_issues, fun ⟨x, h, l⟩ => by injection h with h; subst h; revert l; decide, by decide, rfl, by decide⟩
theorem test_reserved_cond : (let t := after (exec (.brc 3 1 2 6 0) run)
    ((t.hum 3).seq.st, t.err.eq1.backlog.map fun e => e.2.2.2.take 3)) = (.faulted, [[1, 0x09, 0]]) := by decide
theorem test_dset_beyond : (let t := after (exec (.dset 3 0 4) run)
    ((t.hum 3).seq.st, t.err.eq1.backlog.map fun e => e.2.2.2.take 2)) = (.faulted, [[4, 0x20]]) := by decide

theorem witness_parameter_block : run.issues 3 ∧ run.inCode 3 ((run.hum 3).seq.pc + 1) ∧ (run.hum 3).holder = some held ∧
    run.launchOf held.launch = some job ∧
    (let off := ((run.hum 3).seq.reg 3 + BitVec.ofInt 64 (0xFFFFFFE0 : BitVec 32).toInt).toNat
     off % 8 = 0 ∧ off + 8 ≤ job.params.length) := ⟨run_issues, run_inCode, rfl, by decide, by decide⟩
/-- x3 - 32 = 8: the second 8 bytes of the block. -/
theorem test_pld : ((after (exec (.pld 3 4 3 0xFFFFFFE0) run)).hum 3).seq.reg 4 = 0x1111222233334444 := by decide

theorem witness_fence_end_waitp : run.issues 3 ∧ run.allRetired 3 ∧ (run.hum 3).holder = some held ∧
    run.inCode 3 ((run.hum 3).seq.pc + 1) ∧ (run.hum 3).pmode = false ∧
    (let s := runWith fun h => { h with pmode := true }
     s.issues 3 ∧ s.allRetired 3 ∧ (s.hum 3).holder = some held ∧ (s.hum 3).pmode = true) :=
  ⟨run_issues, run_allRetired, rfl, run_inCode, rfl, ⟨rfl, rfl, rfl, held, rfl, by decide⟩, ⟨rfl, rfl⟩, rfl, rfl⟩
theorem test_fence : ((after (exec (.fence 3 15) run)).hum 3).seq = { busy.seq with pc := 1 } := by decide
theorem test_end : (let t := after (exec (.endProg 3) run)
    ((t.hum 3).seq.st, t.fe.launches.map fun l => l.ended)) = (.ended, [1]) := by decide
theorem test_waitp_gates :
    (let h := (after (exec (.waitp 3) (runWith fun h => { h with pmode := true, mere := [(0, 1)] }))).hum 3
     h.power = .gated ∧ h.seq.st = .gated ∧ h.mere.length = 0 ∧ h.seq.x.length = 0 ∧ h.pmode = true) := by decide

/-! ### Sluices -/

/-- run with sluice n of context 1 at a count, and waiters. -/
def runSlu (n : Nat) (c : BitVec 32) (ws : List Waiter) : State := { run with sluices := [(n, ⟨c, ws, none, 0⟩)] }

theorem witness_signal : run.idleIssue 3 ∧ (run.hum 3).holder = some held ∧ (1 : BitVec 16) ≠ 0 ∧ (0 : BitVec 15).toNat < run.groupSize :=
  ⟨run_idleIssue, rfl, by decide, by decide⟩
theorem witness_wait_outside : run.issues 3 ∧ (9 : BitVec 32) ≠ 0 ∧ run.sluiceOf held.ctx.toNat 8 = none :=
  ⟨run_issues, by decide, by decide⟩
theorem witness_wait : (runSlu 5 9 []).issues 3 ∧ (runSlu 5 9 []).inCode 3 1 ∧ (runSlu 5 9 []).sluiceOf held.ctx.toNat 5 = some 5 ∧
    ((runSlu 5 9 []).sluice 5).waiters = [] := ⟨⟨rfl, rfl, rfl, held, rfl, by decide⟩, ⟨held, rfl, by decide⟩, by decide, by decide⟩
theorem witness_wait_behind : (runSlu 5 9 [⟨none, 10, false⟩]).issues 3 ∧
    (∃ w rest, ((runSlu 5 9 [⟨none, 10, false⟩]).sluice 5).waiters = w :: rest ∧
      ((runSlu 5 9 [⟨none, 10, false⟩]).sluice 5).count.toNat < w.thr.toNat) :=
  ⟨⟨rfl, rfl, rfl, held, rfl, by decide⟩, ⟨none, 10, false⟩, [], by decide, by decide⟩
theorem test_wait_consumes : (let t := after (exec (.wait 3 5 9 true) (runSlu 5 9 []))
    ((t.sluice 5).count, (t.hum 3).seq.pc, (t.hum 3).seq.st)) = (0, 1, .issuing) := by decide
theorem test_wait_stalls : (let t := after (exec (.wait 3 5 10 true) (runSlu 5 9 []))
    ((t.sluice 5).count, (t.sluice 5).waiters, (t.hum 3).seq.st)) = (9, [⟨some 3, 10, true⟩], .waitSluice) := by decide
theorem test_signal_leaves : (after (exec (.signal 3 5 2 false 0 0) run)).flight.length = 1 ∧
    ((after (exec (.signal 3 5 2 true 0 0) run)).cwy.inject.map fun p => (p.type, p.slu, p.addr)) = [(0x03, 5, 2)] := by decide

/-- A signal of launch 1, attempt 1 on its way to sluice 5. -/
def onItsWay : Sig := { slu := 5, inc := 2, rem := false, rank := 0, ctx := 1, launch := 1, att := 1, after := [], pc := 0 }

theorem witness_signal_home : (let s := { runSlu 5 9 [⟨some 4, 11, true⟩] with flight := [(3, onItsWay)] }
    (s.flight.find? fun p => p.1 == (3 : Hum)) = some (3, onItsWay) ∧ s.sluiceOf onItsWay.ctx.toNat onItsWay.slu.toNat = some 5 ∧
      (s.sluice 5).stale onItsWay = false ∧ (s.sluice 5).count.toNat + onItsWay.inc.toNat < 2 ^ 32 ∧
      (∀ k, (s.hum k).wsen = false) ∧ (s.sluice 5).waiters = [⟨some 4, 11, true⟩] ∧
      (11 : BitVec 32).toNat ≤ ((s.sluice 5).count + onItsWay.inc.setWidth 32).toNat) :=
  ⟨by decide, by decide, by decide, by decide, fun k => by
    show (sget Hummock.reset [(3, busy)] k).wsen = false
    simp only [sget]; split <;> rfl, by decide, by decide⟩
theorem witness_signal_home_alone : (let s := { runSlu 5 9 [] with flight := [(3, onItsWay)] }
    (s.flight.find? fun p => p.1 == (3 : Hum)) = some (3, onItsWay) ∧ (s.sluice 5).waiters = []) := by decide
theorem witness_signal_outside : run.sluiceOf 1 8 = none ∧
    ((⟨9, [], some 1, 2⟩ : Sluice).stale onItsWay) = true := by decide
theorem test_signal_wakes : (let t := after (exec (.signalAtHome 3)
      { runSlu 5 9 [⟨some 4, 11, true⟩] with flight := [(3, onItsWay)], hums := [(3, busy), (4, { busy with
          seq := { busy.seq with st := .waitSluice, stall := some (.sluice 5 11 true) } })] })
    ((t.sluice 5).count, (t.sluice 5).waiters, (t.hum 4).seq.st, t.flight)) = (0, [], .issuing, []) := by decide +kernel

/-! ### Station instructions -/

/-- Bits of a descriptor (R157): EBASE, SPACE, ESTRIDE, rows, L and RANK. -/
def descOf (ebase space stride rows len rank : Nat) : BitVec 256 :=
  BitVec.ofNat 256
    (ebase + space * 2 ^ 52 + stride * 2 ^ 128 + (rows - 1) * 2 ^ 192 + (len - 1) * 2 ^ 208 + rank * 2 ^ 228)

/-- run with descriptors of one row of two elements: d0 in the Mere at 0, which holds binary32 1 and 2, d1 in the Mere at 0x100, d2 in
device memory at 0x200000, d3 at rank 0. -/
def runSt : State :=
  runWith fun h => { h with
    mere := [(2, 0x80), (3, 0x3F), (7, 0x40)]
    seq := { h.seq with desc := [(0, descOf 0 0 0x100 1 2 0), (1, descOf 0x100 0 0x100 1 2 0), (2, descOf 0x200000 1 0x100 1 2 0),
      (3, descOf 0x200000 3 0x100 1 2 0)] } }

theorem runSt_idleIssue : runSt.idleIssue 3 :=
  ⟨⟨rfl, rfl, rfl, held, rfl, by decide⟩, ⟨held, rfl, by decide⟩, ⟨rfl, rfl⟩⟩

/-- binary32 from d0 to d1. -/
def move : WeirFields := ⟨0, 1, 7, 7, 0, 0, false, 0, 0, false, false⟩

theorem witness_station_waits : stationOp (.lpass 3 ⟨1, 0, 9, 0, 0, false, 0, true, false, false⟩) =
      some (3, .lpass ⟨1, 0, 9, 0, 0, false, 0, true, false, false⟩) ∧
    runSt.issues 3 ∧ runSt.inCode 3 ((runSt.hum 3).seq.pc + 1) ∧ (runSt.hum 3).seq.sigs = [] ∧
    (∀ j ∈ (runSt.hum 3).unret, j.phase ≠ .queued) ∧ (runSt.hum 3).hasRoom (.lpass ⟨1, 0, 9, 0, 0, false, 0, true, false, false⟩) = true ∧
    (let i := runSt.entry 3 (.lpass 3 ⟨1, 0, 9, 0, 0, false, 0, true, false, false⟩) (.lpass ⟨1, 0, 9, 0, 0, false, 0, true, false, false⟩)
     (runSt.entered 3 i).mayStart 3 i = false) :=
  ⟨rfl, runSt_idleIssue.1, runSt_idleIssue.2.1, rfl, by decide, by decide +kernel, by decide +kernel⟩

/-- Eight WMOVEs that run. -/
def eight : List Issued := (List.range 8).map fun k =>
  { id := k, op := .wmove move, pc := 0, da := ⟨0, 0⟩, db := ⟨0, 0⟩, dc := ⟨0, 0⟩, dd := ⟨0, 0⟩, va := 0, vb := 0, vc := 0
    phase := .running, tries := 0, mask := 0, groups := 0, held := 0, wts := [], outstanding := 1, since := 0 }

theorem witness_queue_full : (let s := runWith fun h => { h with unret := eight }
    stationOp (.wmove 3 move) = some (3, .wmove move) ∧ s.issues 3 ∧ (∀ j ∈ (s.hum 3).unret, j.phase ≠ .queued) ∧
      (s.hum 3).hasRoom (.wmove move) = false) := ⟨rfl, ⟨rfl, rfl, rfl, held, rfl, by decide⟩, by decide +kernel, by decide +kernel⟩
theorem test_queue_full : (let t := after (exec (.wmove 3 move) (runWith fun h => { h with unret := eight }))
    ((t.hum 3).seq.pc, (t.hum 3).seq.st, (t.hum 3).unret.length)) = (0, .waitQueue, 8) := by decide +kernel

/-- Four loads of Lattice 0, still queued. -/
def fourLoads : List Issued := (List.range 4).map fun k =>
  { id := k, op := .lload 0 9 0 0, pc := 0, da := ⟨0, 0⟩, db := ⟨0, 0⟩, dc := ⟨0, 0⟩, dd := ⟨0, 0⟩, va := 0, vb := 0, vc := 0
    phase := .queued, tries := 0, mask := 0, groups := 0, held := 0, wts := [], outstanding := 0, since := 0 }

theorem witness_lattice_queue : (let s := runWith fun h => { h with unret := fourLoads }
    stationOp (.lload 3 0 0 9 0 0) = some (3, .lload 0 9 0 0) ∧ isLattice (.lload 0 9 0 0) = true ∧ s.issues 3 ∧
      s.inCode 3 ((s.hum 3).seq.pc + 1) ∧ s.onlyLatticeQueued 3 ∧ (s.hum 3).unret.length < 32 ∧
      (∃ l, l < 4 ∧ (latMask (.lload 0 9 0 0)).getLsbD l = true ∧ 4 ≤ (s.hum 3).latOccupancy l)) :=
  ⟨rfl, rfl, ⟨rfl, rfl, rfl, held, rfl, by decide⟩, ⟨held, rfl, by decide⟩, ⟨rfl, by decide +kernel⟩, by decide +kernel,
    0, by decide, by decide, by decide +kernel⟩
theorem witness_lattice_room : (let s := runWith fun h => { h with unret := fourLoads.take 3 }
    s.onlyLatticeQueued 3 ∧ (∀ l, l < 4 → (latMask (.lload 0 9 0 0)).getLsbD l = true → (s.hum 3).latOccupancy l < 4)) :=
  ⟨⟨rfl, by decide +kernel⟩, by decide +kernel⟩

/-- Binds tile 2 to slot 1, S = 16. -/
def bind21 : ScfgFields := ⟨2, 1, true, 15, false, true, 0, 0⟩

theorem witness_scfg : runSt.idleIssue 3 ∧ (runSt.hum 3).groups = [] ∧ (∀ k, ((runSt.hum 3).tile k).spilling = false) ∧
    (bind21.bind = true → ∀ u, u < 16 → u ≠ bind21.tile.toNat → ((runSt.hum 3).tile u).bind = true →
      ((runSt.hum 3).tile u).pslot ≠ bind21.pslot) :=
  ⟨runSt_idleIssue, rfl, fun _ => rfl, fun _ u _ _ h => absurd h (by show false ≠ true; decide)⟩
theorem test_scfg : (let h := (after (exec (.scfg 3 bind21) runSt)).hum 3
    ((h.tile 2).bind, (h.tile 2).pslot, (h.tile 2).sm1, h.seq.pc)) = (true, 1, 15, 1) := by decide +kernel

/-- runSt with tile 2 bound to slot 1: element (0, 0) is 2 with OFF = -1, element (1, 3) of the slot is 1. -/
def runTile : State :=
  { runSt with hums := [(3, { (runSt.hum 3) with
      sump := [(2, { SumpTile.reset with bind := true, pslot := 1, off := 0xFF, roff := [(0, 0xFF)], cnt := 3, bank0 := [(0, 0x40000000)] })]
      peat := [(1, [(259, 0x3FF0000000000000)])] })] }

theorem runTile_spilling : ∀ k, ((runTile.hum 3).tile k).spilling = false := fun k => by
  show (sget SumpTile.reset [(2, _)] k).spilling = false
  simp only [sget]; split <;> rfl
theorem witness_sspill : runTile.idleIssue 3 ∧ (runTile.hum 3).groups = [] ∧ runTile.mem.err = [] ∧
    (∀ k, ((runTile.hum 3).tile k).spilling = false) ∧ (runTile.env 3).v40 = false ∧ ((runTile.hum 3).tile (2 : BitVec 4).toNat).bind = true :=
  ⟨⟨⟨rfl, rfl, rfl, held, rfl, by decide⟩, ⟨held, rfl, by decide⟩, rfl, rfl⟩, rfl, rfl, runTile_spilling, by decide, rfl⟩
/-- R103: 2 x 2^1 into an element that was 0; the slot's other element stays. -/
theorem test_sspill : (let h := (after (exec (.sspill 3 2) runTile)).hum 3
    (sget 0 (h.slot 1) 0, sget 0 (h.slot 1) 259, (h.tile 2).com 0 0, (h.tile 2).spilling)) =
    (0x4010000000000000, 0x3FF0000000000000, 0, true) := by decide +kernel
theorem test_sclr : (let h := (after (exec (.sclr 3 2 true) runTile)).hum 3
    ((h.tile 2).com 0 0, (h.tile 2).off, (h.tile 2).cnt, (h.slot 1).length)) = (0, 0, 0, 0) := by decide +kernel

theorem witness_wmove : (let e := runSt.entry 3 (.wmove 3 move) (.wmove move)
    runSt.idleIssue 3 ∧ runSt.mem.err = [] ∧ (runSt.entered 3 e).moveOk 3 e move = true ∧
      ownMere [(e.da, move.sfmt), (e.db, move.sfmt)] ∧ fScaled move.sfmt = false) :=
  ⟨runSt_idleIssue, rfl, by decide +kernel, by unfold ownMere; decide +kernel, by decide⟩
theorem test_wmove : bread ((after (exec (.wmove 3 move) runSt)).hum 3).mere 0x100 8 = [0, 0, 0x80, 0x3F, 0, 0, 0, 0x40] := by
  decide +kernel

/-- binary32 to E4M3, from d0 to d1. -/
def conv : WeirFields := { move with dfmt := 3 }

theorem witness_wconv : (let e := runSt.entry 3 (.wconv 3 conv) (.wconv conv)
    runSt.idleIssue 3 ∧ runSt.mem.err = [] ∧ (runSt.entered 3 e).mayStart 3 e = true ∧
      (runSt.entered 3 e).convOk 3 e conv = true ∧ ownMere (weirReads e conv ++ weirWrites e conv.dfmt)) :=
  ⟨runSt_idleIssue, rfl, by decide +kernel, by decide +kernel, by unfold ownMere; decide +kernel⟩
/-- R28: 1 and 2 in E4M3. -/
theorem test_wconv : bread ((after (exec (.wconv 3 conv) runSt)).hum 3).mere 0x100 2 = [0x38, 0x40] := by decide +kernel

/-- d0 into Sump tile 4. -/
def toTile : WeirFields := { move with dstk := true, dtile := 4, clr := true }
/-- d0 as contributions to d2. -/
def toMem : WeirFields := { move with tdd := 2 }

theorem witness_wred_tile : (let e := runSt.entry 3 (.wred 3 toTile) (.wred toTile)
    let x := (runSt.hum 3).tile toTile.dtile.toNat
    let rows := ((mereRows (runSt.hum 3).mere (e.da, toTile.sfmt)).zipIdx.map fun r =>
      rowVals toTile.sfmt r.1 (((mereScales (runSt.hum 3).mere (e.da, toTile.sfmt))[r.2]?).getD []) e.da.len)
    runSt.idleIssue 3 ∧ (runSt.hum 3).groups = [] ∧ runSt.mem.err = [] ∧ (∀ k, ((runSt.hum 3).tile k).spilling = false) ∧
      toTile.srck = 0 ∧ toTile.dstk = true ∧ (toTile.shr && (runSt.env 3).mode == 0) = false ∧ x.bind = false ∧
      (runSt.entered 3 e).redOk 3 e toTile = true ∧ ownMere [(e.da, toTile.sfmt)] ∧
      (addTransfer (runSt.env 3) x.lidx.toNat (x.begin toTile.clr false) rows).1.ovf = []) :=
  ⟨runSt_idleIssue, rfl, rfl, fun _ => rfl, rfl, rfl, by decide, rfl, by decide +kernel, by unfold ownMere; decide +kernel,
    by decide +kernel⟩
theorem test_wred_tile : (let h := (after (exec (.wred 3 toTile) runSt)).hum 3
    ((h.tile 4).com 0 0, (h.tile 4).com 0 1, (h.tile 4).cnt)) = (0x3F800000, 0x40000000, 1) := by decide +kernel

/-! ### Device memory, Weir, the Causeway and Reed -/

/-- Page tables of context 1: device virtual addresses 0x200000 to 0x3FFFFF are the unprotected, writable frame 5. -/
def tables : List Host.Cell :=
  [(0x10000, 0x01), (0x10002, 0x02), (0x20000, 0x01), (0x20001, 0x10), (0x20002, 0x02), (0x21008, 0x07), (0x2100A, 0xA0)]

/-- The leaf of that page. -/
def leaf5 : TlbEntry := ⟨1, 0x200000, 0xA00007, true⟩

/-- s with these tables. -/
def mapped (s : State) : State :=
  { s with mem := { s.mem with hbm := tables }, regs := [(0x820008, 0x10001)] }

def runMem : State := mapped runSt

theorem runMem_idleIssue : runMem.idleIssue 3 :=
  ⟨⟨rfl, rfl, rfl, held, rfl, by decide⟩, ⟨held, rfl, by decide⟩, ⟨rfl, rfl⟩⟩

theorem witness_wred_memory : (let e := runMem.entry 3 (.wred 3 toMem) (.wred toMem)
    let u := runMem.entered 3 e
    let x := u.xlateOpnds 3 (runMem.ctxOf 3) [(e.da, toMem.sfmt)] [(e.db, fmt32)]
    runMem.idleIssue 3 ∧ runMem.mem.err = [] ∧ toMem.srck = 0 ∧ toMem.dstk = false ∧ u.redOk 3 e toMem = true ∧ e.da.space = 0 ∧
      mereOk (e.da, toMem.sfmt) = true ∧ x.2 = ([leaf5], .ok) ∧ x.1.framesBusy x.2.1 = false) :=
  ⟨runMem_idleIssue, rfl, rfl, rfl, by decide +kernel, by decide +kernel, by decide +kernel, by decide +kernel, by decide +kernel⟩
/-- R111: two contributions, to 0xA00000 and 0xA00004. -/
theorem test_wred_memory : ((after (exec (.wred 3 toMem) runMem)).mem.contribs.map fun c => (c.dpa, c.bits, c.ordered)) =
    [(0xA00000, 0x3F800000, false), (0xA00004, 0x40000000, false)] := by decide +kernel

/-- DSET of entry 2 of the table at 0x1000. -/
def runDesc : State :=
  mapped { run with hums := [(3, { busy with holder := some { held with descBase := 0x200000 } })] }
theorem witness_dset : (let va := ((0x200000 : BitVec 64).toNat + 32 * (2 : BitVec 32).toNat) % 2 ^ 52
    let x := runDesc.xlateVia (some 0) 1 va 32 false
    runDesc.issues 3 ∧ (runDesc.hum 3).holder = some { held with descBase := 0x200000 } ∧ (2 : BitVec 32).toNat < held.ndesc ∧
      x.2 = ([leaf5], .ok leaf5) ∧ x.1.framesBusy x.2.1 = false ∧ (x.1.vaRead x.2.1 1 va 32).trouble = .none) :=
  ⟨⟨rfl, rfl, rfl, _, rfl, by decide⟩, rfl, by decide, by decide +kernel, by decide +kernel, by decide +kernel⟩
theorem witness_dpatch : run.issues 3 ∧ run.inCode 3 ((run.hum 3).seq.pc + 1) ∧ (6 : BitVec 4).toNat < 12 :=
  ⟨run_issues, run_inCode, by decide⟩
/-- R169: x2 truncated to the 31 bits of TAG, and to the 20 of L. -/
theorem test_dpatch : descField (((after (exec (.dpatch 3 1 6 2) runSt)).hum 3).seq.desc1 1) 6 = 0x7FFFFFFF ∧
    descField (((after (exec (.dpatch 3 1 4 2) runSt)).hum 3).seq.desc1 1) 4 = 0xFFFFF ∧
    descField (((after (exec (.dpatch 3 1 4 2) runSt)).hum 3).seq.desc1 1) 0 = 0x100 := by decide +kernel
theorem test_dadd_wraps : descField (((after (exec (.dadd 3 1 2 1) runSt)).hum 3).seq.desc1 1) 0 = 0xFF := by decide +kernel

/-- d0 to 0x200000 of rank 0. -/
def send : SendFields := ⟨0, 3, 7, false, 0, 0, false⟩

theorem witness_csend : (let e := runSt.entry 3 (.csend 3 send) (.csend send)
    runSt.idleIssue 3 ∧ runSt.mem.err = [] ∧ (runSt.entered 3 e).sendOk 3 e send = true ∧ e.da.space = 0) :=
  ⟨runSt_idleIssue, rfl, by decide +kernel, by decide +kernel⟩
/-! An operand in device memory, or in the Mere of another hummock. -/

def plainAtB (s : State) (c va n : Nat) (e : TlbEntry) (d : Nat) : Bool :=
  tlbHit c va e && (!e.big || !e.leaf.getLsbD 3) && decide (va < 2 ^ 52) && decide (va % 65536 + n ≤ 65536) && d == elemDpa e va &&
    !dpaReserved d && !(s.owner (dpaFrame d)).isSealed && !s.isSealed c
theorem plainAt_of {s : State} {c va n : Nat} {e : TlbEntry} {d : Nat} (h : plainAtB s c va n e d = true) : s.plainAt c va n e d := by
  simp only [plainAtB, Bool.and_eq_true, Bool.or_eq_true, Bool.not_eq_true', decide_eq_true_eq, beq_iff_eq] at h
  obtain ⟨⟨⟨⟨⟨⟨⟨a, b⟩, c⟩, d⟩, e⟩, f⟩, g⟩, h⟩ := h
  exact ⟨a, fun x => by simpa [x] using b, c, d, e, f, g, h⟩

def plainB (s : State) (g : Nat) (m : List TlbEntry) (o : Opnd) : Bool :=
  mereOk o && decide (o.1.space ≤ 2) && s.reaches g o.1 &&
    (o.1.space != 1 || (rowSpans o).all fun x =>
      (m.find? (tlbHit (s.ctxOf g) (x.1 % 2 ^ 52))).any fun e =>
        plainAtB s (s.ctxOf g) (x.1 % 2 ^ 52) x.2 e (elemDpa e (x.1 % 2 ^ 52)))
theorem plainOpnd_of {s : State} {g : Nat} {m : List TlbEntry} {o : Opnd} (h : plainB s g m o = true) : s.plainOpnd g m o := by
  simp only [plainB, Bool.and_eq_true, Bool.or_eq_true, decide_eq_true_eq, List.all_eq_true, Option.any_eq_true] at h
  obtain ⟨⟨⟨a, b⟩, c⟩, d⟩ := h
  refine ⟨a, b, c, fun one x hx => ?_⟩
  obtain ⟨e, he, p⟩ := (d.resolve_left (by simp [one])) x hx
  exact ⟨e, he, plainAt_of p⟩

def opensB (s : State) (g : Fin 96) (rs ws : List Opnd) : Bool :=
  let x := s.xlateOpnds g (s.ctxOf g) rs ws
  x.2.2 == .ok && !x.1.framesBusy x.2.1 && (rs ++ ws).all (plainB x.1 g x.2.1)
theorem opensTo_of {s : State} {g : Fin 96} {rs ws : List Opnd} (h : opensB s g rs ws = true) :
    ∃ s1 m, s.opensTo s1 g m rs ws := by
  simp only [opensB, Bool.and_eq_true, beq_iff_eq, Bool.not_eq_true', List.all_eq_true] at h
  exact ⟨_, _, Prod.ext rfl (Prod.ext rfl h.1.1), h.1.2, fun o ho => plainOpnd_of (h.2 o ho)⟩

/-- runMem as logical hummock 0 of two; d4 is in the Mere of logical hummock 1, on hummock 4, at 0x100. -/
def runFar : State :=
  { runMem with hums :=
      [(3, { (runMem.hum 3) with
        holder := some { held with nhum := 2 }
        seq := { (runMem.hum 3).seq with
          x := [(4, 0x7007007007)]
          desc := (runMem.hum 3).seq.desc ++ [(4, descOf 0x100 2 0x100 1 2 0 + BitVec.ofNat 256 (2 ^ 243))] } }),
       (4, { busy with holder := some { held with lhum := 1, nhum := 2 }, mere := [(0x102, 0x80), (0x103, 0x3F)] })] }

theorem runFar_idleIssue : runFar.idleIssue 3 :=
  ⟨⟨rfl, rfl, rfl, _, rfl, by decide⟩, ⟨_, rfl, by decide⟩, ⟨rfl, rfl⟩⟩

/-- From d2 to d4: from device memory into the Mere of hummock 4; and back. -/
def far (b : Bool) : WeirFields := if b then { move with tds := 2, tdd := 4 } else { move with tds := 4, tdd := 2 }
theorem witness_wmove_spaces (b : Bool) : (let e := runFar.entry 3 (.wmove 3 (far b)) (.wmove (far b))
    let u := runFar.entered 3 e
    runFar.idleIssue 3 ∧ runFar.mem.err = [] ∧ u.mayStart 3 e = true ∧ u.moveOk 3 e (far b) = true ∧
      ∃ s1 m, u.opensTo s1 3 m [(e.da, (far b).sfmt)] [(e.db, (far b).sfmt)]) := by
  refine ⟨runFar_idleIssue, rfl, ?_, ?_, opensTo_of ?_⟩ <;> cases b <;> decide +kernel
theorem test_wmove_spaces : bread (after (exec (.wmove 3 (far false)) runFar)).mem.hbm 0xA00000 8 = [0, 0, 0x80, 0x3F, 0, 0, 0, 0] ∧
    bread ((after (exec (.wmove 3 { move with tdd := 4 }) runFar)).hum 4).mere 0x100 8 = [0, 0, 0x80, 0x3F, 0, 0, 0, 0x40] := by
  decide +kernel
/-- The same with conversion; and a Sump tile to device memory. -/
theorem witness_wconv_spaces (b : Bool) : (let f := { far b with dfmt := 3 }
    let e := runFar.entry 3 (.wconv 3 f) (.wconv f)
    let u := runFar.entered 3 e
    runFar.idleIssue 3 ∧ runFar.mem.err = [] ∧ u.mayStart 3 e = true ∧ u.convOk 3 e f = true ∧
      ∃ s1 m, u.opensTo s1 3 m (weirReads e f) (weirWrites e f.dfmt)) := by
  refine ⟨runFar_idleIssue, rfl, ?_, ?_, opensTo_of ?_⟩ <;> cases b <;> decide +kernel
theorem witness_wconv_tile : (let f := { far false with srck := 1, dfmt := 7 }
    let e := runFar.entry 3 (.wconv 3 f) (.wconv f)
    let u := runFar.entered 3 e
    u.mayStart 3 e = true ∧ u.convOk 3 e f = true ∧ ∃ s1 m, u.opensTo s1 3 m (weirReads e f) (weirWrites e f.dfmt)) :=
  ⟨by decide +kernel, by decide +kernel, opensTo_of (by decide +kernel)⟩
/-- Rows of device memory to the device at rank 0, and the same as contributions. -/
theorem witness_csend_memory (b : Bool) : (let f : SendFields := { send with tds := 2, red := b }
    let e := runFar.entry 3 (.csend 3 f) (.csend f)
    let u := runFar.entered 3 e
    runFar.idleIssue 3 ∧ runFar.mem.err = [] ∧ u.mayStart 3 e = true ∧ u.sendOk 3 e f = true ∧
      ∃ s1 m, u.opensTo s1 3 m [(e.da, f.fmt)] []) := by
  refine ⟨runFar_idleIssue, rfl, ?_, ?_, opensTo_of ?_⟩ <;> cases b <;> decide +kernel
theorem witness_csend_own : (let e := runSt.entry 3 (.csend 3 send) (.csend send)
    let u := runSt.entered 3 e
    u.mayStart 3 e = true ∧ ∃ s1 m, u.opensTo s1 3 m [(e.da, send.fmt)] []) := ⟨by decide +kernel, opensTo_of (by decide +kernel)⟩
/-- d2 + d4 into d2. -/
theorem witness_reed_spaces : (let f : RopFields := ⟨2, 4, 2, 4, 0, 0, 0, 0, 0, false, false⟩
    let e := runFar.entry 3 (.ropAdd 3 f) (.rop 0x00 f)
    let u := runFar.entered 3 e
    runFar.idleIssue 3 ∧ runFar.mem.err = [] ∧ u.mayStart 3 e = true ∧ u.ropOk 3 e 0 f = true ∧
      ∃ s1 m, u.opensTo s1 3 m (ropReads e 0 f) (ropWrites e 0)) :=
  ⟨runFar_idleIssue, rfl, by decide +kernel, by decide +kernel, opensTo_of (by decide +kernel)⟩

theorem test_csend : ((after (exec (.csend 3 send) runSt)).cwy.inject.map fun p => (p.type, p.last, p.addr, p.payload)) =
    [(0x01, true, 0x200000, [0, 0, 0x80, 0x3F, 0, 0, 0, 0x40])] := by decide +kernel

/-- d0 + d0 to d1 in binary32; x4 holds the FMTs, 7 each. -/
def ropF : RopFields := ⟨0, 0, 1, 4, 0, 0, 0, 0, 0, false, false⟩
def runRop : State :=
  { runSt with hums := [(3, { (runSt.hum 3) with seq := { (runSt.hum 3).seq with x := [(4, 0x7007007007)] } })] }

theorem witness_reed : (let e := runRop.entry 3 (.ropAdd 3 ropF) (.rop 0x00 ropF)
    stationOp (.ropAdd 3 ropF) = some (3, .rop 0x00 ropF) ∧ runRop.idleIssue 3 ∧ runRop.mem.err = [] ∧
      (runRop.entered 3 e).mayStart 3 e = true ∧ (runRop.entered 3 e).ropOk 3 e 0 ropF = true ∧
      ownMere (ropReads e 0 ropF ++ ropWrites e 0)) :=
  ⟨rfl, ⟨⟨rfl, rfl, rfl, held, rfl, by decide⟩, ⟨held, rfl, by decide⟩, rfl, rfl⟩, rfl, by decide +kernel, by decide +kernel,
    by unfold ownMere; decide +kernel⟩
/-- 1 + 1 and 2 + 2. -/
theorem test_rop_add : bread ((after (exec (.ropAdd 3 ropF) runRop)).hum 3).mere 0x100 8 = [0, 0, 0, 0x40, 0, 0, 0x80, 0x40] := by
  decide +kernel
theorem test_rop_values :
    (let y (i : Instr) := ((bread ((after (exec i runRop)).hum 3).mere 0x100 8).map fun b => b.toNat)
     [y (.ropSub 3 ropF), y (.ropMul 3 ropF), y (.div 3 ropF), y (.max 3 ropF), y (.cvt 3 ropF), y (.sqrt 3 ropF)].map fun l => l.drop 4) =
    [[0, 0, 0, 0], [0, 0, 0x80, 0x40], [0, 0, 0x80, 0x3F], [0, 0, 0, 0x40], [0, 0, 0, 0x40], [0xF3, 0x04, 0xB5, 0x3F]] := by
  decide +kernel
theorem test_nan_element : ((ropElem f32 false 0x12 .nan .nan (val32 0x3F800000) .nan).run {}).1 = val32 0x3F800000 := by
  decide +kernel

/-! ### Steps of the engines -/

/-- An instruction in a queue, which captured d0. -/
def entryOf (id : Nat) (op : StOp) (ph : OpPhase) : Issued :=
  { id := id, op := op, pc := 0, da := ⟨descOf 0 0 0x100 1 1 0, 0⟩, db := ⟨0, 0⟩, dc := ⟨0, 0⟩, dd := ⟨0, 0⟩, va := 0, vb := 0, vc := 0
    phase := ph, tries := 0, mask := 0, groups := 0, held := 0, wts := [], outstanding := 0, since := 0 }

def withOps (l : List Issued) : State := runWith fun h => { h with unret := l, nextId := 9, mere := [(0, 3)] }

theorem witness_retire : (let s := withOps [entryOf 0 (.sclr 0 false) .done, entryOf 1 (.wmove move) .running]
    (s.hum 3).unret[(0 : Fin 32).val]? = some (entryOf 0 (.sclr 0 false) .done) ∧
      s.stepped 3 (entryOf 0 (.sclr 0 false) .done) 1 = true ∧
      (∀ j ∈ (s.hum 3).unret, j.phase ≠ .queued) ∧ (s.hum 3).seq.sigs = [] ∧ (s.hum 3).seq.stall = none) := by decide +kernel
/-- The same with a FENCE that waits for the Sump station alone, and with an END. -/
def withStall (l : List Issued) (w : Stall) : State :=
  runWith fun h => { h with unret := l, seq := { h.seq with st := .waitQueue, stall := some w, pc := 1 } }
theorem witness_retire_stalls :
    (let s := withStall [entryOf 0 (.sclr 0 false) .done, entryOf 1 (.wmove move) .running] (.fence 2)
     (s.hum 3).seq.stall = some (.fence 2) ∧ (∀ j ∈ (s.hum 3).unret.eraseIdx 0, inMask 2 j.op = false) ∧
      s.inCode 3 (s.hum 3).seq.pc) ∧
    (let s := withStall [entryOf 0 (.sclr 0 false) .done] .ended
     (s.hum 3).seq.stall = some .ended ∧ (s.hum 3).unret.eraseIdx 0 = []) :=
  ⟨⟨rfl, by decide +kernel, held, rfl, by decide⟩, rfl, rfl⟩
theorem test_retire_ends_fence :
    (let h := (after (exec (.instructionRetire 3 0)
      (withStall [entryOf 0 (.sclr 0 false) .done, entryOf 1 (.wmove move) .running] (.fence 2)))).hum 3
     (h.seq.st, h.unret.map fun i => i.id)) = (.issuing, [1]) := by decide +kernel

/-- LLOAD of Lattice 1, INT8, K = 1, N = 1. -/
def load1 : StOp := .lload 1 9 0 0

theorem witness_load : (let s := withOps [entryOf 0 load1 .queued]
    queuedLoad (s.hum 3) 1 = some (entryOf 0 load1 .queued) ∧ loadMayStart (s.hum 3) 1 (entryOf 0 load1 .queued) = true ∧
      s.lloadOk 3 (entryOf 0 load1 .queued).da 9 1 1 = true ∧ mereOk ((entryOf 0 load1 .queued).da, 9) = true ∧ s.mem.err = []) := by
  decide +kernel
theorem test_load : (let l := ((after (exec (.lloadStart 3 1) (withOps [entryOf 0 load1 .queued]))).hum 3).lat 1
    (sget 0 l.stage 0, sget 0 l.stage 256, l.w.length, l.k, l.loaded, l.loading)) = (3, 0, 0, 1, false, some 0) := by decide +kernel

/-- A load that runs. -/
def loading : State :=
  runWith fun h => { h with unret := [entryOf 0 load1 .running], lats := [(1, { Lattice.reset with loaded := false, loading := some 0 })] }
theorem witness_load_complete :
    ((loading.hum 3).unret.find? fun j => isLoadOf 1 j && j.phase == .running && loading.stepped 3 j 256) = some (entryOf 0 load1 .running) ∧
    ((loading.hum 3).lat 1).loading = some 0 ∧ (∀ j ∈ (loading.hum 3).unret, j.phase ≠ .queued) ∧ (loading.hum 3).seq.sigs = [] ∧
    (loading.hum 3).seq.stall = none := by decide +kernel

/-- INT8 on Lattice 1, one row, into tile 4 from +0. -/
def pass1 : PassFields := ⟨2, 0, 9, 0, 4, false, 0, true, false, false⟩
/-- A Lattice of K = N = 1 with weight 0. -/
def small : Lattice := { Lattice.reset with km1 := 0, nm1 := 0 }

/-- Hummock 3 with one instruction, an empty Mere and that Lattice. -/
def passing (i : Issued) : State := runWith fun h => { h with unret := [i], lats := [(1, small)], nextId := 9 }

theorem witness_pass_start : (let i := entryOf 0 (.lpass pass1) .queued
    let s := passing i
    (s.hum 3).unret = [] ++ i :: [] ∧ i.op = .lpass pass1 ∧ i.phase = .queued ∧ i.wts = [] ∧ passMayStart (s.hum 3) i pass1 = true ∧
      s.lpassOk 3 i.da pass1 (fun l => (s.hum 3).lat l) = true ∧ mereOk (i.da, pass1.afmt) = true) := by
  decide +kernel

def int8Run : PassRun := ⟨⟨0, 0, 1⟩, .int8, 9, 0x3F800000⟩
/-- A Lattice of K = N = 1 with INT8 weight 1. -/
def unit1 : Lattice := { small with w := [(0, 1)] }

/-- A pass that runs on Lattices 1 and 2 and holds the tiles of the given bits. -/
def running1 (f : PassFields) (held : BitVec 24) : Issued :=
  { entryOf 0 (.lpass f) .running with mask := f.mask, wts := [(1, unit1), (2, unit1)], held := held }
/-- The same pass on hummock 3, with activation 127, tile 4 as given, and instructions after it. -/
def inPass (i : Issued) (t : SumpTile) (more : List Issued) : State :=
  runWith fun h => { h with
    unret := i :: more, lats := [(1, unit1), (2, unit1)], nextId := 9, mere := [(0, 127)], sump := [(4, t)] }

/-- The working bank with the rows of the pass. -/
def worked1 (s : State) (i : Issued) (f : PassFields) (l : Nat) : SumpTile :=
  let x := (s.hum 3).tile (f.tile.toNat + rankOf f l)
  (addRows int8Run (i.weights l) x.lidx.toNat 0 (x.begin f.clr f.clr) (s.readActs 3 i f 256 0 (f.mm1.toNat + 1)).2.1).1

abbrev mayCommit (s : State) (i : Issued) (f : PassFields) : Prop :=
  runningPass (s.hum 3) = some (i, f) ∧ i.op = .lpass f ∧ s.passRun 3 i f = some int8Run ∧ f.out = false ∧ i.mask = f.mask ∧
    f.mm1.toNat < 256 ∧ s.hasTiles 3 i (f.mm1.toNat + 1) = true ∧ s.mem.err = [] ∧ (s.hum 3).seq.sigs = [] ∧
    (s.hum 3).seq.stall = none ∧ ∀ l ∈ passLats f, ((s.hum 3).tile (f.tile.toNat + rankOf f l)).spilling = false

/-- On two Lattices, into tiles 4 and 5. -/
def pass2 : PassFields := { pass1 with mask := 6 }
theorem witness_pass_commit : (let i := running1 pass2 (tileBit 4 ||| tileBit 5)
    let s := inPass i SumpTile.reset []
    mayCommit s i pass2 ∧ (pass2.shr && int8Run.env.mode == 0) = false ∧ (s.hum 3).unret = [i] ∧ passLats pass2 = [1, 2] ∧
      ∀ l ∈ passLats pass2, ((s.hum 3).tile (pass2.tile.toNat + rankOf pass2 l)).bind = false ∧ (worked1 s i pass2 l).canLower = false) := by
  decide +kernel
/-- OFF = 127: 127 x 2^127 is beyond the format, and the offset can be lowered. -/
def passHigh : PassFields := { pass1 with clr := false }
theorem witness_pass_replay : (let i := running1 passHigh (tileBit 4)
    let s := inPass i { SumpTile.reset with off := 127 } []
    mayCommit s i passHigh ∧ passLats passHigh = [1] ∧ (worked1 s i passHigh 1).canLower = true) := by decide +kernel
theorem test_pass_replay : (let t := after (exec (.lpassCommit 3) (inPass (running1 passHigh (tileBit 4)) { SumpTile.reset with off := 127 } []))
    (((t.hum 3).tile 4).woff, ((t.hum 3).tile 4).cnt, (t.hum 3).unret.map fun j => (j.phase, j.tries))) = (63, 0, [(.running, 1)]) := by
  decide +kernel
/-- Bound to slot 1, below S = 16 and at it. -/
theorem witness_pass_bound : (let i := running1 pass1 (tileBit 4)
    let s (n : BitVec 7) := inPass i { SumpTile.reset with bind := true, pslot := 1, sm1 := 15, cnt := n } []
    let done (n : BitVec 7) := (worked1 (s n) i passHigh 1).finalInf.1.commit 1 (leafCount int8Run.env.mode int8Run.cm (i.weights 1).k)
    mayCommit (s 0) i pass1 ∧ (worked1 (s 0) i pass1 1).canLower = false ∧ ((s 0).env 3).v40 = false ∧
      (done 0).cnt.toNat ≤ 15 ∧ 15 < (done 15).cnt.toNat) := by decide +kernel
theorem test_pass_spills : (let t := after (exec (.lpassCommit 3)
      (inPass (running1 passHigh (tileBit 4)) { SumpTile.reset with bind := true, pslot := 1, sm1 := 15, cnt := 15 } []))
    (((t.hum 3).tile 4).spilling, sget 0 ((t.hum 3).slot 1) 0)) = (true, 0x405FC00000000000) := by decide +kernel
/-- The last pass of a shared set, and one before another. -/
def passShr : PassFields := { pass1 with shr := true }
theorem witness_pass_shared : (let i := running1 passShr (tileBit 4)
    let j : Issued := { i with id := 1, phase := .queued, op := .lpass { passShr with clr := false } }
    let s (js : List Issued) := inPass i SumpTile.reset js
    mayCommit (s []) i passShr ∧ mayCommit (s [j]) i passShr ∧ int8Run.env.mode = 0 ∧ passLats passShr = [1] ∧
      i.held = tileBit passShr.tile.toNat ∧ ((s []).hum 3).unret = [i] ∧ ((s [j]).hum 3).unret = [i, j] ∧ sharing j.op = some false ∧
      j.id ≠ i.id) := by decide +kernel
theorem test_pass_shared : (let i := running1 passShr (tileBit 4)
    let s (js : List Issued) := after (exec (.lpassCommit 3) (inPass i SumpTile.reset js))
    let t := s [{ i with id := 1, phase := .queued, op := .lpass { passShr with clr := false } }]
    ((t.hum 3).unret.map fun j => j.phase, ((t.hum 3).tile 4).cnt, ((t.hum 3).tile 4).com 0 0,
      (((s []).hum 3).tile 4).cnt, (((s []).hum 3).tile 4).com 0 0)) = ([.ended, .queued], 0, 0, 1, 0x42FE0000) := by decide +kernel

/-- A STREAM pass to Weir, one ring tile; in BF16, 2^127 x 2^127, it replays. -/
def stream1 (f : BitVec 12) : PassFields := { pass1 with afmt := f, out := true, dest := true }
def bigUnit : Lattice := { small with fmt := 5, w := [(0, 0x7F00)] }
def inStream (f : BitVec 12) (l : Lattice) (act : List Host.Cell) : Issued × State :=
  let i := { running1 (stream1 f) (tileBit 4) with wts := [(1, l)] }
  (i, runWith fun h => { h with unret := [i], lats := [(1, l)], nextId := 9, mere := act })
def streamed (f : BitVec 12) (l : Lattice) (act : List Host.Cell) : Option SumpTile :=
  let r := inStream f l act
  let x := (r.2.hum 3).tile (ringTile (stream1 f) 1 r.1.groups)
  (r.2.passRun 3 r.1 (stream1 f)).map fun p => (addRows p (r.1.weights 1) x.lidx.toNat 0 (x.begin true true)
    (r.2.readActs 3 r.1 (stream1 f) (kMax p.cm) (256 * r.1.groups) 1).2.1).1
abbrev mayStream (f : BitVec 12) (l : Lattice) (act : List Host.Cell) : Prop :=
  let i := (inStream f l act).1
  let s := (inStream f l act).2
  runningPass (s.hum 3) = some (i, stream1 f) ∧ i.op = .lpass (stream1 f) ∧ (s.hum 3).unret = [i] ∧ i.mask = (stream1 f).mask ∧
    s.hasTiles 3 i (Nat.min 1 256) = true ∧ ringFree (s.hum 3) i (stream1 f) = true ∧ s.mem.err = [] ∧ (s.hum 3).seq.sigs = [] ∧
    (s.hum 3).seq.stall = none ∧ 256 * i.groups ≤ (stream1 f).mm1.toNat ∧ passLats (stream1 f) = [1] ∧
    ((s.hum 3).tile (ringTile (stream1 f) 1 i.groups)).spilling = false ∧ ringTile (stream1 f) 1 i.groups < 16
theorem witness_stream : mayStream 9 unit1 [(0, 127)] ∧ (streamed 9 unit1 [(0, 127)]).map SumpTile.canLower = some false := by
  decide +kernel
theorem witness_stream_replay : mayStream 5 bigUnit [(1, 0x7F)] ∧ (streamed 5 bigUnit [(1, 0x7F)]).map SumpTile.canLower = some true := by
  decide +kernel

/-- R64: the INT8 column of activations 5 and -1 on weights 3 and 7. -/
theorem test_int8_column : (column .int8 0 0 [val32 0x40A00000, val32 0xBF800000] [val32 0x40400000, val32 0x40E00000] [] []).v =
    val32 0x41000000 := by decide +kernel

/-- A group that its station has read, and a spill of tile 2. -/
theorem witness_stream_ack : (let q : Group := ⟨4, true, 0, 0, 0, true⟩
    let s := runWith fun h => { h with groups := [q] }
    ((s.hum 3).groups.find? fun q => q.tile == 4 && q.taken) = some q ∧ (∀ j ∈ (s.hum 3).unret, j.phase ≠ .queued) ∧
      (s.hum 3).seq.sigs = [] ∧ (s.hum 3).seq.stall = none) := by decide +kernel
def spilling : State :=
  runWith fun h => { h with sump := [(2, { SumpTile.reset with bind := true, spilling := true, cnt := 16, off := 0xC0 })] }
theorem witness_spill_complete : ((spilling.hum 3).tile (2 : BitVec 4).toNat).spilling = true := rfl
/-- Three operations chased the spill; 17 of them ask for the next one. -/
theorem witness_spill_chased (n : Fin 2) : (let s := runWith fun h => { h with sump := [(2, { SumpTile.reset with
      bind := true, sm1 := 15, spilling := true, cnt := 16, cut := some ⟨0, [], [], [], 0, 16, if n = 0 then 3 else 17⟩ })] }
    let x := (s.hum 3).tile (2 : BitVec 4).toNat
    x.spilling = true ∧ (x.cut.map fun c => c.chased) = some (if n = 0 then 3 else 17) ∧ x.sm1.toNat = 15 ∧ x.bind = true ∧
      x.begun = false ∧ (s.env 3).v40 = false ∧ s.mem.err = []) := by revert n; decide +kernel
theorem test_spill_complete : (let x := ((after (exec (.spillComplete 3 2) spilling)).hum 3).tile 2
    (x.spilling, x.cnt, x.off)) = (false, 0, 0) := by decide +kernel

/-- run with its image in frame 5, whose program table gives logical hummock 0 the code at 0x100 of 64 instructions with ENTRY 3, and with
a powered hummock that nothing holds. -/
def toPlace : State :=
  let m := mapped run
  { m with
    hums := [(3, { Hummock.reset with power := .running })]
    fe := { m.fe with launches := [{ job with image := 0x200000 }] }
    mem := { m.mem with hbm := tables ++ [(0xA00030, 0x80), (0xA00081, 0x01), (0xA00084, 0x40), (0xA00090, 0x03)] } }
theorem witness_placement : (let l := { job with image := 0x200000 }
    let e := toPlace.programEntry l 0 0
    toPlace.toPlace 0 = some l ∧ toPlace.canPlace 3 1 = true ∧ toPlace.capOk 3 1 = true ∧
      (toPlace.hum 3).power = .running ∧ (e.2.map fun b => (holderOf e.1 l 0 b).entry.toNat) = some 3 ∧
      (e.2.map fun b => field b 4 4) = some 64) := by decide +kernel
theorem test_placement : (let h := (after (exec (.placement 3 0) toPlace)).hum 3
    (h.seq.st, h.seq.pc, h.holder.map fun x => (x.launch, x.codeLen))) = (.issuing, 3, some (1, 64)) := by decide +kernel

/-! ### The commit protocol -/

/-- run in a group of three (device IDs 0, 1, 2) of membership epoch 5 at a rank, in an epoch state. Device 0 reaches the others. -/
def member (rank : BitVec 15) (st : EpSt) : State :=
  { run with
    ep := { run.ep with st := st, mepoch := 5, members := [0, 1, 2], rank := rank }
    cwy := { Fabric.reset with ltAct := [(0, 0x300), (1, 0x100), (2, 0x101)] } }

/-- The same with its launch's work over: no hummock holds it. -/
def memberDone (rank : BitVec 15) (st : EpSt) : State := { member rank st with hums := [] }

/-- A message for epoch 1, attempt 1. -/
def msg (info : BitVec 8) (src : BitVec 15) : CommitMsg := ⟨info, 0, 1, 0, 5, 1, src⟩

theorem witness_commit : (member 1 .prepared).hears (msg 1 0) ∧ (member 1 .prepared).ep.st = .prepared ∧ (member 1 .prepared).ep.rank ≠ 0 :=
  ⟨⟨rfl, by decide, rfl, rfl, rfl, by decide⟩, rfl, by decide⟩
theorem witness_abort : (let s := memberDone 1 .running
    s.hears (msg 2 0) ∧ s.ep.st = .running ∧ s.ep.rank ≠ 0 ∧ s.actedOn (msg 2 0).att = false ∧ s.ep.launch = some 1 ∧
      s.quiet 1 = true ∧ s.err.ctxab = none ∧ s.ep.rejoin = false) :=
  ⟨⟨rfl, by decide, rfl, rfl, rfl, by decide⟩, rfl, by decide, rfl, rfl, rfl, rfl, rfl⟩
theorem test_commit : (let t := after (exec (.commit (msg 0 0)) (member 1 .prepared))
    (t.ep.c, t.ep.st, t.ep.genLast, t.ep.genOpen, t.cwy.inject.length)) = (1, .committing, 1, 2, 0) := by decide +kernel
theorem test_abort : (let t := after (exec (.abort (msg 2 0)) (memberDone 1 .running))
    (t.ep.c, t.ep.st, t.ep.genOpen, t.ep.after)) = (0, .rollingBack, 2, some 2) := by decide +kernel

theorem witness_prepare : (member 0 .running).hears (msg 0 1) ∧ (member 0 .running).ep.localPrep = false ∧
    (member 0 .running).children.contains (msg 0 1).src.toNat = true ∧ (∀ r ∈ (member 0 .running).ep.reports, r.1 ≠ (msg 0 1).src) :=
  ⟨⟨rfl, by decide, rfl, rfl, rfl, by decide⟩, rfl, by decide +kernel, by decide⟩
theorem witness_prepare_again :
    (let s := (member 0 .running).modEp fun e => { e with reports := [(1, 1)] }
     s.hears (msg 0 1) ∧ s.ep.localPrep = false ∧ ∃ r ∈ s.ep.reports, r.1 = (msg 0 1).src) :=
  ⟨⟨rfl, by decide, rfl, rfl, rfl, by decide⟩, rfl, (1, 1), by decide, rfl⟩
theorem witness_abort_request :
    (let s := (member 0 .prepared).modEp fun e => { e with prepTimer := true }
     s.hears (msg 4 1) ∧ s.ep.rank = 0 ∧ s.decided = false ∧ s.ep.st = .prepared ∧ s.ep.prepTimer = true ∧
       s.requestLate (msg 4 1) = false ∧ allPorts.all (fun p => (s.port p).ds == .active) = true ∧
       ∃ id, s.ep.launch = some id ∧ s.quiet id = false) :=
  ⟨⟨rfl, by decide, rfl, rfl, rfl, by decide⟩, rfl, rfl, rfl, rfl, rfl, by decide +kernel, 1, rfl, by decide +kernel⟩
theorem test_abort_request : (let t := after (exec (.abortReq (msg 4 1)) (member 0 .running))
    (t.ep.decision, t.ep.failedAtt, t.cwy.inject.map fun p => (p.dst, p.payload.take 2))) =
    (some ⟨1, 1, false, 4⟩, some 1, [(1, [3, 4]), (2, [3, 4])]) := by decide +kernel

theorem witness_query :
    (let s := (member 0 .committing).modEp fun e => { e with decision := some ⟨1, 1, true, 0⟩ }
     s.err.chip = none ∧ s.procReady fcpIx = true ∧ (msg 0 1).mepoch = s.ep.mepoch ∧ s.ep.rank = 0 ∧ (msg 0 1).src.toNat ≠ 0 ∧
       s.decisionFor (msg 0 1).epoch = some ⟨1, 1, true, 0⟩) := by decide +kernel
theorem witness_query_unknown : (member 0 .running).decisionFor (msg 0 1).epoch = none ∧ (msg 0 1).mepoch = (member 0 .running).ep.mepoch := ⟨rfl, rfl⟩
theorem witness_decide_timeout :
    (let s := (member 1 .prepared).modEp fun e => { e with decideTimer := true }
     s.err.chip = none ∧ s.procReady fcpIx = true ∧ s.ep.st = .prepared ∧ s.ep.decideTimer = true) := by decide +kernel
theorem test_query : ((after (exec (.query (msg 0 1)) ((member 0 .committing).modEp fun e =>
    { e with decision := some ⟨1, 1, false, 2⟩ }))).cwy.inject.map fun p => (p.dst, p.payload.take 3)) = [(1, [6, 2, 2])] := by
  decide +kernel

/-- A launch that is admitted and not dispatched. -/
def waitingLaunch : State :=
  { run with
    hums := [], ep := { EpochState.reset with c := 4 }
    fe := { run.fe with launches := [{ job with js := .admitted, att := 3 }] } }
theorem witness_dispatch : (let l := { job with js := .admitted, att := 3 }
    waitingLaunch.mayDispatch = true ∧ waitingLaunch.nextLaunch = some l ∧ l.cause = none ∧ waitingLaunch.ep.held = [] ∧
      waitingLaunch.cwy.later = [] ∧ waitingLaunch.mem.err = [] ∧ waitingLaunch.ep.members.all waitingLaunch.reachable = true) := by decide +kernel
theorem test_dispatch : (let t := after (exec .dispatch waitingLaunch)
    (t.ep.st, t.ep.launch, t.ep.att, t.ep.c)) = (.running, some 1, 3, 4) := by decide +kernel

/-- The launch has run to its end. -/
def worked (rank : BitVec 15) (members : List (BitVec 15)) : State :=
  let s := mapped (member rank .running)
  { s with
    ep := { s.ep with members := members }
    fe := { s.fe with launches := [{ job with ended := 1, image := 0x200000 }] } }
theorem witness_local_prepare :
    (let l := { job with ended := 1, image := 0x200000 }
     let ok (s : State) : Bool := s.running == some l && s.workDone l && (s.writeWatch l).2 == .done && (s.writeWatch l).1.ep == s.ep
     let sum (s : State) : Nat := s.ep.reports.foldl (fun acc r => acc + r.2) 1
     (ok (worked 0 [0, 1, 2]) = true ∧ sum (worked 0 [0, 1, 2]) ≠ (worked 0 [0, 1, 2]).subtree) ∧
     (ok (worked 0 [0]) = true ∧ sum (worked 0 [0]) = (worked 0 [0]).subtree ∧ (worked 0 [0]).ep.rank = 0 ∧
       (worked 0 [0]).decided = false) ∧
     (ok (worked 1 [0, 1, 2]) = true ∧ sum (worked 1 [0, 1, 2]) = (worked 1 [0, 1, 2]).subtree ∧ (worked 1 [0, 1, 2]).ep.rank ≠ 0 ∧
       (worked 1 [0, 1, 2]).ep.sent = false)) := by decide +kernel
theorem witness_local_prepare_heard :
    (let heard (s : State) : Bool := s.children.all fun k => s.ep.reports.any fun r => r.1.toNat == k
     (heard (worked 0 [0]), heard (worked 1 [0, 1, 2]), heard (worked 0 [0, 1, 2]))) = (true, true, false) := by decide +kernel
theorem test_local_prepare_coordinator : (let t := after (exec .localPrepare (worked 0 [0]))
    (t.ep.st, t.ep.c, t.ep.decision)) = (.committing, 1, some ⟨1, 1, true, 0⟩) := by decide +kernel
theorem test_local_prepare_member : (let t := after (exec .localPrepare (worked 1 [0, 1, 2]))
    (t.ep.st, t.ep.sent, t.cwy.inject.map fun p => p.payload.take 1)) = (.prepared, true, [[1]]) := by decide +kernel

/-- A commit sweep over records 5 (pending) and 6 (settled). -/
def sweeping : State :=
  { run with
    ep := { run.ep with c := 1, genLast := 1, genOpen := 2, st := .committing }
    mem := { run.mem with sweep := some ⟨true, [5, 6]⟩, recs := [(5, ⟨false, 1, 1, 7⟩)] } }
theorem witness_sweep : sweeping.mem.sweep = some ⟨true, [5, 6]⟩ := rfl
theorem test_sweep : (let t := after (exec .sweepDone sweeping)
    (t.pageRec 5, t.pageRec 6, t.mem.sweep)) = (⟨true, 1, 0xFF, 7⟩, PageRec.reset, none) := by decide +kernel
theorem witness_epoch_end : sweeping.ep.launch = some 1 ∧ sweeping.ep.members.all sweeping.reachable = true ∧ sweeping.ep.st = .committing := by
  decide +kernel
/-- A local rollback ends for each cause. -/
def rolling (cause : BitVec 8) : State := { run with ep := { run.ep with st := .rollingBack, acted := some (1, 1), after := some cause } }
theorem witness_rollback_end : (rolling 0).ep.launch = some 1 ∧ (rolling 0).ep.members.all (rolling 0).reachable = true ∧
    (rolling 0).ep.acted = some (1, 1) ∧ (rolling 0).ep.after = some 0 ∧ (rolling 0).ep.afterSunder = false ∧
    (rolling 0).launchOf 1 = some job ∧ job.abortAsked = false := by decide +kernel
theorem test_rollback_causes :
    ([0, 1, 2, 4, 5, 6].map fun c => (after (exec .localRollbackComplete (rolling c))).fe.launches.map fun l =>
      (l.js == .admitted, l.att.toNat, l.record.map fun r => r.status.toNat)) =
    [[(true, 2, none)], [(true, 2, none)], [(false, 1, some stExpired.toNat)], [(false, 1, some stProgramFault.toNat)],
      [(false, 1, some stDataLost.toNat)], [(false, 1, some stAborted.toNat)]] := by decide +kernel

/-! ### Stacked memory -/

/-- up with every stack ready and SREF of stack 4 set. -/
def memUp : State :=
  { up with
    mem := { MemState.reset with stackRegs := (List.range 24).map fun k => (k, ⟨.ready, false, 0⟩) }
    regs := [(secBase 1 + 0x208, 1)] }
theorem witness_sref : memUp.sectorRuns ((4 : Stack).val / 3) = true ∧ (memUp.stack (4 : Stack)).st = .ready ∧
    (memUp.reg (secBase ((4 : Stack).val / 3) + 0x200 + 8 * ((4 : Stack).val % 3))).getLsbD 0 = true := by decide +kernel
theorem test_sref : (let t := after (exec (.srefEntry 4) memUp)
    ((t.stack 4).st, (t.stack 5).st)) = (.srefIdle, .ready) := by decide +kernel

/-- An error in the third unit that the first step of sector 1's scrub meets: 0x44 in byte 4, and one in two bytes, which the decoder only
detects (R224). -/
def oneByte : BitVec 288 := 0x4400000000
def twoBytes : BitVec 288 := 0x440000000100
theorem test_verdicts : errVerdict oneByte = .correctable 4 0x44 ∧ errVerdict twoBytes = .uncorrectable ∧ errFix oneByte 4 0x44 = 0 := by
  decide +kernel
def scrubbing (e : BitVec 288) : State := { memUp with mem := { memUp.mem with err := [(sectorBytes / 32 + 2, e)] } }
theorem witness_scrub : (scrubbing oneByte).sectorRuns 1 = true ∧ (scrubbing oneByte).scrubPaused 1 = false ∧
    (scrubbing twoBytes).mem.err = [(sectorBytes / 32 + 2, twoBytes)] ∧
    (let z : Scrub := sget ⟨0, 0⟩ memUp.mem.scrub 1
     let first := ((1 : Sec).val * sectorBytes + z.pos.toNat * 96 * 256) / 32
     first ≤ sectorBytes / 32 + 2 ∧ sectorBytes / 32 + 2 < first + 768) := by decide +kernel
theorem test_scrub : (after (exec (.patrolScrubStep 1) (scrubbing oneByte))).mem.err = [] ∧
    (after (exec (.patrolScrubStep 1) (scrubbing twoBytes))).err.eq0.eseq = 1 := by decide +kernel

theorem up_host : up.privileged .host := ⟨by decide, rfl⟩
theorem up_fw : up.privileged .fw := ⟨by decide, rfl⟩
theorem up_mgp : up.secured .mgp := ⟨by decide, rfl⟩

theorem witness_invalidation : up.inReset 0 = false ∧ (∀ i rest, (after (exec (.trInvalidate .host) up)).mem.invs = i :: rest → rest = []) ∧
    (after (exec (.trInvalidate .host) up)).mem.invs = [⟨0, false, false, 0⟩] := by
  have h : (after (exec (.trInvalidate .host) up)).mem.invs = [⟨0, false, false, 0⟩] := by decide +kernel
  exact ⟨by decide +kernel, fun i rest e => by rw [h] at e; injection e with _ e; exact e.symm, h⟩
/-- The scope of VA 0x200000 of context 1 covers its cached leaf. -/
theorem test_invalidation_done : (after (exec .trInvalidateDone
    { up with mem := { up.mem with invs := [⟨1, false, false, 1⟩], tlb := [(1, leaf5)] } })).mem.tlb = [] := by decide +kernel

/-- Staging of sector 2's buffer: 4 frames from sector-relative 0x1000000. -/
def staged : State :=
  { up with regs := [(secBase 2 + 0x3000, BitVec.ofNat 64 (2 * sectorBytes + 0x1000000)), (secBase 2 + 0x3008, 4)] }
theorem witness_orb : (let base : BitVec 21 := (staged.reg (secBase 2 + 0x3000)).extractLsb' 21 21
    let frames : BitVec 16 := (staged.reg (secBase 2 + 0x3008)).extractLsb' 0 16
    staged.inReset 2 = false ∧ orbLegal 2 base.toNat frames.toNat = true) := by decide +kernel
theorem test_orb : ((after (exec (.orbCommit .host 2) staged)).orbOf 2).frames = 4 := by decide +kernel
theorem witness_orb_pending : (let s := { up with mem := { up.mem with orb := [(2, ⟨8, 4, some (16, 4)⟩)] } }
    (s.orbOf (2 : Sec)).pend = some (16, 4) ∧ s.roundsOpen (2 : Sec) = 0) := by decide +kernel

/-- SEC_OWN_CMD of sector 0 names frame 5 for context 2, not sealed; the frame is sealed and holds a byte. -/
def owning : State :=
  { up with
    regs := [(secBase 0 + 0x30000, 5 + 2 * 2 ^ 18)]
    mem := { up.mem with own := [(5, ⟨1, true, false⟩)], hbm := [(0xA00000, 7), (0xC00000, 9)] } }
theorem witness_own : owning.secured .mgp ∧ owning.inReset 0 = false ∧
    ((owning.reg (secBase (0 : Sec) + 0x30000)).extractLsb' 0 18).toNat < framesPerSector := ⟨⟨by decide, rfl⟩, by decide +kernel, by decide +kernel⟩
theorem witness_own_refused : owning.arrives .host = true ∧ masterSecure .host = false ∧ owning.inReset 0 = false := by decide +kernel
theorem test_own : (let t := after (exec (.ownMapWrite .mgp 0) owning)
    (t.owner 5, bget t.mem.hbm 0xA00000, bget t.mem.hbm 0xC00000, t.mem.zeroing)) = (⟨2, false, false⟩, 0, 9, [5]) := by decide +kernel
theorem witness_frame_zero : up.noStalls ∧ up.cwy.later = [] := ⟨⟨rfl, rfl⟩, rfl⟩
theorem test_ep_lookup : ((after (exec (.epLookup .host 2 77) up)).reg (secBase 2 + 0x40028)).extractLsb' 0 18 = 77#18 := by decide +kernel

/-! ### Contributions -/

/-- A contribution of 2.0 (binary32) to 0xA00000 by instruction 0 of hummock 3. -/
def contrib (ordered : Bool) (p : BitVec 17) : Contrib :=
  { src := some (3, 0), xfer := none, ctx := 1, va := 0x200000, dpa := 0xA00000, code := 7, bits := 0x40000000, ordered := ordered
    q := 0, p := p, round := 3, launch := 1, att := 1, epoch := 1, mode := if ordered then 1 else 0, tag := 0, leaf := leaf5 }

/-- run with the contribution on its way to an element that holds 1.0. -/
def reducing (c : Contrib) : State :=
  { run with
    mem := { run.mem with hbm := [(0xA00002, 0x80), (0xA00003, 0x3F)], contribs := [c], orb := [(0, ⟨100, 4, none⟩)] }
    hums := [(3, { busy with unret := [{ entryOf 0 (.wred move) .running with outstanding := 1 }] })] }

theorem reducing_plain : ∀ c, (reducing c).plainAt 1 0x200000 4 leaf5 0xA00000 := fun c =>
  ⟨by decide +kernel, by decide +kernel, by decide, by decide, by decide +kernel, by decide +kernel, rfl, by show (0#64).getLsbD 1 = false; decide⟩

theorem witness_invalidation_waits : (let i : InvScope := ⟨1, false, false, 1⟩
    (∃ c ∈ (reducing (contrib true 1)).mem.contribs, i.covers c.leaf = true) ∧ ∀ c ∈ up.mem.contribs, i.covers c.leaf = false) := by
  decide +kernel

theorem witness_reduce_fast : (let s := reducing (contrib false 1)
    s.mem.contribs[0]? = some (contrib false 1) ∧ (contrib false 1).src = some (3, 0) ∧ s.mem.err = [] ∧
      s.plainAt (contrib false 1).ctx.toNat (contrib false 1).va.toNat 4 (contrib false 1).leaf 0xA00000 ∧ s.takes (contrib false 1) ∧
      (contrib false 1).ordered = false ∧ (∀ r ∈ s.mem.rounds, r.dpa ≠ (contrib false 1).dpa)) :=
  ⟨rfl, rfl, rfl, reducing_plain _, ⟨by decide +kernel, rfl, rfl, rfl⟩, rfl, fun _ h => absurd h (List.not_mem_nil)⟩
theorem test_reduce_fast : bread (after (exec (.reduceContribution 0) (reducing (contrib false 1)))).mem.hbm 0xA00000 4 =
    [0, 0, 0x40, 0x40] := by decide +kernel

theorem witness_reduce_ordered : (let s := reducing (contrib true 1)
    s.takes (contrib true 1) ∧ (contrib true 1).ordered = true ∧ (∀ r ∈ s.mem.rounds, r.dpa ≠ (contrib true 1).dpa) ∧
      (∀ n, sget none s.mem.closed (contrib true 1).dpa = some n → n.toNat < (contrib true 1).round.toNat) ∧
      s.orbRoom (contrib true 1) = true ∧ (contrib true 1).p.toNat = 1 ∧ (contrib true 1).mode ≠ 2) :=
  ⟨⟨by decide +kernel, rfl, rfl, rfl⟩, rfl, fun _ h => absurd h (List.not_mem_nil), fun n h => absurd (show none = some n from h) nofun,
    by decide +kernel, rfl, by decide⟩
theorem witness_reduce_waits : (let s := reducing (contrib true 2)
    s.takes (contrib true 2) ∧ s.orbRoom (contrib true 2) = true ∧ 1 < (contrib true 2).p.toNat) :=
  ⟨⟨by decide +kernel, rfl, rfl, rfl⟩, by decide +kernel, by decide⟩
theorem test_reduce_ordered : (let t := after (exec (.reduceContribution 0) (reducing (contrib true 1)))
    let u := after (exec (.reduceContribution 0) (reducing (contrib true 2)))
    (bread t.mem.hbm 0xA00000 4, sget none t.mem.closed 0xA00000, bread u.mem.hbm 0xA00000 4, u.mem.rounds.length)) =
    ([0, 0, 0x40, 0x40], some 3, [0, 0, 0x80, 0x3F], 1) := by decide +kernel

/-- Round 3 of the element has closed. -/
def closed3 : State := { reducing (contrib true 1) with mem := { (reducing (contrib true 1)).mem with closed := [(0xA00000, some 3)] } }
theorem witness_reduce_closed : closed3.takes (contrib true 1) ∧
    ∃ n, sget none closed3.mem.closed (contrib true 1).dpa = some n ∧ (contrib true 1).round.toNat ≤ n.toNat :=
  ⟨⟨by decide +kernel, rfl, rfl, rfl⟩, 3, by decide +kernel, by decide⟩
theorem witness_reduce_stale : (let c := { contrib false 1 with att := 0 }
    (reducing c).framesBusy [c.leaf] = false ∧ (c.att ≠ (reducing c).ep.att ∨ c.epoch ≠ (reducing c).openEpoch)) :=
  ⟨by decide +kernel, Or.inl (by decide)⟩
theorem test_reduce_dropped : (let t := after (exec (.reduceContribution 0) closed3)
    let c := { contrib false 1 with att := 0 }
    (bread t.mem.hbm 0xA00000 4, t.mem.contribs.length, (after (exec (.reduceContribution 0) (reducing c))).mem.contribs.length)) =
    ([0, 0, 0x80, 0x3F], 0, 0) := by decide +kernel

/-! ### The Causeway -/

/-- A NOP of a packet: a WRITE of eight bytes from device 0 to a device, with HOPS left. -/
def pkt (dst : BitVec 15) (hops : BitVec 8) : Packet := { wr8 with dst := dst, hops := hops }

/-- up as device 0: device 0 is local, 1 leaves by port 0, 2 by port 1 and 3 by port 2; ports 0 and 2 are UP with credits on VC0, 2
drains, and there is no entry for 4. One packet waits to leave, and port 2 holds another in its input buffer. -/
def fab (k : Packet) : State :=
  let p : Port := { Port.reset with ls := .up, credits := [(0, 2), (1, 2)] }
  { up with
    regs := [(portCtl 2, 2)]
    cwy := { Fabric.reset with
      ltAct := [(0, 0x300), (1, 0x100), (2, 0x111), (3, 0x122)], inject := [k]
      ports := [(0, p), (2, { p with ds := .draining, inbuf := [k] })] } }

theorem witness_forward :
    ((fab (pkt 1 8)).cwy.inject.find? fun x => x.vc == (pkt 1 8).vc && x.cls == (pkt 1 8).cls) = some (pkt 1 8) ∧
    ([pkt 0 8, pkt 1 8, pkt 2 8, pkt 3 8, pkt 4 8, pkt 1 0].map fun k => malformed k) = List.replicate 6 false ∧
    (fab (pkt 4 8)).lookup (pkt 4 8) = .noroute ∧ (fab (pkt 1 0)).lookup (pkt 1 0) = .hoplim ∧ (fab (pkt 0 8)).lookup (pkt 0 8) = .here ∧
    (fab (pkt 2 8)).lookup (pkt 2 8) = .lost 1 ∧ (fab (pkt 3 8)).lookup (pkt 3 8) = .wait 2 ∧
    (fab (pkt 1 8)).lookup (pkt 1 8) = .out (0 : PortIx).val 0 := by decide +kernel
theorem witness_forward_credit : (let s := fab (pkt 1 8)
    let k' := { pkt 1 8 with hops := (pkt 1 8).hops - 1, cls := s.classRule none 0 (pkt 1 8).cls 0 }
    ((pkt 1 8).enc = true → (s.reg (portCtl 0)).getLsbD 3 = true) ∧ sget 0 (s.port 0).credits (creditKey k'.vc k'.cls) ≠ 0 ∧
      ((s.port 2).inbuf.find? fun x => x.vc == (pkt 1 8).vc && x.cls == (pkt 1 8).cls) = some (pkt 1 8) ∧
      sget 0 (s.port 0).credits (creditKey 0 (s.classRule (some 2) 0 (pkt 1 8).cls 0)) ≠ 0) := by decide +kernel
theorem witness_forward_here : (let k := { pkt 0 8 with epoch := 0, att := 0 }
    (fab (pkt 0 8)).waitsHere (pkt 0 8) = true ∧ malformed k = false ∧ (fab k).lookup k = .here ∧ (fab k).waitsHere k = false ∧
      ((fab (pkt 1 8)).port 0).replayBytes + 32 + (pkt 1 8).payload.length ≤ replayBound) := by decide +kernel
/-- Port 0 without a credit; and a packet that waited in this device's list. -/
theorem witness_forward_starved : (let s := (fab (pkt 1 8)).setPort 0 { Port.reset with ls := .up }
    s.lookup (pkt 1 8) = .out (0 : PortIx).val 0 ∧
      sget 0 (s.port 0).credits (creditKey 0 (s.classRule none 0 (pkt 1 8).cls 0)) = 0 ∧ (s.port 0).replay.length < 4095) := by
  decide +kernel
theorem test_forward_starved : (let t := after (exec (.packetForward none (pkt 1 8)) ((fab (pkt 1 8)).setPort 0 { Port.reset with ls := .up }))
    (((t.port 0).vcOf 0).starved, t.cwy.inject.length)) = (true, 1) := by decide +kernel
theorem witness_forward_later : (let s := { up with cwy := { up.cwy with later := [pkt 0 8] } }
    ¬ ((s.cwy.inject.find? fun x => x.vc == (pkt 0 8).vc && x.cls == (pkt 0 8).cls) = some (pkt 0 8)) ∧ pkt 0 8 ∈ s.cwy.later) := by
  decide +kernel
theorem test_forward : (let t := after (exec (.packetForward none (pkt 1 8)) (fab (pkt 1 8)))
    ((t.port 0).replay.map fun f => (f.seq, f.pkt.hops), t.cwy.inject.length, (t.port 0).txSeq)) = ([(0, 7)], 0, 1) := by decide +kernel
theorem test_forward_discards :
    ([pkt 4 8, pkt 1 0, pkt 2 8, pkt 3 8].map fun k =>
      let t := after (exec (.packetForward none k) (fab k))
      (t.cwy.noroute.toNat, t.cwy.hoplim.toNat, (t.port 1).lost.toNat, t.cwy.inject.length)) =
    [(1, 0, 0, 0), (0, 1, 0, 0), (0, 0, 1, 0), (0, 0, 0, 1)] := by decide +kernel

/-! ### Packets delivered -/

theorem runMem_receives : ∀ k : Packet, malformed k = false → runMem.freshness k = .now → runMem.receives k := fun _ h g => ⟨h, rfl, g⟩

theorem witness_packet_state : malformed { wr8 with vc := 1 } = true ∧ runMem.freshness { wr8 with att := 0 } = .stale ∧
    runMem.freshness { wr8 with epoch := 2 } = .later ∧ malformed { wr8 with att := 0 } = false ∧ runMem.err.chip = none := by
  decide +kernel
theorem witness_write_packet :
    runMem.receives wr8 ∧ wr8.type = 0x01 ∧ wr8.xidx = 0 ∧ wr8.last = true ∧ wr8.sig = false ∧ runMem.cwy.tracking < 1024 ∧
    (runMem.cwy.inbound.find? (sameXfer wr8.src wr8.xid)) = none ∧
    (let x := runMem.xlateSpan wr8.ctx.toNat (wr8.addr.toNat % 2 ^ 52) wr8.payload.length true
     x.2 = ([leaf5], .ok leaf5) ∧ x.1.plainAt wr8.ctx.toNat (wr8.addr.toNat % 2 ^ 52) wr8.payload.length leaf5 0xA00000) :=
  ⟨runMem_receives _ (by decide +kernel) (by decide +kernel), rfl, rfl, rfl, rfl, by decide +kernel, rfl, by decide +kernel,
    by decide +kernel, by decide +kernel, by decide, by decide, by decide +kernel, by decide +kernel, by decide +kernel, by decide +kernel⟩
theorem test_write_packet : (let t := after (exec (.writePacket wr8) runMem)
    (bread t.mem.hbm 0xA00000 9, t.cwy.inject.map fun p => (p.type, p.addr))) = ([1, 2, 3, 4, 5, 6, 7, 8, 0], [(8, 0)]) := by
  decide +kernel

/-- 1,024 transfers of other sources are tracked. -/
def full : State :=
  { runMem with cwy := { runMem.cwy with inbound := (List.range 1024).map fun i => ⟨9, BitVec.ofNat 16 i, 1, false, false, 0, 0, false, 0, 1, false⟩ } }
theorem witness_waiting_transfer : full.receives wr8 ∧ wr8.type = 0x01 ∧ wr8.xidx = 0 ∧
    (full.cwy.inbound.find? (sameXfer wr8.src wr8.xid)) = none ∧ 1024 ≤ full.cwy.tracking :=
  ⟨⟨by decide +kernel, rfl, by decide +kernel⟩, rfl, rfl, by decide +kernel, by decide +kernel⟩

/-- A Fast REDUCE packet of two binary32 contributions. -/
def red8 : Packet := { wr8 with type := 0x02, addr := 0x200000 + 7 * 2 ^ 52 }
theorem witness_reduce_packet :
    runMem.receives red8 ∧ red8.type = 0x02 ∧ red8.xidx = 0 ∧ (runMem.cwy.inbound.find? (sameXfer red8.src red8.xid)) = none ∧
    runMem.cwy.tracking < 1024 ∧
    0 < contribBytes (red8.addr.extractLsb' 52 4) ∧ 0 < red8.payload.length / contribBytes (red8.addr.extractLsb' 52 4) ∧
    (runMem.xlateSpan red8.ctx.toNat (red8.addr.toNat % 2 ^ 52) (4 * 2) true).2 = ([leaf5], .ok leaf5) :=
  ⟨runMem_receives _ (by decide +kernel) (by decide +kernel), rfl, rfl, rfl, by decide +kernel, by decide +kernel, by decide +kernel,
    by decide +kernel⟩
theorem test_reduce_packet : ((after (exec (.reducePacket red8) runMem)).mem.contribs.map fun c => (c.dpa, c.bits)) =
    [(0xA00000, 0x04030201), (0xA00004, 0x08070605)] := by decide +kernel

/-- The frame of its elements is being copied. -/
theorem witness_reduce_packet_waits : (let s := { runMem with mem := { runMem.mem with copying := [5] } }
    s.receives red8 ∧ s.cwy.tracking < 1024 ∧ (s.cwy.inbound.find? (sameXfer red8.src red8.xid)) = none ∧
      s.targetBusy red8 = true ∧ runMem.targetBusy red8 = false) :=
  ⟨⟨by decide +kernel, rfl, by decide +kernel⟩, by decide +kernel⟩
/-- A SIGNAL packet of INC = 3 on sluice 5, and on sluice 9. -/
def sig (slu : BitVec 15) : Packet := { wr8 with type := 0x03, slu := slu, addr := 3, len := 0, payload := [] }
theorem run_wsen : ∀ g, (run.hum g).wsen = false := fun g => by
  show (sget Hummock.reset [(3, busy)] g).wsen = false
  simp only [sget]; split <;> rfl
theorem witness_signal_packet : run.receives (sig 5) ∧ (∀ g, (run.hum g).wsen = false) ∧ run.sluiceOf (sig 5).ctx.toNat (sig 5).slu.toNat = some 5 ∧
    (run.sluice 5).waiters = [] ∧ (run.sluice 5).count.toNat + (sig 5).addr.toNat % 65536 < 2 ^ 32 ∧
    run.sluiceOf (sig 9).ctx.toNat (sig 9).slu.toNat = none :=
  ⟨⟨by decide +kernel, rfl, by decide +kernel⟩, run_wsen, by decide +kernel, by decide +kernel, by decide +kernel, by decide +kernel⟩
theorem test_signal_packet : (((after (exec (.signalPacket (sig 5)) run)).sluice 5).count,
    (after (exec (.signalPacket (sig 9)) run)).fe.violSluice) = (3, 1) := by decide +kernel

/-- CSEND 4 of hummock 3 waits for the ACK of transfer 6 to device 2. -/
def acked : State :=
  { run with
    hums := [(3, { busy with unret := [{ entryOf 4 (.csend send) .running with outstanding := 1 }] })]
    cwy := { run.cwy with outbound := [⟨6, 2, 3, 4⟩] } }
def ack (status : BitVec 64) : Packet := { wr8 with type := 0x08, vc := 1, src := 2, xid := 6, addr := status, len := 0, payload := [] }
theorem witness_ack : acked.receives (ack 0) ∧ acked.receives (ack 1) ∧
    (acked.cwy.outbound.find? fun o => o.xid == (ack 0).xid && o.dst == (ack 0).src) = some ⟨6, 2, 3, 4⟩ ∧
    ((acked.hum (3 : Hum)).unret.find? fun i => i.id == 4) = some { entryOf 4 (.csend send) .running with outstanding := 1 } ∧
    (ack 0).addr.toNat % 4 = 0 ∧ (ack 1).addr.toNat % 4 = 1 :=
  ⟨⟨by decide +kernel, rfl, by decide +kernel⟩, ⟨by decide +kernel, rfl, by decide +kernel⟩, by decide +kernel, by decide +kernel, rfl, rfl⟩
theorem test_ack : (((after (exec (.ackPacket (ack 0)) acked)).hum 3).unret.map fun i => i.phase) = [.done] ∧
    ((after (exec (.ackPacket (ack 1)) acked)).hum 3).seq.st = .faulted := by decide +kernel

/-- The reply to a relay. -/
def relayed : Packet :=
  { wr8 with type := 0x18, vc := 3, ctx := 0, att := 0, epoch := 0, addr := 0, src := 2 }
theorem test_mgmt : (after (exec (.mgmtPacket relayed) up)).mss.askers = [2] ∧
    (after (exec (.mgmtPacket relayed) { up with mss := { up.mss with relays := [⟨.smbus, 9, 2⟩] } })).out.length = 1 := by decide +kernel
theorem witness_mgmt : (let s := { up with mss := { up.mss with relays := [⟨.smbus, 9, 2⟩] } }
    malformed relayed = false ∧ s.err.chip = none ∧ s.bindingUp .smbus = true ∧
      (up.mss.relays.find? fun r => r.dst == relayed.src) = none ∧ (s.mss.relays.find? fun r => r.dst == relayed.src) = some ⟨.smbus, 9, 2⟩) := by
  decide +kernel

/-! ### Links and ports -/

/-- Frame 3 with its CRC. -/
def frame3 (resent : Nat) : Frame := ⟨3, resent, pkt 1 7, crc32c (packetBytes (pkt 1 7)), []⟩
def goodCrc : FrameCheck := clean (crc32c (packetBytes (pkt 1 7)))

theorem witness_link : (let f : Frame := frame3 0
    let s := fab (pkt 1 8)
    let s1 := s.setPort 0 { s.port 0 with replay := [f] }
    let s8 := s.setPort 0 { s.port 0 with replay := [frame3 7] }
    (s1.port 0).ls = .up ∧ (∀ f ∈ (s1.port 0).replay, f.resent < 7) ∧ (s8.port 0).ls = .up ∧
      (s8.port 0).replay.length < 4096 ∧ (∃ f ∈ (s8.port 0).replay, 7 ≤ f.resent) ∧
      (s1.port 0).replay ≠ [] ∧ s1.board.step ≠ 6 ∧ frameFails { goodCrc with uncorrectable := 1 } (.packet (pkt 1 7)) = true ∧
      frameFails (clean 0) (.packet (pkt 1 7)) = true ∧ frameFails goodCrc (.packet (pkt 1 7)) = false ∧
      s.tagFails 0 goodCrc (pkt 1 7) = false) := by decide +kernel
/-- The same port under GCM: the tag is that of its first frame. -/
def keyed : State := (fab (pkt 1 8)).setReg (portCtl 0) 9
theorem witness_link_gcm : keyed.portGcm 0 = true ∧ keyed.tagFails 0 goodCrc (pkt 1 7) = true ∧
    keyed.tagFails 0 { goodCrc with tag := (keyed.port 0).tagOf 0 (pkt 1 7) } (pkt 1 7) = false := by decide +kernel
theorem test_link_frame : (let t := after (exec (.linkFrame 0 0 goodCrc none (.packet (pkt 1 7))) (fab (pkt 1 8)))
    let u := after (exec (.linkFrame 0 5 goodCrc none (.packet (pkt 1 7))) (fab (pkt 1 8)))
    ((t.port 0).inbuf.length, (t.port 0).rxSeq, t.out, u.out)) = (1, 1, [.linkAck 0 1], [.linkNak 0 0]) := by decide +kernel
theorem test_nak_resends : (let f : Frame := frame3 0
    let s := fab (pkt 1 8)
    let t := after (exec (.nak 0 3) (s.setPort 0 { s.port 0 with replay := [f], txSeq := 4 }))
    ((t.port 0).replay, t.out)) = ([frame3 1], [.frame 0 3 (pkt 1 7) (frame3 0).crc []]) := by decide +kernel

/-- Port 5 of up in a state, enabled, with a module that has been read. -/
def portAt (ls : LSt) : State :=
  { up with
    regs := [(0x400000, 0x8000 + 0xFFF * 2 ^ 16), (portCtl 5, 1)]
    cwy := { Fabric.reset with sizes := 0xFFF, ports := [(5, { Port.reset with ls := ls, modp := true })] }
    mss := { Mss.reset with mods := [(5, ⟨true, true, 10, [], false⟩)] } }
theorem witness_port : (portAt .down).board.step ≠ 6 ∧ ((portAt .off).setPort 5 Port.reset).board.step ≠ 6 ∧
    (((portAt .off).setPort 5 Port.reset).port 5).modp = false ∧ (portAt .off).procReady mgpIx = true ∧
    ((portAt .up).port 5).modp = true ∧ ((portAt .up).port 5).ls ≠ .off ∧ ((portAt .up).port 5).ls ≠ .down ∧
    ((portAt .detect).port 5).ls = .detect ∧ (portAt .detect).portEn 5 = true ∧ ((portAt .detect).modReg 5).highpwr = true ∧
    ((portAt .training).port 5).ls = .training ∧ (portAt .training).idValid = true ∧ ((portAt .exchange).port 5).ls = .exchange ∧ (portAt .exchange).idValid = true ∧
    ((portAt .down).port 5).ls = .down := by decide +kernel
/-- R334, R335: one bad lane without NARROW is a lane fault; the expected partner of port 5 is the neighbour's port. -/
theorem test_port_path : (let e := (portAt .exchange).expected 5
    (((after (exec (.detectDone 5 1 0 0) (portAt .detect))).port 5).ls, ((after (exec (.detectDone 5 0 0 0) (portAt .detect))).port 5).ls,
      ((after (exec (.trainingDone 5 0 false 0) (portAt .training))).port 5).ls,
      ((after (exec (.exchangeDone 5 (BitVec.ofNat 15 e.1) (BitVec.ofNat 4 e.2) 0xFFF 0) (portAt .exchange))).port 5).ls,
      ((after (exec (.exchangeDone 5 0 0 0xFFF 0) (portAt .exchange))).port 5).ls)) =
    (.down, .training, .exchange, .up, .miswired) := by decide +kernel
theorem witness_no_id : ((portAt .exchange).setReg 0x400000 0).idValid = false := by decide +kernel

theorem witness_port_control : up.privileged .host ∧ up.regionOpen 9 = true ∧ (up.reg (portCtl 5)).getLsbD 0 = false ∧
    (up.reg (portCtl 5)).getLsbD 1 = false ∧ up.ep.decision = none ∧ up.ep.members = [] ∧ up.affected.all up.drained = true :=
  ⟨up_host, by decide +kernel⟩
theorem witness_port_control_off : (let s := { (up.setReg (portCtl 5) 3) with cip := { up.cip with isOpen := 0x3FF } }
    s.privileged .host ∧ (s.reg (portCtl 5)).getLsbD 0 = true ∧ (s.reg (portCtl 5)).getLsbD 1 = true) :=
  ⟨⟨by decide, rfl⟩, by decide +kernel⟩
theorem witness_port_control_closed : (let s := { up with cip := { up.cip with isOpen := 0 } }
    s.privileged .host ∧ s.regionOpen 9 = false ∧ (s.reg (portCtl 5)).getLsbD 0 = false) := ⟨⟨by decide, rfl⟩, by decide +kernel⟩
/-- A staged table that names port 0, which is not drained. -/
theorem witness_tables_wait : (let s := (fab (pkt 1 8)).setReg 0x480000 0x100
    s.affected.all s.drained = false) := by decide +kernel
theorem witness_tables_take : (let s := { up with cwy := { up.cwy with pend := true } }
    s.cwy.pend = true ∧ s.affected.all s.drained = true ∧ s.ep.members = []) := by decide +kernel
theorem witness_cwy_id : (let v : BitVec 64 := 0x8000 + 0x111 + 0x222 * 2 ^ 16
    up.regionOpen 9 = true ∧ v.getLsbD 15 = true ∧ v.toNat < 2 ^ 31 ∧
      (∀ d, d < 4 → coordOf (v.toNat % 2 ^ 15) d < v.toNat / 2 ^ (16 + 4 * d) % 2 ^ (if d = 3 then 3 else 4) + 1)) := by decide +kernel
theorem test_cwy_id : (after (exec (.cwyIdWrite .host (0x8111 + 0x222 * 2 ^ 16)) up)).ownId = 0x111 := by decide +kernel
theorem witness_drained : ((fab (pkt 1 8)).port (2 : PortIx)).ds = .draining ∧ ((fab (pkt 1 8)).port (2 : PortIx)).replay = [] := ⟨rfl, rfl⟩
theorem test_drain : (let t := after (exec (.portDrain .host 5) up)
    let u := after (exec (.portDrained 2) (fab (pkt 1 8)))
    ((t.port 5).ds, (u.port 2).ds)) = (.drained, .drained) := by decide +kernel

/-! ### Lerkar packets -/

/-- A packet of the ring, SEQ = 0. -/
def hdr (c : BitVec 6) (len : Nat) : Hdr := ⟨.ring, false, c, 0, len, false⟩

/-- The command ring enabled, four slots from its head to its tail. -/
def ringOf (s : State) : State := { s with regs := [(0x10, 4), (0x40, 1)] ++ s.regs }

/-- The state in which the front end has taken a packet. -/
def taken (s : State) (h : Hdr) : State := (s.take h).1

theorem takes {s : State} {h : Hdr} {opc : BitVec 8} (x : s.mgpHolds h opc = false ∧ (s.take h).2 = .go ∧ offPath opc h = false ∧ h.rsvd = false) :
    s.takesCmd (taken s h) h opc := ⟨x.1, Prod.ext rfl x.2.1, x.2.2⟩

/-- Contexts 0 to 2 open, no launch. -/
def idle : State :=
  ringOf { up with fe := { FrontEnd.reset with
    ctxs := [(0, { Ctx.reset with st := .opened }), (1, { Ctx.reset with st := .opened, sluCount := 8 }),
      (2, { Ctx.reset with st := .opened })] } }

theorem witness_ring : idle.ringHolds (hdr 0 0) ∧ idle.fe.dbq = [] ∧ (7 : BitVec 8).toNat ∈ opcodes ∧ (0x7F : BitVec 8).toNat ∉ opcodes ∧ (hdr 0 0).irq = false ∧ (hdr 0 0).seq = idle.fe.seq ∧ (hdr 0 0).rsvd = false ∧
    idle.ringHolds { hdr 0 0 with seq := 3 } ∧ (3 : BitVec 64) ≠ idle.fe.seq :=
  ⟨⟨rfl, by decide +kernel⟩, rfl, by decide, by decide, rfl, rfl, rfl, ⟨rfl, by decide +kernel⟩, by decide⟩
/-- A reserved opcode is answered BAD_OPCODE. -/
theorem test_ring_reserved : ((after (exec (.nop ⟨hdr 0 0, 0x7F⟩) idle)).out.map fun o => match o with
    | .hostWrite _ b => (field b 0 2, field b 2 1)
    | _ => (0, 0)) = [(stBadOpcode.toNat, 0x7F)] := by decide +kernel
theorem test_ring : (let t := after (exec (.nop ⟨hdr 0 0, 0⟩) idle)
    (t.out, t.fe.head, t.fe.seq)) = ([.hostWrite 0 ([0, 0, 0, 1, 0x80, 1] ++ List.replicate 26 0)], 1, 1) := by decide +kernel

theorem witness_checks : idle.mgpHolds (hdr 0 8) 0x01 = false ∧ (idle.take (hdr 0 8)).2 = .go ∧ (hdr 0 8).path = .ring ∧
    (idle.take (hdr 1 8)).2 = .go ∧ (idle.take (hdr 0 16)).2 = .go ∧ (idle.take { hdr 0 8 with rsvd := true }).2 = .go ∧
    ((taken idle (hdr 0 8)).ctx (2 : BitVec 8).toNat).st ≠ .free := by decide +kernel
/-- On the MGP's own path, and a sensor read whose buffer lies in a sector that is in reset. -/
def ownHdr (seq : BitVec 64) : Hdr := ⟨.mgp, false, 0, seq, 8, false⟩
theorem witness_own_path : (ownHdr 0).path = .mgp ∧ idle.mgpUp = true ∧ lenSound (ownHdr 0) = true ∧ (ownHdr 0).seq = idle.fe.mgpSeq ∧
    (ownHdr 4).seq ≠ idle.fe.mgpSeq := by decide +kernel
theorem test_own_path : ((after (exec (.ctxOpen (ownHdr 0) 3) idle)).mss.ownRpl.take 3, (after (exec (.ctxOpen (ownHdr 0) 3) idle)).fe.mgpSeq,
    (after (exec (.ctxOpen (ownHdr 4) 3) idle)).mss.ownRpl.take 2) =
    (leBytes 2 stBadOpcode.toNat ++ [1], 1, leBytes 2 stBadSeq.toNat) := by decide +kernel
theorem witness_span_held : ({ idle with
      regs := idle.regs ++ [(0x820000, 0x10001)], mem := { idle.mem with hbm := tables }
      err := { idle.err with sectors := [(0, some ⟨errCode 3 0x11 0 1, 0, 0, 0⟩)] } } : State).spanHeld ((0 : BitVec 6).toNat, (0x200000 : BitVec 64).toNat, 8 * (2 : BitVec 32).toNat) = true := by
  decide +kernel
/-- R278: a class K packet of context 1 is answered OK with zero STATE, and counted. -/
theorem test_class_broken : (let t := after (exec (.ctxOpen (hdr 1 8) 3) idle)
    (t.fe.violCmd, (t.ctx 3).st, t.out)) = (1, .free, [.hostWrite 0 ([0, 0, 1, 1] ++ List.replicate 28 0)]) := by decide +kernel

theorem witness_ctx_commands :
    idle.takesCmd (taken idle (hdr 0 8)) (hdr 0 8) 0x01 ∧ idle.takesCmd (taken idle (hdr 0 8)) (hdr 0 8) 0x02 ∧
    idle.takesCmd (taken idle (hdr 0 8)) (hdr 0 8) 0x03 ∧ idle.takesCmd (taken idle (hdr 0 8)) (hdr 0 8) 0x04 ∧
    (let s1 := taken idle (hdr 0 8)
     s1.fe.ctxs = idle.fe.ctxs ∧ (s1.ctx 3).st = .free ∧ (s1.ctx 2).st = .opened ∧ s1.liveOf 2 = 0 ∧ s1.isSealed 2 = false ∧
       s1.queuedOf 2 = [] ∧ s1.running = none ∧ idle.rangeTaken 2 100 50 = false) :=
  ⟨takes (by decide +kernel), takes (by decide +kernel), takes (by decide +kernel), takes (by decide +kernel), by decide +kernel⟩
theorem witness_close_sealed : (let s := { idle with mem := { idle.mem with loaded := 4 } }
    let s1 := taken s (hdr 0 8)
    s.takesCmd s1 (hdr 0 8) 0x02 ∧ (s1.ctx 2).st = .opened ∧ s1.liveOf 2 = 0 ∧ s1.isSealed 2 = true) :=
  ⟨takes (by decide +kernel), by decide +kernel⟩
theorem witness_ctx_abort : (let s := ringOf run
    let s1 := taken s (hdr 0 8)
    s.takesCmd s1 (hdr 0 8) 0x03 ∧ (s1.ctx 1).st = .opened ∧ s1.queuedOf 1 = [] ∧ s1.running = some job ∧ job.ctx.toNat = 1 ∧
      job.live = true ∧ s1.ep.st = .running ∧ s1.ep.sent = false ∧ s1.decided = false ∧ s1.ep.failedAtt ≠ some s1.ep.att ∧
      s1.err.ctxab = none ∧ s1.err.chip = none ∧ s1.beyond = false) := ⟨takes (by decide +kernel), by decide +kernel⟩
theorem test_ctx_abort : (let t := after (exec (.ctxAbort (hdr 0 8) 1) (ringOf run))
    ((t.ctx 1).st, t.ep.failedAtt, t.err.ctxab.isSome, t.fe.wait.map fun r => r.data)) = (.aborting, some 1, true, some 1) := by
  decide +kernel
theorem witness_sluice_commands :
    (let s1 := taken idle (hdr 1 8)
     idle.takesCmd s1 (hdr 1 8) 0x05 ∧ idle.takesCmd s1 (hdr 1 8) 0x06 ∧ idle.takesCmd s1 (hdr 1 8) 0x07 ∧ idle.takesCmd s1 (hdr 1 8) 0x08 ∧
       s1.usable 1 ∧ (∀ g, (s1.hum g).wsen = false) ∧ (7 : BitVec 16).toNat < (s1.ctx 1).sluCount.toNat ∧ (s1.sluice 7).waiters = [] ∧
       (s1.sluice 7).count.toNat + (65535 : BitVec 32).toNat < 2 ^ 32 ∧
       ((s1.ctx 1).armed.filter fun a => a.tag != 5).length < 256) :=
  ⟨takes (by decide +kernel), takes (by decide +kernel), takes (by decide +kernel), takes (by decide +kernel), Or.inl (by decide +kernel),
    fun _ => rfl, by decide +kernel⟩
theorem test_sluice_commands :
    (let t := after (exec (.sluiceSet (hdr 1 8) 7 40) idle)
     let u := after (exec (.sluiceSignal { hdr 1 8 with seq := 1 } 7 2) t)
     ((t.sluice 7).count, (u.sluice 7).count, u.fe.rplTail)) = (40, 42, 2) := by decide +kernel
/-- A SLUICE_SIGNAL outside the range of the context is answered BAD_PARAM. -/
theorem test_sluice_range_checked : ((after (exec (.sluiceSignal (hdr 1 8) 8 2) idle)).out.map fun o =>
    match o with
    | .hostWrite _ b => field b 0 2
    | _ => 0) = [stBadParam.toNat] := by decide +kernel
theorem test_watch_arm : ((after (exec (.watchArm (hdr 1 8) 5 2 3) idle)).ctx 1).armed = [⟨5, 2, 3, 0⟩] := by decide +kernel

/-! ### Launches and graphs -/

theorem witness_quiesce : (let s1 := taken idle (hdr 0 0)
    idle.takesCmd s1 (hdr 0 0) 0x21 ∧ idle.takesCmd s1 (hdr 0 0) 0x22 ∧ s1.cip.drift = 0) :=
  ⟨takes (by decide +kernel), takes (by decide +kernel), by decide +kernel⟩
theorem test_quiesce : (after (exec (.quiesce (hdr 0 0)) idle)).fe.quiesced = true := by decide +kernel

/-- The header of a program image (R183) of one hummock with 100 steps and 16 bytes of parameters, and its program table, at a DPA. -/
def image (a : Nat) : List Host.Cell :=
  [(a, 0x56), (a + 1, 0x47), (a + 2, 0x4E), (a + 3, 0x31), (a + 4, 0x01), (a + 0x14, 0x01), (a + 0x18, 100), (a + 0x28, 16),
    (a + 0x2D, 0x02), (a + 0x30, 0x80), (a + 0x35, 0x01), (a + 0x39, 0x01), (a + 0x81, 0x01), (a + 0x84, 0x08), (a + 0x89, 0x01)]

/-- idle with page tables for contexts 0 and 1, the image at 0x200000 of both, in a device mode. -/
def imaged (mode : Bool) : State :=
  { idle with
    regs := idle.regs ++ [(0x820000, 0x10001), (0x820008, 0x10001)]
    mem := { idle.mem with hbm := tables ++ image 0xA00000 }
    cip := { idle.cip with modeActive := mode } }

def inline16 : List Byte := leBytes 16 0x0123456789ABCDEF

theorem witness_launch : (let s := imaged false
    let h := hdr 1 56
    let s1 := taken s h
    let x := s1.readImage 1 0x200000
    s.takesCmd s1 h 0x10 ∧ 40 ≤ h.len ∧ addrOk 0x200000 256 = true ∧ addrOk 0 64 = true ∧ s1.cip.modeActive = false ∧
      s1.launchLegal 1 = true ∧
      (match x.2 with
        | .ok i => decide (i.paramsz = 16 ∧ i.nwatch = 0 ∧ i.slus = [] ∧
            x.1.admitStatus 1 (unitsOf 16) i.nhum (x.1.boundD i.wsteps i.wfixed) 0x80000000 = stOK ∧
            x.1.admitStatus 1 (unitsOf 16) i.nhum (x.1.boundD i.wsteps i.wfixed) 1 ≠ stOK)
        | _ => false) = true) :=
  ⟨takes (by decide +kernel), by decide, by decide +kernel, by decide +kernel, rfl, by decide +kernel, by decide +kernel⟩
theorem test_launch : ((after (exec (.launch (hdr 1 56) 0x200000 0 0 9 0x80000000 inline16) (imaged false))).fe.launches.map fun l =>
    (l.id, l.ctx, l.att, l.params == inline16, l.js == .admitted)) = [(1, 1, 1, true, true)] := by decide +kernel
theorem test_launch_late : (let t := after (exec (.launch (hdr 1 56) 0x200000 0 0 9 1 inline16) (imaged false))
    (t.fe.launches.length, t.out.map fun o => match o with
      | .hostWrite _ b => field b 0 2
      | _ => 0)) = (0, [stRefusedLate.toNat]) := by decide +kernel

theorem witness_graph_register : (let s := imaged true
    let h := hdr 0 32
    let s1 := taken s h
    let x := s1.readImage 0 0x200000
    s.takesCmd s1 h 0x18 ∧ s1.cip.modeActive = true ∧ s1.graphOf 3 = none ∧
      (match x.2 with
        | .ok i =>
          match x.1.feRead 0 0x200000 i.paramsz with
          | (s3, some b) => decide (b.length = 16 ∧ s3.storeUsed + unitsOf i.paramsz ≤ storeUnits)
          | _ => false
        | _ => false) = true) := ⟨takes (by decide +kernel), by decide +kernel⟩

/-- Graph 3 for contexts 0 and 1, with version 1 current. -/
def graph3 : Graph :=
  { gid := 3, image := 0x200000, ctxmask := 3, paramsz := 16, nhum := 1, mode := 0, wsteps := 100, wfixed := 0, slus := [5]
    versions := [⟨1, inline16⟩], current := 1, retiring := false }
def graphed : State := { imaged true with fe := { (imaged true).fe with graphs := [graph3] } }

theorem witness_graph_patch : (let h := hdr 0 32
    let s1 := taken graphed h
    graphed.takesCmd s1 h 0x19 ∧ graphed.graphOf 3 = some graph3 ∧ s1.graphOf 3 = some graph3 ∧ s1.cip.modeActive = true ∧
      h.len = 24 + (8 : BitVec 32).toNat ∧ (8 : BitVec 32).toNat + 8 ≤ graph3.paramsz ∧ graph3.current ≠ BitVec.allOnes 32 ∧
      s1.storeUsed + unitsOf graph3.paramsz ≤ storeUnits ∧
      (graph3.current :: (s1.boundVersions graph3.gid).filter fun v => v != graph3.current).length < 4 ∧
      (∀ v ∈ graph3.versions, v.num ≠ graph3.current + 1)) := ⟨takes (by decide +kernel), by decide +kernel⟩
theorem test_graph_patch : (((after (exec (.graphPatch (hdr 0 32) 3 8 8 0 [1, 1, 1, 1, 1, 1, 1, 1]) graphed)).graphOf 3).map fun g =>
    (g.current, g.bytesOf g.current)) = some (2, inline16.take 8 ++ [1, 1, 1, 1, 1, 1, 1, 1]) := by decide +kernel
theorem witness_graph_retire : (let h := hdr 0 8
    let s1 := taken graphed h
    graphed.takesCmd s1 h 0x1A ∧ s1.graphOf 3 = some graph3 ∧ (∀ l ∈ s1.fe.launches, l.live = true → l.gid ≠ 3)) :=
  ⟨takes (by decide +kernel), by decide +kernel⟩

/-- Slot 4 of context 1 names graph 3 with SEQ 0 and a long deadline. -/
def slotted (seq : Byte) : State :=
  { graphed with
    regs := graphed.regs.filter fun p => p.1 != 0x10
    fe := { graphed.fe with
      ctxs := [(0, { Ctx.reset with st := .opened }),
        (1, { Ctx.reset with st := .opened, sluCount := 8, slots := [(256, 3), (263, 0x40)] ++ (if seq = 0 then [] else [(264, seq)]) })] } }
theorem witness_doorbell : (let s := slotted 0
    let e := bread (s.ctx (1 : BitVec 6).toNat).slots (64 * (4 : BitVec 4).toNat) 32
    s.hostOk = true ∧ s.feRuns = true ∧ s.fe.dbq = [] ∧ s.ringAvail = 0 ∧ (∀ n ∈ graph3.slus, n < (s.ctx 1).sluCount.toNat) ∧
      (s.ctx 1).submitted.getLsbD 4 = false ∧ field e 8 8 = (s.ctx 1).dbSeq.toNat ∧
      s.graphOf (field e 0 2) = some graph3 ∧ graph3.ctxmask.getLsbD 1 = true ∧ field e 0 2 ≤ 4095 ∧ field e 4 4 ≠ 0 ∧
      field e 2 1 < 2 ∧ field e 3 1 = 0 ∧ field e 0x18 8 = 0 ∧ s.cip.modeActive = true ∧ s.launchLegal 1 = true ∧
      s.admitStatus 1 0 graph3.nhum (s.boundD graph3.wsteps graph3.wfixed) (field e 4 4) = stOK) := by decide +kernel
theorem witness_doorbell_seq : (let s := slotted 5
    let e := bread (s.ctx (1 : BitVec 6).toNat).slots (64 * (4 : BitVec 4).toNat) 32
    s.hostOk = true ∧ s.feRuns = true ∧ s.fe.dbq = [] ∧ s.ringAvail = 0 ∧ field e 8 8 ≠ (s.ctx 1).dbSeq.toNat) := by decide +kernel
theorem test_doorbell : (let t := after (exec (.doorbellLaunch 1 4) (slotted 0))
    (t.fe.launches.map fun l => (l.gid, l.ver, l.params == inline16), (t.ctx 1).dbSeq, (t.ctx 1).submitted)) =
    ([(3, 1, true)], 1, 0) := by decide +kernel
theorem test_doorbell_bad_seq : (let t := after (exec (.doorbellLaunch 1 4) (slotted 5))
    (t.fe.launches.length, field (bread (t.ctx 1).slots (64 * 4 + 32) 2) 0 2)) = (0, stBadSeq.toNat) := by decide +kernel

/-- Packets placed before the doorbell come first. -/
theorem witness_doorbell_waits : graphed.hostOk = true ∧ graphed.fe.dbq = [] ∧ (graphed.ctx 1).submitted.getLsbD 4 = false ∧
    graphed.ringEn = true ∧ graphed.ringAvail ≠ 0 := by decide +kernel

/-- A completion record of context 1 is due. -/
def cpl : CplRec := ⟨0, false, false, false, 1, 0xFFFF, 7, 1, 0, 0⟩
def due : State :=
  { idle with
    regs := idle.regs ++ [(0x2028, 0x0F)]
    fe := { idle.fe with launches := [{ job with js := .committed, record := some cpl }], nextLaunch := 2 } }
theorem witness_flush : (let h := hdr 1 0
    let s1 := taken due h
    due.takesCmd s1 h 0x09 ∧ s1.usable 1 ∧ s1.unpublished 1 = [{ job with js := .committed, record := some cpl }] ∧
      s1.recordDue 1 = some ({ job with js := .committed, record := some cpl }, cpl) ∧
      idle.takesCmd (taken idle h) h 0x09 ∧ (taken idle h).unpublished 1 = []) :=
  ⟨takes (by decide +kernel), Or.inl (by decide +kernel), by decide +kernel, by decide +kernel, takes (by decide +kernel),
    by decide +kernel⟩
theorem test_flush : (let t := after (exec (.completionFlush (hdr 1 0) none) due)
    (t.out.length, t.unpublished 1, (t.ctx 1).tail)) = (2, [], 1) := by decide +kernel

/-! ### Management commands -/

/-- A membership record of one member, device 0, with EPOCH 9, DECIDED 6 and no valid signature, at 0x200000 of context 0. -/
def recordAt (e : EpochState) : State :=
  { idle with
    regs := idle.regs ++ [(0x820000, 0x10001)]
    mss := { idle.mss with fmkey := some 5 }
    ep := e
    mem := { idle.mem with hbm := tables ++ [(0xA00000, 0x42), (0xA00001, 0x4D), (0xA00002, 0x45), (0xA00003, 0x4D), (0xA00004, 1),
      (0xA00008, 9), (0xA00010, 6), (0xA00028, 1)] } }
/-- A board by itself; IDLE of membership epoch 5, SUNDERED and SUNDERED_DOUBT with C = 6 and with others. -/
def boards : List EpochState :=
  [EpochState.reset] ++ [(.idle, 6), (.idle, 7), (.sundered, 6), (.sundered, 7), (.doubt, 5), (.doubt, 6), (.doubt, 9)].map fun x =>
    { EpochState.reset with st := x.1, mepoch := 5, c := BitVec.ofNat 64 x.2 }
def recState (k : Fin 8) : State := recordAt ((boards[k.val]?).getD EpochState.reset)
def recHead (k : Fin 8) : State × Option (List Byte) := (taken (recState k) (hdr 0 8)).feRead 0 0x200000 32
def recAll (k : Fin 8) : State × Option (List Byte) := (recHead k).1.feRead 0 0x200000 (memberBody 1 + sigLen)

theorem flows_of {s : State} (h : s.err.sectors = []) : s.flows := fun r => by simp [State.spanHeld, h]
theorem witness_flows (k : Fin 8) : (recState k).flows ∧ (imaged true).flows ∧ (imaged false).flows :=
  ⟨flows_of rfl, flows_of rfl, flows_of rfl⟩

theorem witness_membership_read (k : Fin 8) :
    (recState k).takesCmd (taken (recState k) (hdr 0 8)) (hdr 0 8) 0x20 ∧ addrOk 0x200000 8 = true ∧
    memberLegal (taken (recState k) (hdr 0 8)) = true ∧ (recHead k).2.isSome = true ∧ field ((recHead k).2.getD []) 6 2 + 1 = 1 ∧
    (recAll k).2.isSome = true ∧ field ((recAll k).2.getD []) 0x10 8 = 6 := by
  refine ⟨takes ?_, by decide, ?_⟩ <;> revert k <;> decide +kernel
/-- The rows of R264's table. -/
theorem witness_membership_rows : ((List.finRange 8).map fun k =>
      ((recAll k).1.ep.st, (recAll k).1.ep.mepoch.toNat, (recAll k).1.ep.c.toNat, (recAll k).1.openEpoch.toNat)) =
    [(.idle, 0, 0, 1), (.idle, 5, 6, 7), (.idle, 5, 7, 8), (.sundered, 5, 6, 7), (.sundered, 5, 7, 8), (.doubt, 5, 5, 6), (.doubt, 5, 6, 7),
      (.doubt, 5, 9, 10)] := by decide +kernel
/-- The record is accepted where its signature verifies, which nothing in Lean evaluates; a record of another magic is not. -/
theorem witness_membership_accepted (k : Fin 8)
    (v : Config.slhVerify 5 (((recAll k).2.getD []).take 40) (slice ((recAll k).2.getD []) 40 sigLen) = true) :
    (recAll k).1.memberRecordOk ((recAll k).2.getD []) 1 = true := by
  have b : memberBody 1 = 40 := by decide
  have f : ∀ k, (recAll k).1.mss.fmkey = some 5 ∧ (field ((recAll k).2.getD []) 0 4 == 0x4D454D42) = true ∧
    (field ((recAll k).2.getD []) 4 2 == 1) = true ∧ (recAll k).1.ep.mepoch.toNat < field ((recAll k).2.getD []) 8 8 ∧
    ((memberIds ((recAll k).2.getD []) 1).countP (fun i => i == (recAll k).1.ownId.toNat) == 1) = true ∧
    ((memberIds ((recAll k).2.getD []) 1).all fun i => i < 32768) = true ∧
    allZero (slice ((recAll k).2.getD []) 0x18 8) = true ∧
    allZero (slice ((recAll k).2.getD []) (0x20 + 2 * 1) (40 - (0x20 + 2 * 1))) = true := by decide +kernel
  obtain ⟨f0, f1, f2, f3, f4, f5, f6, f7⟩ := f k
  simp only [State.memberRecordOk, f0, b, v, f1, f2, f3, f4, f5, f6, f7, decide_true, Bool.and_true, Nat.reduceLeDiff]
theorem witness_membership_refused (k : Fin 8) : ((recAll k).1.memberRecordOk (((recAll k).2.getD []).set 0 0) 1) = false := by
  revert k; decide +kernel

theorem witness_reset : (let s1 := taken idle (hdr 0 8)
    idle.takesCmd s1 (hdr 0 8) 0x23 ∧ s1.ep.launch = none ∧ s1.beyond = false ∧ s1.err.chip = none ∧ s1.sectorRun (secOf (5 : Hum).val) = none ∧
      s1.engineRun (5 : Hum).val = none ∧ (5 : BitVec 8).toNat = (5 : Hum).val ∧ (7 : BitVec 8).toNat = (7 : Sec).val ∧
      s1.sectorRun (7 : Sec).val = none) := ⟨takes (by decide +kernel), by decide +kernel⟩
theorem test_reset_engine : (let t := after (exec (.reset (hdr 0 8) 2 5) { idle with hums := [(5, busy), (6, busy)] })
    ((t.hum 5).power, (t.hum 5).holder, (t.hum 6).holder == some held, t.fe.wait.map fun r => r.data)) =
    (.inReset, none, true, some (2 + 256 * 5)) := by decide +kernel
theorem test_reset_sector : (let t := after (exec (.reset (hdr 0 8) 3 7) { idle with sluices := [(7 * 4096, { Sluice.reset with count := 3 }), (4096, { Sluice.reset with count := 4 })] })
    ((t.sluice (7 * 4096)).count, (t.sluice 4096).count, (t.proc 7).st)) = (0, 4, .starting) := by decide +kernel

/-- Frame 5 is at 0x200000 of context 0. -/
def leaf0 : TlbEntry := ⟨0, 0x200000, 0xA00007, true⟩
def based : State := { idle with regs := idle.regs ++ [(0x820000, 0x10001)], mem := { idle.mem with hbm := tables } }

theorem witness_sensor_read : (let s := { based with mss := { based.mss with sens := [(3, 0x55)] } }
    let s1 := taken s (hdr 0 16)
    let x := s1.xlateSpan 0 0x200000 (8 * (2 : BitVec 32).toNat) true
    s.takesCmd s1 (hdr 0 16) 0x80 ∧ (3 : BitVec 32).toNat + (2 : BitVec 32).toNat ≤ 140 ∧ addrOk 0x200000 8 = true ∧
      x.2 = ([leaf0], .ok leaf0) ∧ x.1.plainAt 0 0x200000 (8 * (2 : BitVec 32).toNat) leaf0 0xA00000) :=
  ⟨takes (by decide +kernel), by decide, by decide, by decide +kernel, by decide +kernel, by decide, by decide, by decide +kernel,
    by decide +kernel, by decide +kernel, by decide +kernel, by decide +kernel⟩
theorem test_sensor_read : (bread (after (exec (.sensorRead (hdr 0 16) 3 2 0x200000)
    { based with mss := { based.mss with sens := [(3, 0x55)] } })).mem.hbm 0xA00000 9) = [0x55, 0, 0, 0, 0, 0, 0, 0, 0] := by
  decide +kernel
theorem witness_log_read : (let s1 := taken based (hdr 0 24)
    let x := s1.xlateSpan 0 0x200000 (5 : BitVec 32).toNat true
    based.takesCmd s1 (hdr 0 24) 0x81 ∧ (64 : BitVec 32).toNat + (5 : BitVec 32).toNat ≤ 2 ^ 24 ∧ addrOk 0x200000 1 = true ∧
      x.2 = ([leaf0], .ok leaf0) ∧ x.1.plainAt 0 0x200000 (5 : BitVec 32).toNat leaf0 0xA00000) :=
  ⟨takes (by decide +kernel), by decide, by decide, by decide +kernel, by decide +kernel, by decide, by decide, by decide +kernel,
    by decide +kernel, by decide +kernel, by decide +kernel, by decide +kernel⟩
/-- An erased byte of the flash reads 0xFF. -/
theorem test_log_read : (bread (after (exec (.logRead (hdr 0 24) 64 5 0x200000) based)).mem.hbm 0xA00000 6) =
    [0xFF, 0xFF, 0xFF, 0xFF, 0xFF, 0] := by decide +kernel
theorem witness_bist : (let s1 := taken idle (hdr 0 16)
    idle.takesCmd s1 (hdr 0 16) 0x82 ∧ addrOk 0x200000 32 = true ∧ (s1.hum (5 : Hum).val).holder = none) :=
  ⟨takes (by decide +kernel), by decide +kernel⟩
theorem test_bist : (let t := after (exec (.bistRun (hdr 0 16) 1 0 5 0x200000) idle)
    ((t.hum 5).power, (t.hum 6).power, t.mss.bist.length)) = (.inReset, .gated, 1) := by decide +kernel
theorem witness_activate : (let s1 := taken idle (hdr 0 8)
    let s := { idle with pwc := { idle.pwc with clamp := true } }
    idle.takesCmd s1 (hdr 0 8) 0x83 ∧ idle.slotFit false = true ∧ s1.actHeld false = false ∧
      s.takesCmd (taken s (hdr 0 8)) (hdr 0 8) 0x83 ∧ s.slotFit false = true ∧ (taken s (hdr 0 8)).actHeld false = true) :=
  ⟨takes (by decide +kernel), by decide +kernel, by decide +kernel, takes (by decide +kernel), by decide +kernel, by decide +kernel⟩
theorem test_activate : (let t := after (exec (.fwActivate (hdr 0 8) 0) idle)
    (t.fw.handoff, (t.proc 9).st, (t.proc 11).st)) = (some (1, false), .quiescing, .ready) := by decide +kernel

/-- A session 1 that holds key 9, on SMBus; context 2 is sealed with frame 5 its own. -/
def secret : State :=
  { idle with
    mss := { idle.mss with sessions := [⟨1, .smbus, true, true, [], [], [(9, 77)], 0, 0, 0⟩] }
    mem := { idle.mem with hbm := [(0xA00000, 3), (0xC00000, 4)], keys := [(2, 78)], loaded := 4, own := [(5, ⟨2, true, false⟩)] } }
def shdr (len : Nat) : Hdr := ⟨.session 1, false, 0, 0, len, false⟩

theorem witness_session_commands : (let s1 := taken secret (shdr 8)
    secret.takesCmd s1 (shdr 8) 0x90 ∧ secret.takesCmd s1 (shdr 8) 0x91 ∧ secret.takesCmd (taken secret (shdr 16)) (shdr 16) 0x92 ∧
      s1.sessionKey (shdr 8).path 9 = some 77 ∧ secret.sessionKey (shdr 8).path 9 = some 77 ∧ (s1.ctx 1).st = .opened ∧
      s1.liveOf 1 = 0 ∧ (s1.ctx 2).st = .opened ∧ s1.liveOf 2 = 0 ∧
      (5 : BitVec 32).toNat + (2 : BitVec 32).toNat ≤ framesPerSector) :=
  ⟨takes (by decide +kernel), takes (by decide +kernel), takes (by decide +kernel), by decide +kernel⟩
theorem test_seal : (let t := after (exec (.sealCtx (shdr 8) 1 9) secret)
    (t.isSealed 1, t.isSealed 2, sget 0 t.mem.keys 1)) = (true, true, 77) := by decide +kernel
theorem test_unseal : (let t := after (exec (.unsealCtx (shdr 8) 2) secret)
    (t.isSealed 2, t.mem.hbm, t.mem.own, t.mem.keys)) = (false, [(0xC00000, 4)], [(5, ⟨2, false, false⟩)], []) := by decide +kernel
/-- Frame 5 goes to context 1 unsealed, and reads zero; frame 6 is as it was. -/
theorem test_frame_own : (let t := after (exec (.frameOwn (shdr 16) 0 1 0 5 1) secret)
    ((t.owner 5).ctx, (t.owner 5).isSealed, t.mem.hbm)) = (1, false, [(0xC00000, 4)]) := by decide +kernel
/-- A secure command on the ring is answered OK with zero STATE, and counted (R278). -/
theorem test_secure_on_ring : ((after (exec (.sealCtx (hdr 0 8) 1 9) idle)).fe.violCmd) = 1 := by decide +kernel

/-! ### Rings and deadlines -/

theorem witness_ring_enable : idle.privileged .fw ∧ up.privileged .host ∧ (3 : BitVec 64).toNat < 2 ^ 15 ∧ (3 : BitVec 64).getLsbD 0 = true ∧
    (up.reg 0x40).getLsbD 0 = false ∧ up.regionOpen 8 = true ∧ ringSize (up.regField 0x08 0 5) ≠ none ∧
    ringSize (up.regField 0x28 0 5) ≠ none := ⟨⟨by decide +kernel, rfl⟩, up_host, by decide +kernel⟩
/-- A ring of 2 entries has no size. -/
theorem witness_ring_size : (let s := up.setReg 0x08 1
    s.privileged .host ∧ (s.reg 0x40).getLsbD 0 = false ∧ s.regionOpen 8 = true ∧ ringSize (s.regField 0x08 0 5) = none ∧ s.fe.dbq = []) :=
  ⟨⟨by decide +kernel, rfl⟩, by decide +kernel⟩
theorem test_ring_enable : (let t := after (exec (.feRingEnable .host 3) { up with fe := { up.fe with head := 7, rplTail := 5 } })
    (t.fe.head, t.fe.rplTail, t.fe.phase, t.ringEn)) = (0, 0, true, true) := by decide +kernel
theorem witness_ring_dma : idle.feReady = true ∧ idle.ringEn = true ∧ idle.ringAvail ≠ 0 ∧ idle.hostOk = true := by decide +kernel
/-- idle after the reply to the first packet was written. -/
def replied1 : State := after (exec (.nop ⟨hdr 0 0, 0⟩) idle)
theorem witness_reply_dma : replied1.hostOk = true ∧ replied1.ringEn = true ∧ replied1.fe.heldReply.isSome = true ∧ replied1.fe.rplTail ≠ 0 := by
  decide +kernel
theorem test_ring_blocks : (let t := after (exec (.ringDmaFailed false .unsupported) idle)
    (t.fe.rdblk, (after (exec (.nop ⟨hdr 0 0, 0⟩) t)).out == t.out)) = (true, true) := by decide +kernel
theorem test_reply_again : (let t := after (exec (.ringDmaFailed true .completerAbort) replied1)
    let u := after (exec (.ringResume .host) t)
    (t.fe.wrblk, t.fe.rplTail, u.fe.wrblk, u.fe.rplTail, u.out.drop t.out.length == replied1.out)) = (true, 0, false, 1, true) := by
  decide +kernel
theorem witness_ring_resume : replied1.privileged .host ∧ replied1.fe.wrblk = false ∧
    (let t := after (exec (.ringDmaFailed true .completerAbort) replied1)
     t.privileged .host ∧ t.fe.wrblk = true ∧ t.fe.heldReply.isSome = true) :=
  ⟨⟨by decide +kernel, rfl⟩, by decide +kernel, ⟨by decide +kernel, rfl⟩, by decide +kernel⟩

theorem witness_record : (due.ctx (1 : BitVec 6).toNat).st ≠ .blocked ∧
    due.recordDue (1 : BitVec 6).toNat = some ({ job with js := .committed, record := some cpl }, cpl) := by decide +kernel
theorem test_record : (let t := after (exec (.completionRecordWrite 1) due)
    (t.out.length, t.fe.launches, (t.ctx 1).tail)) = (1, [], 1) := by decide +kernel
theorem test_record_failed : (let t := after (exec (.completionWriteFailed 1 .unsupported) due)
    ((t.ctx 1).st, t.fe.launches.map fun l => l.record.map fun r => r.held, (t.ctx 1).tail)) = (.blocked, [some true], 0) := by
  decide +kernel
theorem witness_cpl_enable : up.privileged .host ∧ (0x0F : BitVec 64).toNat < 2 ^ 17 ∧ (0x0F : BitVec 64).getLsbD 0 = true ∧
    (up.reg (0x2008 + 32 * (1 : BitVec 6).toNat)).getLsbD 0 = false ∧ up.regionOpen 8 = true ∧ ∀ l ∈ up.fe.launches, l.pos = none :=
  ⟨up_host, by decide +kernel⟩
theorem test_cpl_enable : (let t := after (exec (.cplRingEnable .host 1 0x0F) { up with fe := { up.fe with
      ctxs := [(1, { Ctx.reset with tail := 4, phase := false })] } })
    ((t.ctx 1).tail, (t.ctx 1).phase, t.reg 0x2028)) = (0, true, 0x0F) := by decide +kernel

/-- Launch 2 of context 1 waits behind launch 1. -/
def second : Launch := { job with id := 2, seq := 8, js := .admitted }
def waits : State := { run with fe := { run.fe with launches := [job, second], nextLaunch := 3 } }
theorem witness_deadline : waits.launchOf 2 = some second ∧ second.live = true ∧ waits.procReady fepIx = true ∧
    waits.ep.launch ≠ some second.id ∧ waits.ep.st ≠ .sundered ∧ second.att = 1 ∧
    run.launchOf 1 = some job ∧ job.live = true ∧ run.ep.launch = some job.id ∧ run.ep.st = .running ∧ run.ep.sent = false ∧
    run.decided = false ∧ run.ep.failedAtt ≠ some run.ep.att := by decide +kernel
theorem witness_deadline_sent : (let s := { run with ep := { run.ep with st := .prepared, sent := true } }
    s.launchOf 1 = some job ∧ s.procReady fepIx = true ∧ s.ep.launch = some job.id ∧ s.ep.st = .prepared ∧ s.ep.sent = true) := by
  decide +kernel
theorem witness_deadline_noted : (let s := { run with fw := { run.fw with procs := [(fepIx, ⟨.starting, 0, [], 0⟩)] } }
    s.launchOf 1 = some job ∧ job.live = true ∧ s.procReady fepIx = false) := by decide +kernel
theorem witness_deadline_split : (let s := { run with ep := { run.ep with st := .sundered } }
    s.launchOf 1 = some job ∧ s.procReady fepIx = true ∧ s.ep.launch = some job.id ∧ s.ep.st = .sundered) := by decide +kernel
theorem test_deadline : ((after (exec (.deadlineExpiry 2) waits)).fe.launches.map fun l => (l.id, l.live, l.record.map fun r => r.status)) =
      [(1, true, none), (2, false, some stExpired)] ∧
    (after (exec (.deadlineExpiry 1) run)).ep.failedAtt = some 1 ∧
    ((after (exec (.deadlineExpiry 1) { run with ep := { run.ep with st := .prepared, sent := true } })).fe.launches.map fun l => l.late) =
      [true] := by decide +kernel

theorem witness_link_events : run.procReady fcpIx = true ∧ (State.reset.procReady fcpIx) = false := by decide +kernel

/-! ### Hangs and resets -/

theorem run_noReset : run.noReset := ⟨rfl, fun _ => rfl, fun _ => rfl⟩

/-- Hummock 3 runs an SCLR; then it waits for a sluice. -/
def stuck : State := runWith fun h => { h with unret := [{ entryOf 4 (.sclr 5 false) .running with outstanding := 1 }] }
theorem witness_hang : stuck.monitorsRun = true ∧ stuck.board.coreOn = true ∧ (stuck.hum (3 : Hum).val).counted = true ∧
    (stuck.hum (3 : Hum).val).holder ≠ none ∧ stuck.ep.failedAtt ≠ some stuck.ep.att ∧ stuck.err.ctxab = none ∧
    (∃ i ∈ (stuck.hum (3 : Hum).val).unret, opClass i.op = (4 : BitVec 8).toNat ∧ i.phase ≠ .done) ∧ stuck.err.chip = none ∧
    stuck.beyond = false := by decide +kernel
/-- It moves rows of device memory in sectors 0 and 4 into its Mere, and the unit of its sector has translated them. -/
def far4 : TlbEntry := ⟨1, 0x400000, BitVec.ofNat 64 ((4 * framesPerSector + 5) * 2 ^ 21 + 7), true⟩
def stuckMem : State :=
  { run with
    hums := [(3, { busy with unret :=
      [{ entryOf 4 (.wmove move) .running with da := ⟨descOf 0x200000 1 0x100 1 2 0, 0⟩, db := ⟨descOf 0x100 0 0x100 1 2 0, 0⟩ },
       { entryOf 5 (.wmove move) .running with da := ⟨descOf 0x400000 1 0x100 1 2 0, 0⟩, db := ⟨descOf 0x200 0 0x100 1 2 0, 0⟩ }] })]
    mem := { run.mem with tlb := [(0, leaf5), (0, far4)] } }
theorem witness_hang_units : stuckMem.monitorsRun = true ∧ stuckMem.board.coreOn = true ∧ stuckMem.beyond = false ∧ stuckMem.err.chip = none ∧
    stuckMem.sectorRun (0 : Sec).val = none ∧ stuckMem.sectorRun (1 : Sec).val = none ∧ stuckMem.attemptFailed = false ∧
    stuckMem.memBusy (0 : Sec).val = true ∧ stuckMem.walkBusy (0 : Sec).val = true ∧ stuckMem.meshBusy = true ∧ stuckMem.hubBusy = true ∧
    meshLinked (0 : Sec).val (1 : Sec).val = true := by decide +kernel
theorem witness_no_hang : run.memBusy (0 : Sec).val = false ∧ run.walkBusy (0 : Sec).val = false ∧ run.orbStuck (0 : Sec).val = false ∧
    run.meshBusy = false ∧ run.hubBusy = false ∧ meshLinked (3 : Sec).val (4 : Sec).val = false := by decide +kernel
theorem witness_hang_sequencer : (let s := runWith fun h => { h with seq := { h.seq with st := .waitSluice } }
    s.monitorsRun = true ∧ s.board.coreOn = true ∧ (s.hum (3 : Hum).val).waiting = true ∧ (s.hum (3 : Hum).val).holder ≠ none ∧
      s.ep.failedAtt ≠ some s.ep.att ∧ s.err.ctxab = none ∧ s.err.chip = none) := by decide +kernel
theorem witness_hang_failed : (let s := { stuckMem with ep := { stuckMem.ep with failedAtt := some 1 } }
    s.monitorsRun = true ∧ s.board.coreOn = true ∧ s.attemptFailed = true ∧ s.memBusy (0 : Sec).val = true) := by decide +kernel
/-- A full buffer, at which a contribution that opens a round finds no room. -/
def full0 : State :=
  { reducing (contrib true 2) with mem := { (reducing (contrib true 2)).mem with
    contribs := [{ contrib true 2 with stalled := true }], orb := [(0, ⟨100, 0, none⟩)] } }
theorem witness_hang_buffer : full0.monitorsRun = true ∧ full0.board.coreOn = true ∧ full0.orbStuck (0 : Sec).val = true ∧
    full0.ep.failedAtt ≠ some full0.ep.att ∧ full0.err.ctxab = none ∧ full0.err.chip = none := by decide +kernel
theorem test_hang : ((after (exec (.hangDeclared (.station 3 4)) stuck)).err.ctxab.map fun x => (x.1, x.2.code)) =
      some (1, errCode 1 4 3 0x001) ∧
    ((after (exec (.hangDeclared (.translation 0)) stuckMem)).sectorRun 0).map (fun r => r.code) = some (errCode 3 0x11 0 0x001) ∧
    (after (exec (.hangDeclared (.station 3 5)) stuck)).err.ctxab = none ∧
    (after (exec (.hangDeclared (.translation 2)) stuckMem)).sectorRun 2 = none := by decide +kernel

/-- run with a chip reset, a reset of sector 0, one of hummock 3's engines, or a context abort in progress. -/
def chipHeld : State := { up with err := { up.err with chip := some ⟨errCode 4 0x31 0 1, 0, 0, 0⟩ } }
def sectorHeld : State := { up with err := { up.err with sectors := [(0, some ⟨errCode 3 0x11 0 1, 0, 0, 0⟩)] } }
def engineHeld : State := { up with err := { up.err with engines := [(3, some ⟨errCode 2 4 3 1, 0, 0, 0⟩)] } }
def ctxHeld : State := after (exec (.hangDeclared (.station 3 4)) stuck)
theorem noStalls_up (s : State) (h : s.link = up.link) : s.noStalls := ⟨by rw [h]; rfl, by rw [h]; rfl⟩

/-- chipHeld with the power-cycle request disabled. -/
def chipQuiet : State := { chipHeld with regs := [(0x300008, 0)] }

theorem witness_escalation : chipHeld.err.chip.isSome = true ∧ (chipHeld.reg 0x300008).getLsbD 0 = true ∧
    (chipQuiet.reg 0x300008).getLsbD 0 = false ∧ chipQuiet.err.chip.isSome = true ∧ sectorHeld.err.chip = none ∧
    (sectorHeld.sectorRun (0 : Sec).val).isSome = true ∧ engineHeld.err.chip = none ∧
    (engineHeld.engineRun (3 : Hum).val).isSome = true ∧ engineHeld.sectorRun (secOf (3 : Hum).val) = none ∧
    ctxHeld.err.ctxab.isSome = true ∧ ctxHeld.ep.launch = some 1 ∧
    chipHeld.err.pcreq = false ∧ chipHeld.err.halted = false ∧ chipQuiet.err.pcreq = false ∧ chipQuiet.err.halted = false := by
  decide +kernel
theorem witness_context_escalation : ctxHeld.noReset := ⟨rfl, fun _ => rfl, fun _ => rfl⟩
/-- While the MGP does not run, the dump waits for the flash, whose bytes the evaluation then needs not. -/
def noMgp (s : State) : State := { s with fw := { s.fw with procs := (List.range 11).map fun i => (i, ⟨.ready, 0, [], 0⟩) } }
theorem test_escalation :
    ((after (exec (.levelEscalation (.context [3])) ctxHeld)).engineRun 3).isSome = true ∧
    ((after (exec (.levelEscalation (.context [])) ctxHeld)).hum 3).power = .gated ∧
    ((after (exec (.levelEscalation (.engine 3)) engineHeld)).sectorRun 0).map (fun r => r.code) = some (errCode 3 4 3 0x052) ∧
    ((after (exec (.levelEscalation (.sector 0)) (noMgp sectorHeld))).err.chip.map fun r => r.code) = some (errCode 4 0x11 0 0x053) ∧
    (after (exec (.levelEscalation .chip) chipHeld)).err.pcreq = true ∧
    (after (exec (.levelEscalation .chip) chipQuiet)).err.halted = true := by decide +kernel
theorem test_abort_complete : (let t := after (exec (.contextAbortComplete 50) ctxHeld)
    (t.err.ctxab, (t.hum 3).power, (t.ctx 1).st)) = (none, .gated, .opened) := by decide +kernel
theorem witness_abort_complete : (ctxHeld.hum (3 : Hum).val).heldBy 1 = true := by decide +kernel

theorem witness_reset_complete : engineHeld.noStalls ∧ sectorHeld.noStalls ∧ chipHeld.noStalls ∧ chipHeld.fe.launches = [] ∧
    chipHeld.fe.dbq = [] ∧ chipHeld.ep.waitMsgs = [] ∧ (chipHeld.board.xtal = true ∧ chipHeld.err.pcreq = false ∧ chipHeld.err.halted = false ∧
      chipHeld.canRebuild = true) ∧
    sectorHeld.board.xtal = true ∧ sectorHeld.beyond = false ∧ (sectorHeld.part (0 : Sec).val).bad = false ∧
    { chipHeld with board := { chipHeld.board with xtal := false } }.noStalls :=
  ⟨noStalls_up _ rfl, noStalls_up _ rfl, noStalls_up _ rfl, rfl, rfl, rfl, by decide +kernel, by decide +kernel, by decide +kernel, by decide +kernel,
    noStalls_up _ rfl⟩
/-- A processor whose partition cannot be read does not come up, so the chip reset does not end. -/
def unreadable : State := { chipHeld with jnl := [(3, { Partition.reset with bad := true })] }
theorem witness_sector_waits : ({ sectorHeld with board := { sectorHeld.board with xtal := false } } : State).noStalls ∧
    (let s := { sectorHeld with err := { sectorHeld.err with halted := true } }
     s.noStalls ∧ s.beyond = true ∧ (s.sectorRun (0 : Sec).val).isSome = true) ∧
    (let s := { sectorHeld with jnl := [(0, { Partition.reset with bad := true })] }
     s.noStalls ∧ (s.part (0 : Sec).val).bad = true) :=
  ⟨noStalls_up _ rfl, ⟨noStalls_up _ rfl, by decide +kernel⟩, noStalls_up _ rfl, by decide +kernel⟩
theorem test_sector_waits : ((after (exec (.sectorResetComplete 0 9) { sectorHeld with
    err := { sectorHeld.err with halted := true } })).sectorRun 0).isSome = true := by decide +kernel
theorem witness_reset_waits : unreadable.noStalls ∧ unreadable.err.chip.isSome = true ∧ unreadable.canRebuild = false ∧
    (unreadable.part (3 : Proc).val).bad = true := ⟨noStalls_up _ rfl, by decide +kernel⟩
theorem test_reset_complete :
    ((after (exec (.engineResetComplete 3 50) engineHeld)).engineRun 3, ((after (exec (.engineResetComplete 3 50) engineHeld)).hum 3).power) =
      (none, .running) ∧
    (after (exec (.sectorResetComplete 0 50) sectorHeld)).sectorRun 0 = none ∧
    (after (exec (.chipResetComplete 50) chipHeld)).err.chip = none := by decide +kernel

/-- The running attempt has failed, and hummock 3 has not quiesced. -/
def failed : State := { run with ep := { run.ep with failedAtt := some 1 } }
theorem witness_containment : failed.ep.failedAtt = some failed.ep.att ∧ failed.ep.contained = false ∧ failed.err.ctxab = none ∧
    failed.noReset := ⟨rfl, rfl, rfl, rfl, fun _ => rfl, fun _ => rfl⟩
theorem witness_containment_held : failed.ep.launch = some 1 ∧ (failed.hum (3 : Hum).val).heldBy 1 = true := by decide +kernel
theorem test_containment : ((after (exec (.containmentTimeout [3]) failed)).engineRun 3).isSome = true := by decide +kernel

/-- A read of a hummock register waits at hummock 3's boundary. -/
def stalled3 : RegAcc := ⟨.host, 0x1180040, none, .read⟩
def humStalled : State := { run with link := { run.link with regStalls := [stalled3] } }
theorem witness_bridge : (humStalled.link.regStalls.find? fun a => a.m == .host && a.unit == .hummock 3) = some stalled3 ∧
    (∀ a ∈ humStalled.link.regStalls, a.m ≠ .host ∨ a.unit ≠ .hub) ∧ run.err.chip = none ∧ run.sectorRun (secOf (3 : Hum).val) = none ∧
    run.engineRun (3 : Hum).val = none := by decide +kernel
theorem test_bridge : (let t := after (exec (.bridgeTimeout ⟨.host, true⟩ (.hummock 3)) humStalled)
      (t.out, t.link.regStalls)) = ([.completion [0, 0, 0, 0, 0, 0, 0, 0] false], []) ∧
    ((after (exec (.bridgeTimeout ⟨.fw, false⟩ .hub) (noMgp run))).err.chip.map fun r => r.code) = some (errCode 4 0x31 0 0x020) := by decide +kernel
theorem witness_strobes : run.privileged .host ∧ ({ run with regs := [(0x300008, 1)] } : State).privileged .host ∧
    (({ run with regs := [(0x300008, 1)] } : State).reg 0x300008).getLsbD 0 = true := ⟨⟨by decide +kernel, rfl⟩, ⟨by decide +kernel, rfl⟩, by decide +kernel⟩
/-- Beyond a chip reset, and within one, the strobes find nothing left to start. -/
theorem witness_strobes_beyond : ({ run with err := { run.err with pcreq := true } } : State).privileged .host ∧
    ({ run with err := { run.err with pcreq := true } } : State).beyond = true ∧ chipHeld.privileged .host ∧ chipHeld.err.chip ≠ none ∧
    run.beyond = false ∧ (({ run with regs := [(0x300008, 0)] } : State).reg 0x300008).getLsbD 0 = false :=
  ⟨⟨by decide +kernel, rfl⟩, by decide +kernel, ⟨by decide +kernel, rfl⟩, by decide +kernel⟩
theorem test_strobes : ((after (exec (.errResetChip .host) (noMgp run))).err.chip.map fun r => r.code) = some (errCode 4 0x40 0 0x062) ∧
    (after (exec (.errResetPwrcyc .host) { run with regs := [(0x300008, 1)] })).out = [.pin 4 false] := by decide +kernel

/-! ### Firmware -/

/-- up with a processor in another state. -/
def procIn (i : Nat) (st : ProcSt) : State :=
  { up with fw := { up.fw with procs := (List.range 12).map fun k => (k, ⟨if k = i then st else .ready, 0, [], 0⟩) } }

theorem witness_watchdog : procRuns (up.proc (9 : Proc).val).st = true ∧
    ((up.proc (9 : Proc).val).fires.filter fun t => up.fw.ms < t + 1000).length < 2 ∧ up.fw.handoff = none ∧
    (let s := { up with fw := { up.fw with procs := [(2, ⟨.ready, 2, [0, 0], 0⟩)] } }
     procRuns (s.proc (2 : Proc).val).st = true ∧ 2 ≤ ((s.proc (2 : Proc).val).fires.filter fun t => s.fw.ms < t + 1000).length ∧
       s.fw.handoff = none ∧ s.err.chip = none ∧ s.sectorRun (2 : Proc).val = none) := by decide +kernel
theorem test_watchdog : (let t := after (exec (.watchdogFire 9 0x80001234 7 true) up)
    ((t.proc 9).st, (t.proc 9).restarts, (t.proc 8).st, (sget Latch.reset t.err.latches 9).pc, t.err.dumps)) =
    (.starting, 1, .ready, 0x80001234, 1) := by decide +kernel
theorem test_watchdog_third : ((after (exec (.watchdogFire 2 0 0 true)
    { up with fw := { up.fw with procs := [(2, ⟨.ready, 2, [0, 0], 0⟩)] } })).sectorRun 2).map (fun r => r.code) =
    some (errCode 3 0x20 2 0x030) := by decide +kernel
theorem witness_ready : (let s := procIn 3 .starting
    (s.part (3 : Proc).val).bad = false ∧ (s.proc (3 : Proc).val).st = .starting ∧ s.fw.handoff = none ∧ s.mss.waiting = [] ∧ s.err.chip = none ∧
      s.sectorRun (3 : Proc).val = none) := by decide +kernel
theorem witness_rebuilding : (let s := { procIn 3 .rebuilding with jnl := [(3, { Partition.reset with bad := true })] }
    (s.proc (3 : Proc).val).st = .rebuilding ∧ s.fw.handoff = none ∧ (s.part (3 : Proc).val).bad = true) := by decide +kernel
/-- An image's header up to its components (R384): five of 4 bytes at 0x8000, entered at 0x1000 of the SRAM, the last of 0 bytes. -/
def imageHead : List Byte :=
  [0x56, 0x4E, 0x46, 0x57, 1, 0, 5, 0] ++ List.replicate 8 0 ++ [4, 0, 0, 0] ++ List.replicate 8 0 ++ [0xA0, 0, 0, 0] ++
    leBytes 4 0x10000 ++ List.replicate 28 0 ++
    ((List.range 5).flatMap fun k => [BitVec.ofNat 8 k, 0, 0, 0] ++ leBytes 4 0x8000 ++ leBytes 4 4 ++ leBytes 4 0x1000)
def imageAt (b : Bool) : Store Byte :=
  (imageHead ++ List.replicate 0x70 0).zipIdx.map (fun (p : Byte × Nat) => (slotBase b + p.2, p.1)) ++
    [(slotBase b + 0x8000, 7), (slotBase b + 0x8001, 8), (slotBase b + 0x8002, 9), (slotBase b + 0x8003, 10)]
/-- up with an image in slot A; and with one in slot B, verified while A's is not. -/
def pictured : State := { up with fw := { up.fw with flash := imageAt false, slotA := { Slot.reset with verified := true } } }
def fallsBack : State := { noMgp up with fw := { (noMgp up).fw with flash := imageAt true, slotA := { Slot.reset with verified := false }, slotB := { Slot.reset with verified := true } } }
theorem witness_reload : (pictured.fw.component false (9 : Proc).val).1 + (pictured.fw.component false (9 : Proc).val).2.1 ≤ 96 * 2 ^ 20 ∧
    (pictured.coreOf (9 : Proc).val).codeOk = true ∧ pictured.digestOk pictured.fw.actSlot = true ∧
    fallsBack.digestOk fallsBack.fw.actSlot = false ∧ fallsBack.digestOk (!fallsBack.fw.actSlot) = true ∧
    (fallsBack.fw.component true mgpIx).1 + (fallsBack.fw.component true mgpIx).2.1 ≤ 96 * 2 ^ 20 ∧ up.beyond = false := by
  decide +kernel
/-- R374, R385: a failed code check reloads the component; the MGP is booted from the slot that verifies. -/
theorem test_reload : (let c := (after (exec (.watchdogFire 9 0 0 false) (noMgp pictured))).coreOf 9
      (c.pc, c.isram)) = (0x1000, [(0, 7), (1, 8), (2, 9), (3, 10)]) ∧
    ((after (exec (.watchdogFire 9 0 0 true) (noMgp pictured))).coreOf 9).isram = [] ∧
    fallsBack.bootRom.fw.actSlot = true := by decide +kernel

/-- A partition of the FCP whose second record is cut off; its first says E = 4. -/
def cutBody : FcpBody := ⟨4, 0, 0, none, none, 9, [], 0, 3, .idle, 2⟩
def cutJournal : State :=
  { procIn 9 .starting with jnl := [(fcpIx, { Partition.reset with recs := [⟨1, 0, cutBody.body⟩, ⟨2, 1, cutBody.body⟩] })] }
theorem witness_rebuild : (9 : Proc).val = fcpIx ∧ (cutJournal.part (9 : Proc).val).intact = false ∧
    Partition.last { (cutJournal.part (9 : Proc).val) with recs := (cutJournal.part (9 : Proc).val).valid } = some cutBody.body := by
  decide +kernel
theorem test_rebuild : (let t := after (exec (.fwReady 9 9) cutJournal)
    (t.ep.c, t.ep.mepoch, t.cwy.nextXid, (t.part fcpIx).recs.length)) = (4, 9, 3, 1) := by decide +kernel
theorem test_ready : (let t := after (exec (.fwReady 3 200) (procIn 3 .starting))
    ((t.proc 3).st, t.err.eq0.eseq)) = (.ready, 1) ∧
    ((after (exec (.fwRecoveryTimeout 3) (procIn 3 .starting))).sectorRun 3).map (fun r => r.code) = some (errCode 3 0x20 3 0x030) := by
  decide +kernel

/-- A handoff to slot B at its first step, and an activation of slot B that is pending. -/
def handing : State :=
  { up with fw := { up.fw with
      handoff := some (1, true), slotB := { Slot.reset with verified := true }
      procs := (List.range 12).map fun k => (k, ⟨if k < 11 then .quiescing else .ready, 0, [], 0⟩) } }
/-- The same, but slot B fails the check of its digest. -/
def unfit : State := { handing with fw := { handing.fw with slotB := Slot.reset } }
def pending : State := { up with fw := { up.fw with pend := some true } }
theorem witness_handoff : handing.allQuiet = true ∧ ({ up with fw := { up.fw with handoff := some (1, true) } } : State).allQuiet = false ∧
    handing.fw.handoff = some (1, true) ∧ handing.fw.reverting = false ∧ pending.fw.handoff = none ∧
    pending.fw.pend = some true ∧ pending.actHeld true = false ∧ pending.mgpUp = true ∧
    (let s := { handing with fw := { handing.fw with reverting := true } }
     s.fw.handoff = some (1, true) ∧ s.fw.reverting = true ∧ s.err.chip = none ∧ s.beyond = false) ∧
    handing.digestOk true = true ∧ unfit.digestOk true = false ∧ unfit.allQuiet = true := by decide +kernel
theorem test_handoff : (let t := after (exec .activationStart handing)
      (t.fw.handoff, (t.proc 0).st, (t.proc 11).st)) = (some (3, true), .handingOff, .ready) ∧
    (after (exec .activationStart pending)).fw.handoff = some (1, true) ∧
    (after (exec .handoffTimeout handing)).fw.reverting = true ∧
    (after (exec .activationStart unfit)).fw.reverting = true ∧
    ((after (exec .handoffTimeout (noMgp { handing with fw := { handing.fw with reverting := true } }))).err.chip.map fun r => r.code) =
      some (errCode 4 0x24 11 0x030) := by decide +kernel

theorem witness_log : up.board.standby = true ∧ up.traced 1 0x400 = true ∧ [1, 2, 3, 4, (5 : BitVec 64)].length = 5 ∧
    (up.reg 0x508210).getLsbD 0 = false ∧ (1 : BitVec 8).toNat < 2 ∧ 2 ≤ (2 : BitVec 8).toNat ∧ (noMgp up).procReady mgpIx = false ∧ (noMgp up).traced 2 0x400 = true := by
  decide +kernel
theorem test_log : (let t := after (exec (.logEntry 3 1 0x400 7 9 ⟨[1, 2, 3, 4, 5], true⟩) up)
      (t.fw.logSeq, (sget LogEnt.empty t.fw.log 0).code, (sget LogEnt.empty t.fw.log 1).code)) = (1, 7, 0) ∧
    (after (exec (.logEntry 3 2 0x400 7 9 ⟨[1, 2, 3, 4, 5], true⟩) (noMgp up))).fw.unsaved.length = 1 := by decide +kernel
/-- up with a mirror of 1024 entries in host memory, its head at entry h. -/
def mirrored (h : BitVec 64) : State :=
  { up with regs := [(0x508208, 0x4000), (0x508210, 0x15), (0x508218, h)], fw := { up.fw with logSeq := 5, htail := 5 } }
theorem witness_mirrored : ((mirrored 5).reg 0x508210).getLsbD 0 = true ∧ (mirrored 5).mirrorSize = some 1024 ∧ (mirrored 5).link.up = true ∧
    ((mirrored 5).fw.htail.toNat + 1) % 1024 ≠ (mirrored 5).regField 0x508218 0 20 % 1024 ∧
    ((mirrored 6).fw.htail.toNat + 1) % 1024 = (mirrored 6).regField 0x508218 0 20 % 1024 ∧
    (let s := { mirrored 5 with link := { up.link with up := false } }
     s.link.up = false ∧ s.mirrorSize = some 1024) := by decide +kernel
theorem test_mirrored : (let t := after (exec (.logEntry 3 1 0x400 7 9 ⟨[1, 2, 3, 4, 5], true⟩) (mirrored 5))
      (t.out.length, t.fw.htail, t.fw.drop)) = (1, 6, 0) ∧
    (let t := after (exec (.logEntry 3 1 0x400 7 9 ⟨[1, 2, 3, 4, 5], false⟩) (mirrored 5))
     (t.out.length, t.fw.htail, t.fw.drop)) = (0, 5, 1) ∧
    (after (exec (.logEntry 3 1 0x400 7 9 ⟨[1, 2, 3, 4, 5], true⟩) (mirrored 6))).fw.drop = 1 := by decide +kernel
theorem witness_mirror : up.privileged .fw ∧ (0x15 : BitVec 64).toNat < 2 ^ 17 ∧ (0x15 : BitVec 64).getLsbD 0 = true ∧
    (up.reg 0x508210).getLsbD 0 = false ∧ 10 ≤ (0x15 : BitVec 64).toNat / 2 % 32 ∧ (0x15 : BitVec 64).toNat / 2 % 32 ≤ 20 :=
  ⟨up_fw, by decide +kernel⟩
theorem test_mirror : (let t := after (exec (.logMirrorEnable .fw 0x15) { up with fw := { up.fw with logSeq := 1029 } })
    (t.reg 0x508210, t.reg 0x508218, t.fw.htail)) = (0x15, 5, 5) := by decide +kernel

/-! ### Updates, attestation, MCTP -/

/-- up at step 6 of its start-up, its link up or not. -/
def atSix (l : Bool) : State :=
  { up with board := { up.board with step := 6, released := false }, link := { up.link with up := l } }
/-- up with an update in some state; slot B takes 8 bytes. -/
def updating (u : UpdSt) (off : BitVec 32) : State := { up with mss := { up.mss with upd := u, updOff := off, updSize := 8 } }
def unit8 : List Byte := [1, 2, 3, 4, 5, 6, 7, 8]

theorem witness_update : up.onBinding .smbus ∧ up.fw.pend = none ∧ up.fw.handoff = none ∧ up.mss.upd = .idle ∧
    (updating .learn 0).onBinding .i3c ∧ (updating .ready 0).onBinding .i3c ∧ (updating .download 0).onBinding .i3c ∧
    (updating .download 0).mss.updOff.toNat < (updating .download 0).mss.updSize.toNat ∧
    (updating .download 0).mss.updSize.toNat ≤ 96 * 2 ^ 20 ∧
    unit8.length = Nat.min 4096 ((updating .download 0).mss.updSize.toNat - (updating .download 0).mss.updOff.toNat) ∧
    pending.onBinding .smbus ∧ up.hostEarly .smbus = false ∧ (atSix true).onBinding .pcie ∧ (atSix true).hostEarly .pcie = true :=
  ⟨⟨by decide, by decide +kernel⟩, rfl, rfl, rfl, ⟨by decide, by decide +kernel⟩, ⟨by decide, by decide +kernel⟩,
    ⟨by decide, by decide +kernel⟩, by decide +kernel, by decide +kernel, by decide, ⟨by decide, by decide +kernel⟩, rfl,
    ⟨by decide, by decide +kernel⟩, by decide +kernel⟩
theorem test_request_update : (after (exec (.requestUpdate .smbus) up)).out = [.mctp .smbus [0x10, 0]] ∧
    (after (exec (.requestUpdate .smbus) pending)).out = [.mctp .smbus [0x10, 0x8A]] ∧
    (after (exec (.requestUpdate .i3c) up)).out = [.ibi, .mctp .i3c [0x10, 0]] ∧
    (after (exec (.requestUpdate .pcie) (atSix true))).mss.upd = .idle := by decide +kernel
theorem test_download : (let t := after (exec (.requestFirmwareData .i3c 0 unit8) (updating .download 0))
    (t.mss.upd, sget 0xFF t.fw.flash (slotBase true + 2), sget 0xFF t.fw.flash (slotBase true + 8))) = (.verify, 3, 0xFF) := by decide +kernel

/-- up with an image of SVN 4 in slot B. -/
def imageB : State := { updating .verify 8 with fw := { up.fw with flash := imageAt true } }
/-- The same, asked for over a PCIe link that is down. -/
def imageLate : State :=
  { imageB with mss := { imageB.mss with updOn := .pcie }, link := { up.link with up := false } }
theorem witness_verify : imageB.mss.upd = .verify ∧ imageB.procReady mgpIx = true ∧ imageB.fw.imageOk (!imageB.fw.actSlot) ∧
    (updating .verify 8).procReady mgpIx = true ∧ ¬ (updating .verify 8).fw.imageOk true ∧ imageB.carries imageB.mss.updOn ∧
    imageLate.mss.updOn = .pcie ∧ imageLate.link.up = false ∧ imageLate.fw.imageOk true :=
  ⟨rfl, by decide +kernel, by unfold Firmware.imageOk; decide +kernel, by decide +kernel, by unfold Firmware.imageOk; decide +kernel,
    ⟨fun h => (by cases h), fun h => (by cases h)⟩, rfl, rfl, by unfold Firmware.imageOk; decide +kernel⟩
theorem test_verify : (let t := after (exec (.verifyComplete true) imageB)
      (t.mss.upd, t.fw.slotB.verified, t.fw.slotB.svn)) = (.apply, true, 4) ∧
    (after (exec (.verifyComplete false) imageB)).mss.upd = .ready ∧ (after (exec (.verifyComplete true) imageLate)).out = [] := by decide +kernel

/-- An update applied to slot B, whose image fits. -/
def applied (h : Option (Nat × Bool)) : State :=
  { updating .apply 8 with fw := { up.fw with slotB := { Slot.reset with verified := true }, handoff := h } }
theorem witness_activation : (applied none).onBinding .smbus ∧ (applied none).slotFit true = true ∧ (applied none).actHeld true = false ∧
    (applied (some (2, true))).onBinding .smbus ∧ (applied (some (2, true))).slotFit true = true ∧
    (applied (some (2, true))).actHeld true = true :=
  ⟨⟨by decide, by decide +kernel⟩, by decide +kernel, by decide +kernel, ⟨by decide, by decide +kernel⟩, by decide +kernel,
    by decide +kernel⟩
theorem test_activation : (let t := after (exec (.activateFirmware .smbus) (applied none))
    (t.fw.handoff, t.mss.upd, t.out)) = (some (1, true), .idle, [.mctp .smbus [0x1A, 0, 1, 0]]) := by decide +kernel
theorem test_cancel : (after (exec (.cancelUpdateComponent .smbus) (updating .download 4))).mss.upd = .ready ∧
    (after (exec (.cancelUpdate .smbus) (updating .ready 0))).mss.upd = .idle ∧
    (after (exec (.cancelUpdate .smbus) up)).out = [.mctp .smbus [0x1D, 0x80]] := by decide +kernel

/-- up, which device 7 has asked by a MGMT packet. -/
def asked : State := { up with mss := { up.mss with askers := [7] } }
theorem asked_onPath (b : Binding) (h : b ∈ [Binding.smbus, .i3c, .pcie, .doe, .causeway 7]) : asked.onPath b :=
  ⟨by fin_cases h <;> decide +kernel, fun _ w h => by cases h⟩
theorem witness_attestation : up.fw.handoff = none ∧ up.mss.bist = [] ∧ up.fe.wait = none ∧ (noMgp up).bindingUp .smbus = true ∧ handing.onPath .doe ∧ handing.fw.handoff ≠ none ∧
    (procIn 11 .starting).bindingUp .doe = true ∧ (procIn 11 .starting).mss.waiting = [] ∧ (procIn 11 .starting).bindingUp .smbus = true ∧ (procIn 11 .starting).procReady mgpIx = false ∧ up.onBinding .pcie ∧
    up.pathUp .doe = true ∧ up.link.up = true ∧ up.mss.i3c = none :=
  ⟨rfl, rfl, rfl, by decide +kernel, ⟨by decide +kernel, fun _ w h => by cases h⟩, by decide, by decide +kernel, rfl, by decide +kernel, by decide +kernel,
    ⟨by decide, by decide +kernel⟩, by decide +kernel⟩
theorem test_get_version : (after (exec (.getVersion .doe) up)).out = [.mctp .doe [0x10, 0x04, 0, 0, 0, 2, 0x00, 0x12, 0x00, 0x13]] ∧
    (after (exec (.getReport .doe 5) handing)).mss.waiting = [(.doe, .report 5)] ∧
    (after (exec (.getDigests .smbus) up)).out = [.mctp .smbus [0x7F, 0x07, 0x81]] ∧
    ((after (exec (.getDigests (.causeway 7)) asked)).cwy.inject.map fun k => (k.type, k.dst, k.payload)) =
      [(0x18, 7, [1, 0, 0, 0xC0, 0x7F, 0x07, 0x81])] ∧
    (after (exec (.getEndpointId .smbus) (noMgp up))).mss.waiting = [(.smbus, .cmd (.getEndpointId .smbus))] := by decide +kernel
theorem test_endpoint_id : (let t := after (exec (.setEndpointId .i3c 0x22) up)
    (t.eidOf .i3c, t.eidOf .smbus, (after (exec (.setEndpointId .i3c 0xFF) up)).out)) = (0x22, 0, [.ibi, .mctp .i3c [0x01, 0x02]]) := by
  decide +kernel
theorem witness_relay : (let s := fab (pkt 1 8)
    s.onBinding .smbus ∧ ((1 : BitVec 16).setWidth 15 : BitVec 15) ≠ s.ownId ∧ (s.routeOf ((1 : BitVec 16).setWidth 15)).getLsbD 8 = true ∧
      (s.routeOf ((4 : BitVec 16).setWidth 15)).getLsbD 8 = false) :=
  ⟨⟨by decide, by decide +kernel⟩, by decide +kernel⟩
theorem test_relay : (let t := after (exec (.mctpRelay .smbus 9 1 [7, 7]) (fab (pkt 1 8)))
    (t.cwy.inject.map fun k => (k.type, k.vc, k.payload.length), t.mss.relays.length)) = ([(1, 0, 8), (0x18, 3, 2)], 1) := by decide +kernel
theorem test_doe : (after (exec (.doeDiscovery 1) up)).out = [.mctp .doe [1, 0, 1, 0]] ∧
    (after (exec .doeAbort { up with mss := { up.mss with waiting := [(.doe, .version), (.doe, .mailbox)] } })).mss.waiting =
      [(.doe, .mailbox)] ∧ (after (exec (.entdaa 0x31) up)).mss.i3c = some 0x31 := by decide +kernel

/-! ### Sessions -/

/-- up with sessions 1 (SMBus, authenticated), 2 (SMBus, open) and 3 (SMBus, not yet open); the fabric manager key is 5. -/
def sessions : State :=
  { up with mss := { up.mss with
      sessions := [⟨1, .smbus, true, true, [], [], [], 0, 0, 0⟩, ⟨2, .smbus, true, false, [], [], [], 0, 0, 0⟩,
        ⟨3, .smbus, false, false, [], [], [], 0, 0, 0⟩]
      nextSess := 4, fmkey := some 5 } }
def openFirst : Session := ⟨1, .smbus, true, true, [], [], [], 0, 0, 0⟩
def openSecond : Session := ⟨2, .smbus, true, false, [], [], [], 0, 0, 0⟩
def openThird : Session := ⟨3, .smbus, false, false, [], [], [], 0, 0, 0⟩
def noKey : State := { sessions with mss := { sessions.mss with fmkey := none } }

/-- A message of each: its tag checks under the request key, whose 88 bytes read as zeros. -/
def said (x : Session) : SessIn :=
  ⟨x.id, [], gcmTag (List.replicate 32 0) (List.replicate 12 0) (leBytes 4 x.id ++ leBytes 2 0 ++ leBytes 2 16) []⟩
def said1 : SessIn := said openFirst
def said2 : SessIn := said openSecond
def said3 : SessIn := said openThird
theorem witness_heard : sessions.heardAs .smbus said1 ∧ sessions.heardAs .smbus said2 ∧ sessions.heardAs .smbus ⟨3, [], []⟩ ∧
    noKey.heardAs .smbus said2 ∧ sessions.openOn .smbus said3.id = false ∧ sessions.sessionOn .smbus said1.id = some openFirst ∧
    sessions.sessionOn .smbus said2.id = some openSecond ∧ openFirst.opened = true ∧ openFirst.auth = true ∧
    sessions.authOn .smbus said2.id = false ∧ sessions.genuine .smbus ⟨1, [], []⟩ = false :=
  ⟨⟨⟨by decide, by decide +kernel⟩, by decide +kernel⟩, ⟨⟨by decide, by decide +kernel⟩, by decide +kernel⟩,
    ⟨⟨by decide, by decide +kernel⟩, by decide +kernel⟩, ⟨⟨by decide, by decide +kernel⟩, by decide +kernel⟩, by decide +kernel⟩

theorem witness_sessions : sessions.onBinding .smbus ∧ sessions.mss.sessions.length < 4 ∧ sessions.sessionOf 3 = some openThird ∧
    openThird.binding = .smbus ∧ openThird.opened = false ∧ sessions.mss.fmkey = some 5 ∧ sessions.openOn .smbus 2 = true ∧
    sessions.openOn .smbus 3 = false ∧ sessions.sessionOn .smbus 1 = some openFirst ∧ sessions.authOn .smbus 2 = false ∧
    sessions.sessionOn .smbus 2 = some openSecond ∧ noKey.sessionOn .smbus 2 = some openSecond ∧
    noKey.onBinding .smbus ∧ noKey.mss.fmkey = none ∧ noKey.openOn .smbus 2 = true ∧ noKey.sessionOf 3 = some openThird ∧
    (let s := { sessions with mss := { sessions.mss with sessions := openThird :: sessions.mss.sessions } }
     s.onBinding .smbus ∧ 4 ≤ s.mss.sessions.length) :=
  ⟨⟨by decide, by decide +kernel⟩, by decide +kernel, by decide +kernel, rfl, rfl, rfl, by decide +kernel, by decide +kernel,
    by decide +kernel, by decide +kernel, by decide +kernel, by decide +kernel, ⟨by decide, by decide +kernel⟩, rfl, by decide +kernel,
    by decide +kernel, ⟨by decide, by decide +kernel⟩, by decide +kernel⟩
/-- Header bytes of the responses sent. -/
def heads (s : State) : List (List Byte) := s.out.map fun o => match o with
  | .mctp _ bs => bs.take 8
  | _ => []
/-- No key: nothing verifies. With the key, one of the two verdicts holds, which nothing in Lean evaluates. -/
theorem witness_signature (sg : List Byte) :
    (∀ k, noKey.mss.fmkey = some k → Config.slhVerify k (openThird.th ++ 0x02 :: unit8) sg = false) ∧
    (Config.slhVerify 5 (openThird.th ++ 0x02 :: unit8) sg = true ∨
      ∀ k, sessions.mss.fmkey = some k → Config.slhVerify k (openThird.th ++ 0x02 :: unit8) sg = false) := by
  refine ⟨fun k h => (by cases h), ?_⟩
  cases v : Config.slhVerify 5 (openThird.th ++ 0x02 :: unit8) sg with
  | true => exact .inl rfl
  | false => exact .inr fun k h => by rw [← Option.some.inj h]; exact v
theorem test_session_key : (let t := after (exec (.sessKey .smbus 3 unit8 none) sessions)
    (t.openOn .smbus 3, t.authOn .smbus 3, t.out)) = (true, false, [.mctp .smbus ([0x7E, 0, 0, 4, 0, 4, 0xA4, 0xB7, 1, 0, 1, 0] ++ [0x82])]) := by decide +kernel
theorem test_session_refused : (let t := after (exec (.sessKey .smbus 3 unit8 (some [])) noKey)
    (t.sessionOf 3, t.mss.sessions.length, t.err.eq0.eseq)) = (none, 2, 1) := by decide +kernel
theorem test_session_close : (let t := after (exec (.sessClose .smbus said2) sessions)
    (t.mss.sessions.map fun x => x.id, heads t)) = ([1, 3], [[2, 0, 0, 0, 0, 0, 29, 0]]) ∧
    (after (exec (.sessClose .smbus said3) sessions)).mss.viol = 1 ∧
    ((after (exec (.sessionTimeout 1) sessions)).mss.sessions.map fun x => x.id) = [2, 3] := by decide +kernel
theorem test_session_keys : (let t := after (exec (.keyPut .smbus said1 (.xts 9) 77) sessions)
      let h : Hdr := ⟨.session 1, false, 0, 0, 8, false⟩
      t.sessionKey h.path 9) = some 77 ∧
    (let t := after (exec (.keyPut .smbus said1 (.gcm 2) 78) sessions)
     ((t.port 2).key, (t.port 1).key)) = (some 78, none) ∧
    (after (exec (.keyPut .smbus said2 (.gcm 2) 78) sessions)).mss.viol = 1 := by decide +kernel
theorem test_manager_key : (after (exec (.fmkeyClear .smbus said1) sessions)).mss.fmkey = none ∧
    (after (exec (.fmkeySet .smbus said2 6 none) noKey)).mss.fmkey = some 6 ∧
    (after (exec (.fmkeySet .smbus said2 6 none) sessions)).mss.fmkey = some 5 ∧
    (after (exec (.fmkeyClear .smbus ⟨1, [], []⟩) sessions)).mss = sessions.mss := by decide +kernel

/-- sessions with context 2 sealed, owner of frame 5, which it lets out, and a host link that encrypts. -/
def sealing (xs : List XferReq) : State :=
  { sessions with
    link := { sessions.link with ide := [(0, { IdeStream.reset with secure := true })] }
    mss := { sessions.mss with xfers := xs }
    mem := { sessions.mem with keys := [(2, 78)], loaded := 4, own := [(5, ⟨2, true, true⟩)] } }
def xfer (out : Bool) (n : BitVec 18) : XferReq := ⟨out, .smbus, 1, 2, 0, 5, n, 0x10000⟩
theorem witness_transfer : (sealing []).onBinding .smbus ∧ (sealing []).authOn .smbus 1 = true ∧ (sealing []).xferOk (xfer true 1) = true ∧
    (sealing []).xferOk (xfer false 1) = true ∧ (sealing []).xferOk (xfer true 2) = false ∧ (sealing []).xferOk (xfer false 2) = false :=
  ⟨⟨by decide, by decide +kernel⟩, by decide +kernel⟩
theorem test_transfer : (after (exec (.egress .smbus said1 2 0 5 1 0x10000) (sealing []))).mss.xfers = [xfer true 1] ∧
    heads (after (exec (.ingress .smbus said1 2 0 5 2 0x10000) (sealing []))) = [[1, 0, 0, 0, 0, 0, 33, 0]] := by decide +kernel
theorem witness_transfer_done : 0 < (xfer true 1).count.toNat ∧ (sealing [xfer true 1]).mem.err = [] ∧
    (sealing [xfer true 1]).onBinding .smbus ∧
    (let f := (xfer true 1).sec.val * framesPerSector + (xfer true 1).first.toNat
     dpaReserved (f * frameBytes) = false ∧ (sealing [xfer true 1]).ownOk .mgp f (!true) = true ∧
       (sealing [xfer false 1]).ownOk .mgp f (!false) = true ∧
       (sealing [xfer true 1]).wakeStacks (f * frameBytes) frameBytes = sealing [xfer true 1]) :=
  ⟨by decide, rfl, ⟨by decide, by decide +kernel⟩, by decide, by decide, by decide, by decide +kernel⟩
/-- A transfer that ends with no frame copied is answered with 0. -/
theorem test_transfer_done : (let t := after (exec (.egressIngressDone 0 []) (sealing [xfer true 1]))
    (t.mss.xfers, heads t)) = ([], [[1, 0, 0, 0, 0, 0, 33, 0]]) := by decide +kernel
/-- A SEAL packet that names context 2. -/
theorem witness_cmd : field ([0x90, 0, 8, 0] ++ List.replicate 28 0 ++ [2, 0, 0, 0, 9, 0, 0, 0]) 0 1 = 0x90 ∧
    field (0x91 :: List.replicate 39 0) 0 1 = 0x91 := by decide
/-- A packet with a reserved opcode. -/
theorem witness_cmd_reserved : (let p : List Byte := 0x7F :: List.replicate 31 0
    sessions.onBinding .smbus ∧ sessions.authOn .smbus 1 = true ∧ field p 0 1 ∉ [0x80, 0x81, 0x82, 0x83, 0x90, 0x91, 0x92] ∧
      sessions.board.coreOn = true ∧ (sessions.sessionOf 1).map Session.seq = some 0 ∧ lenSound (parseHdr (.session 1) p []) = true ∧
      (parseHdr (.session 1) p []).seq = 0) := ⟨⟨by decide, by decide +kernel⟩, by decide +kernel⟩
/-- An authenticated session that holds key 9. -/
def keyHolder : State :=
  { sessions with
    fe := idle.fe, mss := { sessions.mss with sessions := [⟨1, .smbus, true, true, [], [], [(9, 77)], 0, 0, 0⟩] } }
theorem test_cmd :
    (after (exec (.cmd .smbus said1 ([0x90, 0, 8, 0] ++ List.replicate 28 0 ++ [2, 0, 0, 0, 9, 0, 0, 0])) keyHolder)).isSealed 2 = true := by
  decide +kernel
theorem test_cmd_refused : (heads (after (exec (.cmd .smbus said2 [0x90]) sessions))).head? = some [2, 0, 0, 0, 0, 0, 61, 0] := by decide +kernel

/-! ### Power -/

theorem powers {s : State} (h : s.arrives .fw = true ∧ s.regionOpen 9 = true ∧ s.pwpUp = true ∧ s.pwc.clamp = false) : s.powerWrites .fw :=
  ⟨⟨h.1, rfl⟩, h.2⟩

/-- run whose launch was admitted at rate r, or unpaced. -/
def rated (r : Nat) : State := { run with fe := { run.fe with launches := [{ job with rate := r }] } }

theorem witness_point : run.powerWrites .fw ∧ 4800 ≤ run.capW ∧ run.regField 0x200000 0 2 ≠ (2 : BitVec 2).toNat ∧
    (2 : BitVec 2) ≠ run.pwc.active ∧ run.regField 0x200000 0 2 ≠ (0 : BitVec 2).toNat ∧ (0 : BitVec 2) ≠ run.pwc.active ∧
    run.pwc.rateOf run.pwc.active.toNat run.admitPaced ≤ run.pwc.rateOf 2 run.admitPaced ∧
    run.pwc.rateOf 0 run.admitPaced < run.pwc.rateOf run.pwc.active.toNat run.admitPaced ∧
    run.fasterLaunch (run.pwc.rateOf 0 run.admitPaced) = false ∧
    (let s := rated 100000
     s.powerWrites .fw ∧ s.fasterLaunch (s.pwc.rateOf 0 s.admitPaced) = true) :=
  ⟨powers (by decide +kernel), by decide +kernel, by decide +kernel, by decide +kernel, by decide +kernel, by decide +kernel,
    by decide +kernel, by decide +kernel, by decide +kernel, powers (by decide +kernel), by decide +kernel⟩
theorem test_point : (let t := after (exec (.opPointRequest .fw 2) run);
      (t.pwc.active, t.pwc.admitPt, t.pwc.ramp)) = (2, run.pwc.active, true) ∧
    (let t := after (exec (.opPointRequest .fw 0) run);
      (t.pwc.active, t.pwc.admitPt, t.pwc.ramp)) = (0, 0, true) ∧
    (let t := after (exec (.opPointRequest .fw 0) (rated 100000));
      (t.pwc.active, t.pwc.admitPt, t.pwc.pend)) = (run.pwc.active, 0, some 0) ∧
    (after (exec (.opPointRequest .fw 3) run)).pwc = run.pwc := by decide +kernel

/-- run with Paced in force, requested; or a lowering to N0 pending. -/
def pacing : State := { run with regs := [(0x200000, 5)], pwc := { run.pwc with paceAct := true } }
def lowering (r : Nat) : State := { rated r with pwc := { run.pwc with pend := some 0 } }
def pacePending (b : Bool) : State :=
  { run with
    pwc := { run.pwc with pacePend := true }
    fe := { run.fe with launches := [{ job with paced := b }] } }
theorem witness_paced : (run.reg 0x200000).getLsbD 2 = false ∧ run.pwc.paceAct = false ∧ pacing.powerWrites .fw ∧
    (pacing.reg 0x200000).getLsbD 2 = true ∧ pacing.pwc.paceAct = true ∧ pacing.err.chip = none ∧
    (lowering 1).pwc.pend = some 0 ∧ (lowering 1).pwc.clamp = false ∧ (lowering 1).pwpUp = true ∧
    (lowering 1).fasterLaunch ((lowering 1).pwc.rateOf 0 (lowering 1).admitPaced) = false ∧
    (lowering 100000).fasterLaunch ((lowering 100000).pwc.rateOf 0 (lowering 100000).admitPaced) = true ∧
    (pacePending true).pwc.pacePend = true ∧ (pacePending true).pwpUp = true ∧ (pacePending true).unpacedLaunch = false ∧
    (pacePending false).unpacedLaunch = true :=
  ⟨by decide +kernel, rfl, powers (by decide +kernel), by decide +kernel, rfl, rfl, rfl, rfl, by decide +kernel, by decide +kernel,
    by decide +kernel, rfl, by decide +kernel, by decide +kernel, by decide +kernel⟩
theorem test_paced : (let t := after (exec (.pacedRequest .fw true) run);
      (t.pwc.paceAct, t.pwc.pacePend)) = (false, true) ∧
    (let t := after (exec (.pacedRequest .fw false) pacing);
      (t.pwc.paceAct, (t.hum 3).vset)) = (false, BitVec.ofNat 10 pacing.pwc.common) ∧
    (after (exec .opLowerTakesEffect (lowering 1))).pwc.active = 0 ∧
    (after (exec .pacedTakesEffect (pacePending true))).pwc.paceAct = true ∧
    (after (exec .pacedTakesEffect (pacePending false))).pwc.paceAct = false ∧
    ((after (exec (.pacePermit 0) pacing)).hum 3).steps = 1 ∧
    ((after (exec (.pacePermit 0) { pacing with board := { pacing.board with xtal := false } })).hum 3).steps = 0 := by decide +kernel

def ramping : State := { run with pwc := { run.pwc with ramp := true, active := 2 } }
theorem witness_ramp : ramping.pwc.ramp = true ∧ ramping.pwc.clamp = false ∧ ramping.pwc.paceAct = false ∧ ramping.pwpUp = true ∧
    pacing.board.xtal = true ∧ (let s := { procIn 10 .starting with pwc := ramping.pwc }; s.pwc.ramp = true ∧ s.pwpUp = false) := by
  decide +kernel
theorem test_ramp : (let t := after (exec .setpointRampDone ramping)
    (t.pwc.ramp, t.pwc.admitPt, t.pwc.shared, (t.hum 3).vset)) =
      (false, 2, ramping.pwc.vsetOf 2, BitVec.ofNat 10 (ramping.pwc.vsetOf 2)) := by decide +kernel

theorem witness_cap_write : run.powerWrites .fw ∧ run.regField 0x200010 0 13 ≠ (4000 : BitVec 13).toNat ∧ (4000 : BitVec 13).toNat < 4800 ∧
    run.pwc.active ≠ 0 := ⟨powers (by decide +kernel), by decide +kernel⟩
theorem test_cap_write : (let t := after (exec (.capWrite .fw 4000) run)
    (t.pwc.active, t.reg 0x200010)) = (0, 4000) := by decide +kernel

/-- run with every regulator at mv, and hummock 5 on with no launch, hummock 6 Gated by the cap where b. -/
def capped (mv : Nat) (b : Bool) : State :=
  { run with
    hums := [(3, busy), (5, { Hummock.reset with power := .running }), (6, { Hummock.reset with capg := b })]
    pwc := { run.pwc with common := mv } }
/-- The same at 600 mV, within a ramp. -/
def cappedRamp (b : Bool) : State := { capped 600 b with pwc := { (capped 600 b).pwc with ramp := true } }
theorem witness_cap_tick : run.board.coreOn = true ∧ run.capW < (6000 : BitVec 16).toNat ∧ (capped 740 false).capFloor < 740 ∧
    (capped 600 false).pwc.common < (capped 600 false).pwc.vsetOf (capped 600 false).pwc.active.toNat ∧
    (capped 600 false).pwc.common ≤ (capped 600 false).capFloor ∧ (capped 600 false).hottest = some 5 ∧
    100 * (1000 : BitVec 16).toNat ≤ 98 * run.capW ∧ (capped 600 true).lowestCapg = some 6 ∧ (capped 600 false).lowestCapg = none ∧
    (capped 600 false).pwc.clamp = false ∧ (capped 600 false).pwc.ramp = false ∧ (capped 600 false).pwc.paceAct = false ∧
    (capped 600 false).pwpUp = true ∧ (BitVec.ofNat 16 run.capW).toNat ≤ run.capW ∧
    98 * run.capW < 100 * (BitVec.ofNat 16 run.capW).toNat ∧
    (cappedRamp true).pwc.ramp = true ∧ (cappedRamp true).lowestCapg = some 6 ∧ (cappedRamp false).lowestCapg = none ∧
    (let s := { capped 600 false with fw := (procIn 10 .starting).fw }; s.pwpUp = false ∧ s.board.coreOn = true) := by decide +kernel
theorem test_cap_tick : (let t := after (exec (.capTick 6000 9) (capped 740 false));
      (t.pwc.common, (t.hum 3).vset, t.pwc.pkgW, t.pwc.energy)) = (735, 735, 6000, 6000) ∧
    (let t := after (exec (.capTick 6000 9) (capped 600 false));
      ((t.hum 5).power, (t.hum 5).capg, (t.hum 3).power)) = (.gated, true, .running) ∧
    ((after (exec (.capTick 1000 9) (capped 600 true))).hum 6).capg = false ∧
    (after (exec (.capTick 1000 9) (capped 600 false))).pwc.common = 605 ∧
    (after (exec (.capTick (BitVec.ofNat 16 run.capW) 9) (capped 600 false))).pwc.common = 600 ∧
    (let t := after (exec (.capTick 6000 9) (cappedRamp false))
     ((t.hum 5).power, t.pwc.common)) = (.running, 600) ∧
    ((after (exec (.capTick 1000 9) (cappedRamp true))).hum 6).capg = false := by decide +kernel

theorem witness_gating : ((capped 600 false).hum (5 : Hum).val).power = .running ∧ ((capped 600 false).hum (5 : Hum).val).holder = none ∧
    (let s := { capped 600 false with regs := [(0x200018, 10)] }
     s.regField 0x200018 0 16 ≠ 0 ∧ s.procReady (secOf (5 : Hum).val) = true ∧ s.err.chip = none) ∧
    ((capped 600 false).hum (3 : Hum).val).holder ≠ none ∧ run.board.coreOn = true ∧ (run.hum (7 : Hum).val).power = .gated ∧
    run.pwc.wakeQ = [] ∧ run.pwc.granted = [] ∧ ((runWith fun h => { h with power := .still }).hum (3 : Hum).val).power = .still := by
  decide +kernel
theorem test_gating : ((after (exec (.idleGateTimeout 5) { capped 600 false with regs := [(0x200018, 10)] })).hum 5).power = .gated ∧
    ((after (exec (.wakeRequest 3) (runWith fun h => { h with power := .still }))).hum 3).power = .running ∧
    (after (exec (.wakeRequest 7) run)).pwc.wakeQ = [⟨7, false⟩] := by decide +kernel

/-- Hummock 7 wakes with a token, whose program is placed where b. -/
def waking (b : Bool) : State :=
  { run with
    hums := [(7, { Hummock.reset with power := .waking, holder := if b then some held else none, mere := [(4, 9)] })]
    pwc := { run.pwc with granted := [⟨7, b⟩] } }
theorem witness_wake : ((waking false).pwc.granted.find? fun w => w.g == (7 : Hum)) = some ⟨7, false⟩ ∧
    ((waking false).hum (7 : Hum).val).power = .waking ∧ (waking false).noStalls ∧ (waking false).pwc.clamp = false ∧
    ((waking false).hum (7 : Hum).val).holder = none ∧ (waking true).noStalls ∧ ((waking true).hum (7 : Hum).val).holder = some held ∧
    ((waking true).pwc.granted.find? fun w => w.g == (7 : Hum)) = some ⟨7, true⟩ ∧ ((waking true).hum (7 : Hum).val).power = .waking ∧
    ((waking true).hum (7 : Hum).val).seq.st ≠ .gated ∧ held.entry.toNat < held.codeLen :=
  ⟨by decide +kernel, by decide +kernel, ⟨rfl, rfl⟩, rfl, by decide +kernel, ⟨rfl, rfl⟩, by decide +kernel⟩
/-- Hummock 7 was gated again while its token stands. -/
def unwoken : State := { run with pwc := { run.pwc with granted := [⟨7, false⟩] } }
theorem witness_unwoken : (unwoken.pwc.granted.find? fun w => w.g == (7 : Hum)) = some ⟨7, false⟩ ∧
    (unwoken.hum (7 : Hum).val).power ≠ .waking ∧ unwoken.board.coreOn = true ∧ unwoken.err.chip = none := by decide +kernel
theorem test_unwoken : (let t := after (exec (.wakeComplete 7) unwoken)
    (t.pwc.granted, t.pwc.wakes, (t.hum 7).power)) = ([], 0, .gated) := by decide +kernel
theorem test_wake : (let t := after (exec (.wakeComplete 7) (waking true))
    ((t.hum 7).power, (t.hum 7).seq.st, (t.hum 7).mere, t.pwc.granted, t.pwc.wakes)) = (.running, .issuing, [], [], 1) := by decide +kernel

/-- A wake of hummock 7 waits while n ramps of class 2 hold tokens. -/
def queued (n : Nat) (c : Bool) : State :=
  { run with
    hums := (List.range n).map fun k => (20 + k, { Hummock.reset with power := .waking })
    pwc := { run.pwc with wakeQ := [⟨7, c⟩], granted := ([20, 21, 22, 23] : List Hum).take n |>.map fun g => ⟨g, false⟩ } }
theorem witness_token : (queued 0 false).pwpUp = true ∧ nextWake (queued 0 false).voidWakes.servable = some ⟨7, false⟩ ∧
    (queued 0 false).pwc.granted.length < 4 ∧ 4 ≤ (queued 4 true).pwc.granted.length ∧
    nextWake (queued 4 true).voidWakes.servable = some ⟨7, true⟩ ∧
    ((queued 4 true).pwc.granted.filter fun x => !x.cls1).getLast? = some ⟨23, false⟩ ∧ (23 : Hum) ≠ 7 ∧
    nextWake (queued 4 false).voidWakes.servable = some ⟨7, false⟩ ∧ 4 ≤ (queued 4 false).pwc.granted.length := by decide +kernel
/-- A wake of hummock 7 that waits already. -/
theorem witness_wake_again : (queued 0 false).board.coreOn = true ∧ (queued 0 false).err.chip = none ∧
    ((queued 0 false).hum (7 : Hum).val).power = .gated ∧
    ∃ w, (w ∈ (queued 0 false).pwc.wakeQ ∨ w ∈ (queued 0 false).pwc.granted) ∧ w.g = 7 := by
  exact ⟨by decide +kernel, by decide +kernel, by decide +kernel, ⟨7, false⟩, Or.inl (List.mem_cons_self ..), rfl⟩
theorem test_token : ((after (exec .wakeTokenGrant (queued 0 false))).hum 7).power = .waking ∧
    (let t := after (exec .wakeTokenGrant (queued 4 true))
     ((t.hum 7).power, (t.hum 23).power, t.pwc.wakeQ)) = (.waking, .gated, [⟨23, false⟩]) ∧
    (after (exec .wakeTokenGrant (queued 4 false))).pwc.wakeQ = [⟨7, false⟩] := by decide +kernel

/-- handing, where one processor restarts. -/
def quieting : State :=
  { handing with fw := { handing.fw with procs := (List.range 12).map fun k =>
      (k, ⟨if k = 4 then .starting else if k < 11 then .quiescing else .ready, 0, [], 0⟩) } }
def clamped : State := after (exec (.prochotN false) run)
theorem witness_clamp : run.board.coreOn = true ∧ run.pwc.clamp = false ∧ run.fw.handoff = none ∧ clamped.pwc.clamp = true ∧
    clamped.pwc.anyCause = true ∧ clamped.pwc.clearMs ≠ 10 ∧
    (let s := { clamped with pwc := { clamped.pwc with eProchot := false, clearMs := 10 } }
     s.pwc.clamp = true ∧ s.pwc.anyCause = false ∧ s.pwc.clearMs = 10) ∧
    quieting.board.coreOn = true ∧ quieting.pwc.clamp = false ∧ quieting.fw.handoff = some (1, true) ∧ quieting.fe.launches = [] ∧
    quieting.fe.dbq = [] ∧ quieting.ep.waitMsgs = [] := by decide +kernel
theorem test_clamp : (clamped.pwc.common, (clamped.hum 3).vset, clamped.board.alertN, clamped.pwc.admitPt) = (620, 620, false, 0) ∧
    (let t := after (exec (.clampRelease 50) { clamped with pwc := { clamped.pwc with eProchot := false, clearMs := 10 } })
     (t.pwc.clamp, t.pwc.ramp)) = (false, true) ∧
    (let t := after (exec (.powerOverLimit true) quieting)
     (t.fw.handoff, t.fw.pend, (t.proc 0).st, (t.proc 4).st)) = (none, some true, .ready, .starting) := by decide +kernel
theorem test_clock_loss : (after (exec (.clockLoss .sysXtal) run)).board.xtal = false ∧
    (after (exec (.clockLoss .pcie) run)).link.up = false ∧
    ((after (exec (.clockLoss .dz) (fab (pkt 1 8)))).port 0).ls = .down := by decide +kernel

/-! ### Configuration, events and the host -/

/-- up with region 0 closed, its registers committed with rate register 0x800200 at v. -/
def closed (v w : BitVec 64) : State :=
  let s : State := { up with regs := [(0x800200, v)] }
  let r := s.regionCrc 0
  { s with
    regs := [(0x100100, r.setWidth 64), (0x800200, w)]
    cip := { s.cip with isOpen := 0x3FE, copies := [(0, s.configCopy 0)] } }
theorem witness_config : (closed 0 0).privileged .host ∧ (closed 0 0).regionRuns (0 : Fin 10).val = true ∧
    (closed 0 0).regionOpen (0 : Fin 10).val = false ∧ (closed 0 0).regionCrc (0 : Fin 10).val = (closed 0 0).cfgRefOf (0 : Fin 10).val ∧
    (closed 0 1).regionOpen (0 : Fin 10).val = false ∧ (closed 0 1).regionCrc (0 : Fin 10).val ≠ (closed 0 1).cfgRefOf (0 : Fin 10).val ∧
    (closed 0 1).cip.drift.getLsbD (0 : Fin 10).val = false ∧ (closed 0 1).regionRuns (0 : Fin 10).val = true :=
  ⟨⟨by decide +kernel, rfl⟩, by decide +kernel⟩
theorem test_config_open : (after (exec (.cipCfgOpen .host 1) (closed 0 0))).regionOpen 0 = true ∧
    (let t := after (exec (.cipCfgOpen .host 1) (closed 0 0))
     (after (exec (.cipCfgCommit .host 1) t)).regionOpen 0) = false := by decide +kernel

/-- The drift of closed is found. -/
def drifted : State := after (exec (.configCheckPass 0) (closed 0 1))
theorem witness_drift : drifted.regionRuns (0 : Fin 10).val = true ∧ drifted.cip.drift.getLsbD (0 : Fin 10).val = true ∧
    drifted.procReady fepIx = true ∧ drifted.regionOpen (0 : Fin 10).val = false ∧
    copyCrc (sget [] drifted.cip.copies (0 : Fin 10).val) (0 : Fin 10).val = drifted.cfgRefOf (0 : Fin 10).val := by decide +kernel
theorem test_drift : drifted.err.eq0.eseq = 1 ∧ (after (exec (.configCheckPass 0) (closed 0 0))).err.eq0.eseq = 0 ∧
    (let t := after (exec (.driftRewriteDone 0) drifted)
     (t.reg 0x800200, t.cip.drift)) = (0, 0) := by decide +kernel

/-- Queue 0 enabled with 256 entries, mask 0xFF; one event waits. -/
def evented : State :=
  { up with
    regs := [(0x301000, 0x1000), (0x301008, 0x11), (0x301028, 0xFF)]
    err := { up.err with eq0 := { EventQ.reset with backlog := [(3, 9, 0, [5])], eseq := 9 } } }
theorem witness_event : evented.eqReady (0 : Fin 2).val = some (3, 9, 0, [5]) ∧
    (up.reg (eqBase (0 : Fin 2).val + 8)).getLsbD 0 = false ∧ (0x11 : BitVec 64).getLsbD 0 = true ∧
    ((evented.eq (0 : Fin 2).val).tail.toNat + 1) % (evented.eqSize (0 : Fin 2).val).getD 1024 ≠
      (7 : BitVec 16).toNat % (evented.eqSize (0 : Fin 2).val).getD 1024 ∧
    ((evented.eq (0 : Fin 2).val).tail.toNat + 1) % (evented.eqSize (0 : Fin 2).val).getD 1024 ≠
      (0 : BitVec 16).toNat % (evented.eqSize (0 : Fin 2).val).getD 1024 := by decide +kernel
theorem witness_event_privileged : evented.privileged .host := ⟨by decide +kernel, rfl⟩
theorem test_event : (let t := after (exec (.eventQueueWrite 0) evented)
    ((t.eq 0).tail, (t.eq 0).backlog.length, t.out.length)) = (1, 0, 1) ∧
    (after (exec (.eventQueueWrite 0) evented)).out = [.hostWrite 0x1000 ([3, 1, 0, 0, 9, 0, 0, 0, 5] ++ List.replicate 23 0)] := by
  decide +kernel
theorem test_event_failed : (let t := after (exec (.eventWriteFailed 0 .unsupported) evented)
    ((t.eq 0).blkd, (t.eqReady 0).isNone, (after (exec (.eqHeadWrite .host 0 7) t)).eqReady 0 == some (3, 9, 0, [5]))) = (true, true, true) := by
  decide +kernel
theorem test_event_enable : (let t := after (exec (.eqEnable .host 0 0x11)
      { up with err := { up.err with eq0 := { EventQ.reset with tail := 4, phase := false } } })
    ((t.eq 0).tail, (t.eq 0).phase)) = (0, true) := by decide +kernel

theorem test_link_reset : (let t := after (exec (.hostLinkReset .hotReset) { run with regs := [(0x40, 0x81)] })
    (t.link.up, t.reg 0x40, t.ep.st)) = (false, 0x80, .running) := by decide +kernel
theorem witness_link_up : up.board.coreOn = true ∧ 5 ≤ up.board.step ∧ up.board.step ≠ 7 ∧
    (let s := { up with board := { up.board with step := 7, released := false } }
     s.board.coreOn = true ∧ s.board.step = 7 ∧ s.board.stopped = false ∧ s.board.released = false) := by decide +kernel

/-- up with bytes 7 and 8 at 0x100 of device memory. -/
def plain : State := { up with mem := { up.mem with hbm := [(0x100, 7), (0x101, 8)] } }
theorem witness_bar2 : plain.bar2Plain (0x100 : BitVec 42).toNat 2 0x100 ∧ sectorHeld.hostOk = true ∧
    (0x100 : BitVec 42).toNat + bar2Len (.read 2) ≤ 2 ^ sectorHeld.link.bar2Log2 ∧
    sectorHeld.bar2Open (sectorHeld.bar2Dpa (0x100 : BitVec 42).toNat) (bar2Len (.read 2)) = false :=
  ⟨⟨by decide +kernel, by decide, by decide +kernel, by decide +kernel, by decide +kernel, by decide, by decide +kernel, rfl, by decide +kernel⟩,
    by decide +kernel⟩
theorem witness_bar2_masked : (∀ k, (plain.stack k).st ≠ .srefIdle) ∧ plain.hostOk = true ∧
    (0x100 : BitVec 42).toNat + 2 ≤ 2 ^ plain.link.bar2Log2 := ⟨fun _ => nofun, by decide +kernel⟩
theorem test_bar2_masked : (after (exec (.bar2Access 0x100 (.masked [none, some 9])) plain)).mem.hbm = [(0x100, 7), (0x101, 9)] ∧
    (after (exec (.bar2Access 0x100 (.poisoned 2)) plain)).out = [.aerPoison] := by decide +kernel
theorem test_bar2 : (after (exec (.bar2Access 0x100 (.read 2)) plain)).out = [.completion [7, 8] false] ∧
    (after (exec (.bar2Access 0x100 (.write [0, 9])) plain)).mem.hbm = [(0x101, 9)] ∧
    (let t := after (exec (.bar2Access 0x100 (.read 2)) sectorHeld)
     (t.link.stalls.length, (after (exec .bar2StallTimeout t)).out)) = (1, [.completion [0, 0] false]) := by decide +kernel
theorem witness_bar2_stall : (let t := after (exec (.bar2Access 0x100 (.read 2)) sectorHeld)
    t.link.stalls.find? fun x => !t.sectorRuns (dpaSector (t.bar2Dpa x.1.toNat))) = some (0x100, .read 2) := by decide +kernel
theorem witness_hummock_read : run.hostOk = true ∧ run.err.halted = false ∧ (0x2008 : BitVec 19).toNat < 0x40000 ∧
    (run.hum (3 : Hum).val).power = .running ∧ run.humOpen (3 : Hum).val = true ∧
    (∀ a ∈ run.link.regStalls, a.unit ≠ .hummock (3 : Hum)) ∧ sectorHeld.inReset (secOf (3 : Hum).val) = true := by decide +kernel
theorem test_hummock_read : (after (exec (.humBlockRead .host 3 0x2008) run)).out = [.completion (leBytes 8 5) false] := by decide +kernel
/-- Vector 5 is pending: masked or not, in D3hot or not. -/
def vectored (u d : Bool) : State :=
  { up with
    link := { up.link with pba := [(5, true)], unmasked := if u then [(5, true)] else [], d3 := d }
    regs := [(0x600050, 0xFEE00000), (0x600058, 0x41)] }
theorem witness_vector : (vectored false false).hostOk = true ∧ sget false (vectored false false).link.pba (5 : BitVec 11).toNat = true ∧
    (vectored true true).link.pba = [((5 : BitVec 11).toNat, true)] ∧
    sget false (vectored true true).link.unmasked (5 : BitVec 11).toNat = true ∧ (vectored true true).link.up = true ∧
    (vectored true true).err.halted = false ∧ (vectored true true).board.released = true ∧
    (∀ p ∈ (vectored false true).link.pba, p.2 = false ∨ sget false (vectored false true).link.unmasked p.1 = false) := by decide +kernel
theorem test_unmask : (after (exec (.msixUnmask 5) (vectored false false))).out = [.msix 5 0xFEE00000 0x41] ∧
    (after (exec (.registerWrite .host .powerState 0 none (.write 0)) (vectored true true))).out = [.msix 5 0xFEE00000 0x41] ∧
    (after (exec (.registerWrite .host .powerState 0 none (.write 0)) (vectored false true))).out = [] := by decide +kernel
/-- Accesses of no register's size, misaligned ones, and the Busy bit of DOE Status. -/
theorem test_odd : (after (exec (.registerWrite .host .bar0 0x68 none .oddRead) up)).out = [.completion (leBytes 8 0) false] ∧
    (after (exec (.registerWrite .host .bar0 0x68 none .oddWrite) up)).reg 0x68 = up.reg 0x68 ∧
    (after (exec (.registerWrite .host .bar0 0x6C none (.write 7)) up)).reg 0x68 = up.reg 0x68 ∧
    (after (exec (.registerWrite .host .bar0 0x68 none .poisoned) up)).out = [.aerPoison] ∧
    ((after (exec (.registerWrite .host .doeStatus 0 none .read) (noMgp up))).out.map fun x => match x with
      | .configData w => w.getLsbD 0
      | _ => false) = [true] := by decide +kernel
theorem witness_ide : ((sealing []).ideOf (0 : BitVec 2).toNat).secure = true ∧ (up.ideOf (0 : BitVec 2).toNat).secure = false := by
  decide +kernel
theorem test_ide : (let t := after (exec (.ideIntegrityFailure 0) (sealing []))
    ((t.ideOf 0).secure, t.out)) = (false, [.aer 0]) := by decide +kernel
/-- An access to sector 0's block waits while the sector is in reset. -/
theorem witness_bridge_stall : sectorHeld.arrives .host = true ∧ bridgeOf (0x800000 : BitVec 26).toNat = .sector 0 ∧
    sectorHeld.inReset (0 : Sec).val = true := by decide +kernel
theorem test_bridge_stall : (let t := after (exec (.registerWrite .host .bar0 0x800000 none .read) sectorHeld)
    (t.out, t.link.regStalls)) = ([], [⟨.host, 0x800000, none, .read⟩]) := by decide +kernel
theorem witness_config_read : (atSix true).link.up = true ∧ (atSix true).err.halted = false ∧ (atSix true).board.released = false ∧
    (up.proc 5).st ≠ .off := by decide +kernel
/-- R475, R477: device ID and class code, and the rate and width of Link Status. -/
theorem test_config_identity : (configWord 0).extractLsb' 16 16 = 0x0096 ∧ (configWord 8).extractLsb' 8 24 = 0x120000 :=
  ⟨BitVec.extractLsb'_append_eq_left, BitVec.extractLsb'_append_eq_left⟩
theorem test_link_status : ((after (exec (.registerWrite .host .linkStatus 0 none .read)
    { up with link := { up.link with width := 8, rate := 6 } })).out.map fun x => match x with
      | .configData w => w
      | _ => 0) = [0x086] := by decide +kernel
theorem test_proc_status : (let t := after (exec (.registerWrite .fw .procStatus 5 none (.write 0x77)) up)
    ((sget Latch.reset t.err.latches 5).status, (sget Latch.reset t.err.latches 6).status)) = (0x77, 0) := by decide +kernel
theorem witness_lanes : trainedLanes 0 = none ∧ trainedLanes 0xFFFF = some (16, 0xFFFF) ∧ trainedLanes 0xFF7F = some (8, 0xFF00) := by
  decide +kernel
/-- up with regions 8 and 9 closed. -/
def shut : State := { up with cip := { up.cip with isOpen := 0x0FF } }
theorem witness_register_write : (0x68 : BitVec 26).toNat ∈ plainRegs ∧ up.privileged .host ∧ up.regionOpen 8 = true ∧ up.regionOpen 9 = true ∧
    shut.privileged .host ∧ shut.regionOpen 8 = false ∧ shut.regionOpen 9 = false ∧
    mergeFlds .host none (regFlds (0x68 : BitVec 26).toNat) (shut.reg (0x68 : BitVec 26).toNat) 3 ≠ shut.reg (0x68 : BitVec 26).toNat ∧
    up.hostOk = true ∧ up.link.up = true ∧ up.board.released = true ∧ 28 ≤ (40 : BitVec 64).toNat ∧ (40 : BitVec 64).toNat ≤ 42 :=
  ⟨by decide, up_host, by decide +kernel, by decide +kernel, ⟨by decide +kernel, rfl⟩, by decide +kernel⟩
theorem test_register_write : (let t := after (exec (.registerWrite .host .bar0 0x68 none (.write 3)) up)
    (t.reg 0x68, (after (exec (.registerWrite .host .bar0 0x68 none .read) t)).out)) = (3, [.completion (leBytes 8 3) false]) ∧
    (let t := after (exec (.registerWrite .host .bar0 0x68 none (.write 3)) shut)
     (t.reg 0x68 == shut.reg 0x68, t.cip.violClosed)) = (true, 1) ∧
    (after (exec (.registerWrite .page .bar4 (65536 * 2 + 8) none (.write 0x12345)) up)).reg 0x2050 = 0x2345 ∧
    (after (exec (.registerWrite .host .powerState 0 none (.write 3)) up)).link.d3 = true := by decide +kernel

/-! ### Standards that the specification names -/

/-- The check value of CRC-32C. -/
theorem test_crc32c : crc32c ("123456789".toList.map fun c => BitVec.ofNat 8 c.toNat) = 0xE3069283 := by decide +kernel
/-- FIPS 197, appendix C.3. -/
theorem test_aes : beNat (aesEncrypt (beBytes 32 0x000102030405060708090a0b0c0d0e0f101112131415161718191a1b1c1d1e1f)
    (beBytes 16 0x00112233445566778899aabbccddeeff)) = 0x8ea2b7ca516745bfeafc49904b496089 := by decide +kernel
/-- IEEE 1619, vector 10: its first 32 bytes. -/
theorem test_xts : (let key := BitVec.ofNat 512 (leNat (beBytes 64
      0x27182818284590452353602874713526624977572470936999595749669676273141592653589793238462643383279502884197169399375105820974944592))
    let unit : List Byte := (List.range 32).map (BitVec.ofNat 8)
    let c := xtsEncrypt key 0xFF unit
    (beNat c, xtsDecrypt key 0xFF c == unit)) =
    (0x1c3b3a102f770386e4836c99e370cf9bea00803f5e482357a4ae12d414a3e63b, true) := by decide +kernel
/-- The GCM specification, test cases 13 and 14. -/
theorem test_gcm : (let z := List.replicate 32 0
    let iv := List.replicate 12 0
    let c := gcmCtr z iv (List.replicate 16 0)
    (beNat (gcmTag z iv [] []), beNat c, beNat (gcmTag z iv [] c))) =
    (0x530f8afbc74536b9a963b4f1c4cb738b, 0xcea7403d4d606b6e074ec5d3baf39d18, 0xd0d1c8a799996bf0265b98b5d48ab919) := by decide +kernel

/-! ### Board, sensors and start-up -/

/-- An EEPROM whose one multi-record, at byte 8, gives ID 2 and dimensions 5. -/
def eeprom : List Byte :=
  [1, 0, 0, 0, 0, 1, 0, 0xFE, 0xC0, 0x82, 8, 0x9C, 0x1A, 0xA4, 0xB7, 1, 1, 2, 0, 5, 0]
theorem test_eeprom : fruId eeprom = some (2, 5) ∧ fruId (eeprom.set 20 1) = none ∧ fruId (eeprom.take 20) = none := by decide +kernel
def good : BoardIn := ⟨false, false, 0, some eeprom, true, false⟩
theorem witness_standby : State.reset.board.standby = false ∧ (good.slotAOk = true ∨ good.slotBOk = true) ∧ good.strapTest = false ∧
    good.fru = some eeprom ∧ { good with slotAOk := false }.slotAOk = false ∧ { good with slotAOk := false }.slotBOk = false := by decide
theorem test_standby : (let t := after (exec (.standbyPowerGood good) State.reset)
    (t.board.step, (t.proc mgpIx).st, t.reg 0x400000)) = (3, .ready, 2 + 2 ^ 15 + 5 * 2 ^ 16) ∧
    (after (exec (.standbyPowerGood { good with slotAOk := false }) State.reset)).board.stopped = true := by decide +kernel

/-- Standby power stands, and the device is at step 3. -/
def atThree : State := after (execStandbyPowerGood good State.reset)
/-- The core rails come up group by group; and rail 8 before rail 7. -/
def inOrder : List (CoreRail × RailMove) :=
  [1, 2, 3, 5, 4, 6, 7, 8, 9, 0].flatMap fun r => [(r, .rises), (r, .settles)]
def tooSoon : List (CoreRail × RailMove) :=
  [1, 2, 3, 5, 4, 6, 8, 7, 9, 0].flatMap fun r => [(r, .rises), (r, .settles)]
def atFive : State := after (execPowerOnHoldRelease ⟨inOrder, []⟩ atThree)
theorem witness_hold : atThree.holdReady = true ∧ atThree.board.strapBist = false ∧ atThree.board.prochotN = true ∧
    (let b := inOrder.foldl Board.rail atThree.board; b.offender = none ∧ b.settled = 0x3FF) ∧
    (let b := tooSoon.foldl Board.rail atThree.board; b.offender = some 8 ∧ b.settled = 0x3FF) ∧
    (let b := (inOrder.take 19).foldl Board.rail atThree.board; b.offender = none ∧ b.settled ≠ 0x3FF) ∧
    atThree.board.standby = true ∧ atThree.board.coreOn = false ∧
    atFive.board.step = 5 ∧ atFive.board.coreOn = true ∧ atFive.board.stopped = false ∧ (1 : BitVec 24) ≠ 0 := by decide +kernel
theorem test_hold_keeps : (let t := after (exec (.powerOnHoldRelease ⟨tooSoon, []⟩) atThree)
    (t.board.coreOn, t.fw.logSeq - atThree.fw.logSeq)) = (false, 1) ∧
    (let t := after (exec (.powerOnHoldRelease ⟨inOrder.map (fun x => (x.1, .falls)) ++ inOrder, []⟩)
      (after (exec (.powerOnHoldRelease ⟨tooSoon, []⟩) atThree)))
     t.board.coreOn) = true := by decide +kernel
theorem test_hold : (atFive.board.coreOn, (atFive.proc 9).st, (atFive.stack 23).st, atFive.pwc.common) = (true, .ready, .training, 720) := by
  decide +kernel
theorem test_training_fails : (let t := after (exec (.hbmTrainingDone 1) atFive)
    (t.board.stopped, (t.stack 0).st, (t.stack 1).st)) = (true, .failed, .ready) := by decide +kernel
theorem witness_discovery : (atSix false).board.step = 6 ∧ (atSix false).board.coreOn = true ∧ (atSix false).board.stopped = false ∧
    (atSix false).link.up = false ∧ (atSix true).link.up = true ∧ (atSix true).board.released = false := by decide +kernel
theorem test_discovery : (after (exec .discoveryTimeout (atSix false))).board.step = 7 := by decide +kernel

theorem test_power_loss : (let t := after (exec (.corePowerLoss 2) { run with mss := { run.mss with fmkey := some 5 } })
      (t.board.coreOn, t.board.standby, t.hums, t.ep.st, t.mss.fmkey)) = (false, true, [], .idle, some 5) ∧
    (let t := after (exec .standbyPowerLoss run)
     (t.board.standby, t.hums, t.regs)) = (false, [], []) := by decide +kernel
def loose (o : Bool) (c : BitVec 8) : ContactFault := ⟨c, o, !o, false⟩
theorem witness_contact_bits : (let s := { up with mss := { up.mss with contacts := [loose false 7] } }
    s.mss.contacts = [loose false 7] ∧ (⟨7, false, true, true⟩ : ContactFault).code = (loose false 7).code ∧
      (loose false 7).high = false ∧ s.board.standby = true) := by decide +kernel
theorem test_contact_bits : (after (exec (.contactCheck [⟨7, false, true, true⟩])
    { up with mss := { up.mss with contacts := [loose false 7] } })).err.eq0.eseq = 1 := by decide +kernel
theorem witness_contact : up.board.standby = true ∧ up.procReady mgpIx = true ∧ up.board.step ≠ 6 ∧ loose true 0 ∉ up.mss.contacts ∧
    (∀ f ∈ [loose true 0], f ∈ { up.mss with contacts := [loose true 0] }.contacts) := by decide +kernel
theorem test_contact : (let t := after (exec (.contactCheck [loose true 0]) up)
      (t.link.up, t.link.perst, t.mss.contacts)) = (false, true, [loose true 0]) ∧
    (after (exec (.contactCheck [loose false 7]) up)).err.eq0.eseq = 1 := by decide +kernel

/-- A logic BIST of hummock 5 runs. -/
def bisting : State := after (exec (.bistRun (hdr 0 16) 0 0 5 0x200000) idle)
theorem witness_bist_end : (bisting.mss.bist.map fun b => (b.kind, b.scope, b.target)) = [(0, 0, 5)] := by decide +kernel
theorem test_bist_end : (after (exec (.bistComplete [⟨golden 0 0, 0⟩]) bisting)).mss.withheld = 0 ∧
    (let t := after (exec (.bistComplete [⟨1, 0⟩]) bisting)
     (t.mss.withheld.getLsbD 5, (t.hum 5).power)) = (true, .running) := by decide +kernel

theorem witness_bist_free : bisting.noStalls ∧ bisting.spanHeld ((0 : BitVec 6).toNat, 0x200000, 16) = false ∧ (5 : Nat) < 96 :=
  ⟨⟨rfl, rfl⟩, by decide +kernel⟩
/-- A processor that has restarted for 20 ms begins to rebuild. -/
theorem witness_sample : (∀ b, up.fw.handoff ≠ some (1, b)) ∧ (noMgp up).procReady mgpIx = false ∧
    (let s := { procIn 3 .starting with fw := { (procIn 3 .starting).fw with ms := 20 } }
     (s.proc (3 : Proc).val).st = .starting ∧ (s.proc (3 : Proc).val).since + 20 ≤ s.fw.ms + 1) := ⟨nofun, by decide +kernel⟩
theorem test_sample : ((after (exec (.sensorSample []) { procIn 3 .starting with
    fw := { (procIn 3 .starting).fw with ms := 20 } })).proc 3).st = .rebuilding := by decide +kernel
theorem witness_sensors : up.board.standby = true ∧ up.mss.waiting = [] ∧ up.board.coreOn = true ∧ up.mss.trip = none ∧
    100 * 16 ≤ (1760 : BitVec 16).toInt ∧ 110 * 16 ≤ (1760 : BitVec 16).toInt := by decide +kernel
theorem test_sensors : (let t := after (exec (.sensorSample [some ⟨1760, 0⟩, some ⟨400, 0⟩]) up)
    (t.pwc.clamp, t.board.thermtripN, (sget 0 t.mss.sens 0).extractLsb' 0 16, (sget 0 t.mss.sens 1).getLsbD 34)) =
    (true, false, 1760, false) := by decide +kernel
def moduled : State := { up with cwy := { up.cwy with ports := [(4, { Port.reset with modp := true })] } }
theorem witness_module_told : (let s := { moduled with mss := { moduled.mss with mods := [(4, ⟨false, false, 0, [], true⟩)] } }
    (s.modReg (4 : PortIx).val).told = true ∧ (s.modReg (4 : PortIx).val).read = false) ∧ (moduled.modReg (4 : PortIx).val).told = false := by
  decide +kernel
theorem test_module_told : (let t := after (exec (.moduleReadRetry 4 none) moduled)
    ((t.modReg 4).told, t.err.eq0.eseq, (after (exec (.moduleReadRetry 4 none) t)).err.eq0.eseq)) = (true, 1, 1) := by decide +kernel
theorem witness_module : moduled.procReady mgpIx = true ∧ (moduled.port (4 : PortIx).val).modp = true ∧
    (moduled.modReg (4 : PortIx).val).read = false := by decide +kernel
theorem test_module : (let t := after (exec (.moduleReadRetry 4 (some ⟨[1, 2], 255⟩)) moduled)
    ((t.modReg 4).maxp, (t.modReg 4).highpwr, t.err.eq0.eseq)) = (255, false, 1) := by decide +kernel

/-! ### Whole steps -/

theorem witness_memories : State.reset.memoriesOk ∧ ∃ t, step { plain with pending := [.bar2Access 0x100 (.write [0, 9])] } = .next t :=
  ⟨⟨rfl, fun _ => rfl⟩, _, rfl⟩
theorem witness_doorbell_launch : (∃ t, exec (.doorbellLaunch 1 4) (slotted 0) = .next t) ∧ (slotted 0).fe.dbq = [] ∧
    (let t := after (exec (.doorbellLaunch 1 4) (slotted 0))
     t.fe.launches.length = (slotted 0).fe.launches.length + 1) := ⟨⟨_, rfl⟩, by decide +kernel⟩
theorem witness_sessions_end : procRuns (sessions.proc mgpIx).st = true ∧ sessions.board.coreOn = true ∧ sessions.privileged .host ∧
    (∀ b, sessions.fw.handoff ≠ some (5, b)) ∧ sessions.procReady mgpIx = true :=
  ⟨by decide +kernel, rfl, ⟨by decide +kernel, rfl⟩, nofun, by decide +kernel⟩
theorem test_sessions_end : (after (exec (.watchdogFire 11 0 0 true) sessions)).mss.sessions = [] ∧
    (after (exec (.errResetChip .host) (noMgp sessions))).mss.sessions.length = 3 := by decide +kernel

end Sys2Proof.Tests
end

section
/-!
PROOFS. The host link (19 R475 to R483): a stream that fails ends the transfers that needed it, which refutes O53.
-/

namespace Sys2Proof.Machine

/-! ### What a response leaves alone -/

@[simp] theorem State.respond_mss (s : State) (b : Binding) (msg : List Byte) : (s.respond b msg).mss = s.mss := by
  unfold State.respond
  split
  case h_1 => exact foldl_keeps (fun t : State => t.mss = s.mss) State.inject (fun _ _ h => h) _ _ rfl
  case h_2 | h_3 => rfl
  case h_4 | h_5 => split <;> rfl

@[simp] theorem State.respond_link (s : State) (b : Binding) (msg : List Byte) : (s.respond b msg).link = s.link := by
  unfold State.respond
  split
  case h_1 => exact foldl_keeps (fun t : State => t.link = s.link) State.inject (fun _ _ h => h) _ _ rfl
  case h_2 | h_3 => rfl
  case h_4 | h_5 => split <;> rfl

/-! ### Transfers while no stream is Secure (16 R416; 19 R479) -/

@[simp] theorem State.answerXfer_xfers (s : State) (x : XferReq) (bs : List Byte) :
    (s.answerXfer x bs).mss.xfers = s.mss.xfers := by
  unfold State.answerXfer
  split
  · simp [State.answerIn, State.modSession]
  · rfl

@[simp] theorem State.answerXfer_link (s : State) (x : XferReq) (bs : List Byte) : (s.answerXfer x bs).link = s.link := by
  unfold State.answerXfer
  split
  · simp [State.answerIn, State.modSession]
  · rfl

/-- No stream of the host link is Secure. -/
def HostLink.noneSecure (l : HostLink) : Prop := ∀ i ∈ l.ide, i.2.secure = false

/-- A transfer needs a Secure stream. -/
theorem State.xferOk_of_noneSecure {s : State} (h : s.link.noneSecure) (x : XferReq) : s.xferOk x = false := by
  have hany : (s.link.ide.any fun i => i.2.secure) = false := by simpa [HostLink.noneSecure] using h
  simp [State.xferOk, hany]

/-- While no stream is Secure, every transfer that waits is answered, and none stays. -/
theorem State.startXfers_xfers_of_noneSecure {s : State} {n : Nat} (h : s.link.noneSecure) (hn : s.mss.xfers.length = n) :
    (s.startXfers n).mss.xfers = [] := by
  induction n generalizing s with
  | zero => exact List.length_eq_zero_iff.1 hn
  | succ n ih =>
    cases hx : s.mss.xfers with
    | nil => simp [State.startXfers, hx]
    | cons x rest =>
      have hrest : rest.length = n := by simpa [hx] using hn
      simp only [State.startXfers, hx, State.xferOk_of_noneSecure h x, Bool.false_eq_true, if_false]
      exact ih (by simpa [State.countMsg, State.modMss] using h) (by simpa [State.countMsg, State.modMss] using hrest)

/-- Where the link's one stream fails, no transfer stays in the queue. -/
theorem ideIntegrityFailure_xfers {s t : State} {k : BitVec 2} {x : IdeStream} (hide : s.link.ide = [(k.toNat, x)])
    (hx : x.secure = true) (ht : exec (.ideIntegrityFailure k) s = .next t) : t.mss.xfers = [] := by
  have hk : s.ideOf k.toNat = x := by simp [State.ideOf, hide, sget]
  have ht' : execIdeIntegrityFailure k s = .next t := ht
  simp only [execIdeIntegrityFailure, hk, hx, if_true, Host.Outcome.next.injEq] at ht'
  rw [← ht']
  refine State.startXfers_xfers_of_noneSecure (fun i hi => ?_) rfl
  have hi' : i ∈ sset IdeStream.reset [(k.toNat, x)] k.toNat { x with secure := false } := by
    rw [← hide]; exact hi
  by_cases h0 : ({ x with secure := false } : IdeStream) = IdeStream.reset
  · simp [sset, h0, sdel] at hi'
  · have hi : i = (k.toNat, { x with secure := false }) := by simpa [sset, h0, sins] using hi'
    rw [hi]

/-! ### O53 -/

/-- An EGRESS of frame 5 of sector 0 for context 2, asked for in session 1 on SMBus. -/
def egressOfFrame5 : XferReq := ⟨true, .smbus, 1, 2, 0, 5, 1, 0x10000⟩

/-- Session 1 is open and authenticated, context 2 is sealed and lets its frame 5 out, stream 0 has its keys and is Secure, and the transfer runs. -/
def egressing : State :=
  { State.reset with
    board := { Board.reset with standby := true, coreOn := true, step := 8, released := true }
    link := { HostLink.reset with up := true, perst := false, ide := [(0, ⟨[(0, some 7), (2, some 9)], true, true⟩)] }
    mss := { Mss.reset with
      xfers := [egressOfFrame5]
      sessions := [⟨1, .smbus, true, true, [], List.replicate 88 0, [], 0, 0, 0⟩] }
    mem := { MemState.reset with keys := [(2, 78)], loaded := 4, own := [(5, ⟨2, true, true⟩)] } }

/-- The transfer that runs is one that R416 lets run: the failure of the stream is what ends it. -/
theorem egressing_xferOk : egressing.xferOk egressOfFrame5 = true := by decide +kernel

/-- Refutes O53: its clause about a stream whose integrity fails says that the step changes the link and the outputs alone. While no
stream is Secure, EGRESS and INGRESS are refused (R479), so the failure of the last Secure stream takes the transfer that runs
(`egressing`) from the queue, and the management block changes too. -/
theorem not_hostResult : ¬ Obligations.HostResult := by
  unfold Obligations.HostResult
  intro h
  obtain ⟨-, -, -, -, -, -, -, -, -, -, -, hide, -⟩ := h egressing
  obtain ⟨t, ht, -, -, -, frame⟩ := (hide 0).1 rfl
  have hempty : t.mss.xfers = [] := ideIntegrityFailure_xfers (x := ⟨[(0, some 7), (2, some 9)], true, true⟩) rfl rfl ht
  have hsame := congrArg State.mss frame
  change t.mss = egressing.mss at hsame
  rw [hsame] at hempty
  exact List.cons_ne_nil _ _ hempty

end Sys2Proof.Machine
end

section
/-!
PROOFS. A packet at its destination (13 R317 to R320, 07 R179, 09 R222, 19 R487), which settles O36.
-/

namespace Sys2Proof.Machine

/-! ### What an access to device memory leaves alone -/

/-- An access to device memory that took s to t left the Causeway, the hummocks, the sluices, the contributions and the ownership
map alone, and made no error where there was none. -/
structure State.AccessFrame (s t : State) : Prop where
  cwy : t.cwy = s.cwy
  hums : t.hums = s.hums
  sluices : t.sluices = s.sluices
  contribs : t.mem.contribs = s.mem.contribs
  own : t.mem.own = s.mem.own
  clean : s.mem.err = [] → t.mem.err = []

namespace State.AccessFrame

theorem refl (s : State) : s.AccessFrame s := ⟨rfl, rfl, rfl, rfl, rfl, id⟩

theorem trans {s t u : State} (h : s.AccessFrame t) (k : t.AccessFrame u) : s.AccessFrame u :=
  ⟨k.cwy.trans h.cwy, k.hums.trans h.hums, k.sluices.trans h.sluices, k.contribs.trans h.contribs,
    k.own.trans h.own, fun e => k.clean (h.clean e)⟩

end State.AccessFrame

theorem State.wakeStacks_frame (s : State) (a n : Nat) : s.AccessFrame (s.wakeStacks a n) := by
  unfold State.wakeStacks
  refine foldl_keeps s.AccessFrame _ (fun t i h => ?_) _ _ (.refl s)
  dsimp only
  split
  · exact h.trans ⟨rfl, rfl, rfl, rfl, rfl, id⟩
  · exact h

theorem State.awaitZero_frame (s : State) (f : Nat) : s.AccessFrame (s.awaitZero f) := by
  unfold State.awaitZero
  split <;> exact ⟨rfl, rfl, rfl, rfl, rfl, id⟩

/-- Without an error nothing is met. -/
theorem State.eccHbm_of_clean {s : State} (h : s.mem.err = []) (lo hi ctx : Nat) : s.eccHbm lo hi ctx = (s, none) := by
  simp [State.eccHbm, h, srange]

theorem State.eccHbm_frame (s : State) (lo hi ctx : Nat) : s.AccessFrame (s.eccHbm lo hi ctx).1 := by
  have five : ((s.eccHbm lo hi ctx).1.cwy = s.cwy ∧ (s.eccHbm lo hi ctx).1.hums = s.hums) ∧
      (s.eccHbm lo hi ctx).1.sluices = s.sluices ∧ (s.eccHbm lo hi ctx).1.mem.contribs = s.mem.contribs ∧
      (s.eccHbm lo hi ctx).1.mem.own = s.mem.own := by
    unfold State.eccHbm
    refine foldl_keeps (fun a : State × Option Nat => (a.1.cwy = s.cwy ∧ a.1.hums = s.hums) ∧ a.1.sluices = s.sluices ∧
      a.1.mem.contribs = s.mem.contribs ∧ a.1.mem.own = s.mem.own) _ (fun a p h => ?_) _ _ ⟨⟨rfl, rfl⟩, rfl, rfl, rfl⟩
    dsimp only
    split <;> simpa [countEcc, State.memEvent, apply_ite, State.setErr] using h
  obtain ⟨⟨hc, hh⟩, hs, hm, ho⟩ := five
  exact ⟨hc, hh, hs, hm, ho, fun e => by rw [State.eccHbm_of_clean e]; exact e⟩

theorem State.physRead_frame (s : State) (who : Accessor) (a n ctx : Nat) : s.AccessFrame (s.physRead who a n ctx).s := by
  unfold State.physRead
  split
  · exact .refl s
  · split
    · exact ⟨rfl, rfl, rfl, rfl, rfl, id⟩
    · exact ((s.awaitZero_frame _).trans (State.wakeStacks_frame _ _ _)).trans (State.eccHbm_frame _ _ _ _)

theorem State.readEntry_frame (s : State) (c t i : Nat) : s.AccessFrame (s.readEntry c t i).1 := s.physRead_frame _ _ _ _

theorem State.walk_frame (s : State) (c va fuel level t : Nat) : s.AccessFrame (s.walk c va fuel level t).1 := by
  induction fuel generalizing s level t with
  | zero => exact .refl s
  | succ n ih => grind [State.walk, State.readEntry_frame, State.AccessFrame.refl, State.AccessFrame.trans]

theorem State.draw_frame (s : State) : s.AccessFrame s.draw.2 := ⟨rfl, rfl, rfl, rfl, rfl, id⟩

theorem State.setTlb_frame (s : State) (l : List (Nat × TlbEntry)) :
    s.AccessFrame { s with mem := { s.mem with tlb := l } } := ⟨rfl, rfl, rfl, rfl, rfl, id⟩

theorem State.xlate_frame (s : State) (u c va : Nat) (write : Bool) : s.AccessFrame (s.xlate u c va write).1 := by
  grind [State.xlate, State.walk_frame, State.draw_frame, State.setTlb_frame, State.AccessFrame.refl, State.AccessFrame.trans]

theorem State.xlateSpan_frame (s : State) (c a n : Nat) (write : Bool) : s.AccessFrame (s.xlateSpan c a n write).1 := by
  unfold State.xlateSpan State.xlateVia
  refine foldl_keeps (fun r : State × List TlbEntry × Xlat => s.AccessFrame r.1) _ (fun r p h => ?_) _ _ (.refl s)
  have hx := r.1.xlate_frame ((none : Option Nat).getD (vaSector p.1)) c p.1 write
  split
  · split
    · exact h
    · split <;> rename_i hr <;> rw [hr] at hx <;> exact h.trans hx
  · exact h

/-- What a translation leaves alone, device memory among it. -/
theorem State.frame_of_xlateSpan {s s1 : State} {c a n : Nat} {write : Bool} {r : List TlbEntry × Xlat}
    (h : s.xlateSpan c a n write = (s1, r)) : s.AccessFrame s1 ∧ s1.mem.hbm = s.mem.hbm := by
  have hf := s.xlateSpan_frame c a n write
  have hm := s.xlateSpan_hbm c a n write
  rw [h] at hf hm
  exact ⟨hf, hm⟩

/-! ### A write to an unprotected page -/

/-- Without an error no unit is corrected before a write. -/
theorem State.settleErr_of_clean {s : State} (h : s.mem.err = []) (lo hi : Nat) : s.settleErr lo hi = s := by
  simp [State.settleErr, errSilent, srange, h]

/-- What a write stands on when its bytes are stored. -/
theorem State.beforeWrite_frame (s : State) (f a n : Nat) : s.AccessFrame ((s.awaitZero f).wakeStacks a n) :=
  (s.awaitZero_frame f).trans (State.wakeStacks_frame _ a n)

theorem State.physWrite_frame {s : State} (h : s.mem.err = []) (who : Accessor) (a : Nat) (bs : List Byte) :
    s.AccessFrame (s.physWrite who a bs) := by
  have ht := s.beforeWrite_frame (dpaFrame a) a bs.length
  obtain hw | hw | ⟨t, rfl, hw⟩ := s.physWrite_cases who a bs <;> rw [hw]
  · exact .refl s
  · exact ⟨rfl, rfl, rfl, rfl, rfl, id⟩
  · rw [State.settleErr_of_clean (ht.clean h)]
    exact ht.trans ⟨rfl, rfl, rfl, rfl, rfl, fun e => by simp [State.eccWrite, sclear, e]⟩

/-- A context that is not sealed stores plain bytes in a frame that is not sealed (09 R230, R231). -/
theorem State.physWrite_plain {s : State} {c d : Nat} (h : s.mem.err = []) (hd : dpaReserved d = false)
    (hf : (s.owner (dpaFrame d)).isSealed = false) (hc : s.isSealed c = false) (bs : List Byte) :
    (s.physWrite (.ctx c) d bs).mem.hbm = bwrite s.mem.hbm d bs := by
  have ht := s.beforeWrite_frame (dpaFrame d) d bs.length
  have hown : s.ownOk (.ctx c) (dpaFrame d) true = true := by simp [State.ownOk, hf, hc]
  have hkey : ((s.awaitZero (dpaFrame d)).wakeStacks d bs.length).frameKey (dpaFrame d) = none := by
    simp only [State.frameKey, State.owner, ht.own]
    simp only [State.owner] at hf
    simp [hf]
  simp [State.physWrite, hd, hown, State.settleErr_of_clean (ht.clean h), hkey, plainWrite]

/-- A span on one 64 KiB page is one piece. -/
theorem piecesOf_onePage {a n : Nat} (ha : a < 2 ^ 52) (hn : 0 < n) (h : a % 65536 + n ≤ 65536) : piecesOf a n = [(a, n)] := by
  have hmin : Nat.min n (65536 - a % 65536) = n := Nat.min_eq_left (by omega)
  simp only [piecesOf, pieces, Nat.ne_of_gt hn, if_false, hmin, Nat.sub_self, if_true, Nat.mod_eq_of_lt ha]

/-- Under its leaf, an address of an unprotected page is read and written in one place. -/
theorem State.readDpa_plain (s : State) {e : TlbEntry} (h : (e.big && e.leaf.getLsbD 3) = false) (va : Nat) :
    (s.readDpa e va).1 = elemDpa e va := by
  unfold State.readDpa elemDpa
  cases hb : e.big with
  | false => rfl
  | true =>
    have h3 : e.leaf.getLsbD 3 = false := by simpa [hb] using h
    rw [h3]
    rfl

/-- Bytes written under the leaf of a plain page go to their place in device memory, and meet no trouble. -/
theorem State.vaWrite_plain {s : State} {c va d : Nat} {e : TlbEntry} {bs : List Byte} (h : s.plainAt c va bs.length e d)
    (hclean : s.mem.err = []) :
    ∃ t, s.vaWrite [e] c va bs [] = (t, .none) ∧ t.mem.hbm = bwrite s.mem.hbm d bs ∧ s.AccessFrame t := by
  obtain ⟨hhit, hflat, hva, hpage, rfl, hres, hframe, hctx⟩ := h
  cases bs with
  | nil => exact ⟨s, rfl, rfl, .refl s⟩
  | cons b bs =>
    have hflat : (e.big && e.leaf.getLsbD 3) = false := Bool.and_eq_false_imp.2 hflat
    refine ⟨s.physWrite (.ctx c) (elemDpa e va) (b :: bs), ?_, s.physWrite_plain hclean hres hframe hctx _,
      State.physWrite_frame hclean _ _ _⟩
    simp only [State.vaWrite, piecesOf_onePage hva (Nat.succ_pos bs.length) hpage, List.foldl_cons, List.foldl_nil,
      List.find?_cons, hhit, hflat, Bool.false_eq_true, if_false, s.readDpa_plain hflat, List.length_cons]
    simp

/-- What a write stores reads back, and the rest of memory stays. -/
theorem storedAt_bwrite (m : List Host.Cell) (d : Nat) (bs : List Byte) : storedAt m (bwrite m d bs) d bs :=
  ⟨bread_bwrite m d bs, fun _ h => h.elim (bget_bwrite_lt m bs) (bget_bwrite_ge m bs)⟩

/-! ### Delivery (13 R318 to R320) -/

/-- Each of the five rows hands a packet of its own type over. -/
theorem exec_packetRow {k : Packet} {ty : BitVec 8} {i : Instr} {s : State} (h : k.type = ty)
    (hi : exec i s = .next (if k.type = ty then s.deliver k else s)) : exec i s = .next (s.deliver k) := by rw [hi, if_pos h]

theorem exec_writePacket {k : Packet} (h : k.type = 0x01) (s : State) : exec (.writePacket k) s = .next (s.deliver k) :=
  exec_packetRow h rfl

theorem exec_reducePacket {k : Packet} (h : k.type = 0x02) (s : State) : exec (.reducePacket k) s = .next (s.deliver k) :=
  exec_packetRow h rfl

theorem exec_signalPacket {k : Packet} (h : k.type = 0x03) (s : State) : exec (.signalPacket k) s = .next (s.deliver k) :=
  exec_packetRow h rfl

theorem exec_ackPacket {k : Packet} (h : k.type = 0x08) (s : State) : exec (.ackPacket k) s = .next (s.deliver k) :=
  exec_packetRow h rfl

theorem exec_mgmtPacket {k : Packet} (h : k.type = 0x18) (s : State) : exec (.mgmtPacket k) s = .next (s.deliver k) :=
  exec_packetRow h rfl

theorem exec_deliverCmd {k : Packet} (h : k.type = 0x01 ∨ k.type = 0x02 ∨ k.type = 0x03 ∨ k.type = 0x08 ∨ k.type = 0x18) (s : State) :
    exec (deliverCmd k) s = .next (s.deliver k) := by
  rcases h with h | h | h | h | h
  · simpa [deliverCmd, h] using exec_writePacket h s
  · simpa [deliverCmd, h] using exec_reducePacket h s
  · simpa [deliverCmd, h] using exec_signalPacket h s
  · simpa [deliverCmd, h] using exec_ackPacket h s
  · simpa [deliverCmd, h] using exec_mgmtPacket h s

/-- The virtual channel of a packet that is well made is its type's (R318). -/
theorem vcOfType_of_wellMade {k : Packet} (h : malformed k = false) : vcOfType k.type = some k.vc := by
  simp only [malformed, Bool.or_eq_false_iff, bne_eq_false_iff_eq] at h
  obtain ⟨⟨⟨⟨⟨hvc, -⟩, -⟩, -⟩, -⟩, -⟩ := h
  exact hvc

/-- A request or an acknowledgement travels on VC0 or VC1, and so is held to its epoch and attempt. -/
theorem vc_of_attempt {k : Packet} (h : malformed k = false)
    (ht : k.type = 0x01 ∨ k.type = 0x02 ∨ k.type = 0x03 ∨ k.type = 0x08) : k.vc = 0 ∨ k.vc = 1 := by
  have hvc := vcOfType_of_wellMade h
  rcases ht with ht | ht | ht | ht <;> rw [ht] at hvc
  · exact .inl (Option.some.inj hvc).symm
  · exact .inl (Option.some.inj hvc).symm
  · exact .inl (Option.some.inj hvc).symm
  · exact .inr (Option.some.inj hvc).symm

/-- While no place among the tracked transfers becomes free, none that waits is taken (R319). -/
theorem State.freed_of_inbound {s t : State} (h : t.cwy.inbound = s.cwy.inbound) : t.freed s = t := by
  have : ¬ (1024 ≤ s.cwy.tracking ∧ t.cwy.tracking < 1024) := by simp only [Fabric.tracking, h]; omega
  exact if_neg this

theorem State.freed_of_tracking {s t : State} (h : s.cwy.tracking < 1024) : t.freed s = t :=
  if_neg fun c => Nat.not_lt.2 c.1 h

/-- A packet that waits joins the list (log 95). -/
theorem State.deliver_waits {s : State} {k : Packet} (h : s.waitsHere k = true) :
    s.deliver k = { s with cwy := { s.cwy with later := s.cwy.later ++ [k] } } := by
  simp only [State.deliver, State.deliverOne, h, if_true]
  exact State.freed_of_inbound rfl

theorem State.deliver_taken {s : State} {k : Packet} (h : s.waitsHere k = false) : s.deliver k = (s.takePacket k).freed s := by
  simp [State.deliver, State.deliverOne, h]

theorem State.deliver_malformed {s : State} {k : Packet} (h : malformed k = true) :
    s.deliver k = { s with cwy := { s.cwy with malf := satInc s.cwy.malf } } := by
  rw [State.deliver_taken (by simp [State.waitsHere, h])]
  simp only [State.takePacket, h, if_true]
  exact State.freed_of_inbound rfl

theorem State.deliver_stale {s : State} {k : Packet} (h : malformed k = false) (hvc : k.vc = 0 ∨ k.vc = 1) (hc : s.err.chip = none)
    (hs : s.freshness k = .stale) : s.deliver k = { s with cwy := { s.cwy with stale := satInc s.cwy.stale } } := by
  rw [State.deliver_taken (by simp [State.waitsHere, hs])]
  simp only [State.takePacket, h, hc, hvc, hs, Option.isSome_none, Bool.false_eq_true, if_false, if_true]
  exact State.freed_of_inbound rfl

theorem State.deliver_later {s : State} {k : Packet} (h : malformed k = false) (hvc : k.vc = 0 ∨ k.vc = 1) (hc : s.err.chip = none)
    (hs : s.freshness k = .later) : s.deliver k = { s with cwy := { s.cwy with later := s.cwy.later ++ [k] } } :=
  State.deliver_waits (by simpa [State.waitsHere, h, hc, hs] using hvc)

/-- What belongs to the running attempt waits for its transfer or its target alone. -/
theorem State.waitsHere_of_receives {s : State} {k : Packet} (h : s.receives k) (hvc : k.vc = 0 ∨ k.vc = 1) :
    s.waitsHere k = (s.xferWaits k || s.targetBusy k) := by
  obtain ⟨hm, hc, hf⟩ := h
  rcases hvc with hvc | hvc <;> simp [State.waitsHere, hm, hc, hf, hvc]

/-- What belongs to the running attempt and need not wait is applied. -/
theorem State.deliver_applied {s : State} {k : Packet} (h : s.receives k) (hvc : k.vc = 0 ∨ k.vc = 1) (hx : s.xferWaits k = false)
    (hb : s.targetBusy k = false) : s.deliver k = (s.applyPacket k).freed s := by
  rw [State.deliver_taken (by rw [State.waitsHere_of_receives h hvc, hx, hb]; rfl)]
  obtain ⟨hm, hc, hf⟩ := h
  simp [State.takePacket, hm, hc, hf]

/-- The first packet of a transfer waits exactly while 1,024 are tracked (R319). -/
theorem State.xferWaits_first {s : State} {k : Packet} (ht : k.type = 0x01 ∨ k.type = 0x02) (hx : k.xidx = 0)
    (hnew : s.cwy.inbound.find? (sameXfer k.src k.xid) = none) : s.xferWaits k = decide (1024 ≤ s.cwy.tracking) := by
  rcases ht with ht | ht <;> simp [State.xferWaits, ht, hx, hnew]

/-- Only a WRITE or a REDUCE waits for a place among the tracked transfers, or for its target. -/
theorem State.neverWaits {k : Packet} (h : (k.type == 0x01 || k.type == 0x02) = false) (s : State) :
    s.xferWaits k = false ∧ s.targetBusy k = false := by
  constructor
  · unfold State.xferWaits; rw [h]; rfl
  · unfold State.targetBusy; rw [h]; rfl

/-! ### Transfers (13 R319) -/

/-- The transfer that its first packet opens. -/
def openedBy (k : Packet) : Inbound := ⟨k.src, k.xid, 0, false, false, 0, k.ctx, k.sig, k.slu, k.att, false⟩

theorem State.trackXfer_first {s : State} {k : Packet} (hx : k.xidx = 0)
    (hnew : s.cwy.inbound.find? (sameXfer k.src k.xid) = none) : s.trackXfer k = (s, some (openedBy k)) := by
  simp [State.trackXfer, hnew, hx, openedBy]

/-- A transfer that no packet has opened is not among those tracked. -/
theorem filter_untracked {l : List Inbound} {src : BitVec 15} {xid : BitVec 16} (h : l.find? (sameXfer src xid) = none) :
    (l.filter fun x => !sameXfer src xid x) = l :=
  List.filter_eq_self.2 fun x hx => by simpa using List.find?_eq_none.1 h x hx

/-- A transfer put among those tracked, and taken from them, leaves them as they were. -/
theorem State.dropXfer_setXfer {s : State} {t : Inbound} (h : s.cwy.inbound.find? (sameXfer t.src t.xid) = none) :
    (s.setXfer t).dropXfer t.src t.xid = s := by
  have hself : sameXfer t.src t.xid t = true := by simp [sameXfer]
  simp [State.setXfer, State.dropXfer, State.modCwy, filter_untracked h, hself]

/-- A transfer of one packet that does not signal is over once it is applied: it is acknowledged, and tracked no longer. -/
theorem State.advanceXfer_single {s : State} {k : Packet} (hl : k.last = true) (hs : k.sig = false)
    (hnew : s.cwy.inbound.find? (sameXfer k.src k.xid) = none) :
    s.advanceXfer (openedBy k) k 0 = s.sendAck k.src k.xid 0 := by
  have hdrop (n : BitVec 32) (u : BitVec 15) :=
    State.dropXfer_setXfer (t := { openedBy k with next := n, lastSeen := true, left := 0, sig := false, slu := u }) hnew
  simp [State.advanceXfer, State.endXfer, hl, hs, openedBy] at hdrop ⊢
  rw [hdrop]

/-- A transfer some of whose contributions are not yet accepted goes on being tracked, and nothing is sent. -/
theorem State.advanceXfer_pending {s : State} {k : Packet} {n : Nat} (hn : 0 < n) :
    ∃ t, s.advanceXfer (openedBy k) k n = s.setXfer t :=
  ⟨_, by simp [State.advanceXfer, openedBy, Nat.ne_of_gt hn]; rfl⟩

/-! ### WRITE at its destination -/

/-- A WRITE to frames that are free does not wait for its target. -/
theorem State.targetBusy_write {s s1 : State} {k : Packet} {m : List TlbEntry} {e : TlbEntry} (ht : k.type = 0x01)
    (hx : s.xlateSpan k.ctx.toNat (k.addr.toNat % 2 ^ 52) k.payload.length true = (s1, m, .ok e)) (hf : s.framesBusy m = false) :
    s.targetBusy k = false := by
  have hspan : s.packetSpan k = (s1, m, .ok e) := by
    unfold State.packetSpan
    rw [ht]
    exact hx
  simp [State.targetBusy, ht, hspan, hf]

/-- R318, R319: a WRITE that is its whole transfer, on one plain page, stores its payload and is acknowledged. -/
theorem State.takeWrite_single {s s1 : State} {k : Packet} {e : TlbEntry} {d : Nat} (hx : k.xidx = 0) (hl : k.last = true)
    (hs : k.sig = false) (hnew : s.cwy.inbound.find? (sameXfer k.src k.xid) = none)
    (hxl : s.xlateSpan k.ctx.toNat (k.addr.toNat % 2 ^ 52) k.payload.length true = (s1, [e], .ok e))
    (hp : s1.plainAt k.ctx.toNat (k.addr.toNat % 2 ^ 52) k.payload.length e d) (hclean : s.mem.err = []) :
    ∃ u, s.takeWrite k = u.sendAck k.src k.xid 0 ∧ u.mem.hbm = bwrite s.mem.hbm d k.payload ∧ s.AccessFrame u := by
  obtain ⟨h1, hhbm⟩ := State.frame_of_xlateSpan hxl
  obtain ⟨u, hw, hu, h2⟩ := State.vaWrite_plain hp (h1.clean hclean)
  have h := h1.trans h2
  refine ⟨u, ?_, by rw [hu, hhbm], h⟩
  simp only [State.takeWrite, State.trackXfer_first hx hnew, hxl, hw]
  exact State.advanceXfer_single hl hs (by rwa [h.cwy])

/-! ### REDUCE at its destination -/

theorem reduceCount_eq (k : Packet) :
    reduceCount k = (if k.ord then k.payload.drop 8 else k.payload).length / contribBytes (k.addr.extractLsb' 52 4) := by
  unfold reduceCount
  dsimp only
  by_cases hb : contribBytes (k.addr.extractLsb' 52 4) = 0
  · simp [hb]
  · cases k.ord <;> simp [hb]

/-- R318: the contributions of a REDUCE packet, one for each element it carries. -/
theorem State.packetContribs_spec (s : State) (k : Packet) (m : List TlbEntry) :
    (s.packetContribs k m).length = reduceCount k ∧
    ∀ i y, (s.packetContribs k m)[i]? = some y → y.src = none ∧ y.xfer = some (k.src, k.xid) ∧ y.ctx = k.ctx ∧
      y.va = BitVec.ofNat 52 (k.addr.toNat % 2 ^ 52 + 4 * i) ∧ y.code = k.addr.extractLsb' 52 4 ∧
      y.bits = BitVec.ofNat 64 (field (if k.ord then k.payload.drop 8 else k.payload) (contribBytes (k.addr.extractLsb' 52 4) * i)
        (contribBytes (k.addr.extractLsb' 52 4))) ∧ y.ordered = k.ord ∧ y.att = k.att := by
  refine ⟨by simp [State.packetContribs], fun i y hy => ?_⟩
  simp only [State.packetContribs, List.getElem?_map, Option.map_eq_some_iff] at hy
  obtain ⟨j, hj, rfl⟩ := hy
  obtain ⟨-, rfl⟩ := List.getElem?_eq_some_iff.1 hj
  refine ⟨rfl, rfl, rfl, BitVec.eq_of_toNat_eq ?_, rfl, ?_, rfl, rfl⟩ <;> simp

/-- R318, R319: the first REDUCE packet of a transfer, whose span translates, puts its contributions on their way. -/
theorem State.takeReducePkt_first {s s1 : State} {k : Packet} {m : List TlbEntry} {e : TlbEntry} (hx : k.xidx = 0)
    (hnew : s.cwy.inbound.find? (sameXfer k.src k.xid) = none) (hn : 0 < reduceCount k)
    (hxl : s.xlateSpan k.ctx.toNat (k.addr.toNat % 2 ^ 52) (4 * reduceCount k) true = (s1, m, .ok e)) :
    ∃ t, s.takeReducePkt k = (s1.modMem fun mm => { mm with contribs := mm.contribs ++ s1.packetContribs k m }).setXfer t := by
  obtain ⟨t, ht⟩ := State.advanceXfer_pending
    (s := s1.modMem fun mm => { mm with contribs := mm.contribs ++ s1.packetContribs k m }) (k := k) hn
  exact ⟨t, by simp only [State.takeReducePkt, State.trackXfer_first hx hnew, hxl, ht]⟩

/-! ### SIGNAL at its destination -/

theorem State.serveAll_of_noWaiters {s : State} {n : Nat} (h : (s.sluice n).waiters = []) : s.serveAll n = s := by
  simp [State.serveAll, h, State.serve]

/-- A signal wakes no hummock while none has armed its wake sluice. -/
theorem State.wakeBySluice_of_unarmed {s : State} (h : ∀ g, (s.hum g).wsen = false) (n : Nat) : s.wakeBySluice n = s := by
  unfold State.wakeBySluice
  refine foldl_keeps (fun t : State => t = s) _ (fun t g ht => ?_) _ _ rfl
  subst ht
  dsimp only
  split
  · simp [h]
  · rfl

/-- R176, R179: a signal to a sluice without waiters adds to its count, which has room for it. -/
theorem State.remoteSignal_counts {s : State} {c rel n inc : Nat} (hn : s.sluiceOf c rel = some n) (hw : (s.sluice n).waiters = [])
    (hg : ∀ g, (s.hum g).wsen = false) (hroom : (s.sluice n).count.toNat + inc < 2 ^ 32) :
    s.remoteSignal c rel inc = s.setSluice n { (s.sluice n) with count := (s.sluice n).count + BitVec.ofNat 32 inc } := by
  have hcount : satAdd (s.sluice n).count inc = (s.sluice n).count + BitVec.ofNat 32 inc := by
    simp only [satAdd, hroom, if_true]
    exact BitVec.eq_of_toNat_eq (by simp)
  have hserve (x : Sluice) (hx : x.waiters = []) : (s.setSluice n x).serveAll n = s.setSluice n x :=
    State.serveAll_of_noWaiters (by simpa using hx)
  have hwake (x : Sluice) : (s.setSluice n x).wakeBySluice n = s.setSluice n x := 
    State.wakeBySluice_of_unarmed (s := s.setSluice n x) hg n
  have hovf : ¬ 2 ^ 32 ≤ (s.sluice n).count.toNat + inc := Nat.not_le.2 hroom
  have hsum := hserve { (s.sluice n) with count := (s.sluice n).count + BitVec.ofNat 32 inc } hw
  simp only [State.remoteSignal, hn, State.addSluice, hcount, hovf, decide_false, hsum, hwake, Bool.false_eq_true, if_false]

/-! ### A program fault (07 R175; 14 R350, R355) -/

/-- What a context abort touches neither at its start nor when it asks the group for an ABORT: device memory, the transfers tracked, and
that it runs. -/
structure State.AbortFrame (s t : State) : Prop where
  mem : t.mem = s.mem
  inbound : t.cwy.inbound = s.cwy.inbound
  ctxab : t.err.ctxab = s.err.ctxab

namespace State.AbortFrame

theorem refl (s : State) : s.AbortFrame s := ⟨rfl, rfl, rfl⟩

theorem trans {s t u : State} (h : s.AbortFrame t) (k : t.AbortFrame u) : s.AbortFrame u :=
  ⟨k.mem.trans h.mem, k.inbound.trans h.inbound, k.ctxab.trans h.ctxab⟩

end State.AbortFrame

theorem State.toChildren_abortFrame (s : State) (ty : MsgType) (m : CommitMsg) : s.AbortFrame (s.toChildren ty m) :=
  foldl_keeps s.AbortFrame (fun acc k => acc.sendMsg ty m k) (fun _ _ h => h.trans ⟨rfl, rfl, rfl⟩) _ _ (.refl s)

theorem State.failAttempt_abortFrame (s : State) : s.AbortFrame s.failAttempt := by
  unfold State.failAttempt
  dsimp only
  split <;> exact ⟨rfl, rfl, rfl⟩

/-- While a context abort runs, the rollback waits for it (R355). -/
theorem State.tryRollback_of_ctxab {s : State} (h : s.err.ctxab.isSome) : s.tryRollback = s := by
  have hnone : s.err.ctxab.isNone = false := by simpa using h
  unfold State.tryRollback
  split <;> simp [hnone]

/-- An attempt fails while a context abort runs: its hummocks stop, and nothing is rolled back yet. -/
theorem State.failAttempt_tryRollback_abortFrame {s : State} (h : s.err.ctxab.isSome) : s.AbortFrame s.failAttempt.tryRollback := by
  rw [State.tryRollback_of_ctxab (by rwa [s.failAttempt_abortFrame.ctxab])]
  exact s.failAttempt_abortFrame

/-- ABORT for an attempt that runs or is prepared fails it (R256). -/
theorem State.abortHere_of_open {s : State} (h : s.ep.st = .running ∨ s.ep.st = .prepared) (cause : BitVec 8) (att : BitVec 16) :
    ∃ f, s.abortHere cause att = (s.modEp f).failAttempt.tryRollback := by
  by_cases hc : cause = 3
  · refine ⟨fun e => { e with acted := some (e.c + 1, att), after := some cause, afterSunder := true }, ?_⟩
    rcases h with h | h <;> simp only [State.abortHere, State.modEp, if_pos hc, h]
  · refine ⟨fun e => { e with acted := some (e.c + 1, att), after := some cause }, ?_⟩
    rcases h with h | h <;> simp only [State.abortHere, State.modEp, if_neg hc, h]

theorem State.abortHere_abortFrame {s : State} (h : s.err.ctxab.isSome) (hst : s.ep.st = .running ∨ s.ep.st = .prepared)
    (cause : BitVec 8) (att : BitVec 16) : s.AbortFrame (s.abortHere cause att) := by
  obtain ⟨f, hf⟩ := State.abortHere_of_open hst cause att
  have hmod : s.AbortFrame (s.modEp f) := ⟨rfl, rfl, rfl⟩
  rw [hf]
  exact hmod.trans (State.failAttempt_tryRollback_abortFrame h)

@[simp] theorem State.toChildren_ep (s : State) (ty : MsgType) (m : CommitMsg) : (s.toChildren ty m).ep = s.ep :=
  foldl_keeps (fun t : State => t.ep = s.ep) (fun acc k => acc.sendMsg ty m k) (fun _ _ h => h) _ _ rfl

theorem State.decideAbort_abortFrame {s : State} (h : s.err.ctxab.isSome) (hst : s.ep.st = .running ∨ s.ep.st = .prepared)
    (cause : BitVec 8) : s.AbortFrame (s.decideAbort cause) := by
  have hchildren (t : State) (m : CommitMsg) (e : s.AbortFrame t) := e.trans (t.toChildren_abortFrame .abort m)
  unfold State.decideAbort
  dsimp only
  refine (hchildren _ _ ?_).trans (State.abortHere_abortFrame ?_ ?_ _ _)
  · exact ⟨rfl, rfl, rfl⟩
  · rwa [(State.toChildren_abortFrame _ _ _).ctxab]
  · rwa [State.toChildren_ep]

theorem State.memberFault_abortFrame {s : State} (h : s.err.ctxab.isSome) (cause : BitVec 8) :
    s.AbortFrame (s.memberFault cause) := by
  have hopen (hst : s.ep.st = .running ∨ s.ep.st = .prepared) : s.AbortFrame
      (if s.isCoord then (if s.decided then s else s.decideAbort cause)
       else if s.ep.sent || s.ep.failedAtt == some s.ep.att then s
       else (s.failAttempt.sendMsg .abortReq { s.failAttempt.ownMsg with info := cause } 0).tryRollback) := by
    split
    · split
      · exact .refl s
      · exact State.decideAbort_abortFrame h hst cause
    · split
      · exact .refl s
      · have hsent := s.failAttempt_abortFrame.trans
          (⟨rfl, rfl, rfl⟩ : s.failAttempt.AbortFrame (s.failAttempt.sendMsg .abortReq { s.failAttempt.ownMsg with info := cause } 0))
        rw [State.tryRollback_of_ctxab (by rwa [hsent.ctxab])]
        exact hsent
  unfold State.memberFault
  dsimp only
  split <;> rename_i hst
  · exact hopen (.inl hst)
  · exact hopen (.inr hst)
  · exact .refl s

theorem State.levelFault_abortFrame {s : State} (h : s.err.ctxab.isSome) (cause : BitVec 8) : s.AbortFrame (s.levelFault cause) := by
  unfold State.levelFault
  split
  · exact State.memberFault_abortFrame h cause
  · exact .refl s

theorem State.recordCause_abortFrame (s : State) (cause : BitVec 8) : s.AbortFrame (s.recordCause cause) := by
  unfold State.recordCause
  split <;> exact ⟨rfl, rfl, rfl⟩

/-- The mark of a level's start is in the error block alone. -/
theorem State.startMark_mem_cwy (s : State) (r : LevelRun) : (s.startMark r).mem = s.mem ∧ (s.startMark r).cwy = s.cwy :=
  ⟨State.event_mem .., State.event_cwy ..⟩

/-- A context abort leaves device memory and the transfers tracked as they are: what it discards it discards when it completes. -/
theorem State.contextAbort_mem_inbound (s : State) (code : BitVec 32) (cause : BitVec 8) :
    (s.contextAbort code cause).mem = s.mem ∧ (s.contextAbort code cause).cwy.inbound = s.cwy.inbound := by
  have started (s1 : State) (hm : s1.mem = s.mem ∧ s1.cwy = s.cwy) (hs : s1.err.ctxab.isSome) (p : Prop) [Decidable p] :
      ((if p then s1.recordCause cause else s1).levelFault cause).mem = s.mem ∧
        ((if p then s1.recordCause cause else s1).levelFault cause).cwy.inbound = s.cwy.inbound := by
    have hrec : s1.AbortFrame (if p then s1.recordCause cause else s1) := by
      split
      · exact s1.recordCause_abortFrame cause
      · exact .refl s1
    have h := hrec.trans (State.levelFault_abortFrame (by rwa [hrec.ctxab]) cause)
    exact ⟨h.mem.trans hm.1, h.inbound.trans (congrArg Fabric.inbound hm.2)⟩
  unfold State.contextAbort
  dsimp only
  split
  · exact ⟨State.event_mem .., congrArg Fabric.inbound (State.event_cwy ..)⟩
  · split
    · exact ⟨rfl, rfl⟩
    · split
      · exact ⟨rfl, rfl⟩
      · exact ⟨rfl, rfl⟩
      · exact started ((s.startMark (s.levelRun code)).modErr fun e => { e with ctxab := some (s.runCtx, s.levelRun code) })
          (s.startMark_mem_cwy (s.levelRun code)) rfl _

/-- R175: a program fault leaves its hummock FAULTED, and device memory and the transfers tracked as they are. -/
theorem State.programFault_spec (s : State) (g cause opc cls : Nat) (pc : BitVec 23) :
    ((s.programFault g cause opc cls pc).hum g).seq.st = .faulted ∧ (s.programFault g cause opc cls pc).mem = s.mem ∧
      (s.programFault g cause opc cls pc).cwy.inbound = s.cwy.inbound := by
  have unwait_hum (t : State) (f : Nat → Bool) (k : Nat) : (t.unwait f).hum k = t.hum k := rfl
  unfold State.programFault
  dsimp only
  generalize hs1 : State.event _ _ _ _ = s1
  obtain ⟨hm, hi⟩ := s1.contextAbort_mem_inbound (errCode 1 cls g (0x100 + cause)) 4
  refine ⟨by rw [unwait_hum, State.hum_modHum_same], hm.trans ?_, hi.trans ?_⟩ <;> subst hs1
  · exact State.event_mem ..
  · exact congrArg Fabric.inbound (State.event_cwy ..)

/-! ### ACK at its destination -/

/-- R319: an ACK of status 0 ends the transfer, and with it the CSEND that waits for it. -/
theorem State.takeAck_ok {s : State} {k : Packet} {o : Outbound} {i : Issued}
    (ho : s.cwy.outbound.find? (fun o => o.xid == k.xid && o.dst == k.src) = some o)
    (hi : (s.hum o.hum).unret.find? (fun i => i.id == o.id) = some i) (h0 : k.addr.toNat % 4 = 0) :
    s.takeAck k = ({ s with cwy := { s.cwy with
        outbound := s.cwy.outbound.filter fun x => !(x.xid == o.xid && x.dst == o.dst) } } : State).modHum o.hum fun h =>
      { h with unret := h.unret.map fun j => if j.id == o.id then { j with outstanding := 0, phase := .done } else j } := by
  have hi' : ((s.modCwy fun c => { c with outbound := c.outbound.filter fun x => !(x.xid == o.xid && x.dst == o.dst) }).hum
      o.hum).unret.find? (fun i => i.id == o.id) = some i := hi
  simp only [State.takeAck, ho, hi', h0, if_true]
  rfl

/-- R222: an ACK of status 1 is a program fault of the CSEND's hummock. -/
theorem State.takeAck_fault {s : State} {k : Packet} {o : Outbound} {i : Issued}
    (ho : s.cwy.outbound.find? (fun o => o.xid == k.xid && o.dst == k.src) = some o)
    (hi : (s.hum o.hum).unret.find? (fun i => i.id == o.id) = some i) (h1 : k.addr.toNat % 4 = 1) :
    s.takeAck k = ({ s with cwy := { s.cwy with
        outbound := s.cwy.outbound.filter fun x => !(x.xid == o.xid && x.dst == o.dst) } } : State).programFault o.hum 7 0x70 0x06 i.pc := by
  have hi' : ((s.modCwy fun c => { c with outbound := c.outbound.filter fun x => !(x.xid == o.xid && x.dst == o.dst) }).hum
      o.hum).unret.find? (fun i => i.id == o.id) = some i := hi
  simp only [State.takeAck, ho, hi', h1, if_true, Nat.one_ne_zero, if_false]
  rfl

/-! ### MGMT at its destination -/

/-- On a binding that is up a response is not lost (19 R476, R482). -/
theorem State.respond_of_bindingUp {s : State} {b : Binding} (h : s.bindingUp b = true) (msg : List Byte) :
    s.respond b msg = s.replied b msg := by
  have units (b : Binding) (us : List (List Byte)) : us.map (Out.mctp b) = us.flatMap fun u => [.mctp b u] := by
    simp [List.map_eq_flatMap]
  cases b with
  | causeway d => rfl
  | smbus => simp [State.respond, State.replied, sentUnits, units]
  | i3c => simp [State.respond, State.replied, sentUnits]
  | pcie =>
    simp only [State.bindingUp, Bool.and_eq_true] at h
    simp [State.respond, State.replied, sentUnits, units, h]
  | doe =>
    simp only [State.bindingUp, Bool.and_eq_true] at h
    simp [State.respond, State.replied, sentUnits, units, h]

/-- Reply packets are injected, and lead to no transfer. -/
theorem State.replied_inbound (s : State) (b : Binding) (msg : List Byte) : (s.replied b msg).cwy.inbound = s.cwy.inbound := by
  cases b with
  | causeway d => exact foldl_keeps (fun t : State => t.cwy.inbound = s.cwy.inbound) State.inject (fun _ _ h => h) _ _ rfl
  | smbus | i3c | pcie | doe => rfl

/-- R487: a reply that a relay waits for goes back to the relay's binding, and its last packet ends the relay. -/
theorem State.takeMgmt_reply {s : State} {k : Packet} {r : Relay} (hr : (s.mss.relays.find? fun r => r.dst == k.src) = some r)
    (hup : s.bindingUp r.binding = true) :
    s.takeMgmt k = ({ s with mss := { s.mss with
        relays := if (field k.payload 3 1).testBit 6 then s.mss.relays.erase r else s.mss.relays } } : State).replied r.binding
      ([r.eid] ++ leBytes 4 0x0001B7A4 ++ leBytes 2 k.src.toNat ++ k.payload) := by
  simp only [State.takeMgmt, hr]
  by_cases he : (field k.payload 3 1).testBit 6 = true
  case pos =>
    simp only [he, if_true]
    exact State.respond_of_bindingUp (s := { s with mss := { s.mss with relays := s.mss.relays.erase r } }) hup _
  case neg =>
    simp only [he]
    exact State.respond_of_bindingUp hup _

/-! ### Packets of the running attempt, by type -/

theorem State.deliver_write {s s1 : State} {k : Packet} {e : TlbEntry} {d : Nat} (ht : k.type = 0x01) (hr : s.receives k)
    (hx : k.xidx = 0) (hl : k.last = true) (hsig : k.sig = false) (hfew : s.cwy.tracking < 1024)
    (hnew : s.cwy.inbound.find? (sameXfer k.src k.xid) = none)
    (hxl : s.xlateSpan k.ctx.toNat (k.addr.toNat % 2 ^ 52) k.payload.length true = (s1, [e], .ok e))
    (hp : s1.plainAt k.ctx.toNat (k.addr.toNat % 2 ^ 52) k.payload.length e d) (hclean : s.mem.err = [])
    (hfree : s.framesBusy [e] = false) :
    ∃ u, s.deliver k = u.sendAck k.src k.xid 0 ∧ u.mem.hbm = bwrite s.mem.hbm d k.payload ∧ s.AccessFrame u := by
  have hwait : s.xferWaits k = false := by simpa [State.xferWaits_first (.inl ht) hx hnew] using hfew
  have happly : s.applyPacket k = s.takeWrite k := by simp [State.applyPacket, ht]
  rw [State.deliver_applied hr (vc_of_attempt hr.1 (.inl ht)) hwait (State.targetBusy_write ht hxl hfree),
    State.freed_of_tracking hfew, happly]
  exact State.takeWrite_single hx hl hsig hnew hxl hp hclean

theorem State.deliver_reduce {s s1 : State} {k : Packet} {m : List TlbEntry} {e : TlbEntry} (ht : k.type = 0x02)
    (hr : s.receives k) (hx : k.xidx = 0) (hfew : s.cwy.tracking < 1024)
    (hnew : s.cwy.inbound.find? (sameXfer k.src k.xid) = none) (hb : s.targetBusy k = false) (hn : 0 < reduceCount k)
    (hxl : s.xlateSpan k.ctx.toNat (k.addr.toNat % 2 ^ 52) (4 * reduceCount k) true = (s1, m, .ok e)) :
    ∃ t, s.deliver k = (s1.modMem fun mm => { mm with contribs := mm.contribs ++ s1.packetContribs k m }).setXfer t := by
  have hwait : s.xferWaits k = false := by simpa [State.xferWaits_first (.inr ht) hx hnew] using hfew
  have happly : s.applyPacket k = s.takeReducePkt k := by simp [State.applyPacket, ht]
  rw [State.deliver_applied hr (vc_of_attempt hr.1 (.inr (.inl ht))) hwait hb, State.freed_of_tracking hfew, happly]
  exact State.takeReducePkt_first hx hnew hn hxl

theorem State.deliver_signal {s : State} {k : Packet} (ht : k.type = 0x03) (hr : s.receives k) :
    s.deliver k = (s.remoteSignal k.ctx.toNat k.slu.toNat (k.addr.toNat % 65536)).freed s := by
  obtain ⟨hx, hb⟩ := State.neverWaits (k := k) (by rw [ht]; rfl) s
  rw [State.deliver_applied hr (vc_of_attempt hr.1 (.inr (.inr (.inl ht)))) hx hb]
  simp [State.applyPacket, ht]

theorem State.deliver_ack {s : State} {k : Packet} (ht : k.type = 0x08) (hr : s.receives k) :
    s.deliver k = (s.takeAck k).freed s := by
  obtain ⟨hx, hb⟩ := State.neverWaits (k := k) (by rw [ht]; rfl) s
  rw [State.deliver_applied hr (vc_of_attempt hr.1 (.inr (.inr (.inr ht)))) hx hb]
  simp [State.applyPacket, ht]

/-- A MGMT packet belongs to no attempt. -/
theorem State.deliver_mgmt {s : State} {k : Packet} (ht : k.type = 0x18) (hm : malformed k = false) (hc : s.err.chip = none) :
    s.deliver k = (s.takeMgmt k).freed s := by
  have hvc : k.vc = 3 := by
    have h := vcOfType_of_wellMade hm
    rw [ht] at h
    exact (Option.some.inj h).symm
  rw [State.deliver_taken (by simp [State.waitsHere, hvc])]
  simp [State.takePacket, State.applyPacket, hm, hc, hvc, ht]

/-! ### O36 -/

/-- Settles O36. Each clause is the delivery of one kind of packet: whether it waits is decided by `State.waitsHere`, what it does by its
own type, and while the transfers tracked stay below 1,024, or as they were, none that waits is taken with it (`State.freed`). -/
theorem packetDeliveredResult : Obligations.PacketDeliveredResult := by
  unfold Obligations.PacketDeliveredResult
  intro s k va
  refine ⟨fun ht => ⟨fun hm => ?malformed, fun h18 hm hc hs => ?stale, fun h18 hm hc hs => ?later⟩,
    fun ht hr hx hnew hfull => ?untracked,
    fun ht hr hx hl hsig hfew hnew s1 e d hxl hp hclean hfree => ?write,
    fun ht hr hx hnew hfew => ⟨fun hb => ?busy, fun hb hb0 hn0 s1 m e hxl => ?reduce⟩,
    fun ht hr hg => ⟨fun n hn hw hroom => ?signal, fun hn => ?outside⟩,
    fun ht hr o i ho hi => ⟨fun h0 => ?ack, fun h1 => ?ackFault⟩,
    fun ht hm hc => ⟨fun hr => ?asker, fun r hr hup => ?reply⟩⟩
  case malformed => rw [exec_deliverCmd ht, State.deliver_malformed hm]
  case stale => rw [exec_deliverCmd ht, State.deliver_stale hm (vc_of_attempt hm (by tauto)) hc hs]
  case later => rw [exec_deliverCmd ht, State.deliver_later hm (vc_of_attempt hm (by tauto)) hc hs]
  case untracked =>
    rw [exec_deliverCmd (by tauto), State.deliver_waits]
    simp [State.waitsHere_of_receives hr (vc_of_attempt hr.1 (by tauto)), State.xferWaits_first ht hx hnew, hfull]
  case write =>
    obtain ⟨u, hd, hu, hf⟩ := State.deliver_write ht hr hx hl hsig hfew hnew hxl hp hclean hfree
    have hstored : storedAt s.mem.hbm u.mem.hbm d k.payload := hu ▸ storedAt_bwrite s.mem.hbm d k.payload
    have hin : u.cwy.inbound = s.cwy.inbound := by rw [hf.cwy]
    refine ⟨u.sendAck k.src k.xid 0, { u.ownPacket 0x08 1 k.src with xid := k.xid, addr := 0 }, by rw [exec_writePacket ht, hd], hstored,
      ?_, rfl, rfl, rfl, rfl, rfl, rfl, hin, hf.hums, hf.sluices, hf.contribs⟩
    simp [State.sendAck, State.inject, hf.cwy]
  case busy =>
    rw [exec_deliverCmd (by tauto), State.deliver_waits]
    simp [State.waitsHere_of_receives hr (vc_of_attempt hr.1 (by tauto)), hb]
  case reduce =>
    rw [← reduceCount_eq] at hn0 hxl
    obtain ⟨t, hd⟩ := State.deliver_reduce ht hr hx hfew hnew hb hn0 hxl
    obtain ⟨hf, hhbm⟩ := State.frame_of_xlateSpan hxl
    obtain ⟨hlen, hspec⟩ := s1.packetContribs_spec k m
    have hinj : s1.cwy.inject = s.cwy.inject := by rw [hf.cwy]
    rw [exec_reducePacket ht, hd]
    refine ⟨_, s1.packetContribs k m, rfl, ?_, hlen.trans (reduceCount_eq k), hspec, hhbm, hf.hums, hf.sluices, hinj⟩
    simp [State.setXfer, State.modMem, hf.contribs]
  case signal =>
    rw [exec_signalPacket ht, State.deliver_signal ht hr, State.remoteSignal_counts hn hw hg hroom]
    refine ⟨_, congrArg _ (State.freed_of_inbound rfl), State.sluice_setSluice_same _ _ _, fun j hj => State.sluice_setSluice_ne _ _ hj, rfl⟩
  case outside =>
    rw [exec_signalPacket ht, State.deliver_signal ht hr]
    simp only [State.remoteSignal, hn]
    exact congrArg _ (State.freed_of_inbound rfl)
  case ack =>
    rw [exec_ackPacket ht, State.deliver_ack ht hr, State.takeAck_ok ho hi h0]
    refine ⟨_, congrArg _ (State.freed_of_inbound rfl), fun x => ?_, ?_, fun j hj => State.hum_modHum_ne _ _ hj, rfl, rfl⟩
    · simp [List.mem_filter, -not_and, not_and_or]
    · rw [State.hum_modHum_same]; rfl
  case ackFault =>
    rw [exec_ackPacket ht, State.deliver_ack ht hr, State.takeAck_fault ho hi h1]
    obtain ⟨hst, hmem, hin⟩ := State.programFault_spec ({ s with cwy := { s.cwy with
      outbound := s.cwy.outbound.filter fun x => !(x.xid == o.xid && x.dst == o.dst) } } : State) o.hum 7 0x70 0x06 i.pc
    exact ⟨_, congrArg _ (State.freed_of_inbound hin), hst, congrArg MemState.hbm hmem⟩
  case asker =>
    rw [exec_mgmtPacket ht, State.deliver_mgmt ht hm hc]
    simp only [State.takeMgmt, hr]
    exact congrArg _ (State.freed_of_inbound rfl)
  case reply =>
    rw [exec_mgmtPacket ht, State.deliver_mgmt ht hm hc, State.takeMgmt_reply hr hup]
    exact congrArg _ (State.freed_of_inbound (State.replied_inbound _ _ _))

end Sys2Proof.Machine
end

section
/-!
PROOFS. Operating points, the pace, the cap, wakes, the clamp and the clocks (01 R15, 15 R390, 17 R430 to R450), which settle O51.
-/

namespace Sys2Proof.Machine

/-! ### Stores mapped entry by entry -/

/-- What a read finds after every entry was mapped: the map of what it found, where the map keeps the keys and the default. -/
theorem sget_map {α : Type} {d : α} {f : Nat × α → Nat × α} (hk : ∀ x, (f x).1 = x.1) (hd : ∀ k, (f (k, d)).2 = d)
    (m : Store α) (k : Nat) : sget d (m.map f) k = (f (k, sget d m k)).2 := by
  induction m with
  | nil => exact (hd k).symm
  | cons x m ih =>
    obtain ⟨j, v⟩ := x
    have hj : (f (j, v)).1 = j := hk (j, v)
    by_cases h : j = k
    · subst h
      simp [sget, hj]
    · simp [sget, hj, h, ih]

/-- R430, R442: every regulator that is on is driven. -/
theorem State.driveAll_hum (s : State) (mv g : Nat) : (s.driveAll mv).hum g =
    if (s.hum g).power = .running ∨ (s.hum g).power = .still then { (s.hum g) with vset := BitVec.ofNat 10 mv } else s.hum g := by
  unfold State.driveAll State.hum
  dsimp only
  rw [sget_map]
  · cases (sget Hummock.reset s.hums g).power <;> simp
  · intro x
    split <;> rfl
  · intro k
    rfl

theorem State.driveAll_drivenTo (s : State) (mv : Nat) : s.drivenTo (s.driveAll mv) mv := ⟨rfl, s.driveAll_hum mv⟩

/-- R432: under Paced only setpoints differ. -/
theorem State.drivePaced_hum (s : State) (g : Nat) :
    { s.drivePaced.hum g with vset := (s.hum g).vset } = s.hum g := by
  unfold State.drivePaced State.draw State.hum
  dsimp only
  rw [sget_map]
  · dsimp only
    split <;> rfl
  · intro x
    split <;> rfl
  · intro k
    rfl

/-! ### The request registers PWC_OP and PWC_CAP (R450) -/

/-- Two fields written one after the other are the union of the fields written once. -/
theorem merge_merge {n : Nat} (a b old v : BitVec n) :
    (((old &&& ~~~a) ||| (v &&& a)) &&& ~~~b) ||| (v &&& b) = (old &&& ~~~(a ||| b)) ||| (v &&& (a ||| b)) := by
  ext i hi
  simp only [BitVec.getElem_or, BitVec.getElem_and, BitVec.getElem_not]
  cases old[i] <;> cases v[i] <;> cases a[i] <;> cases b[i] <;> rfl

/-- A bit of a register after a write of the fields in mask. -/
theorem getLsbD_merge (mask old v : BitVec 64) {i : Nat} (hi : i < 64) :
    ((old &&& ~~~mask) ||| (v &&& mask)).getLsbD i = if mask.getLsbD i then v.getLsbD i else old.getLsbD i := by
  simp only [BitVec.getLsbD_or, BitVec.getLsbD_and, BitVec.getLsbD_not, hi, decide_true, Bool.true_and]
  cases mask.getLsbD i <;> simp

theorem regField_eq (s : State) (off lo w : Nat) : s.regField off lo w = ((s.reg off).extractLsb' lo w).toNat := by
  simp [State.regField, BitVec.extractLsb'_toNat, Nat.shiftRight_eq_div_pow]

/-- A privileged master writes the whole of a field that only privilege guards (R456). -/
theorem mergeFlds_cons {m : Master} (hm : masterPriv m = true) (lo w : Nat) (fs : List Fld) (old v : BitVec 64) :
    mergeFlds m none (⟨lo, w, .rwp⟩ :: fs) old v =
      mergeFlds m none fs ((old &&& ~~~(fldMask ⟨lo, w, .rwp⟩)) ||| (v &&& fldMask ⟨lo, w, .rwp⟩)) v := by
  simp [mergeFlds, Fld.strobe, Fld.allowed, Fld.inHalf, hm]

/-- R450, R469: an open region's PWC_OP takes POINT and PACED of a privileged write. -/
theorem State.regStore_pwcOp {s : State} {m : Master} (hm : masterPriv m = true) (ho : s.regionOpen 9 = true) (v : BitVec 64) :
    s.regStore m 0x200000 none v = (s.setReg 0x200000 ((s.reg 0x200000 &&& ~~~7) ||| (v &&& 7)), s.reg 0x200000) := by
  have hf : regFlds 0x200000 = [⟨0, 2, .rwp⟩, ⟨2, 1, .rwp⟩] := rfl
  have hc : cfgScope 0x200000 = some (9, 7) := rfl
  have hnew : mergeFlds m none [⟨0, 2, .rwp⟩, ⟨2, 1, .rwp⟩] (s.reg 0x200000) v = (s.reg 0x200000 &&& ~~~7) ||| (v &&& 7) := by
    rw [mergeFlds_cons hm, mergeFlds_cons hm]
    exact merge_merge 3 4 (s.reg 0x200000) v
  simp only [State.regStore, hf, hc, closeCheck, placeHalf, hnew]
  simp [refusedWrite, Fld.allowed, hm, ho]

/-- R450, R469: an open region's PWC_CAP takes W of a privileged write. -/
theorem State.regStore_pwcCap {s : State} {m : Master} (hm : masterPriv m = true) (ho : s.regionOpen 9 = true) (v : BitVec 64) :
    s.regStore m 0x200010 none v = (s.setReg 0x200010 ((s.reg 0x200010 &&& ~~~0x1FFF) ||| (v &&& 0x1FFF)), s.reg 0x200010) := by
  have hf : regFlds 0x200010 = [⟨0, 13, .rwp⟩] := rfl
  have hc : cfgScope 0x200010 = some (9, 0x1FFF) := rfl
  have hnew : mergeFlds m none [⟨0, 13, .rwp⟩] (s.reg 0x200010) v = (s.reg 0x200010 &&& ~~~0x1FFF) ||| (v &&& 0x1FFF) :=
    mergeFlds_cons hm 0 13 [] _ v
  simp only [State.regStore, hf, hc, closeCheck, placeHalf, hnew]
  simp [refusedWrite, Fld.allowed, hm, ho]

/-- What PWC_OP holds after a write of v: POINT and PACED of v, where 3 leaves POINT as it is (R450). -/
def opStored (old v : BitVec 64) : BitVec 64 :=
  (old &&& ~~~7#64) ||| ((if v &&& 3#64 = 3#64 then (v &&& ~~~3#64) ||| (old &&& 3#64) else v) &&& 7#64)

theorem State.pwcOpStore_eq {s : State} {m : Master} (hm : masterPriv m = true) (ho : s.regionOpen 9 = true) (v : BitVec 64) :
    s.pwcOpStore m none v =
      if opStored (s.reg 0x200000) v = s.reg 0x200000 then s.setReg 0x200000 (opStored (s.reg 0x200000) v)
      else (s.setReg 0x200000 (opStored (s.reg 0x200000) v)).applyPoint.applyPaced := by
  simp only [State.pwcOpStore, State.regStore_pwcOp hm ho, State.reg_setReg_same]
  rfl

theorem getLsbD_three : ∀ i < 64, (3#64).getLsbD i = decide (i < 2) := by decide
theorem getLsbD_four : ∀ i < 64, (4#64).getLsbD i = decide (i = 2) := by decide
theorem getLsbD_seven : ∀ i < 64, (7#64).getLsbD i = decide (i < 3) := by decide

/-- The write leaves POINT as it is exactly where it has both bits. -/
theorem and_three_eq_three_iff (v : BitVec 64) : v &&& 3#64 = 3#64 ↔ v.getLsbD 0 = true ∧ v.getLsbD 1 = true := by
  constructor
  case mp =>
    intro h
    have hbit (i : Nat) (hi : (3#64).getLsbD i = true) : v.getLsbD i = true := by
      rw [← h, BitVec.getLsbD_and, Bool.and_eq_true] at hi
      exact hi.1
    exact ⟨hbit 0 rfl, hbit 1 rfl⟩
  case mpr =>
    rintro ⟨h0, h1⟩
    refine BitVec.eq_of_getLsbD_eq fun i hi => ?_
    rw [BitVec.getLsbD_and, getLsbD_three i hi]
    match i with
    | 0 => rw [h0]; rfl
    | 1 => rw [h1]; rfl
    | i + 2 => simp

/-- R450: bits 0 and 1 are POINT, bit 2 is PACED, and no write reaches the others. -/
theorem getLsbD_opStored (old v : BitVec 64) {i : Nat} (hi : i < 64) : (opStored old v).getLsbD i =
    if i < 2 ∧ v &&& 3#64 = 3#64 ∨ 3 ≤ i then old.getLsbD i else v.getLsbD i := by
  rw [opStored, getLsbD_merge _ _ _ hi, getLsbD_seven i hi]
  by_cases h3 : i < 3
  case neg => simp [h3, Nat.not_lt.1 h3]
  case pos =>
    rw [if_pos (decide_eq_true h3)]
    by_cases hv : v &&& 3#64 = 3#64
    case neg => rw [if_neg hv, if_neg (by simp [hv, h3])]
    case pos =>
      rw [if_pos hv, getLsbD_merge _ _ _ hi, getLsbD_three i hi]
      simp [hv, Nat.not_le.2 h3]

/-- A request of a point gives POINT and repeats the rest. -/
theorem getLsbD_requestPoint (old : BitVec 64) (point : BitVec 2) {i : Nat} (hi : i < 64) :
    ((old &&& ~~~3#64) ||| point.setWidth 64).getLsbD i = if i < 2 then point.getLsbD i else old.getLsbD i := by
  rw [BitVec.getLsbD_or, BitVec.getLsbD_and, BitVec.getLsbD_not, getLsbD_three i hi, BitVec.getLsbD_setWidth]
  by_cases h2 : i < 2
  · simp [h2, hi]
  · simp [h2, hi, BitVec.getLsbD_of_ge point i (Nat.not_lt.1 h2)]

/-- A request of the pace gives PACED and repeats the rest. -/
theorem getLsbD_requestPace (old : BitVec 64) (paced : Bool) {i : Nat} (hi : i < 64) :
    ((old &&& ~~~4#64) ||| (if paced then 4 else 0)).getLsbD i = if i = 2 then paced else old.getLsbD i := by
  rw [BitVec.getLsbD_or, BitVec.getLsbD_and, BitVec.getLsbD_not, getLsbD_four i hi]
  by_cases h2 : i = 2
  · subst h2
    cases paced <;> simp
  · have h4 : (if paced then (4 : BitVec 64) else 0).getLsbD i = false := by
      cases paced
      · exact BitVec.getLsbD_zero
      · exact (getLsbD_four i hi).trans (decide_eq_false h2)
    rw [if_neg h2, h4, decide_eq_false h2, decide_eq_true hi]
    simp

/-- R431: POINT takes the point requested. -/
theorem opStored_point (old : BitVec 64) {point : BitVec 2} (hp : point ≠ 3) :
    (opStored old ((old &&& ~~~3#64) ||| point.setWidth 64)).extractLsb' 0 2 = point := by
  have hboth : ∀ q : BitVec 2, q.getLsbD 0 = true ∧ q.getLsbD 1 = true → q = 3 := by decide
  have hv : ¬ ((old &&& ~~~3#64) ||| point.setWidth 64) &&& 3#64 = 3#64 := by
    rw [and_three_eq_three_iff, getLsbD_requestPoint _ _ (by decide), getLsbD_requestPoint _ _ (by decide)]
    exact fun h => hp (hboth point h)
  refine BitVec.eq_of_getLsbD_eq fun i hi => ?_
  rw [BitVec.getLsbD_extractLsb', Nat.zero_add, getLsbD_opStored _ _ (by omega), if_neg (fun c => c.elim (fun c => hv c.2) (by omega)),
    getLsbD_requestPoint _ _ (by omega), if_pos hi, decide_eq_true hi, Bool.true_and]

/-- R450: a request of point 3 leaves PWC_OP as it is. -/
theorem opStored_three (old : BitVec 64) : opStored old ((old &&& ~~~3#64) ||| (3 : BitVec 2).setWidth 64) = old := by
  have hv : ((old &&& ~~~3#64) ||| (3 : BitVec 2).setWidth 64) &&& 3#64 = 3#64 := by
    rw [and_three_eq_three_iff, getLsbD_requestPoint _ _ (by decide), getLsbD_requestPoint _ _ (by decide)]
    exact ⟨rfl, rfl⟩
  refine BitVec.eq_of_getLsbD_eq fun i hi => ?_
  rw [getLsbD_opStored _ _ hi, getLsbD_requestPoint _ _ hi]
  by_cases h2 : i < 2
  · rw [if_pos (.inl ⟨h2, hv⟩)]
  · rw [if_neg h2, ite_self]

/-- R432: PACED takes the pace requested. -/
theorem opStored_paced (old : BitVec 64) (paced : Bool) :
    (opStored old ((old &&& ~~~4#64) ||| (if paced then 4 else 0))).getLsbD 2 = paced := by
  rw [getLsbD_opStored _ _ (by decide), if_neg (by simp), getLsbD_requestPace _ _ (by decide), if_pos rfl]

/-- R433: W takes the cap requested. -/
theorem extractLsb'_capMerged (old : BitVec 64) (w : BitVec 13) :
    (((old &&& ~~~0x1FFF) ||| (w.setWidth 64 &&& 0x1FFF)) : BitVec 64).extractLsb' 0 13 = w := by
  have hmask : ∀ j < 13, (0x1FFF : BitVec 64).getLsbD j = true := by decide
  refine BitVec.eq_of_getLsbD_eq fun i hi => ?_
  rw [BitVec.getLsbD_extractLsb', Nat.zero_add, getLsbD_merge _ _ _ (by omega), if_pos (hmask i hi)]
  simp [hi]; omega

/-! ### What an action of the power controller leaves alone -/

/-- An action of the power controller that took s to t left the stored registers, memory, and what launches, episodes, firmware,
management, the board and a chip reset are at as they were. -/
structure State.PowerFrame (s t : State) : Prop where
  regs : t.regs = s.regs
  mem : t.mem = s.mem
  ep : t.ep = s.ep
  fe : t.fe = s.fe
  fw : t.fw = s.fw
  mss : t.mss = s.mss
  board : t.board = s.board
  chip : t.err.chip = s.err.chip

namespace State.PowerFrame

theorem refl (s : State) : s.PowerFrame s := ⟨rfl, rfl, rfl, rfl, rfl, rfl, rfl, rfl⟩

theorem trans {s t u : State} (h : s.PowerFrame t) (k : t.PowerFrame u) : s.PowerFrame u :=
  ⟨k.regs.trans h.regs, k.mem.trans h.mem, k.ep.trans h.ep, k.fe.trans h.fe, k.fw.trans h.fw, k.mss.trans h.mss,
    k.board.trans h.board, k.chip.trans h.chip⟩

theorem reg {s t : State} (h : s.PowerFrame t) (o : Nat) : t.reg o = s.reg o := by simp [State.reg, h.regs]

theorem unpacedLaunch {s t : State} (h : s.PowerFrame t) : t.unpacedLaunch = s.unpacedLaunch := by
  simp [State.unpacedLaunch, h.fe]

theorem pwpUp {s t : State} (h : s.PowerFrame t) : t.pwpUp = s.pwpUp := by
  simp [State.pwpUp, State.procReady, State.proc, h.fw, h.board, h.chip]

end State.PowerFrame

theorem State.modPwc_frame (s : State) (f : Power → Power) : s.PowerFrame (s.modPwc f) := ⟨rfl, rfl, rfl, rfl, rfl, rfl, rfl, rfl⟩

theorem State.jot_frame (s : State) (i : Nat) : s.PowerFrame (s.jot i) := ⟨rfl, rfl, rfl, rfl, rfl, rfl, rfl, rfl⟩

theorem State.powerEvent_frame (s : State) (kind cause chan us arg : Nat) : s.PowerFrame (s.powerEvent kind cause chan us arg) :=
  ⟨rfl, rfl, rfl, rfl, rfl, rfl, rfl, rfl⟩

theorem State.driveAll_frame (s : State) (mv : Nat) : s.PowerFrame (s.driveAll mv) := ⟨rfl, rfl, rfl, rfl, rfl, rfl, rfl, rfl⟩

theorem State.drivePaced_frame (s : State) : s.PowerFrame s.drivePaced := ⟨rfl, rfl, rfl, rfl, rfl, rfl, rfl, rfl⟩

theorem State.enterPoint_frame (s : State) (pt adm : Nat) : s.PowerFrame (s.enterPoint pt adm) := ⟨rfl, rfl, rfl, rfl, rfl, rfl, rfl, rfl⟩

/-- R15, R431: the request in PWC_OP waits, is noted as pending or not, or has its ramp start. -/
theorem State.applyPoint_cases (s : State) : s.applyPoint = s ∨
    (∃ w adm, s.applyPoint = (s.modPwc fun p => { p with pend := w, admitPt := adm }).jot pwpIx) ∨
    ∃ pt adm, s.applyPoint = s.enterPoint pt adm := by
  unfold State.applyPoint
  dsimp only
  split
  case isTrue => exact .inl rfl
  case isFalse =>
    split
    case isTrue => exact .inr (.inl ⟨_, _, rfl⟩)
    case isFalse =>
      split
      case isTrue => exact .inr (.inr ⟨_, _, rfl⟩)
      case isFalse =>
        split
        case isTrue => exact .inr (.inl ⟨_, _, rfl⟩)
        case isFalse => exact .inr (.inr ⟨_, _, rfl⟩)

theorem State.applyPoint_frame (s : State) : s.PowerFrame s.applyPoint := by
  obtain h | ⟨w, adm, h⟩ | ⟨pt, adm, h⟩ := s.applyPoint_cases <;> rw [h]
  · exact .refl s
  · exact (s.modPwc_frame _).trans (State.jot_frame _ _)
  · exact s.enterPoint_frame _ _

/-- A change of point touches no setpoint: the regulators follow when the ramp ends (R431). -/
theorem State.applyPoint_hums (s : State) : s.applyPoint.hums = s.hums := by
  obtain h | ⟨w, adm, h⟩ | ⟨pt, adm, h⟩ := s.applyPoint_cases <;> rw [h] <;> rfl

/-- A change of point is one of the point in force, the point pending, the point of admission and the ramp. -/
theorem State.applyPoint_pwc (s : State) :
    ∃ active admitPt pend ramp, s.applyPoint.pwc = { s.pwc with active, admitPt, pend, ramp } ∧ (s.pwc.ramp = true → ramp = true) := by
  obtain h | ⟨w, adm, h⟩ | ⟨pt, adm, h⟩ := s.applyPoint_cases <;> rw [h]
  · exact ⟨_, _, _, _, rfl, id⟩
  · exact ⟨_, _, _, _, rfl, id⟩
  · exact ⟨_, _, _, _, rfl, fun _ => rfl⟩

theorem State.paceOn_frame (s : State) : s.PowerFrame s.paceOn := by
  have h := ((s.modPwc_frame fun p => { p with paceAct := true, pacePend := false }).trans (State.jot_frame _ pwpIx)).trans
    (State.powerEvent_frame _ 2 0 0xFF 0 0)
  unfold State.paceOn
  dsimp only
  split
  · exact h
  · exact h.trans (State.drivePaced_frame _)

/-- R432: the pace is in force, and only setpoints of hummocks may differ. -/
theorem State.paceOn_spec (s : State) : s.paceOn.pwc = { s.pwc with paceAct := true, pacePend := false } ∧
    ∀ g, { s.paceOn.hum g with vset := (s.hum g).vset } = s.hum g := by
  unfold State.paceOn
  dsimp only
  split
  · exact ⟨rfl, fun g => rfl⟩
  · exact ⟨rfl, fun g => State.drivePaced_hum _ g⟩

theorem State.paceOff_frame (s : State) : s.PowerFrame s.paceOff := by
  have h := (s.modPwc_frame fun p => { p with paceAct := false, pacePend := false }).trans (State.jot_frame _ pwpIx)
  unfold State.paceOff
  dsimp only
  split
  · exact (h.trans (State.driveAll_frame _ _)).trans (State.powerEvent_frame _ ..)
  · exact h

theorem State.paceOff_pwc (s : State) : s.paceOff.pwc = { s.pwc with paceAct := false, pacePend := false } := by
  unfold State.paceOff
  dsimp only
  split <;> rfl

/-- R432: without the pace every regulator that is on returns to the common setpoint. -/
theorem State.paceOff_drivenTo {s : State} (h : s.pwc.paceAct = true) : s.drivenTo s.paceOff s.pwc.common := by
  unfold State.paceOff
  simp only [h, if_true]
  exact (State.driveAll_drivenTo ((s.modPwc fun p => { p with paceAct := false, pacePend := false }).jot pwpIx) s.pwc.common)

theorem State.applyPaced_cases (s : State) :
    s.applyPaced = s ∨ s.applyPaced = s.paceOff ∨ s.applyPaced = s.modPwc (fun p => { p with pacePend := true }) ∨
      s.applyPaced = s.paceOn := by
  unfold State.applyPaced
  dsimp only
  split
  case isTrue => exact .inl rfl
  case isFalse =>
    split
    case isTrue => exact .inr (.inl rfl)
    case isFalse =>
      split
      case isTrue => exact .inl rfl
      case isFalse =>
        split
        case isTrue => exact .inr (.inr (.inl rfl))
        case isFalse => exact .inr (.inr (.inr rfl))

theorem State.applyPaced_frame (s : State) : s.PowerFrame s.applyPaced := by
  obtain h | h | h | h := s.applyPaced_cases <;> rw [h]
  · exact .refl s
  · exact s.paceOff_frame
  · exact s.modPwc_frame _
  · exact s.paceOn_frame

theorem State.applyPaced_pwc (s : State) : ∃ paceAct pacePend, s.applyPaced.pwc = { s.pwc with paceAct, pacePend } := by
  obtain h | h | h | h := s.applyPaced_cases <;> rw [h]
  · exact ⟨_, _, rfl⟩
  · exact ⟨_, _, s.paceOff_pwc⟩
  · exact ⟨_, _, rfl⟩
  · exact ⟨_, _, s.paceOn_spec.1⟩

/-! ### Operating points (R15, R431) -/

theorem State.enterPoint_enters (s : State) (point adm : BitVec 2) : (s.enterPoint point.toNat adm.toNat).entersPoint point adm := by
  have same (w : BitVec 2) : BitVec.ofNat 2 w.toNat = w := by simp
  exact ⟨same point, same adm, rfl, rfl⟩

/-- What the request of PWC_OP asks for differs from the point in force, and the PWP acts on it. -/
structure State.asksFor (s : State) (point : BitVec 2) : Prop where
  clamp : s.pwc.clamp = false
  up : s.pwpUp = true
  wanted : s.wanted = point.toNat
  differs : point ≠ s.pwc.active

theorem State.applyPoint_asked {s : State} {point : BitVec 2} (h : s.asksFor point) : s.applyPoint =
    if s.pwc.rateOf s.pwc.active.toNat s.admitPaced ≤ s.pwc.rateOf point.toNat s.admitPaced then
      s.enterPoint point.toNat (if s.pwc.ramp then s.pwc.admitPt.toNat else s.pwc.active.toNat)
    else if s.fasterLaunch (s.pwc.rateOf point.toNat s.admitPaced) then
      (s.modPwc fun q => { q with pend := some point, admitPt := point }).jot pwpIx
    else s.enterPoint point.toNat point.toNat := by
  have hne : point.toNat ≠ s.pwc.active.toNat := fun c => h.differs (BitVec.eq_of_toNat_eq c)
  simp [State.applyPoint, h.clamp, h.up, h.wanted, hne]

theorem State.applyPoint_raises {s : State} {point : BitVec 2} (h : s.asksFor point)
    (hr : s.pwc.rateOf s.pwc.active.toNat s.admitPaced ≤ s.pwc.rateOf point.toNat s.admitPaced) :
    s.applyPoint.entersPoint point (if s.pwc.ramp then s.pwc.admitPt else s.pwc.active) := by
  rw [State.applyPoint_asked h, if_pos hr, ← apply_ite BitVec.toNat]
  exact State.enterPoint_enters ..

theorem State.applyPoint_lowers {s : State} {point : BitVec 2} (h : s.asksFor point)
    (hr : s.pwc.rateOf point.toNat s.admitPaced < s.pwc.rateOf s.pwc.active.toNat s.admitPaced)
    (hf : s.fasterLaunch (s.pwc.rateOf point.toNat s.admitPaced) = false) : s.applyPoint.entersPoint point point := by
  rw [State.applyPoint_asked h, if_neg (Nat.not_le.2 hr), hf]
  exact State.enterPoint_enters ..

/-- R15: the lowering is pending while a launch admitted at a higher rate remains. -/
theorem State.applyPoint_pends {s : State} {point : BitVec 2} (h : s.asksFor point)
    (hr : s.pwc.rateOf point.toNat s.admitPaced < s.pwc.rateOf s.pwc.active.toNat s.admitPaced)
    (hf : s.fasterLaunch (s.pwc.rateOf point.toNat s.admitPaced) = true) :
    s.applyPoint.pwc = { s.pwc with pend := some point, admitPt := point } := by
  rw [State.applyPoint_asked h, if_neg (Nat.not_le.2 hr), hf]
  rfl

/-- The pace changes no operating point. -/
theorem State.entersPoint_applyPaced {s : State} {w a : BitVec 2} (h : s.entersPoint w a) : s.applyPaced.entersPoint w a := by
  obtain ⟨pa, pp, hp⟩ := s.applyPaced_pwc
  simpa [State.entersPoint, hp] using h

/-! ### Requests that act -/

/-- R431, R432: a request of POINT or PACED that changes PWC_OP is acted on, the point before the pace. -/
theorem exec_opRequest {s : State} {m : Master} (h : s.powerWrites m) (v : BitVec 64)
    (hv : opStored (s.reg 0x200000) v ≠ s.reg 0x200000) :
    (if s.arrives m then s.pwcOpStore m none v else s) =
      (s.setReg 0x200000 (opStored (s.reg 0x200000) v)).applyPoint.applyPaced := by
  obtain ⟨⟨ha, hm⟩, ho, -, -⟩ := h
  rw [if_pos ha, State.pwcOpStore_eq hm ho, if_neg hv]

/-- A store of PWC_OP leaves the cap as it is. -/
theorem State.capW_setOp (s : State) (v : BitVec 64) : (s.setReg 0x200000 v).capW = s.capW := by
  simp [State.capW, State.regField, State.reg_setReg_ne]

theorem State.asksFor_setOp {s : State} {m : Master} {point : BitVec 2} {v : BitVec 64} (h : s.powerWrites m) (hc : 4800 ≤ s.capW)
    (hv : v.extractLsb' 0 2 = point) (hne : point ≠ s.pwc.active) : (s.setReg 0x200000 v).asksFor point := by
  obtain ⟨-, -, hup, hcl⟩ := h
  refine ⟨hcl, hup, ?_, hne⟩
  rw [State.wanted, State.capW_setOp, if_neg (Nat.not_lt.2 hc), regField_eq, State.reg_setReg_same, hv]

/-- s with PWC_OP as a request of a point leaves it. -/
def State.askPoint (s : State) (point : BitVec 2) : State :=
  s.setReg 0x200000 (opStored (s.reg 0x200000) ((s.reg 0x200000 &&& ~~~3#64) ||| point.setWidth 64))

/-- s with PWC_OP as a request of the pace leaves it. -/
def State.askPace (s : State) (paced : Bool) : State :=
  s.setReg 0x200000 (opStored (s.reg 0x200000) ((s.reg 0x200000 &&& ~~~4#64) ||| (if paced then 4 else 0)))

theorem State.opActs_frame (s : State) : s.PowerFrame s.applyPoint.applyPaced := s.applyPoint_frame.trans s.applyPoint.applyPaced_frame

/-- R431, R450: a request of another point is acted on, and POINT reads as it. -/
theorem exec_opPointRequest {s : State} {m : Master} {point : BitVec 2} (h : s.powerWrites m) (hc : 4800 ≤ s.capW)
    (hf : s.regField 0x200000 0 2 ≠ point.toNat) (hne : point ≠ s.pwc.active) (h3 : point ≠ 3) :
    exec (.opPointRequest m point) s = .next (s.askPoint point).applyPoint.applyPaced ∧ (s.askPoint point).asksFor point ∧
      ((s.askPoint point).applyPoint.applyPaced.reg 0x200000).extractLsb' 0 2 = point := by
  have hp := opStored_point (s.reg 0x200000) h3
  have hv : opStored (s.reg 0x200000) ((s.reg 0x200000 &&& ~~~3#64) ||| point.setWidth 64) ≠ s.reg 0x200000 := fun c => by
    rw [c] at hp
    exact hf (by rw [regField_eq, hp])
  refine ⟨congrArg _ (exec_opRequest h _ hv), State.asksFor_setOp h hc hp hne, ?_⟩
  rw [(State.opActs_frame _).reg, State.askPoint, State.reg_setReg_same, hp]

/-- R432, R450: a request that changes PACED is acted on, and PACED reads as it. -/
theorem exec_pacedRequest {s : State} {m : Master} {paced : Bool} (h : s.powerWrites m) (hr : (s.reg 0x200000).getLsbD 2 = !paced) :
    exec (.pacedRequest m paced) s = .next (s.askPace paced).applyPoint.applyPaced ∧
      ((s.askPace paced).applyPoint.reg 0x200000).getLsbD 2 = paced := by
  have hp := opStored_paced (s.reg 0x200000) paced
  have hv : opStored (s.reg 0x200000) ((s.reg 0x200000 &&& ~~~4#64) ||| (if paced then 4 else 0)) ≠ s.reg 0x200000 := fun c => by
    rw [c, hr] at hp
    cases paced <;> exact absurd hp (by decide)
  refine ⟨congrArg _ (exec_opRequest h _ hv), ?_⟩
  rw [(State.applyPoint_frame _).reg, State.askPace, State.reg_setReg_same, hp]

/-- R450: a request of point 3 changes nothing that a read shows. -/
theorem exec_opPointRequest_three {s : State} {m : Master} (h : s.privileged m) (ho : s.regionOpen 9 = true) :
    exec (.opPointRequest m 3) s = .next (s.setReg 0x200000 (s.reg 0x200000)) := by
  obtain ⟨ha, hm⟩ := h
  have hv := opStored_three (s.reg 0x200000)
  change Host.Outcome.next (if s.arrives m then s.pwcOpStore m none _ else s) = _
  rw [if_pos ha, State.pwcOpStore_eq hm ho, hv, if_pos rfl]

theorem State.reg_setReg_self (s : State) (o : Nat) (k : Nat) : (s.setReg o (s.reg o)).reg k = s.reg k := by
  by_cases h : k = o
  · rw [h, State.reg_setReg_same]
  · exact State.reg_setReg_ne _ _ h

/-- R432: a request of the pace, where it is not in force, is in force at once or waits for the launches admitted without it. -/
theorem State.applyPaced_on {s : State} (hw : (s.reg 0x200000).getLsbD 2 = true) (hup : s.pwpUp = true) (hp : s.pwc.paceAct = false) :
    s.applyPaced.pwc = { s.pwc with paceAct := !s.unpacedLaunch, pacePend := s.unpacedLaunch } ∧
      ∀ g, { s.applyPaced.hum g with vset := (s.hum g).vset } = s.hum g := by
  have hact : s.applyPaced = if s.unpacedLaunch then s.modPwc fun p => { p with pacePend := true } else s.paceOn := by
    simp only [State.applyPaced, hw, hup, hp]
    rfl
  rw [hact]
  cases s.unpacedLaunch
  case false => exact s.paceOn_spec
  case true =>
    refine ⟨?_, fun g => rfl⟩
    rw [Bool.not_true, ← hp]
    rfl

theorem State.applyPaced_off {s : State} (hw : (s.reg 0x200000).getLsbD 2 = false) (hup : s.pwpUp = true) :
    s.applyPaced = s.paceOff := by
  simp only [State.applyPaced, hw, hup]
  rfl

/-- R432: what a request that changes PACED leaves of the power controller, and the launches it looks at. -/
theorem State.askPace_pwc (s : State) (paced : Bool) : ∃ active admitPt pend ramp,
    (s.askPace paced).applyPoint.pwc = { s.pwc with active, admitPt, pend, ramp } := by
  obtain ⟨a, b, c, d, h, -⟩ := (s.askPace paced).applyPoint_pwc
  exact ⟨a, b, c, d, h⟩

theorem State.askPace_hum (s : State) (paced : Bool) (g : Nat) : (s.askPace paced).applyPoint.hum g = s.hum g := by
  rw [State.hum, State.applyPoint_hums]
  rfl

/-- R431: a pending lowering takes effect. -/
theorem exec_opLowerTakesEffect {s : State} {w : BitVec 2} (hw : s.pwc.pend = some w) (hc : s.pwc.clamp = false) (hu : s.pwpUp = true) :
    exec .opLowerTakesEffect s =
      .next (if s.fasterLaunch (s.pwc.rateOf w.toNat s.admitPaced) then s else s.enterPoint w.toNat w.toNat) := by
  change execOpLowerTakesEffect s = _
  simp [execOpLowerTakesEffect, hw, hc, hu]

theorem exec_pacedTakesEffect {s : State} (hp : s.pwc.pacePend = true) (hu : s.pwpUp = true) :
    exec .pacedTakesEffect s = .next (if s.unpacedLaunch then s else s.paceOn) := by
  change execPacedTakesEffect s = _
  cases h : s.unpacedLaunch <;> simp [execPacedTakesEffect, hp, hu, h]

/-! ### The end of a ramp (R431) -/

theorem Hummock.vsetOnly_trans {a b c : Hummock} (hb : { b with vset := a.vset } = a) (hc : { c with vset := b.vset } = b) :
    { c with vset := a.vset } = a :=
  calc { c with vset := a.vset } = { ({ c with vset := b.vset } : Hummock) with vset := a.vset } := rfl
    _ = a := by rw [hc, hb]

/-- s with the regulators at the active point and admission at it, or at the point pending. -/
def State.rampEnded (s : State) : State :=
  ((s.driveAll (s.pwc.vsetOf s.pwc.active.toNat)).driveShared (s.pwc.vsetOf s.pwc.active.toNat)).modPwc fun p =>
    { p with ramp := false, admitPt := p.pend.getD p.active }

theorem exec_setpointRampDone {s : State} (hr : s.pwc.ramp = true) (hc : s.pwc.clamp = false) :
    exec .setpointRampDone s =
      .next (if s.pwpUp then (if s.pwc.paceAct then s.rampEnded.drivePaced else s.rampEnded) else s) := by
  change execSetpointRampDone s = _
  cases hu : s.pwpUp <;> simp [execSetpointRampDone, hr, hc, hu, State.rampEnded, State.driveShared, State.driveAll, State.modPwc]

theorem State.rampEnded_drivenTo (s : State) : s.drivenTo s.rampEnded (s.pwc.vsetOf s.pwc.active.toNat) := s.driveAll_drivenTo _

/-- Drive touches setpoints only. -/
theorem State.driveAll_keeps (s : State) (mv g : Nat) : { (s.driveAll mv).hum g with vset := (s.hum g).vset } = s.hum g := by
  rw [State.driveAll_hum]
  split <;> rfl

theorem State.rampEnded_keeps (s : State) (g : Nat) : { s.rampEnded.hum g with vset := (s.hum g).vset } = s.hum g :=
  s.driveAll_keeps _ g

theorem State.rampEnded_paced_keeps (s : State) (g : Nat) : { s.rampEnded.drivePaced.hum g with vset := (s.hum g).vset } = s.hum g :=
  Hummock.vsetOnly_trans (s.rampEnded_keeps g) (s.rampEnded.drivePaced_hum g)

/-! ### The cap (R433, R434) -/

theorem State.capW_setCap (s : State) (w : BitVec 13) {v : BitVec 64} (hv : v.extractLsb' 0 13 = w) :
    (s.setReg 0x200010 v).capW = Nat.min (Nat.max w.toNat 3500) 5600 := by
  rw [State.capW, regField_eq, State.reg_setReg_same, hv]

/-- s with PWC_CAP as a request of w leaves it. -/
def State.askCap (s : State) (w : BitVec 13) : State :=
  s.setReg 0x200010 ((s.reg 0x200010 &&& ~~~0x1FFF) ||| (w.setWidth 64 &&& 0x1FFF))

theorem exec_capWrite {s : State} {m : Master} (h : s.privileged m) (ho : s.regionOpen 9 = true) (w : BitVec 13) :
    exec (.capWrite m w) s =
      .next (if (s.askCap w).reg 0x200010 = s.reg 0x200010 then s.askCap w else ((s.askCap w).jot pwpIx).applyPoint) := by
  obtain ⟨ha, hm⟩ := h
  change Host.Outcome.next (if s.arrives m then s.pwcCapStore m none _ else s) = _
  rw [if_pos ha, State.pwcCapStore, State.regStore_pwcCap hm ho]
  rfl

theorem State.askCap_W (s : State) (w : BitVec 13) : ((s.askCap w).reg 0x200010).extractLsb' 0 13 = w := by
  rw [State.askCap, State.reg_setReg_same]
  exact extractLsb'_capMerged _ w

theorem State.askCap_acts_frame (s : State) (w : BitVec 13) : (s.askCap w).PowerFrame ((s.askCap w).jot pwpIx).applyPoint :=
  ((s.askCap w).jot_frame _).trans (State.applyPoint_frame _)

theorem State.modHum_frame (s : State) (g : Nat) (f : Hummock → Hummock) : s.PowerFrame (s.modHum g f) :=
  ⟨rfl, rfl, rfl, rfl, rfl, rfl, rfl, rfl⟩

/-- The cap's action is none, a step of the common setpoint, the gating of a hummock or the end of its gating. -/
theorem State.capAct_cases (s : State) (w : Nat) : s.capAct w = s ∨ (∃ mv, s.capAct w = s.driveAll mv) ∨
    (∃ g, s.capAct w = (s.modHum g fun h => { h.gate with capg := true }).powerEvent 3 0 0xFF 0 g) ∨
    ∃ g, s.capAct w = s.modHum g fun h => { h with capg := false } := by
  unfold State.capAct
  dsimp only
  split
  case isTrue =>
    split
    case isTrue => exact .inl rfl
    case isFalse =>
      split
      case isTrue => exact .inr (.inl ⟨_, rfl⟩)
      case isFalse =>
        split
        · exact .inr (.inr (.inl ⟨_, rfl⟩))
        · exact .inl rfl
  case isFalse =>
    split
    case isTrue =>
      split
      · exact .inr (.inr (.inr ⟨_, rfl⟩))
      · split
        · exact .inr (.inl ⟨_, rfl⟩)
        · exact .inl rfl
    case isFalse => exact .inl rfl

theorem State.capAct_frame (s : State) (w : Nat) : s.PowerFrame (s.capAct w) := by
  obtain h | ⟨mv, h⟩ | ⟨g, h⟩ | ⟨g, h⟩ := s.capAct_cases w <;> rw [h]
  · exact .refl s
  · exact s.driveAll_frame mv
  · exact (s.modHum_frame g _).trans (State.powerEvent_frame _ ..)
  · exact s.modHum_frame g _

theorem State.capAct_pwc (s : State) (w : Nat) : ∃ common, (s.capAct w).pwc = { s.pwc with common } := by
  obtain h | ⟨mv, h⟩ | ⟨g, h⟩ | ⟨g, h⟩ := s.capAct_cases w <;> rw [h]
  · exact ⟨_, rfl⟩
  · exact ⟨mv, rfl⟩
  · exact ⟨_, rfl⟩
  · exact ⟨_, rfl⟩

theorem State.oneSet_iff (s : State) : s.oneSet = true ↔ s.pwc.clamp = true ∨ (s.pwc.ramp = false ∧ s.pwc.paceAct = false) := by
  simp [State.oneSet]

section
variable {s : State} {w : Nat}

theorem State.capAct_lowers (hw : s.capW < w) (h1 : s.oneSet = true) (hf : s.capFloor < s.pwc.common) :
    s.capAct w = s.driveAll (Nat.max s.capFloor (s.pwc.common - 5)) := by
  simp [State.capAct, hw, h1, hf]

theorem State.capAct_gates {g : Nat} (hw : s.capW < w) (h1 : s.oneSet = true) (hf : s.pwc.common ≤ s.capFloor)
    (hg : s.hottest = some g) :
    s.capAct w = (s.modHum g fun h => { h.gate with capg := true }).powerEvent 3 0 0xFF 0 g := by
  simp [State.capAct, hw, h1, Nat.not_lt.2 hf, hg]

theorem State.capAct_manySets (hw : s.capW < w) (h1 : s.oneSet = false) : s.capAct w = s := by
  simp [State.capAct, hw, h1]

theorem State.capAct_clears {g : Nat} (hw : 100 * w ≤ 98 * s.capW) (hg : s.lowestCapg = some g) :
    s.capAct w = s.modHum g fun h => { h with capg := false } := by
  simp [State.capAct, show ¬ s.capW < w by omega, hw, hg]

theorem State.capAct_raises (hw : 100 * w ≤ 98 * s.capW) (hg : s.lowestCapg = none) (h1 : s.oneSet = true) (hc : s.pwc.clamp = false)
    (hl : s.pwc.common < s.pwc.vsetOf s.pwc.active.toNat) :
    s.capAct w = s.driveAll (Nat.min (s.pwc.vsetOf s.pwc.active.toNat) (s.pwc.common + 5)) := by
  simp [State.capAct, show ¬ s.capW < w by omega, hw, hg, h1, hc, hl]

theorem State.capAct_rests (hw : 100 * w ≤ 98 * s.capW) (hg : s.lowestCapg = none) (h1 : s.oneSet = false ∨ s.pwc.clamp = true) :
    s.capAct w = s := by
  obtain h1 | h1 := h1 <;> simp [State.capAct, show ¬ s.capW < w by omega, hw, hg, h1]

theorem State.capAct_atCap (hw : w ≤ s.capW) (hn : 98 * s.capW < 100 * w) : s.capAct w = s := by
  simp [State.capAct, Nat.not_lt.2 hw, Nat.not_le.2 hn]

end

/-- R433, R434: what the cap's action does to setpoints and hummocks, by the power measured and the cap. -/
theorem State.capAct_spec (s : State) (w : Nat) :
    let t := s.capAct w
    let c := s.pwc.common
    let top := s.pwc.vsetOf s.pwc.active.toNat
    let one := s.pwc.clamp = true ∨ (s.pwc.ramp = false ∧ s.pwc.paceAct = false)
    (s.capW < w → one → s.capFloor < c → s.drivenTo t (Nat.max s.capFloor (c - 5))) ∧
      (∀ h, s.capW < w → one → c ≤ s.capFloor → s.hottest = some h →
        t.hum h = { (s.hum h).gate with capg := true } ∧ (∀ k, k ≠ h → t.hum k = s.hum k) ∧ t.pwc.common = c) ∧
      (s.capW < w → ¬ one → t.hums = s.hums ∧ t.pwc.common = c) ∧
      (∀ h, 100 * w ≤ 98 * s.capW → s.lowestCapg = some h →
        t.hum h = { (s.hum h) with capg := false } ∧ (∀ k, k ≠ h → t.hum k = s.hum k) ∧ t.pwc.common = c) ∧
      (100 * w ≤ 98 * s.capW → s.lowestCapg = none → one → s.pwc.clamp = false → c < top → s.drivenTo t (Nat.min top (c + 5))) ∧
      (100 * w ≤ 98 * s.capW → s.lowestCapg = none → ¬ one ∨ s.pwc.clamp = true → t.hums = s.hums ∧ t.pwc.common = c) ∧
      (w ≤ s.capW → 98 * s.capW < 100 * w → t.hums = s.hums ∧ t.pwc.common = c) := by
  intro t c top one
  have hone : s.oneSet = true ↔ one := s.oneSet_iff
  have hnone (h : ¬ one) : s.oneSet = false := Bool.eq_false_iff.2 (mt hone.1 h)
  refine ⟨fun hw h1 hl => ?lowers, fun h hw h1 hl hg => ?gates, fun hw h1 => ?manySets, fun h hw hg => ?clears,
    fun hw hg h1 hc hl => ?raises, fun hw hg h1 => ?rests, fun hw hn => ?atCap⟩ <;> unfold t
  case lowers =>
    rw [State.capAct_lowers hw (hone.2 h1) hl]
    exact s.driveAll_drivenTo _
  case gates =>
    rw [State.capAct_gates hw (hone.2 h1) hl hg]
    have rest (x : State) : (x.powerEvent 3 0 0xFF 0 h).hum = x.hum ∧ (x.powerEvent 3 0 0xFF 0 h).pwc = x.pwc := ⟨rfl, rfl⟩
    rw [(rest _).1, (rest _).2]
    exact ⟨s.hum_modHum_same .., fun k hk => State.hum_modHum_ne _ _ hk, rfl⟩
  case manySets =>
    rw [State.capAct_manySets hw (hnone h1)]
    exact ⟨rfl, rfl⟩
  case clears =>
    rw [State.capAct_clears hw hg]
    exact ⟨s.hum_modHum_same .., fun k hk => State.hum_modHum_ne _ _ hk, rfl⟩
  case raises =>
    rw [State.capAct_raises hw hg (hone.2 h1) hc hl]
    exact s.driveAll_drivenTo _
  case rests =>
    rw [State.capAct_rests hw hg (h1.imp_left hnone)]
    exact ⟨rfl, rfl⟩
  case atCap =>
    rw [State.capAct_atCap hw hn]
    exact ⟨rfl, rfl⟩

/-- s with a reading of the package power and current (R433). -/
def State.metered (s : State) (watts coreA : BitVec 16) : State :=
  s.modPwc fun p => { p with pkgW := watts, coreA := coreA, energy := p.energy + watts.setWidth 64 }

theorem exec_capTick {s : State} (hb : s.board.coreOn = true) (watts coreA : BitVec 16) : exec (.capTick watts coreA) s =
    .next (if s.pwpUp then (s.metered watts coreA).capAct watts.toNat else s.metered watts coreA) := by
  change execCapTick watts coreA s = _
  have hup : (s.metered watts coreA).pwpUp = s.pwpUp := rfl
  simp only [execCapTick, hb, ← State.metered.eq_1, hup]
  cases s.pwpUp <;> rfl

/-! ### Gating and wakes (R436 to R439) -/

/-- t is s but for hummock g, which becomes h. -/
theorem State.onlyHum_setHum (s : State) (g : Hum) (h : Hummock) : s.onlyHum (s.setHum g h) g :=
  ⟨rfl, fun _ hk => State.hum_setHum_ne _ _ hk⟩

theorem exec_idleGateTimeout_holder {s : State} {g : Hum} (h : (s.hum g).holder ≠ none) : exec (.idleGateTimeout g) s = .next s := by
  change execIdleGateTimeout g s = _
  have hn : (s.hum g).holder.isNone = false := by rwa [Option.isNone_eq_false_iff, Option.isSome_iff_ne_none]
  cases hp : (s.hum g).power <;> simp [execIdleGateTimeout, hp, hn]

theorem exec_idleGateTimeout {s : State} {g : Hum} (hp : (s.hum g).power = .running ∨ (s.hum g).power = .still)
    (h : (s.hum g).holder = none) (hr : s.regField 0x200018 0 16 ≠ 0) (hs : s.procReady (secOf g) = true) (hc : s.err.chip = none) :
    exec (.idleGateTimeout g) s = .next (s.modHum g Hummock.gate) := by
  change execIdleGateTimeout g s = _
  obtain hp | hp := hp <;> simp [execIdleGateTimeout, hp, h, hr, hs, hc]

theorem exec_wakeRequest_still {s : State} {g : Hum} (hb : s.board.coreOn = true) (hc : s.err.chip = none) (hp : (s.hum g).power = .still) :
    exec (.wakeRequest g) s =
      .next (s.modHum g fun h => { h with power := .running, seq := { h.seq with st := .issuing } }) := by
  change execWakeRequest g s = _
  simp [execWakeRequest, hb, hc, hp, State.wakeEvent]

theorem exec_wakeRequest_gated {s : State} {g : Hum} (hb : s.board.coreOn = true) (hc : s.err.chip = none) (hp : (s.hum g).power = .gated) :
    exec (.wakeRequest g) s = .next (s.requestWake g ((s.hum g).holder.isSome || s.nextQueued)) := by
  change execWakeRequest g s = _
  simp [execWakeRequest, hb, hc, hp]

/-- A request raised to class 1 where it is g's and the new one is. -/
def WakeReq.raise (g : Hum) (cls1 : Bool) (w : WakeReq) : WakeReq := if w.g = g then { w with cls1 := w.cls1 || cls1 } else w

theorem WakeReq.map_raise_absent {g : Hum} {q : List WakeReq} (h : ∀ w ∈ q, w.g ≠ g) (cls1 : Bool) : q.map (WakeReq.raise g cls1) = q :=
  (List.map_congr_left fun w hw => if_neg (h w hw)).trans (List.map_id q)

theorem State.requestWake_new {s : State} {g : Hum} (hq : ∀ w ∈ s.pwc.wakeQ, w.g ≠ g) (hg : ∀ w ∈ s.pwc.granted, w.g ≠ g)
    (cls1 : Bool) :
    s.requestWake g cls1 = ({ s with pwc := { s.pwc with wakeQ := s.pwc.wakeQ ++ [⟨g, cls1⟩] } } : State).jot (secOf g) := by
  have hmap := WakeReq.map_raise_absent hg cls1
  have hup : (fun w : WakeReq => if w.g == g then { w with cls1 := w.cls1 || cls1 } else w) = WakeReq.raise g cls1 := by
    funext w; simp [WakeReq.raise]
  have hasked : (s.pwc.wakeQ.any (fun w => w.g == g) || s.pwc.granted.any fun w => w.g == g) = false := by
    simpa using ⟨hq, hg⟩
  simp only [State.requestWake, hup, hmap, hasked]
  rfl

theorem State.requestWake_again {s : State} {g : Hum} (h : ∃ w, (w ∈ s.pwc.wakeQ ∨ w ∈ s.pwc.granted) ∧ w.g = g) (cls1 : Bool) :
    s.requestWake g cls1 = ({ s with pwc := { s.pwc with
      wakeQ := s.pwc.wakeQ.map (WakeReq.raise g cls1), granted := s.pwc.granted.map (WakeReq.raise g cls1) } } : State).jot (secOf g) := by
  have hup : (fun w : WakeReq => if w.g == g then { w with cls1 := w.cls1 || cls1 } else w) = WakeReq.raise g cls1 := by
    funext w; simp [WakeReq.raise]
  have hasked : (s.pwc.wakeQ.any (fun w => w.g == g) || s.pwc.granted.any fun w => w.g == g) = true := by
    obtain ⟨w, hw, hg⟩ := h
    simp only [Bool.or_eq_true, List.any_eq_true, beq_iff_eq]
    exact hw.imp (fun hw => ⟨w, hw, hg⟩) (fun hw => ⟨w, hw, hg⟩)
  simp only [State.requestWake, hup, hasked, if_true]

/-! ### The end of a wake (R437, R509) -/

theorem exec_wakeComplete_void {s : State} {g : Hum} {w : WakeReq} (hw : (s.pwc.granted.find? fun w => w.g == g) = some w)
    (hp : (s.hum g).power ≠ .waking) :
    exec (.wakeComplete g) s = .next (({ s with pwc := { s.pwc with granted := s.pwc.granted.erase w } } : State).jot pwpIx) := by
  change execWakeComplete g s = _
  simp [execWakeComplete, hw, hp, State.modPwc]

theorem State.retryStalls_none {s : State} (h : s.noStalls) : s.retryStalls = s := by
  obtain ⟨hs, hr⟩ := h
  have hl : { s.link with regStalls := [], stalls := [] } = s.link :=
    calc { s.link with regStalls := [], stalls := [] }
      _ = { s.link with regStalls := s.link.regStalls, stalls := s.link.stalls } := by rw [hs, hr]
      _ = s.link := rfl
  simp only [State.retryStalls, hs, hr, State.modLink, List.foldl_nil, hl]

theorem State.codeFault_within {s : State} {g : Nat} (h : ∀ x, (s.hum g).holder = some x → (s.hum g).seq.pc.toNat < x.codeLen) :
    s.codeFault g = s := by
  unfold State.codeFault
  dsimp only
  split
  case h_1 x hx => exact if_neg (Nat.not_le.2 (h x hx))
  case h_2 => rfl

/-- s with hummock g woken on the token of w, at setpoint mv. -/
def State.wokenAt (s : State) (g : Hum) (w : WakeReq) (mv : Nat) : State :=
  (((s.modPwc fun p => { p with granted := p.granted.erase w, wakes := satInc p.wakes }).jot pwpIx).draw.2).modHum g fun h => h.woken mv

/-- R437: the end of a wake, where no access waits and the woken program's PC lies in its code. -/
theorem exec_wakeComplete {s : State} {g : Hum} {w : WakeReq} (hw : (s.pwc.granted.find? fun w => w.g == g) = some w)
    (hp : (s.hum g).power = .waking) (hn : s.noStalls) (hc : s.pwc.clamp = false)
    (hpc : ∀ mv x, ((s.hum g).woken mv).holder = some x → ((s.hum g).woken mv).seq.pc.toNat < x.codeLen) :
    ∃ mv, exec (.wakeComplete g) s = .next (s.wokenAt g w mv) ∧
      (s.pwc.paceAct = false → BitVec.ofNat 10 mv = BitVec.ofNat 10 s.pwc.common) := by
  refine ⟨if s.pwc.paceAct && !s.pwc.clamp then (s.pacedMv s.freeCtr g).toNat else s.commonSet.toNat, ?_, fun hpa => ?_⟩
  case refine_1 =>
    change execWakeComplete g s = _
    generalize hmv : (if s.pwc.paceAct && !s.pwc.clamp then (s.pacedMv s.freeCtr g).toNat else s.commonSet.toNat) = mv
    have hfault : (s.wokenAt g w mv).codeFault g = s.wokenAt g w mv := State.codeFault_within fun x hx => by
      rw [State.wokenAt, State.hum_modHum_same] at hx ⊢
      exact hpc mv x hx
    have hstall : (s.wokenAt g w mv).retryStalls = s.wokenAt g w mv := State.retryStalls_none hn
    rw [← congrArg State.retryStalls hfault |>.trans hstall]
    simp only [execWakeComplete, hw, hp, ← hmv]
    rfl
  case refine_2 =>
    refine BitVec.eq_of_toNat_eq ?_
    simp [hpa, State.commonSet, hc]

theorem State.wokenAt_hum (s : State) (g : Hum) (w : WakeReq) (mv : Nat) : (s.wokenAt g w mv).hum g = (s.hum g).woken mv :=
  State.hum_modHum_same ..

theorem State.wokenAt_hum_ne (s : State) (g : Hum) (w : WakeReq) (mv : Nat) {k : Nat} (hk : k ≠ g.val) :
    (s.wokenAt g w mv).hum k = s.hum k := State.hum_modHum_ne _ _ hk

/-- R437: a hummock that no launch holds wakes as reset leaves it, at the setpoint. -/
theorem Hummock.woken_idle {h : Hummock} (hh : h.holder = none) (mv : Nat) :
    h.woken mv = { h.gate with power := .running, vset := BitVec.ofNat 10 mv, capg := false } := by
  simp [Hummock.woken, hh, Hummock.gate, Hummock.reset]

/-- R437, R509: a held hummock starts its program at its ENTRY, or at HUM_WAKEVEC after WAITP. -/
theorem Hummock.woken_held {h : Hummock} {x : Holder} (hh : h.holder = some x) (mv : Nat) :
    h.woken mv = { h.gate with
      power := .running, vset := BitVec.ofNat 10 mv, capg := false, holder := some x
      seq := { Sequencer.reset with
        st := .issuing, wake := h.seq.st == .gated, pc := if h.seq.st = .gated then h.wvec else x.entry } } := by
  cases hs : h.seq.st <;> simp [Hummock.woken, hh, hs, Sequencer.reset]

/-! ### Tokens (R438) -/

theorem foldl_jot_frame (ws : List WakeReq) (s : State) :
    ∃ jnl, ws.foldl (fun (acc : State) w => acc.jot (secOf w.g)) s = { s with jnl } :=
  foldl_keeps (fun t => ∃ jnl, t = { s with jnl }) _ (fun t w ⟨j, h⟩ => ⟨_, by rw [h, State.jot]⟩) ws s ⟨s.jnl, rfl⟩

/-- Void requests leave the queue, and nothing else changes but partitions. -/
theorem State.voidWakes_eq (s : State) : ∃ jnl, s.voidWakes = { s with
    pwc := { s.pwc with wakeQ := s.pwc.wakeQ.filter fun w => (s.hum w.g).power == .gated }, jnl } := by
  obtain ⟨j, h⟩ := foldl_jot_frame (s.pwc.wakeQ.filter fun w => (s.hum w.g).power != .gated)
    (s.modPwc fun p => { p with wakeQ := p.wakeQ.filter fun w => (s.hum w.g).power == .gated })
  exact ⟨j, h⟩

theorem State.voidWakes_pwpUp (s : State) : s.voidWakes.pwpUp = s.pwpUp := by
  obtain ⟨j, h⟩ := s.voidWakes_eq
  rw [h]
  rfl

theorem State.voidWakes_hum (s : State) (k : Nat) : s.voidWakes.hum k = s.hum k := by
  obtain ⟨j, h⟩ := s.voidWakes_eq
  rw [h]
  rfl

theorem State.voidWakes_granted (s : State) : s.voidWakes.pwc.granted = s.pwc.granted := by
  obtain ⟨j, h⟩ := s.voidWakes_eq
  rw [h]

section
variable {s : State} {w : WakeReq} (hu : s.pwpUp = true) (hw : nextWake s.voidWakes.servable = some w)
include hu hw

theorem exec_wakeTokenGrant_free (hl : s.pwc.granted.length < 4) : exec .wakeTokenGrant s = .next (s.voidWakes.grantWake w) := by
  change execWakeTokenGrant s = _
  simp [execWakeTokenGrant, s.voidWakes_pwpUp, s.voidWakes_granted, hu, hw, hl]

theorem exec_wakeTokenGrant_class1 {y : WakeReq} (hl : 4 ≤ s.pwc.granted.length) (h1 : w.cls1 = true)
    (hy : (s.pwc.granted.filter fun x => !x.cls1).getLast? = some y) :
    exec .wakeTokenGrant s = .next ((s.voidWakes.preempt y).grantWake w) := by
  change execWakeTokenGrant s = _
  simp [execWakeTokenGrant, s.voidWakes_pwpUp, s.voidWakes_granted, hu, hw, Nat.not_lt.2 hl, h1, hy]

theorem exec_wakeTokenGrant_class2 (hl : 4 ≤ s.pwc.granted.length) (h2 : w.cls1 = false) : exec .wakeTokenGrant s = .next s.voidWakes := by
  change execWakeTokenGrant s = _
  simp [execWakeTokenGrant, s.voidWakes_pwpUp, s.voidWakes_granted, hu, hw, Nat.not_lt.2 hl, h2]

end

/-! ### The clamp (R440 to R442) -/

/-- s with the clamp engaged for its causes: every setpoint at 0.62 V, and admission at N0. -/
def State.clamped (s : State) : State :=
  let s1 := s.modPwc fun p => { p with clamp := true, ramp := false, admitPt := 0, clearMs := 0 }
  ((s1.driveAll clampMv).driveShared clampMv).powerEvent 0 (causeBits s1.pwc) s1.pwc.crossed.toNat 0 0

theorem State.causesChanged_engages {s : State} {f : Power → Power} (hf : (f s.pwc).anyCause = true) (hc : (f s.pwc).clamp = false) :
    s.causesChanged f = (s.modPwc f).clamped.abandonHandoff.updateAlert := by
  have he : ((s.modPwc f).modPwc fun p => { p with clearMs := 0 }).engageClamp = (s.modPwc f).clamped.abandonHandoff := by
    have hc' : ((s.modPwc f).modPwc fun p => { p with clearMs := 0 }).pwc.clamp = false := hc
    simp only [State.engageClamp, hc']
    rfl
  simp only [State.causesChanged, State.modPwc_pwc, hf, if_true, he]

theorem State.clamped_drivenTo (s : State) : s.drivenTo s.clamped 620 := (s.modPwc _).driveAll_drivenTo 620

theorem State.clamped_frame (s : State) : s.PowerFrame s.clamped :=
  (((s.modPwc_frame _).trans (State.driveAll_frame _ _)).trans (State.modPwc_frame _ _)).trans (State.powerEvent_frame _ ..)

/-- While an emergency exists ALERT_N is asserted (19 R488). -/
theorem State.updateAlert_asserts {s : State} (h : s.pwc.anyCause = true) :
    ∃ out, s.updateAlert = { s with board := { s.board with alertN := false }, out } := by
  have hl : (!(s.pwc.anyCause || s.mss.sens.any fun p => p.2.getLsbD 33)) = false := by simp [h]
  simp only [State.updateAlert, hl]
  by_cases ha : s.board.alertN = false
  case pos => exact ⟨s.out, by simp [ha]; rw [← ha]⟩
  case neg => exact ⟨_, by simp only [ha]; rfl⟩

theorem State.updateAlert_eq (s : State) : ∃ board out, s.updateAlert = { s with board, out } := by
  unfold State.updateAlert
  dsimp only
  split
  · exact ⟨_, _, rfl⟩
  · exact ⟨_, _, rfl⟩

theorem State.abandonHandoff_none {s : State} (h : s.fw.handoff = none) : s.abandonHandoff = s := by
  simp [State.abandonHandoff, h]

/-! ### The end of a handoff that has loaded no image (R386, R390) -/

/-- Nothing waits for the FEP or the FCP: no launch, no submission and no commit message. -/
structure State.NoneWaits (s : State) : Prop where
  launches : s.fe.launches = []
  dbq : s.fe.dbq = []
  msgs : s.ep.waitMsgs = []

/-- What a processor's service leaves where nothing waits: the firmware's state, the clamp, and that nothing waits. -/
structure State.Serves (s t : State) : Prop where
  fw : t.fw = s.fw
  clamp : t.pwc.clamp = s.pwc.clamp
  none : t.NoneWaits

/-- R478: an interrupt is a message of the link, or pending in it; the link stays as it is otherwise. -/
theorem State.msix_eq (s : State) (v : BitVec 11) : ∃ out pba, s.msix v = { s with out, link := { s.link with pba } } := by
  unfold State.msix
  split
  · exact ⟨_, _, rfl⟩
  · exact ⟨_, _, rfl⟩

/-- R274, R478: a reply is a write to the host, the ring's tail and at most an interrupt. -/
theorem State.ringReply_eq (s : State) (r : Reply) : ∃ out pba rplTail phase jnl, s.ringReply r =
    { s with out, link := { s.link with pba }, jnl, fe := { s.fe with rplTail, phase, heldReply := some r } } := by
  unfold State.ringReply
  dsimp only
  split
  case isTrue =>
    obtain ⟨out, pba, h⟩ := State.msix_eq _ _
    exact ⟨out, pba, _, _, _, h⟩
  case isFalse => exact ⟨_, _, _, _, _, rfl⟩

theorem State.rewriteReply_eq (s : State) : ∃ out pba rplTail phase jnl heldReply wrblk, s.rewriteReply =
    { s with out, link := { s.link with pba }, jnl, fe := { s.fe with rplTail, phase, heldReply, wrblk } } := by
  unfold State.rewriteReply
  split
  case h_1 r _ _ =>
    obtain ⟨out, pba, tail, phase, jnl, h⟩ := State.ringReply_eq (s.modFe fun f => { f with wrblk := false }) r
    exact ⟨out, pba, tail, phase, jnl, _, _, h⟩
  case h_2 => exact ⟨_, _, _, _, _, _, _, rfl⟩

theorem State.fepUp_serves {s : State} (h : s.NoneWaits) : s.Serves s.fepUp := by
  obtain ⟨hl, hd, hm⟩ := h
  obtain ⟨_, _, _, _, _, _, _, hr⟩ := s.rewriteReply_eq
  have hrec : s.reconcile = s := by simp [State.reconcile, hl]
  have hup : s.fepUp = s.rewriteReply := by
    rw [State.fepUp, hrec, hr]
    simp [hl, State.drainDoorbells, State.takeBefore, hd, State.takeDoorbells]
  rw [hup, hr]
  exact ⟨rfl, rfl, hl, hd, hm⟩

theorem State.takeWaiting_serves {s : State} (h : s.NoneWaits) : s.Serves s.takeWaiting := by
  have hplace : s.placeLinkEvents.fw = s.fw ∧ s.placeLinkEvents.pwc = s.pwc ∧ s.placeLinkEvents.fe = s.fe := by
    unfold State.placeLinkEvents
    exact foldl_keeps (fun t : State => t.fw = s.fw ∧ t.pwc = s.pwc ∧ t.fe = s.fe) (fun t bs => t.event 0 0x02 bs)
      (fun t bs ht => ht) _ _ ⟨rfl, rfl, rfl⟩
  obtain ⟨hfw, hpwc, hfe⟩ := hplace
  have ht : s.takeWaiting = s.placeLinkEvents.modEp fun e => { e with waitMsgs := [] } := by simp [State.takeWaiting, h.msgs]
  rw [ht]
  exact ⟨hfw, congrArg Power.clamp hpwc, by rw [← h.launches, ← hfe]; rfl, by rw [← h.dbq, ← hfe]; rfl, rfl⟩

theorem State.opActs_serves {s : State} (h : s.NoneWaits) : s.Serves s.applyPoint.applyPaced := by
  have hf := s.applyPoint_frame.trans s.applyPoint.applyPaced_frame
  obtain ⟨_, _, _, _, hpt, -⟩ := s.applyPoint_pwc
  obtain ⟨_, _, hpc⟩ := s.applyPoint.applyPaced_pwc
  exact ⟨hf.fw, by rw [hpc, hpt], by rw [hf.fe, h.launches], by rw [hf.fe, h.dbq], by rw [hf.ep, h.msgs]⟩

/-- The processors of a handoff's safe points are those before the MGP. -/
theorem State.procServes_serves {s : State} (h : s.NoneWaits) {i : Nat} (hi : i < 11) : s.Serves (s.procServes i) := by
  have hmgp : i ≠ mgpIx := by unfold mgpIx; omega
  unfold State.procServes
  split
  case isTrue => exact State.fepUp_serves h
  case isFalse =>
    split
    case isTrue => exact State.takeWaiting_serves h
    case isFalse =>
      split
      case isTrue => exact State.opActs_serves h
      case isFalse => exact ⟨rfl, rfl, h⟩

/-- Processor i resumes where it is at a safe point. -/
def State.resumeProc (s : State) (i : Nat) : State :=
  if (s.proc i).st == .quiescing then (s.setProc i { s.proc i with st := .ready }).procServes i else s

/-- What resuming the processors before n leaves: they run, the others are as they were, and so are the handoff, the activation held and
the clamp. -/
structure State.ResumedTo (s t : State) (n : Nat) : Prop where
  procs : ∀ i, (t.proc i).st = if i < n ∧ (s.proc i).st = .quiescing then .ready else (s.proc i).st
  handoff : t.fw.handoff = s.fw.handoff
  pend : t.fw.pend = s.fw.pend
  clamp : t.pwc.clamp = s.pwc.clamp
  none : t.NoneWaits

theorem State.ResumedTo.succ {s t : State} {n : Nat} (h : s.ResumedTo t n) (hn : n < 11) : s.ResumedTo (t.resumeProc n) (n + 1) := by
  have hst : (t.proc n).st = (s.proc n).st := by rw [h.procs, if_neg (by omega)]
  have other (i : Nat) (hi : i ≠ n) : i < n + 1 ↔ i < n := by omega
  unfold State.resumeProc
  by_cases hq : (s.proc n).st = .quiescing
  case neg =>
    rw [if_neg (by simpa [hst] using hq)]
    refine ⟨fun i => ?_, h.handoff, h.pend, h.clamp, h.none⟩
    rw [h.procs]
    by_cases hi : i = n
    · subst hi; simp [hq]
    · simp [other i hi]
  case pos =>
    rw [if_pos (by simpa [hst] using hq)]
    have hwaits : (t.setProc n { t.proc n with st := .ready }).NoneWaits := ⟨h.none.launches, h.none.dbq, h.none.msgs⟩
    obtain ⟨hfw, hcl, hnone⟩ := State.procServes_serves hwaits hn
    refine ⟨fun i => ?_, by rw [hfw]; exact h.handoff, by rw [hfw]; exact h.pend, hcl.trans h.clamp, hnone⟩
    rw [State.proc, hfw, ← State.proc]
    by_cases hi : i = n
    · subst hi; simp [hq]
    · rw [State.proc_setProc_ne _ _ hi, h.procs]; simp [other i hi]

theorem State.resumed {s : State} (h : s.NoneWaits) : ∀ n ≤ 11, s.ResumedTo ((List.range n).foldl State.resumeProc s) n
  | 0, _ => ⟨fun i => by simp, rfl, rfl, rfl, h⟩
  | n + 1, hn => by
    rw [List.range_succ, List.foldl_append]
    exact (State.resumed h n (by omega)).succ (by omega)

/-- Entries of the log leave the processors and the activation as they are. -/
def Firmware.sameActivation (f f' : Firmware) : Prop := f'.procs = f.procs ∧ f'.handoff = f.handoff ∧ f'.pend = f.pend

theorem Firmware.sameActivation.trans {f f1 f2 : Firmware} (h : f.sameActivation f1) (k : f1.sameActivation f2) : f.sameActivation f2 :=
  ⟨k.1.trans h.1, k.2.1.trans h.2.1, k.2.2.trans h.2.2⟩

theorem Firmware.sameActivation.withFlash {f f1 : Firmware} (h : f.sameActivation f1) (flash : Store Byte) (flashPos : Nat)
    (bseq : Nat) : f.sameActivation { f1 with flash, flashPos, bseq } := h

theorem Firmware.putUnit_sameActivation (f : Firmware) (u : List Byte) : f.sameActivation (f.putUnit u) := by
  have same : f.sameActivation f := ⟨rfl, rfl, rfl⟩
  have block : f.sameActivation (if f.flashPos % 1024 = 0 then f.newBlock else f) := by
    split
    · exact same.withFlash _ _ _
    · exact same
  unfold Firmware.putUnit
  generalize (if f.flashPos % 1024 = 0 then f.newBlock else f) = f1 at block ⊢
  exact block.withFlash _ _ _

theorem Firmware.persist_sameActivation (f : Firmware) (us : List (List Byte)) : f.sameActivation (f.persist us) := by
  have start : f.sameActivation
      (if f.minuteStart + 60000 ≤ f.ms then { f with minuteStart := f.ms, minuteUnits := 0 } else f) := by
    split <;> exact ⟨rfl, rfl, rfl⟩
  unfold Firmware.persist
  generalize (if f.minuteStart + 60000 ≤ f.ms then { f with minuteStart := f.ms, minuteUnits := 0 } else f) = f1 at start ⊢
  dsimp only
  split
  case isTrue => exact start
  case isFalse => exact foldl_keeps f.sameActivation Firmware.putUnit (fun t u h => h.trans (t.putUnit_sameActivation u)) us _ start

/-- R395: what a saved entry leaves alone. -/
theorem State.save_eq (s : State) (us : List (List Byte)) :
    ∃ fw jnl, s.save us = { s with fw, jnl } ∧ s.fw.sameActivation fw := by
  unfold State.save
  split
  case isTrue => exact ⟨_, _, rfl, s.fw.persist_sameActivation us⟩
  case isFalse => exact ⟨_, _, rfl, rfl, rfl, rfl⟩

theorem State.fwEvent_eq (s : State) (kind idx slot us pc : Nat) : ∃ fw jnl err freeCtr,
    s.fwEvent kind idx slot us pc = { s with fw, jnl, err, freeCtr } ∧ s.fw.sameActivation fw := by
  unfold State.fwEvent
  dsimp only
  split
  case isTrue =>
    obtain ⟨fw, jnl, h, hf⟩ := State.save_eq _ _
    exact ⟨fw, jnl, _, _, h, hf⟩
  case isFalse => exact ⟨_, _, _, _, rfl, rfl, rfl, rfl⟩

/-- s with the handoff ended and its activation, or one asked for since, held (R390). -/
def State.handoffHeld (s : State) (b : Bool) : State :=
  ((s.modFw fun f => { f with handoff := none, pend := some (s.fw.pend.getD b) }).jot mgpIx).fwEvent 4 0xFF
    (slotCode (s.fw.pend.getD b)) 0 0

theorem State.abandonHandoff_eq {s : State} {b : Bool} (hh : s.fw.handoff = some (1, b)) :
    s.abandonHandoff = (List.range 11).foldl State.resumeProc (s.handoffHeld b) := by
  unfold State.abandonHandoff
  rw [hh]
  unfold State.handoffHeld State.resumeProc
  rfl

/-- R390: a handoff that has loaded no image ends, its activation is held, and the processors at their safe points run. -/
theorem State.abandonHandoff_resumed {s : State} {b : Bool} (hh : s.fw.handoff = some (1, b)) (h : s.NoneWaits) :
    s.abandonHandoff.fw.handoff = none ∧ s.abandonHandoff.fw.pend = some (s.fw.pend.getD b) ∧
      s.abandonHandoff.pwc.clamp = s.pwc.clamp ∧
      ∀ i, i < 11 → (s.abandonHandoff.proc i).st = if (s.proc i).st = .quiescing then .ready else (s.proc i).st := by
  obtain ⟨fw, jnl, err, freeCtr, he, hprocs, hhand, hpend⟩ := State.fwEvent_eq
    ((s.modFw fun f => { f with handoff := none, pend := some (s.fw.pend.getD b) }).jot mgpIx) 4 0xFF (slotCode (s.fw.pend.getD b)) 0 0
  have hwaits : (s.handoffHeld b).NoneWaits := by
    rw [State.handoffHeld, he]
    exact ⟨h.launches, h.dbq, h.msgs⟩
  have hclamp : (s.handoffHeld b).pwc.clamp = s.pwc.clamp := by rw [State.handoffHeld, he]; rfl
  have hfw : (s.handoffHeld b).fw = fw := by rw [State.handoffHeld, he]
  have hproc (i : Nat) : (s.handoffHeld b).proc i = s.proc i := by rw [State.proc, hfw, hprocs]; rfl
  obtain ⟨hst, rhand, rpend, rclamp, -⟩ := State.resumed hwaits 11 (le_refl 11)
  rw [hfw] at rhand rpend
  rw [State.abandonHandoff_eq hh]
  refine ⟨rhand.trans hhand, rpend.trans hpend, rclamp.trans hclamp, fun i hi => (hst i).trans ?_⟩
  rw [hproc]
  simp [hi]

/-! ### The host link's reset (R447, R476, R482) -/

/-- What handling the host's side of the device leaves alone: memory, hummocks, the commit state, the board, whether the link is up, its
streams, and the command ring's control. -/
structure State.HostFrame (s t : State) : Prop where
  mem : t.mem = s.mem
  hums : t.hums = s.hums
  ep : t.ep = s.ep
  board : t.board = s.board
  up : t.link.up = s.link.up
  ide : t.link.ide = s.link.ide
  ring : t.reg 0x40 = s.reg 0x40

namespace State.HostFrame

theorem refl (s : State) : s.HostFrame s := ⟨rfl, rfl, rfl, rfl, rfl, rfl, rfl⟩

theorem trans {s t u : State} (h : s.HostFrame t) (k : t.HostFrame u) : s.HostFrame u :=
  ⟨k.mem.trans h.mem, k.hums.trans h.hums, k.ep.trans h.ep, k.board.trans h.board, k.up.trans h.up, k.ide.trans h.ide,
    k.ring.trans h.ring⟩

/-- The front end's own state is not among them. -/
theorem withFe (s : State) (fe : FrontEnd) : s.HostFrame { s with fe } := ⟨rfl, rfl, rfl, rfl, rfl, rfl, rfl⟩

end State.HostFrame

theorem State.jot_hostFrame (s : State) (i : Nat) : s.HostFrame (s.jot i) := ⟨rfl, rfl, rfl, rfl, rfl, rfl, rfl⟩

theorem State.msix_hostFrame (s : State) (v : BitVec 11) : s.HostFrame (s.msix v) := by
  obtain ⟨out, pba, h⟩ := s.msix_eq v
  rw [h]
  exact ⟨rfl, rfl, rfl, rfl, rfl, rfl, rfl⟩

/-- Admission touches the front end only. -/
theorem State.admitNow_fe (s : State) (n : NewLaunch) : ∃ fe st d, s.admitNow n = .now { s with fe } st d := by
  unfold State.admitNow
  dsimp only
  generalize (if n.gid = 0xFFFF then unitsOf n.params.length else 0) = units
  split
  · exact ⟨_, _, _, rfl⟩
  · exact ⟨_, _, _, rfl⟩

/-- The checks of a submission touch the front end only (R296). -/
theorem State.decideDoorbell_fe (s : State) (c : BitVec 6) (e : List Byte) : ∃ fe, (s.decideDoorbell c e).1 = { s with fe } := by
  unfold State.decideDoorbell
  dsimp only
  split
  case isTrue => exact ⟨_, rfl⟩
  case isFalse =>
    split
    case isTrue => exact ⟨_, rfl⟩
    case isFalse =>
      split
      case h_1 => exact ⟨_, rfl⟩
      case h_2 x _ =>
        split
        case isTrue => exact ⟨_, rfl⟩
        case isFalse =>
          split
          case isTrue => exact ⟨_, rfl⟩
          case isFalse =>
            obtain ⟨fe, st, d, h⟩ := s.admitNow_fe _
            rw [h]
            exact ⟨fe, rfl⟩

/-- How a submission is decided, with its number checked first (R296). -/
def State.decideSlot (s : State) (c : BitVec 6) (i : BitVec 4) : State × BitVec 16 × BitVec 32 × Nat :=
  let x := s.ctx c.toNat
  let e := bread x.slots (64 * i.toNat) 32
  let x1 := { x with submitted := x.submitted &&& ~~~(1#16 <<< i.toNat) }
  if BitVec.ofNat 64 (field e 8 8) != x.dbSeq then
    (s.setCtx c.toNat x1, stBadSeq, (s.setCtx c.toNat x1).stateCode c.toNat 0, 0)
  else ((s.setCtx c.toNat x1).setCtx c.toNat { x1 with dbSeq := x1.dbSeq + 1 }).decideDoorbell c e

theorem State.decideSlot_fe (s : State) (c : BitVec 6) (i : BitVec 4) : ∃ fe, (s.decideSlot c i).1 = { s with fe } := by
  unfold State.decideSlot
  dsimp only
  split
  case isTrue => exact ⟨_, rfl⟩
  case isFalse => exact State.decideDoorbell_fe _ _ _

/-- A submission taken writes its reply into the context's page, and may interrupt (R296). -/
theorem State.takeSlot_hostFrame (s : State) (c : BitVec 6) (i : BitVec 4) : s.HostFrame (s.takeSlot c i) := by
  obtain ⟨fe, hd⟩ := s.decideSlot_fe c i
  have ends (f : Ctx → Ctx) : s.HostFrame ((({ s with fe } : State).modCtx c.toNat f).jot fepIx) :=
    (State.HostFrame.withFe s _).trans (State.jot_hostFrame _ _)
  unfold State.decideSlot at hd
  unfold State.takeSlot
  dsimp only at hd ⊢
  simp only [hd]
  exact iteInduction (motive := s.HostFrame) (fun _ => (ends _).trans (State.msix_hostFrame _ _)) (fun _ => ends _)

theorem State.takeDoorbells_hostFrame (s : State) (k fuel : Nat) : s.HostFrame (s.takeDoorbells k fuel) := by
  induction fuel generalizing s with
  | zero => exact .refl s
  | succ fuel ih =>
    unfold State.takeDoorbells
    split
    case h_1 => exact .refl s
    case h_2 c i ahead rest _ =>
      split
      case isTrue => exact ((State.HostFrame.withFe s _).trans (State.takeSlot_hostFrame _ c i)).trans (ih _)
      case isFalse => exact .refl s

theorem State.freeDoorbells_hostFrame (s : State) : s.HostFrame s.freeDoorbells :=
  (State.HostFrame.withFe s _).trans (State.takeDoorbells_hostFrame _ _ _)

theorem State.cplOff_hostFrame (s : State) (c : Nat) : s.HostFrame (s.cplOff c) := by
  have hreg : (s.clearEn (0x2008 + 32 * c)).reg 0x40 = s.reg 0x40 := State.reg_setReg_ne _ _ (by omega)
  unfold State.cplOff
  dsimp only
  split
  case isTrue => exact ⟨rfl, rfl, rfl, rfl, rfl, rfl, hreg⟩
  case isFalse => exact .refl s

theorem State.respond_hostFrame (s : State) (b : Binding) (msg : List Byte) : s.HostFrame (s.respond b msg) := by
  unfold State.respond
  split
  case h_1 =>
    exact foldl_keeps s.HostFrame State.inject (fun t p h => h.trans ⟨rfl, rfl, rfl, rfl, rfl, rfl, rfl⟩) _ _ (.refl s)
  case h_2 | h_3 => exact ⟨rfl, rfl, rfl, rfl, rfl, rfl, rfl⟩
  case h_4 | h_5 => split <;> exact ⟨rfl, rfl, rfl, rfl, rfl, rfl, rfl⟩

theorem State.answerXfer_hostFrame (s : State) (x : XferReq) (bs : List Byte) : s.HostFrame (s.answerXfer x bs) := by
  unfold State.answerXfer
  split
  case h_1 y _ =>
    have h : s.HostFrame (s.modSession y.id fun y => { y with sendSeq := y.sendSeq + 1 }) := ⟨rfl, rfl, rfl, rfl, rfl, rfl, rfl⟩
    exact h.trans (State.respond_hostFrame _ _ _)
  case h_2 => exact .refl s

theorem State.startXfers_hostFrame (s : State) (fuel : Nat) : s.HostFrame (s.startXfers fuel) := by
  induction fuel generalizing s with
  | zero => exact .refl s
  | succ fuel ih =>
    unfold State.startXfers
    split
    case h_1 => exact .refl s
    case h_2 x rest _ =>
      split
      case isTrue => exact .refl s
      case isFalse =>
        have h : s.HostFrame (s.modMss fun m => { m with xfers := rest }).countMsg := ⟨rfl, rfl, rfl, rfl, rfl, rfl, rfl⟩
        exact (h.trans (State.answerXfer_hostFrame _ _ _)).trans (ih _)

/-- The link is down, no stream is open, and the command ring is disabled; the rest of what the host does not see is as it was. -/
structure State.LinkLost (s t : State) : Prop where
  mem : t.mem = s.mem
  hums : t.hums = s.hums
  ep : t.ep = s.ep
  board : t.board = s.board
  up : t.link.up = false
  ide : t.link.ide = []
  ring : (t.reg 0x40).getLsbD 0 = false

theorem State.LinkLost.trans {s t u : State} (h : s.LinkLost t) (k : t.HostFrame u) : s.LinkLost u :=
  ⟨k.mem.trans h.mem, k.hums.trans h.hums, k.ep.trans h.ep, k.board.trans h.board, k.up.trans h.up, k.ide.trans h.ide,
    by rw [k.ring, h.ring]⟩

/-- R482: clearing the rings' enables clears the command ring's. -/
theorem State.clearRings_ring (s : State) :
    (([0x40, 0x301008, 0x301108, 0x508210].foldl (fun (acc : State) o => acc.clearEn o) s).reg 0x40).getLsbD 0 = false := by
  have keeps (t : State) (o : Nat) (h : o ≠ 0x40) : (t.clearEn o).reg 0x40 = t.reg 0x40 := State.reg_setReg_ne _ _ h.symm
  rw [List.foldl_cons, List.foldl_cons, List.foldl_cons, List.foldl_cons, List.foldl_nil, keeps _ _ (by decide), keeps _ _ (by decide),
    keeps _ _ (by decide), State.clearEn, State.reg_setReg_same]
  simp

/-- s with the link down and the rings disabled (R482). -/
def State.linkCut (s : State) : State :=
  [0x40, 0x301008, 0x301108, 0x508210].foldl (fun (acc : State) o => acc.clearEn o) (s.modLink fun l =>
    { l with
      up := false, lanes := 0, width := 0, rate := 0, d3 := false, bar2Log2 := 28, unmasked := [], ide := [], stalls := []
      regStalls := l.regStalls.filter fun a => a.m != .host })

theorem State.linkCut_lost (s : State) : s.LinkLost s.linkCut := ⟨rfl, rfl, rfl, rfl, rfl, rfl, State.clearRings_ring _⟩

/-- s with what the MGP keeps for the host's bindings discarded, and the host's regions open (R482). -/
def State.hostGone (s : State) : State :=
  (s.modCip fun c => { c with isOpen := c.isOpen ||| 0x100#10 }).dropReplies.modMss fun m =>
    { m with
      eids := sdel m.eids (bindingIx .pcie)
      relays := m.relays.filter fun r => r.binding != .pcie
      waiting := m.waiting.filter fun w => w.2 == .mailbox || (w.1 != .pcie && w.1 != .doe) }

theorem State.modMss_hostFrame (s : State) (f : Mss → Mss) : s.HostFrame (s.modMss f) := ⟨rfl, rfl, rfl, rfl, rfl, rfl, rfl⟩

theorem State.modCip_hostFrame (s : State) (f : Cip → Cip) : s.HostFrame (s.modCip f) := ⟨rfl, rfl, rfl, rfl, rfl, rfl, rfl⟩

theorem State.dropReplies_hostFrame (s : State) : s.HostFrame s.dropReplies :=
  ((State.HostFrame.withFe s _).trans (State.modMss_hostFrame _ _)).trans (State.jot_hostFrame _ _)

theorem State.hostGone_hostFrame (s : State) : s.HostFrame s.hostGone :=
  ((s.modCip_hostFrame _).trans (State.dropReplies_hostFrame _)).trans (State.modMss_hostFrame _ _)

theorem State.linkReset_lost (s : State) : s.LinkLost s.linkReset := by
  have h2 := s.linkCut_lost.trans s.linkCut.freeDoorbells_hostFrame
  have h3 := foldl_keeps s.LinkLost State.cplOff (fun t c h => h.trans (t.cplOff_hostFrame c)) (List.range 64) _ h2
  have h4 := h3.trans (State.hostGone_hostFrame _)
  exact h4.trans (State.startXfers_hostFrame _ _)

/-! ### Reference clocks (R447) -/

/-- R461: an event placed takes the next ESEQ. -/
theorem EventQ.place_eseq (e : EventQ) (ty : Nat) (payload : List Byte) : (e.place ty payload).eseq = e.eseq + 1 := by
  unfold EventQ.place
  split <;> rfl

/-- An event of the links touches no port, no memory and no hummock (R341). -/
theorem State.linkEvent_keeps (s : State) (kind port cause lanes pid pport aux : Nat) :
    let t := s.linkEvent kind port cause lanes pid pport aux
    t.cwy.ports = s.cwy.ports ∧ t.mem = s.mem ∧ t.hums = s.hums := by
  unfold State.linkEvent
  dsimp only
  split <;> exact ⟨rfl, rfl, rfl⟩

/-- R332: the port is DOWN with its cause, its replay buffer is empty, and no other port sees it. -/
theorem State.portDown_spec (s : State) (p : Nat) (cause : BitVec 3) (lanes : Nat) :
    ((s.portDown p cause lanes).port p).ls = .down ∧ ((s.portDown p cause lanes).port p).dcause = cause ∧
      ((s.portDown p cause lanes).port p).replay = [] ∧ (∀ q, q ≠ p → (s.portDown p cause lanes).port q = s.port q) ∧
      (s.portDown p cause lanes).mem = s.mem ∧ (s.portDown p cause lanes).hums = s.hums := by
  have events (x : Port) (k c l i j k' c' l' i' j' : Nat) (b : Prop) [Decidable b] :
      let u := (s.setPort p x).linkEvent k p c l i j 0
      let t := if b then u.linkEvent k' p c' l' i' j' 0 else u
      t.cwy.ports = (s.setPort p x).cwy.ports ∧ t.mem = s.mem ∧ t.hums = s.hums := by
    obtain ⟨hp, hm, hh⟩ := (s.setPort p x).linkEvent_keeps k p c l i j 0
    dsimp only
    split
    · obtain ⟨hp', hm', hh'⟩ := ((s.setPort p x).linkEvent k p c l i j 0).linkEvent_keeps k' p c' l' i' j' 0
      exact ⟨hp'.trans hp, hm'.trans hm, hh'.trans hh⟩
    · exact ⟨hp, hm, hh⟩
  obtain ⟨x, hx, hls, hdc, hrep⟩ : ∃ x : Port, ((s.portDown p cause lanes).cwy.ports = (s.setPort p x).cwy.ports ∧
      (s.portDown p cause lanes).mem = s.mem ∧ (s.portDown p cause lanes).hums = s.hums) ∧
      x.ls = .down ∧ x.dcause = cause ∧ x.replay = [] :=
    ⟨_, events _ _ _ _ _ _ _ _ _ _ _ _, rfl, rfl, rfl⟩
  obtain ⟨hp, hm, hh⟩ := hx
  have hport (q : Nat) : (s.portDown p cause lanes).port q = (s.setPort p x).port q := by rw [State.port, hp]; rfl
  rw [hport p, State.port_setPort_same]
  exact ⟨hls, hdc, hrep, fun q hq => (hport q).trans (State.port_setPort_ne _ _ hq), hm, hh⟩

/-- What the loss of the Causeway's clock does to port p (R447). -/
def State.portClockLost (s t : State) (p : Nat) : Prop :=
  ((s.port p).ls = .off ∨ (s.port p).ls = .down → t.port p = s.port p) ∧
    ((s.port p).ls ≠ .off → (s.port p).ls ≠ .down → (t.port p).ls = .down ∧ (t.port p).dcause = 1 ∧ (t.port p).replay = [])

/-- Port p goes down with cause 1, unless it is off or down. -/
def State.losePort (s : State) (p : Nat) : State :=
  match (s.port p).ls with
  | .off | .down => s
  | _ => s.portDown p 1 0

theorem State.losePort_spec (s : State) (p : Nat) : s.portClockLost (s.losePort p) p ∧
    (∀ q, q ≠ p → (s.losePort p).port q = s.port q) ∧ (s.losePort p).mem = s.mem ∧ (s.losePort p).hums = s.hums := by
  obtain ⟨hls, hdc, hrep, hne, hm, hh⟩ := s.portDown_spec p 1 0
  unfold State.losePort State.portClockLost
  split
  case h_1 h | h_2 h => exact ⟨⟨fun _ => rfl, fun h1 h2 => by simp [h] at h1 h2⟩, fun _ _ => rfl, rfl, rfl⟩
  case h_3 h1 h2 => exact ⟨⟨fun c => (c.elim h1 h2).elim, fun _ _ => ⟨hls, hdc, hrep⟩⟩, hne, hm, hh⟩

/-- The ports before n have lost their clock, and nothing else of the fabric, no memory and no hummock has changed. -/
structure State.ClockLostTo (s t : State) (n : Nat) : Prop where
  lost : ∀ p < n, s.portClockLost t p
  rest : ∀ p, n ≤ p → t.port p = s.port p
  mem : t.mem = s.mem
  hums : t.hums = s.hums

theorem State.ClockLostTo.succ {s t : State} {n : Nat} (h : s.ClockLostTo t n) : s.ClockLostTo (t.losePort n) (n + 1) := by
  obtain ⟨hl, hne, hm, hh⟩ := t.losePort_spec n
  have hn : t.port n = s.port n := h.rest n (le_refl n)
  refine ⟨fun p hp => ?_, fun p hp => (hne p (by omega)).trans (h.rest p (by omega)), hm.trans h.mem, hh.trans h.hums⟩
  by_cases hpn : p = n
  · subst hpn
    rwa [State.portClockLost, hn] at hl
  · have hold := h.lost p (by omega)
    rwa [State.portClockLost, ← hne p hpn] at hold

theorem State.clockLostTo (s : State) : ∀ n, s.ClockLostTo ((List.range n).foldl State.losePort s) n
  | 0 => ⟨nofun, fun _ _ => rfl, rfl, rfl⟩
  | n + 1 => by
    rw [List.range_succ, List.foldl_append]
    exact (s.clockLostTo n).succ

/-! ### The permit, the cap and the tick -/

/-- s with a step permit for each hummock of sector x (R432). -/
def State.permitted (s : State) (x : Sec) : State :=
  { s with hums := s.hums.map fun (y : Nat × Hummock) =>
      if secOf y.1 = x.val && y.2.power == .running then (y.1, { y.2 with steps := y.2.steps + 1 }) else y }

/-- R432, R447: each hummock of the sector that runs takes one step; without the pace or the clock there is no permit. -/
theorem exec_pacePermit {s : State} (x : Sec) (hp : s.pwc.paceAct = true) (hc : s.err.chip = none) (hx : s.board.xtal = true) :
    exec (.pacePermit x) s = .next (s.permitted x) := by
  change execPacePermit x s = _
  simp only [execPacePermit, hp, hc, hx]
  rfl

/-- R432: the permit is one step of each hummock of the sector that runs. -/
theorem State.permitted_hum (s : State) (x : Sec) (g : Nat) : (s.permitted x).hum g =
    if secOf g = x.val ∧ (s.hum g).power = .running then { (s.hum g) with steps := (s.hum g).steps + 1 } else s.hum g := by
  unfold State.permitted State.hum
  rw [sget_map]
  · by_cases h : secOf g = x.val ∧ (sget Hummock.reset s.hums g).power = .running
    · simp [h]
    · rw [if_neg h, if_neg (by simpa using h)]
  · intro y
    split <;> rfl
  · intro k
    simp [Hummock.reset]

theorem exec_pacePermit_none {s : State} (x : Sec) (h : s.pwc.paceAct = false ∨ s.board.xtal = false) :
    exec (.pacePermit x) s = .next s := by
  change execPacePermit x s = _
  obtain h | h := h <;> simp [execPacePermit, h]

/-- R433: a write of W is stored, and moves no setpoint. -/
theorem capWrite_stores {s : State} {m : Master} (hm : s.privileged m) (ho : s.regionOpen 9 = true) (w : BitVec 13) :
    ∃ t, exec (.capWrite m w) s = .next t ∧ (t.reg 0x200010).extractLsb' 0 13 = w ∧ (∀ o, o ≠ 0x200010 → t.reg o = s.reg o) ∧
      t.mem = s.mem ∧ t.fe = s.fe ∧ t.hums = s.hums := by
  have hne (o : Nat) (h : o ≠ 0x200010) : (s.askCap w).reg o = s.reg o := State.reg_setReg_ne _ _ h
  have hf := s.askCap_acts_frame w
  rw [exec_capWrite hm ho]
  split
  · exact ⟨_, rfl, s.askCap_W w, hne, rfl, rfl, rfl⟩
  · exact ⟨_, rfl, by rw [hf.reg, s.askCap_W w], fun o h => by rw [hf.reg, hne o h], hf.mem, hf.fe, State.applyPoint_hums _⟩

/-- R433: a cap below 4.8 kW lowers the point to N0. -/
theorem capWrite_lowers {s : State} {m : Master} {w : BitVec 13} (hm : s.privileged m) (ho : s.regionOpen 9 = true) (hu : s.pwpUp = true)
    (hc : s.pwc.clamp = false) (hf : s.regField 0x200010 0 13 ≠ w.toNat) (hw : w.toNat < 4800) (ha : s.pwc.active ≠ 0)
    (hr : s.pwc.rateOf 0 s.admitPaced < s.pwc.rateOf s.pwc.active.toNat s.admitPaced)
    (hl : s.fasterLaunch (s.pwc.rateOf 0 s.admitPaced) = false) :
    ∃ t, exec (.capWrite m w) s = .next t ∧ t.entersPoint 0 0 := by
  have hW := s.askCap_W w
  have hstored : ¬ (s.askCap w).reg 0x200010 = s.reg 0x200010 := fun c => by
    rw [c] at hW
    exact hf (by rw [regField_eq, hW])
  have hcap : ((s.askCap w).jot pwpIx).capW < 4800 := by
    have h : ((s.askCap w).jot pwpIx).capW = Nat.min (Nat.max w.toNat 3500) 5600 := State.capW_setCap s w (extractLsb'_capMerged _ w)
    rw [h]
    exact lt_of_le_of_lt (Nat.min_le_left _ _) (Nat.max_lt.2 ⟨hw, by decide⟩)
  have hask : ((s.askCap w).jot pwpIx).asksFor 0 := ⟨hc, hu, if_pos hcap, ha.symm⟩
  rw [exec_capWrite hm ho, if_neg hstored]
  exact ⟨_, rfl, State.applyPoint_lowers hask hr hl⟩

/-! ### Tokens granted and taken back -/

theorem State.grantWake_hum (s : State) (w : WakeReq) : (s.grantWake w).hum w.g = { (s.hum w.g) with power := .waking } :=
  State.hum_modHum_same ..

theorem State.grantWake_hum_ne (s : State) (w : WakeReq) {k : Nat} (hk : k ≠ w.g.val) : (s.grantWake w).hum k = s.hum k :=
  State.hum_modHum_ne _ _ hk

/-- R438: a token granted changes the power controller, its hummock and partitions. -/
theorem State.voidWakes_grantWake_rest (s : State) (w : WakeReq) :
    { s.voidWakes.grantWake w with pwc := s.pwc, hums := s.hums, jnl := s.jnl } = s := by
  obtain ⟨j, h⟩ := s.voidWakes_eq
  rw [h]
  rfl

/-- R438: the youngest class 2 wake is powered off for one of class 1, and its request comes first. -/
theorem State.preempt_grantWake {s : State} {y w : WakeReq} (hne : y.g ≠ w.g) :
    y ∈ ((s.preempt y).grantWake w).pwc.wakeQ ∧ (((s.preempt y).grantWake w).hum y.g).power = .gated := by
  have hyw : y ≠ w := fun c => hne (congrArg WakeReq.g c)
  refine ⟨(List.mem_erase_of_ne hyw).2 List.mem_cons_self, ?_⟩
  rw [State.grantWake_hum_ne _ _ (fun c => hne (Fin.ext c)), State.preempt, State.hum_modHum_same]

/-! ### The clamp and the clocks, as commands -/

/-- What the clamp engaged for the causes of p makes of the power controller. -/
def Power.engaged (p : Power) : Power :=
  { p with clamp := true, ramp := false, admitPt := 0, clearMs := 0, common := 620, shared := 620 }

/-- R440 to R442: a cause that comes engages the clamp, where no handoff is under way. -/
theorem State.causesChanged_spec {s : State} {f : Power → Power} (hf : (f s.pwc).anyCause = true) (hc : (f s.pwc).clamp = false)
    (hh : s.fw.handoff = none) :
    (s.causesChanged f).pwc = (f s.pwc).engaged ∧ s.drivenTo (s.causesChanged f) 620 ∧
      (s.causesChanged f).board = { s.board with alertN := false } ∧ (s.causesChanged f).mem = s.mem ∧ (s.causesChanged f).fe = s.fe := by
  have hfr := (s.modPwc f).clamped_frame
  have hnone : (s.modPwc f).clamped.fw.handoff = none := by rw [hfr.fw]; exact hh
  have hany : (s.modPwc f).clamped.pwc.anyCause = true := hf
  obtain ⟨out, ho⟩ := State.updateAlert_asserts hany
  rw [State.causesChanged_engages hf hc, State.abandonHandoff_none hnone, ho, hfr.board]
  exact ⟨rfl, (s.modPwc f).clamped_drivenTo, rfl, hfr.mem, hfr.fe⟩

/-- The causes of the clamp with PROCHOT_N among them. -/
def Power.prochot (p : Power) : Power := { p with eProchot := true }

/-- The causes of the clamp with the power over its limit among them. -/
def Power.overLimit (p : Power) : Power := { p with ePower := true }

theorem Power.anyCause_prochot (p : Power) : p.prochot.anyCause = true := by simp [Power.anyCause, Power.prochot]

theorem Power.anyCause_overLimit (p : Power) : p.overLimit.anyCause = true := by simp [Power.anyCause, Power.overLimit]

theorem exec_prochotN_low {s : State} (hb : s.board.coreOn = true) : exec (.prochotN false) s =
    .next (({ s with board := { s.board with prochotN := false } } : State).causesChanged Power.prochot) := by
  change execProchotN false s = _
  simp only [execProchotN, hb, if_true]
  rfl

theorem exec_powerOverLimit {s : State} (hb : s.board.coreOn = true) :
    exec (.powerOverLimit true) s = .next (s.causesChanged Power.overLimit) := by
  change execPowerOverLimit true s = _
  simp only [execPowerOverLimit, hb, if_true]
  rfl

/-- R390: the clamp abandons a handoff that has loaded no image. -/
theorem State.causesChanged_handoff {s : State} {f : Power → Power} {b : Bool} (hf : (f s.pwc).anyCause = true)
    (hc : (f s.pwc).clamp = false) (hh : s.fw.handoff = some (1, b)) (h : s.NoneWaits) :
    (s.causesChanged f).pwc.clamp = true ∧ (s.causesChanged f).fw.handoff = none ∧
      (s.causesChanged f).fw.pend = some (s.fw.pend.getD b) ∧
      ∀ i, i < 11 → ((s.causesChanged f).proc i).st = if (s.proc i).st = .quiescing then .ready else (s.proc i).st := by
  have hfr := (s.modPwc f).clamped_frame
  have hwaits : (s.modPwc f).clamped.NoneWaits :=
    ⟨by rw [hfr.fe]; exact h.launches, by rw [hfr.fe]; exact h.dbq, by rw [hfr.ep]; exact h.msgs⟩
  obtain ⟨hhand, hpend, hclamp, hproc⟩ := State.abandonHandoff_resumed (b := b) (by rw [hfr.fw]; exact hh) hwaits
  obtain ⟨board, out, ho⟩ := (s.modPwc f).clamped.abandonHandoff.updateAlert_eq
  have hsame (i : Nat) : (s.modPwc f).clamped.proc i = s.proc i := by rw [State.proc, hfr.fw]; rfl
  rw [State.causesChanged_engages hf hc, ho]
  rw [hfr.fw] at hpend
  exact ⟨hclamp, hhand, hpend, fun i hi => (hproc i hi).trans (by rw [hsame])⟩

/-- s with the clamp released: the ramp back to the active point runs, and its event is placed (R442, R448). -/
def State.unclamped (s : State) (us : BitVec 32) : State :=
  (s.modPwc fun p => { p with clamp := false, ramp := true, clearMs := 0, crossed := 0xFF }).powerEvent 1 0 0xFF us.toNat 0

theorem exec_clampRelease {s : State} {us : BitVec 32} (hc : s.pwc.clamp = true) (ha : s.pwc.anyCause = false) (hm : s.pwc.clearMs = 10) :
    exec (.clampRelease us) s = .next (s.unclamped us).applyPoint.applyPaced := by
  change execClampRelease us s = _
  simp [execClampRelease, hc, ha, hm, State.unclamped]

theorem exec_clampRelease_early {s : State} {us : BitVec 32} (hm : s.pwc.clearMs ≠ 10) : exec (.clampRelease us) s = .next s := by
  have h : (s.pwc.clearMs.toNat == 10) = false := by
    simpa using fun c => hm (BitVec.eq_of_toNat_eq c)
  change execClampRelease us s = _
  simp [execClampRelease, h]

/-- What requests that act leave of a ramp under way, and of the clamp. -/
theorem State.opActs_pwc (s : State) : s.applyPoint.applyPaced.pwc.clamp = s.pwc.clamp ∧
    (s.pwc.ramp = true → s.applyPoint.applyPaced.pwc.ramp = true) := by
  obtain ⟨_, _, _, _, hpt, hr⟩ := s.applyPoint_pwc
  obtain ⟨_, _, hpc⟩ := s.applyPoint.applyPaced_pwc
  rw [hpc, hpt]
  exact ⟨rfl, hr⟩

section
variable {s : State} (hb : s.board.standby = true)
include hb

theorem exec_clockLoss_sysXtal : exec (.clockLoss .sysXtal) s =
    .next (({ s with board := { s.board with xtal := false } } : State).powerEvent 4 0 0xFF 0 0) := by
  change execClockLoss .sysXtal s = _
  simp [execClockLoss, hb]

theorem exec_clockLoss_pcie : exec (.clockLoss .pcie) s =
    .next (({ s with board := { s.board with pcieClock := false } } : State).powerEvent 4 1 0xFF 0 0).linkReset := by
  change execClockLoss .pcie s = _
  simp [execClockLoss, hb]

theorem exec_clockLoss_dz : exec (.clockLoss .dz) s = .next (s.powerEvent 4 2 0xFF 0 0).dzClockLost := by
  change execClockLoss .dz s = _
  simp [execClockLoss, hb]

end

theorem State.dzClockLost_spec (s : State) : s.dzClockLost.mem = s.mem ∧ s.dzClockLost.hums = s.hums ∧
    ∀ p < 16, s.portClockLost s.dzClockLost p := by
  obtain ⟨hl, -, hm, hh⟩ := State.clockLostTo ({ s with board := { s.board with dzClock := false } } : State) 16
  exact ⟨hm, hh, hl⟩

/-! ### Requests of a point and of the pace, as commands -/

/-- R15, R431: a request of a point that is no slower is entered. -/
theorem opPointRequest_raises {s : State} {m : Master} {point : BitVec 2} (h : s.powerWrites m) (hc : 4800 ≤ s.capW)
    (hf : s.regField 0x200000 0 2 ≠ point.toNat) (hne : point ≠ s.pwc.active) (h3 : point ≠ 3)
    (hr : s.pwc.rateOf s.pwc.active.toNat s.admitPaced ≤ s.pwc.rateOf point.toNat s.admitPaced) :
    ∃ t, exec (.opPointRequest m point) s = .next t ∧ t.entersPoint point (if s.pwc.ramp then s.pwc.admitPt else s.pwc.active) ∧
      (t.reg 0x200000).extractLsb' 0 2 = point ∧ t.mem = s.mem ∧ t.fe = s.fe := by
  obtain ⟨hex, hask, hpoint⟩ := exec_opPointRequest h hc hf hne h3
  obtain ⟨-, hmem, -, hfe, -⟩ := (s.askPoint point).opActs_frame
  exact ⟨_, hex, State.entersPoint_applyPaced (State.applyPoint_raises hask hr), hpoint, hmem, hfe⟩

/-- R15: a request of a slower point is entered where no launch was admitted at a higher rate. -/
theorem opPointRequest_lowers {s : State} {m : Master} {point : BitVec 2} (h : s.powerWrites m) (hc : 4800 ≤ s.capW)
    (hf : s.regField 0x200000 0 2 ≠ point.toNat) (hne : point ≠ s.pwc.active) (h3 : point ≠ 3)
    (hr : s.pwc.rateOf point.toNat s.admitPaced < s.pwc.rateOf s.pwc.active.toNat s.admitPaced)
    (hl : s.fasterLaunch (s.pwc.rateOf point.toNat s.admitPaced) = false) :
    ∃ t, exec (.opPointRequest m point) s = .next t ∧ t.entersPoint point point ∧ t.mem = s.mem ∧ t.fe = s.fe := by
  obtain ⟨hex, hask, -⟩ := exec_opPointRequest h hc hf hne h3
  obtain ⟨-, hmem, -, hfe, -⟩ := (s.askPoint point).opActs_frame
  exact ⟨_, hex, State.entersPoint_applyPaced (State.applyPoint_lowers hask hr hl), hmem, hfe⟩

/-- R15: a request of a slower point is pending while such a launch remains, and admission uses the point pending. -/
theorem opPointRequest_pends {s : State} {m : Master} {point : BitVec 2} (h : s.powerWrites m) (hc : 4800 ≤ s.capW)
    (hf : s.regField 0x200000 0 2 ≠ point.toNat) (hne : point ≠ s.pwc.active) (h3 : point ≠ 3)
    (hr : s.pwc.rateOf point.toNat s.admitPaced < s.pwc.rateOf s.pwc.active.toNat s.admitPaced)
    (hl : s.fasterLaunch (s.pwc.rateOf point.toNat s.admitPaced) = true) :
    ∃ t, exec (.opPointRequest m point) s = .next t ∧ t.pwc.active = s.pwc.active ∧ t.pwc.pend = some point ∧ t.pwc.admitPt = point ∧
      t.pwc.ramp = s.pwc.ramp ∧ t.mem = s.mem ∧ t.fe = s.fe := by
  obtain ⟨hex, hask, -⟩ := exec_opPointRequest h hc hf hne h3
  obtain ⟨-, hmem, -, hfe, -⟩ := (s.askPoint point).opActs_frame
  obtain ⟨pa, pp, hp⟩ := (s.askPoint point).applyPoint.applyPaced_pwc
  rw [State.applyPoint_pends hask hr hl] at hp
  refine ⟨_, hex, ?_⟩
  rw [hp]
  exact ⟨rfl, rfl, rfl, rfl, hmem, hfe⟩

/-- R432: a request of the pace is in force at once, or pending while a launch admitted without it is live. -/
theorem pacedRequest_on {s : State} {m : Master} (h : s.powerWrites m) (hr : (s.reg 0x200000).getLsbD 2 = false)
    (hp : s.pwc.paceAct = false) :
    ∃ t, exec (.pacedRequest m true) s = .next t ∧ (t.reg 0x200000).getLsbD 2 = true ∧ t.pwc.paceAct = !s.unpacedLaunch ∧
      t.pwc.pacePend = s.unpacedLaunch ∧ (∀ g, { t.hum g with vset := (s.hum g).vset } = s.hum g) ∧ t.mem = s.mem ∧ t.fe = s.fe := by
  obtain ⟨hex, hreg⟩ := exec_pacedRequest (paced := true) h hr
  obtain ⟨-, -, hpwpUp, -⟩ := h
  obtain ⟨_, _, _, _, hpwc⟩ := s.askPace_pwc true
  obtain ⟨-, hmem, -, hfe, -⟩ := (s.askPace true).opActs_frame
  have hup : (s.askPace true).applyPoint.pwpUp = true := (State.applyPoint_frame _).pwpUp.trans hpwpUp
  have hul : (s.askPace true).applyPoint.unpacedLaunch = s.unpacedLaunch := (State.applyPoint_frame _).unpacedLaunch
  obtain ⟨hon, hhum⟩ := State.applyPaced_on hreg hup (by rw [hpwc]; exact hp)
  rw [hul] at hon
  refine ⟨_, hex, by rw [(State.applyPaced_frame _).reg]; exact hreg, by rw [hon], by rw [hon], fun g => ?_, hmem, hfe⟩
  rw [← s.askPace_hum true g]
  exact hhum g

/-- R432: without the pace the common setpoint returns at once. -/
theorem pacedRequest_off {s : State} {m : Master} (h : s.powerWrites m) (hr : (s.reg 0x200000).getLsbD 2 = true)
    (hp : s.pwc.paceAct = true) :
    ∃ t, exec (.pacedRequest m false) s = .next t ∧ (t.reg 0x200000).getLsbD 2 = false ∧ t.pwc.paceAct = false ∧
      t.pwc.pacePend = false ∧ s.drivenTo t s.pwc.common ∧ t.mem = s.mem ∧ t.fe = s.fe := by
  obtain ⟨hex, hreg⟩ := exec_pacedRequest (paced := false) h hr
  obtain ⟨-, -, hpwpUp, -⟩ := h
  obtain ⟨_, _, _, _, hpwc⟩ := s.askPace_pwc false
  obtain ⟨-, hmem, -, hfe, -⟩ := (s.askPace false).opActs_frame
  have hup : (s.askPace false).applyPoint.pwpUp = true := (State.applyPoint_frame _).pwpUp.trans hpwpUp
  have hoff := State.applyPaced_off hreg hup
  obtain ⟨hcommon, hhum⟩ := State.paceOff_drivenTo (s := (s.askPace false).applyPoint) (by rw [hpwc]; exact hp)
  rw [hpwc] at hcommon hhum
  refine ⟨_, hex, by rw [(State.applyPaced_frame _).reg]; exact hreg, by rw [hoff, State.paceOff_pwc], by rw [hoff, State.paceOff_pwc],
    ⟨by rw [hoff]; exact hcommon, fun g => ?_⟩, hmem, hfe⟩
  rw [hoff, hhum g, s.askPace_hum]

/-! ### Wakes and tokens, as commands -/

/-- R437: a hummock that no launch holds is idle once woken. -/
theorem wakeComplete_idle {s : State} {g : Hum} {w : WakeReq} (hw : (s.pwc.granted.find? fun w => w.g == g) = some w)
    (hp : (s.hum g).power = .waking) (hn : s.noStalls) (hc : s.pwc.clamp = false) (hh : (s.hum g).holder = none) :
    ∃ t, exec (.wakeComplete g) s = .next t ∧ t.pwc.granted = s.pwc.granted.erase w ∧ t.pwc.wakes = satInc s.pwc.wakes ∧
      (t.hum g).power = .running ∧ (s.pwc.paceAct = false → (t.hum g).vset = BitVec.ofNat 10 s.pwc.common) ∧ (t.hum g).mere = [] ∧
      (t.hum g).seq.st = .idle ∧ (∀ k, k ≠ g.val → t.hum k = s.hum k) ∧ t.mem = s.mem := by
  obtain ⟨mv, hex, hmv⟩ := exec_wakeComplete hw hp hn hc fun mv x hx => by rw [Hummock.woken_idle hh] at hx; cases hx
  have hg : (s.wokenAt g w mv).hum g = _ := (s.wokenAt_hum g w mv).trans (Hummock.woken_idle hh mv)
  refine ⟨_, hex, rfl, rfl, ?_⟩
  rw [hg]
  exact ⟨rfl, hmv, rfl, rfl, fun k hk => s.wokenAt_hum_ne g w mv hk, rfl⟩

/-- R437, R509: a held hummock issues from its ENTRY once woken, or from HUM_WAKEVEC after WAITP. -/
theorem wakeComplete_held {s : State} {g : Hum} {w : WakeReq} {x : Holder} (hw : (s.pwc.granted.find? fun w => w.g == g) = some w)
    (hp : (s.hum g).power = .waking) (hn : s.noStalls) (hc : s.pwc.clamp = false) (hx : (s.hum g).holder = some x)
    (hpc : (if (s.hum g).seq.st = .gated then (s.hum g).wvec else x.entry).toNat < x.codeLen) :
    ∃ t, exec (.wakeComplete g) s = .next t ∧ t.pwc.granted = s.pwc.granted.erase w ∧ (t.hum g).power = .running ∧
      (t.hum g).holder = some x ∧ (t.hum g).seq.st = .issuing ∧
      (t.hum g).seq.pc = (if (s.hum g).seq.st = .gated then (s.hum g).wvec else x.entry) ∧
      ((t.hum g).seq.wake = true ↔ (s.hum g).seq.st = .gated) ∧ (∀ r : BitVec 5, (t.hum g).seq.reg r = 0) ∧
      (t.hum g).mere = [] ∧ (∀ k, k ≠ g.val → t.hum k = s.hum k) ∧ t.mem = s.mem := by
  obtain ⟨mv, hex, -⟩ := exec_wakeComplete hw hp hn hc fun mv y hy => by
    rw [Hummock.woken_held hx] at hy ⊢
    obtain rfl : x = y := Option.some.inj hy
    exact hpc
  have hg : (s.wokenAt g w mv).hum g = _ := (s.wokenAt_hum g w mv).trans (Hummock.woken_held hx mv)
  refine ⟨_, hex, rfl, ?_⟩
  rw [hg]
  exact ⟨rfl, rfl, rfl, rfl, beq_iff_eq, fun r => ite_self _, rfl, fun k hk => s.wokenAt_hum_ne g w mv hk, rfl⟩

section
variable {s : State} {w : WakeReq} (hu : s.pwpUp = true) (hw : nextWake s.voidWakes.servable = some w)
include hu hw

/-- R438: while fewer than four tokens are out, the next request takes one. -/
theorem wakeTokenGrant_grants (hl : s.pwc.granted.length < 4) :
    ∃ t, exec .wakeTokenGrant s = .next t ∧ t.pwc.granted = s.pwc.granted ++ [w] ∧ t.pwc.wakeQ = s.voidWakes.pwc.wakeQ.erase w ∧
      t.hum w.g = { (s.hum w.g) with power := .waking } ∧ (∀ k, k ≠ w.g.val → t.hum k = s.hum k) ∧
      { t with pwc := s.pwc, hums := s.hums, jnl := s.jnl } = s := by
  rw [exec_wakeTokenGrant_free hu hw hl]
  refine ⟨_, rfl, ?_, rfl, ?_, fun k hk => ?_, s.voidWakes_grantWake_rest w⟩
  · rw [← s.voidWakes_granted]; rfl
  · rw [State.grantWake_hum, s.voidWakes_hum]
  · rw [State.grantWake_hum_ne _ _ hk, s.voidWakes_hum]

/-- R438: with the tokens out, a request of class 1 takes that of the youngest class 2 wake. -/
theorem wakeTokenGrant_preempts {y : WakeReq} (hl : 4 ≤ s.pwc.granted.length) (h1 : w.cls1 = true)
    (hy : (s.pwc.granted.filter fun x => !x.cls1).getLast? = some y) (hg : y.g ≠ w.g) :
    ∃ t, exec .wakeTokenGrant s = .next t ∧ t.pwc.granted = s.pwc.granted.erase y ++ [w] ∧ y ∈ t.pwc.wakeQ ∧
      (t.hum y.g).power = .gated ∧ (t.hum w.g).power = .waking := by
  rw [exec_wakeTokenGrant_class1 hu hw hl h1 hy]
  obtain ⟨hq, hp⟩ := State.preempt_grantWake (s := s.voidWakes) hg
  refine ⟨_, rfl, ?_, hq, hp, by rw [State.grantWake_hum]⟩
  rw [← s.voidWakes_granted]; rfl

end

/-! ### O51 -/

/-- Settles O51. Each clause is one command: it is first taken to the action of the power controller that it stands for (`exec_…`), and
what the action does is a lemma of its own. A request is a store of PWC_OP or PWC_CAP that `applyPoint` and `applyPaced` act on; the tick
is `capAct`; the clamp ends a handoff by resuming its processors one by one, and a clock lost takes down the ports one by one. -/
theorem powerResult : Obligations.PowerResult := by
  unfold Obligations.PowerResult
  intro s
  refine ⟨fun m point h hc hf hne h3 => ⟨fun hr => ?raises, fun hr hl => ?lowers, fun hr hl => ?pends⟩, fun m hm ho => ?three,
    fun m h => ⟨fun hr hp => ?paced, fun hr hp => ?unpaced⟩,
    fun w hw hc hu => ⟨fun hl => ?lower, fun hl => ?lowerWaits⟩, fun hp hu => ⟨fun hl => ?pacedLater, fun hl => ?pacedWaits⟩,
    fun hr hc => ⟨fun hu => ?ramp, fun hu => ?rampHeld⟩,
    fun x => ⟨fun hp hc hx => ?permit, fun h => ?noPermit⟩, fun m w hm ho => ⟨?cap, fun hu hc hf hw ha hr hl => ?capActs⟩,
    fun watts coreA hb => ?tick, fun g => ⟨fun hp => ⟨fun hh hr hs hc => ?gate, fun hh => ?noGate⟩,
      fun hb hc => ⟨fun hp => ?still, fun hp hq hg => ?ask, fun hp h => ?askAgain⟩, fun w hw hp => ?voidToken,
      fun w hw hp hn hc => ⟨fun hh => ?wokenIdle, fun x hx hpc => ?wokenHeld⟩⟩,
    fun hu w hw => ⟨fun hl => ?grant, fun y hl h1 hy hg => ?preempt, fun hl h2 => ?noToken⟩,
    fun hb hc hh => ⟨?prochot, ?overLimit⟩, fun b hb hc hh hl hd hm => ?handoff, fun us hc ha hm => ?release, fun us hm => ?noRelease,
    fun hb => ⟨?xtal, ?pcie, ?dz⟩⟩
  case raises => exact opPointRequest_raises h hc hf hne h3 hr
  case lowers => exact opPointRequest_lowers h hc hf hne h3 hr hl
  case pends => exact opPointRequest_pends h hc hf hne h3 hr hl
  case three => exact ⟨_, exec_opPointRequest_three hm ho, rfl, fun o => s.reg_setReg_self _ o⟩
  case paced => exact pacedRequest_on h hr hp
  case unpaced => exact pacedRequest_off h hr hp
  case lower =>
    rw [exec_opLowerTakesEffect hw hc hu, if_neg (by simp [hl])]
    exact ⟨_, rfl, s.enterPoint_enters w w, rfl, rfl⟩
  case lowerWaits => rw [exec_opLowerTakesEffect hw hc hu, if_pos hl]
  case pacedLater =>
    obtain ⟨hpwc, hhum⟩ := s.paceOn_spec
    rw [exec_pacedTakesEffect hp hu, if_neg (by simp [hl])]
    exact ⟨_, rfl, by rw [hpwc], by rw [hpwc], hhum, s.paceOn_frame.mem⟩
  case pacedWaits => rw [exec_pacedTakesEffect hp hu, if_pos hl]
  case ramp =>
    rw [exec_setpointRampDone hr hc, if_pos hu]
    cases hpa : s.pwc.paceAct
    case false => exact ⟨_, rfl, rfl, rfl, rfl, rfl, fun _ => s.rampEnded_drivenTo, s.rampEnded_keeps, rfl⟩
    case true => exact ⟨_, rfl, rfl, rfl, rfl, rfl, nofun, s.rampEnded_paced_keeps, rfl⟩
  case rampHeld => rw [exec_setpointRampDone hr hc, if_neg (by simp [hu])]
  case permit => exact ⟨_, exec_pacePermit x hp hc hx, rfl, s.permitted_hum x⟩
  case noPermit => exact exec_pacePermit_none x h
  case cap => exact capWrite_stores hm ho w
  case capActs => exact capWrite_lowers hm ho hu hc hf hw ha hr hl
  case tick =>
    rw [exec_capTick hb]
    cases hu : s.pwpUp
    case false => exact ⟨_, rfl, rfl, rfl, rfl, rfl, rfl, rfl, fun _ => ⟨rfl, rfl⟩, nofun⟩
    case true =>
      obtain ⟨c, hpwc⟩ := (s.metered watts coreA).capAct_pwc watts.toNat
      obtain ⟨hregs, hmem, -, hfe, -⟩ := (s.metered watts coreA).capAct_frame watts.toNat
      refine ⟨_, rfl, ?_, ?_, ?_, hmem, hfe, hregs, nofun, fun _ => (s.metered watts coreA).capAct_spec watts.toNat⟩
      all_goals rw [if_pos rfl, hpwc]; rfl
  case gate =>
    have hg := s.hum_modHum_same g Hummock.gate
    exact ⟨_, exec_idleGateTimeout hp hh hr hs hc, s.onlyHum_setHum g _, hg, by rw [hg]; rfl, by rw [hg]; rfl⟩
  case noGate => exact exec_idleGateTimeout_holder hh
  case still => exact ⟨_, exec_wakeRequest_still hb hc hp, s.onlyHum_setHum g _, s.hum_modHum_same ..⟩
  case ask => rw [exec_wakeRequest_gated hb hc hp, State.requestWake_new hq hg]
  case askAgain =>
    rw [exec_wakeRequest_gated hb hc hp, State.requestWake_again h]
    rfl
  case voidToken => exact exec_wakeComplete_void hw hp
  case wokenIdle => exact wakeComplete_idle hw hp hn hc hh
  case wokenHeld => exact wakeComplete_held hw hp hn hc hx hpc
  case grant => exact wakeTokenGrant_grants hu hw hl
  case preempt => exact wakeTokenGrant_preempts hu hw hl h1 hy hg
  case noToken => exact exec_wakeTokenGrant_class2 hu hw hl h2
  case prochot =>
    obtain ⟨hpwc, hdr, hboard, hmem, hfe⟩ := State.causesChanged_spec (s := { s with board := { s.board with prochotN := false } })
      (Power.anyCause_prochot s.pwc) hc hh
    refine ⟨_, exec_prochotN_low hb, ?_⟩
    rw [hpwc, hboard]
    exact ⟨rfl, rfl, rfl, hdr, rfl, rfl, rfl, hmem, hfe⟩
  case overLimit =>
    obtain ⟨hpwc, hdr, hboard, hmem, hfe⟩ := State.causesChanged_spec (Power.anyCause_overLimit s.pwc) hc hh
    refine ⟨_, exec_powerOverLimit hb, ?_⟩
    rw [hpwc, hboard]
    exact ⟨rfl, rfl, rfl, hdr, rfl, rfl, hmem, hfe⟩
  case handoff => exact ⟨_, exec_powerOverLimit hb, State.causesChanged_handoff (Power.anyCause_overLimit s.pwc) hc hh ⟨hl, hd, hm⟩⟩
  case release =>
    obtain ⟨hcl, hr⟩ := (s.unclamped us).opActs_pwc
    obtain ⟨-, hmem, -, hfe, -⟩ := (s.unclamped us).opActs_frame
    exact ⟨_, exec_clampRelease hc ha hm, hcl, hr rfl, hmem, hfe⟩
  case noRelease => exact exec_clampRelease_early hm
  case xtal => exact ⟨_, exec_clockLoss_sysXtal hb, rfl, EventQ.place_eseq _ _ _, rfl⟩
  case pcie =>
    obtain ⟨hmem, hhum, hep, hboard, hup, hide, hring⟩ := State.linkReset_lost
      (({ s with board := { s.board with pcieClock := false } } : State).powerEvent 4 1 0xFF 0 0)
    exact ⟨_, exec_clockLoss_pcie hb, by rw [hboard]; rfl, hup, hide, hring, hmem, hhum, hep⟩
  case dz =>
    obtain ⟨hmem, hhum, hport⟩ := (s.powerEvent 4 2 0xFF 0 0).dzClockLost_spec
    exact ⟨_, exec_clockLoss_dz hb, hmem, hhum, fun p => hport p.val p.isLt⟩

end Sys2Proof.Machine
end

section
/-!
PROOFS. The rows of a station's operands in the hummock's own Mere, in another hummock's and in device memory (07 R158, R163; 09
R219, R225): what reading and writing them yields, and what it leaves alone.
-/

namespace Sys2Proof.Machine

/-! ### Device memory under the leaf of a plain page -/

/-- An access to device memory that took s to t left everything but its memory's state alone, and of that the page records, the
ownership map and the seals; it made no error where there was none. -/
structure State.DevFrame (s t : State) : Prop where
  rest : { t with mem := s.mem } = s
  recs : t.mem.recs = s.mem.recs
  own : t.mem.own = s.mem.own
  loaded : t.mem.loaded = s.mem.loaded
  clean : s.mem.err = [] → t.mem.err = []

namespace State.DevFrame

theorem refl (s : State) : s.DevFrame s := ⟨rfl, rfl, rfl, rfl, id⟩

theorem trans {s t u : State} (h : s.DevFrame t) (k : t.DevFrame u) : s.DevFrame u where
  rest := by
    calc { u with mem := s.mem } = { ({ u with mem := t.mem } : State) with mem := s.mem } := rfl
      _ = s := by rw [k.rest, h.rest]
  recs := k.recs.trans h.recs
  own := k.own.trans h.own
  loaded := k.loaded.trans h.loaded
  clean e := k.clean (h.clean e)

theorem hums {s t : State} (h : s.DevFrame t) : t.hums = s.hums := by simpa using congrArg State.hums h.rest

theorem regs {s t : State} (h : s.DevFrame t) : t.regs = s.regs := by simpa using congrArg State.regs h.rest

theorem sluices {s t : State} (h : s.DevFrame t) : t.sluices = s.sluices := by simpa using congrArg State.sluices h.rest

end State.DevFrame

theorem State.awaitZero_dev (s : State) (f : Nat) : s.DevFrame (s.awaitZero f) := by
  unfold State.awaitZero
  split <;> exact ⟨rfl, rfl, rfl, rfl, id⟩

theorem State.wakeStacks_dev (s : State) (a n : Nat) : s.DevFrame (s.wakeStacks a n) := by
  unfold State.wakeStacks
  refine foldl_keeps s.DevFrame _ (fun t i h => ?_) _ _ (.refl s)
  dsimp only
  split
  · exact h.trans ⟨rfl, rfl, rfl, rfl, id⟩
  · exact h

/-- What an access stands on once it is admitted. -/
theorem State.beforeAccess_dev (s : State) (f a n : Nat) : s.DevFrame ((s.awaitZero f).wakeStacks a n) :=
  (s.awaitZero_dev f).trans (State.wakeStacks_dev _ a n)

/-- A frame that is not sealed holds plain bytes (09 R231). -/
theorem State.frameKey_of_unsealed {s : State} {f : Nat} (h : (s.owner f).isSealed = false) : s.frameKey f = none := by
  simp [State.frameKey, h]

/-- Any context reads the plain bytes of a frame that is not sealed (09 R230, R231). -/
theorem State.physRead_plain {s : State} {c d : Nat} (h : s.mem.err = []) (hd : dpaReserved d = false)
    (hf : (s.owner (dpaFrame d)).isSealed = false) (n ctx : Nat) :
    ∃ t, s.physRead (.ctx c) d n ctx = ⟨t, bread s.mem.hbm d n, none⟩ ∧ s.DevFrame t ∧ t.mem.hbm = s.mem.hbm := by
  have ht := s.beforeAccess_dev (dpaFrame d) d n
  have hown : s.ownOk (.ctx c) (dpaFrame d) false = true := by simp [State.ownOk, hf]
  have hkey : ((s.awaitZero (dpaFrame d)).wakeStacks d n).frameKey (dpaFrame d) = none :=
    State.frameKey_of_unsealed (by rwa [State.owner, ht.own])
  refine ⟨_, ?_, ht, by simp⟩
  simp [State.physRead, hd, hown, State.eccHbm_of_clean (ht.clean h), ht.clean h, hkey, plainRead, srange]

theorem State.physWrite_dev {s : State} {c d : Nat} (h : s.mem.err = []) (hd : dpaReserved d = false)
    (hf : (s.owner (dpaFrame d)).isSealed = false) (hc : s.isSealed c = false) (bs : List Byte) :
    s.DevFrame (s.physWrite (.ctx c) d bs) := by
  have ht := s.beforeAccess_dev (dpaFrame d) d bs.length
  have hown : s.ownOk (.ctx c) (dpaFrame d) true = true := by simp [State.ownOk, hf, hc]
  have hw : (((s.awaitZero (dpaFrame d)).wakeStacks d bs.length).DevFrame (s.physWrite (.ctx c) d bs)) := by
    simp only [State.physWrite, hd, hown, State.settleErr_of_clean (ht.clean h), Bool.not_true, Bool.false_eq_true, if_false]
    exact ⟨rfl, rfl, rfl, rfl, fun e => by simp [State.eccWrite, sclear, e]⟩
  exact ht.trans hw

/-- Bytes read under the leaf that covers a plain page. -/
theorem State.vaRead_found {s : State} {m : List TlbEntry} {c va n d : Nat} {e : TlbEntry} (hm : m.find? (tlbHit c va) = some e)
    (h : s.plainAt c va n e d) (hclean : s.mem.err = []) :
    ∃ t, s.vaRead m c va n = ⟨t, bread s.mem.hbm d n, .none⟩ ∧ s.DevFrame t ∧ t.mem.hbm = s.mem.hbm := by
  obtain ⟨-, hflat, hva, hpage, rfl, hres, hframe, -⟩ := h
  have hflat : (e.big && e.leaf.getLsbD 3) = false := Bool.and_eq_false_imp.2 hflat
  cases n with
  | zero => exact ⟨s, rfl, .refl s, rfl⟩
  | succ n =>
    obtain ⟨t, hr, ht⟩ := State.physRead_plain (c := c) hclean hres hframe (n + 1) c
    refine ⟨t, ?_, ht⟩
    simp only [State.vaRead, piecesOf_onePage hva (Nat.succ_pos n) hpage, List.foldl_cons, List.foldl_nil, hm,
      s.readDpa_plain hflat, hr, List.nil_append]
    rfl

/-- Bytes written under the leaf that covers a plain page, whatever pages the instruction writes whole. -/
theorem State.vaWrite_found {s : State} {m : List TlbEntry} {c va d : Nat} {e : TlbEntry} {bs : List Byte}
    (hm : m.find? (tlbHit c va) = some e) (h : s.plainAt c va bs.length e d) (hclean : s.mem.err = []) (whole : List Nat) :
    ∃ t, s.vaWrite m c va bs whole = (t, .none) ∧ s.DevFrame t ∧ t.mem.hbm = bwrite s.mem.hbm d bs := by
  obtain ⟨-, hflat, hva, hpage, rfl, hres, hframe, hctx⟩ := h
  have hflat : (e.big && e.leaf.getLsbD 3) = false := Bool.and_eq_false_imp.2 hflat
  cases bs with
  | nil => exact ⟨s, rfl, .refl s, rfl⟩
  | cons b bs =>
    refine ⟨s.physWrite (.ctx c) (elemDpa e va) (b :: bs), ?_, State.physWrite_dev hclean hres hframe hctx _,
      s.physWrite_plain hclean hres hframe hctx _⟩
    simp only [State.vaWrite, piecesOf_onePage hva (Nat.succ_pos bs.length) hpage, List.foldl_cons, List.foldl_nil, hm, hflat,
      Bool.false_eq_true, if_false, s.readDpa_plain hflat, List.length_cons]
    simp

/-! ### On-die memory without errors -/

theorem State.settleSram_of_clean {s : State} (h : s.mem.err = []) (g kind lo hi : Nat) : s.settleSram g kind lo hi = s := by
  simp [State.settleSram, errSilent, srange, h]

theorem State.eccSram_of_clean {s : State} (h : s.mem.err = []) (g kind lo hi ctx : Nat) :
    s.eccSram g kind lo hi ctx = (s, false) := by
  simp [State.eccSram, srange, h, State.settleSram_of_clean h]

theorem State.eccSramWrite_of_clean {s : State} (h : s.mem.err = []) (g kind a n : Nat) : s.eccSramWrite g kind a n = s := by
  have e : sclear s.mem.err (sramUnit g kind 0 + (a + 31) / 32) (sramUnit g kind 0 + (a + n) / 32) = s.mem.err := by
    simp [sclear, h]
  simp [State.eccSramWrite, e]

theorem State.eccTile_of_clean {s : State} (h : s.mem.err = []) (g t r0 n cols : Nat) : s.eccTile g t r0 n cols = (s, false) := by
  unfold State.eccTile
  refine foldl_keeps (fun x : State × Bool => x = (s, false)) _ (fun x r hx => ?_) _ _ rfl
  subst hx
  simp [State.eccSram_of_clean h]

theorem State.eccSlot_of_clean {s : State} (h : s.mem.err = []) (g p rows cols : Nat) : s.eccSlot g p rows cols = (s, false) := by
  unfold State.eccSlot
  refine foldl_keeps (fun x : State × Bool => x = (s, false)) _ (fun x r hx => ?_) _ _ rfl
  subst hx
  simp [State.eccSram_of_clean h]

/-! ### States that show the same memories -/

/-- t shows the same memories as v, and the same launches hold its hummocks. -/
structure State.sameView (v t : State) : Prop where
  hbm : t.mem.hbm = v.mem.hbm
  recs : t.mem.recs = v.mem.recs
  mere : ∀ k, (t.hum k).mere = (v.hum k).mere
  holder : ∀ k, (t.hum k).holder = (v.hum k).holder

namespace State.sameView

theorem refl (s : State) : s.sameView s := ⟨rfl, rfl, fun _ => rfl, fun _ => rfl⟩

variable {u v t : State}

theorem trans (h : u.sameView v) (k : v.sameView t) : u.sameView t :=
  ⟨k.hbm.trans h.hbm, k.recs.trans h.recs, fun n => (k.mere n).trans (h.mere n), fun n => (k.holder n).trans (h.holder n)⟩

theorem symm (h : v.sameView t) : t.sameView v :=
  ⟨h.hbm.symm, h.recs.symm, fun n => (h.mere n).symm, fun n => (h.holder n).symm⟩

theorem memories (h : v.sameView t) : v.memoriesOf t := ⟨h.hbm, h.recs, h.mere⟩

theorem ctxOf (h : v.sameView t) (g : Nat) : t.ctxOf g = v.ctxOf g := by simp only [State.ctxOf, h.holder]

theorem env (h : v.sameView t) (g : Nat) : t.env g = v.env g := by simp only [State.env, h.holder]

theorem partner (h : v.sameView t) (g l : Nat) : t.partner g l = v.partner g l := by simp only [State.partner, h.holder]

theorem mereOf (h : v.sameView t) (g : Nat) (d : DescCap) : t.mereOf g d = v.mereOf g d := by
  simp only [State.mereOf, h.partner]

theorem spaceMem (h : v.sameView t) (g : Nat) (d : DescCap) : t.spaceMem g d = v.spaceMem g d := by
  simp only [State.spaceMem, h.hbm, h.mereOf, h.mere]

theorem placeIn (h : v.sameView t) (g : Nat) (m : List TlbEntry) (d : DescCap) (a : Nat) :
    t.placeIn g m d a = v.placeIn g m d a := by simp only [State.placeIn, h.ctxOf]

theorem viewRow (h : v.sameView t) (g : Nat) (m : List TlbEntry) : t.viewRow g m = v.viewRow g m := by
  funext o r
  simp only [State.viewRow, h.spaceMem, h.placeIn]

theorem viewRows (h : v.sameView t) (g : Nat) (m : List TlbEntry) (o : Opnd) : t.viewRows g m o = v.viewRows g m o := by
  simp only [State.viewRows, h.viewRow]

theorem viewScales (h : v.sameView t) (g : Nat) (m : List TlbEntry) (o : Opnd) : t.viewScales g m o = v.viewScales g m o := by
  simp only [State.viewScales, h.viewRow]

end State.sameView

theorem State.spaceMem_dev {s : State} {g : Nat} {d : DescCap} (hd : d.space = 1) : s.spaceMem g d = s.mem.hbm := if_pos hd

/-- The place of a byte of device memory under the leaf that covers it. -/
theorem State.placeIn_found {s : State} {g a : Nat} {m : List TlbEntry} {d : DescCap} {e : TlbEntry} (hd : d.space = 1)
    (he : m.find? (tlbHit (s.ctxOf g) (a % 2 ^ 52)) = some e) : s.placeIn g m d a = elemDpa e (a % 2 ^ 52) := by
  simp only [State.placeIn, if_pos hd, leafAt, he, Option.getD_some]

/-! ### Chunks stored in the space of a descriptor -/

section
variable (s : State) (g : Nat) (m : List TlbEntry) (d : DescCap) (cs : List (Nat × List Byte))

/-- The chunks at their places in the memory of their space. -/
def State.placed : List (Nat × List Byte) := cs.map fun c => (s.placeIn g m d c.1, c.2)

theorem State.putChunks_hbm :
    (s.putChunks g m d cs).mem.hbm = if d.space = 1 then storeAll s.mem.hbm (s.placed g m d cs) else s.mem.hbm := by
  by_cases h : d.space = 1 <;> simp [State.putChunks, State.spaceMem, State.placed, h]

theorem State.putChunks_recs : (s.putChunks g m d cs).mem.recs = s.mem.recs := by
  by_cases h : d.space = 1 <;> simp [State.putChunks, h]

theorem State.putChunks_mem (h : d.space ≠ 1) : (s.putChunks g m d cs).mem = s.mem := by simp [State.putChunks, h]

/-- The hummock whose Mere holds the space takes the chunks there; the others stay. -/
theorem State.putChunks_hum (k : Nat) : (s.putChunks g m d cs).hum k =
    if d.space ≠ 1 ∧ k = s.mereOf g d then { s.hum k with mere := storeAll (s.hum k).mere (s.placed g m d cs) } else s.hum k := by
  by_cases h : d.space = 1
  · simp [State.putChunks, h, State.hum]
  · by_cases hk : k = s.mereOf g d
    · subst hk; simp [State.putChunks, State.spaceMem, State.placed, h]
    · simp [State.putChunks, h, hk, State.hum_modHum_ne]

theorem State.putChunks_mere (k : Nat) : ((s.putChunks g m d cs).hum k).mere =
    if d.space ≠ 1 ∧ k = s.mereOf g d then storeAll (s.hum k).mere (s.placed g m d cs) else (s.hum k).mere := by
  rw [s.putChunks_hum g m d cs k]; split <;> rfl

theorem State.putChunks_holder (k : Nat) : ((s.putChunks g m d cs).hum k).holder = (s.hum k).holder := by
  rw [s.putChunks_hum g m d cs k]; split <;> rfl

end

/-- Chunks stored in the hummock's own Mere. -/
theorem State.putChunks_own (s : State) (g : Nat) (m : List TlbEntry) {d : DescCap} (hd : d.space = 0) (cs : List (Nat × List Byte))
    (k : Nat) : ((s.putChunks g m d cs).hum k).mere = if k = g then storeAll (s.hum g).mere cs else (s.hum k).mere := by
  have hg : s.mereOf g d = g := by simp [State.mereOf, hd]
  have hp : s.placed g m d cs = cs := by simp [State.placed, State.placeIn, hd]
  rw [s.putChunks_mere, hg, hp, hd]
  by_cases h : k = g
  · subst h; simp
  · simp [h]

theorem State.sameView.putChunks {v t : State} (h : v.sameView t) (g : Nat) (m : List TlbEntry) (d : DescCap)
    (cs : List (Nat × List Byte)) : (v.putChunks g m d cs).sameView (t.putChunks g m d cs) := by
  have hp : t.placed g m d cs = v.placed g m d cs := by simp only [State.placed, h.placeIn]
  refine ⟨?_, ?_, fun k => ?_, fun k => ?_⟩
  · rw [State.putChunks_hbm, State.putChunks_hbm, hp, h.hbm]
  · rw [State.putChunks_recs, State.putChunks_recs, h.recs]
  · rw [State.putChunks_mere, State.putChunks_mere, hp, h.mere, h.mereOf]
  · rw [State.putChunks_holder, State.putChunks_holder, h.holder]

/-- Storing no chunk changes nothing. -/
theorem State.putChunks_nil (s : State) (g : Nat) (m : List TlbEntry) (d : DescCap) : s.sameView (s.putChunks g m d []) := by
  refine ⟨?_, s.putChunks_recs g m d [], fun k => ?_, s.putChunks_holder g m d []⟩
  · rw [s.putChunks_hbm]; simp [State.placed, storeAll]
  · rw [s.putChunks_mere]; simp [State.placed, storeAll]

/-- Chunks are stored one after the other. -/
theorem State.putChunks_append (s : State) (g : Nat) (m : List TlbEntry) (d : DescCap) (a b : List (Nat × List Byte)) :
    (s.putChunks g m d (a ++ b)).sameView ((s.putChunks g m d a).putChunks g m d b) := by
  have hmere : (s.putChunks g m d a).mereOf g d = s.mereOf g d := by
    simp only [State.mereOf, State.partner, State.putChunks_holder]
  have hp : (s.putChunks g m d a).placed g m d b = s.placed g m d b := by
    simp only [State.placed, State.placeIn, State.ctxOf, State.putChunks_holder]
  have hs (x : List Host.Cell) : storeAll x (s.placed g m d (a ++ b)) = storeAll (storeAll x (s.placed g m d a)) (s.placed g m d b) := by
    simp [storeAll, State.placed]
  refine ⟨?_, ?_, fun k => ?_, fun k => ?_⟩
  · simp only [State.putChunks_hbm, hp, hs]; split <;> rfl
  · simp only [State.putChunks_recs]
  · simp only [State.putChunks_mere, hp, hs, hmere]; split <;> rfl
  · simp only [State.putChunks_holder]

/-! ### What a station at work leaves alone -/

/-- From h to k a station has changed the Mere, taken events that tiles and slots kept, and taken STREAM groups; nothing else. -/
def Hummock.worksTo (h k : Hummock) : Prop :=
  { k with mere := h.mere, sump := h.sump, peatEvs := h.peatEvs, groups := h.groups } = h ∧ ∀ n, (k.tile n).bare = (h.tile n).bare

theorem Hummock.worksTo.refl (h : Hummock) : h.worksTo h := ⟨rfl, fun _ => rfl⟩

theorem Hummock.worksTo.trans {h k l : Hummock} (a : h.worksTo k) (b : k.worksTo l) : h.worksTo l := by
  refine ⟨?_, fun n => (b.2 n).trans (a.2 n)⟩
  calc { l with mere := h.mere, sump := h.sump, peatEvs := h.peatEvs, groups := h.groups }
      = { ({ l with mere := k.mere, sump := k.sump, peatEvs := k.peatEvs, groups := k.groups } : Hummock) with
          mere := h.mere, sump := h.sump, peatEvs := h.peatEvs, groups := h.groups } := rfl
    _ = h := by rw [b.1, a.1]

theorem Hummock.worksTo_mere (h : Hummock) (m : List Host.Cell) : h.worksTo { h with mere := m } := ⟨rfl, fun _ => rfl⟩

/-- A station of hummock g that took s to t left the registers, the sluices, the page records, the ownership map and the seals alone,
every other hummock but for its Mere, and its own but for what its work changes; without access to device memory (`dev`) the memory's
state too. -/
structure State.StationFrame (g : Nat) (dev : Prop) (s t : State) : Prop where
  regs : t.regs = s.regs
  sluices : t.sluices = s.sluices
  recs : t.mem.recs = s.mem.recs
  own : t.mem.own = s.mem.own
  loaded : t.mem.loaded = s.mem.loaded
  clean : s.mem.err = [] → t.mem.err = []
  mem : ¬ dev → t.mem = s.mem
  self : (s.hum g).worksTo (t.hum g)
  others : ∀ k, k ≠ g → { t.hum k with mere := (s.hum k).mere } = s.hum k

namespace State.StationFrame

variable {g : Nat} {dev : Prop} {s t u : State}

theorem refl (s : State) : s.StationFrame g dev s :=
  ⟨rfl, rfl, rfl, rfl, rfl, id, fun _ => rfl, .refl _, fun _ _ => rfl⟩

theorem trans (h : s.StationFrame g dev t) (k : t.StationFrame g dev u) : s.StationFrame g dev u where
  regs := k.regs.trans h.regs
  sluices := k.sluices.trans h.sluices
  recs := k.recs.trans h.recs
  own := k.own.trans h.own
  loaded := k.loaded.trans h.loaded
  clean e := k.clean (h.clean e)
  mem e := (k.mem e).trans (h.mem e)
  self := h.self.trans k.self
  others n hn := by
    calc { u.hum n with mere := (s.hum n).mere }
        = { ({ u.hum n with mere := (t.hum n).mere } : Hummock) with mere := (s.hum n).mere } := rfl
      _ = s.hum n := by rw [k.others n hn, h.others n hn]

theorem holder (h : s.StationFrame g dev t) (k : Nat) : (t.hum k).holder = (s.hum k).holder := by
  by_cases hk : k = g
  · subst hk; simpa using congrArg Hummock.holder h.self.1
  · simpa using congrArg Hummock.holder (h.others k hk)

theorem ctxOf (h : s.StationFrame g dev t) (k : Nat) : t.ctxOf k = s.ctxOf k := by simp only [State.ctxOf, h.holder]

theorem env (h : s.StationFrame g dev t) (k : Nat) : t.env k = s.env k := by simp only [State.env, h.holder]

theorem plainAt (h : s.StationFrame g dev t) {c va n d : Nat} {e : TlbEntry} (p : s.plainAt c va n e d) : t.plainAt c va n e d := by
  simpa only [State.plainAt, State.owner, State.isSealed, h.own, h.loaded] using p

/-- An access to device memory alone. -/
theorem of_dev (h : s.DevFrame t) (hd : dev) : s.StationFrame g dev t where
  regs := h.regs
  sluices := h.sluices
  recs := h.recs
  own := h.own
  loaded := h.loaded
  clean := h.clean
  mem hn := absurd hd hn
  self := by simp only [State.hum, h.hums]; exact .refl _
  others k _ := by simp only [State.hum, h.hums]

/-- A change of what no instruction reads and of nothing that the frame names. -/
theorem of_eq (hregs : t.regs = s.regs) (hsluices : t.sluices = s.sluices) (hmem : t.mem = s.mem) (hhums : t.hums = s.hums) :
    s.StationFrame g dev t := by
  refine ⟨hregs, hsluices, ?_, ?_, ?_, ?_, fun _ => hmem, ?_, fun k _ => ?_⟩ <;> simp only [hmem, State.hum, hhums, imp_self]
  exact .refl _

/-- A change of the hummock's own work. -/
theorem of_modHum (s : State) (f : Hummock → Hummock) (h : (s.hum g).worksTo (f (s.hum g))) :
    s.StationFrame g dev (s.modHum g f) := by
  refine ⟨rfl, rfl, rfl, rfl, rfl, id, fun _ => rfl, by simpa using h, fun k hk => ?_⟩
  rw [State.hum_modHum_ne _ _ hk]

/-- Bytes stored in the Mere of any hummock. -/
theorem of_mere (s : State) (k : Nat) (x : List Host.Cell) :
    s.StationFrame g dev (s.modHum k fun h => { h with mere := x }) := by
  refine ⟨rfl, rfl, rfl, rfl, rfl, id, fun _ => rfl, ?_, fun n _ => ?_⟩
  · by_cases hk : g = k
    · subst hk; simpa using Hummock.worksTo_mere _ _
    · rw [State.hum_modHum_ne _ _ hk]; exact .refl _
  · by_cases hk : n = k
    · subst hk; simp
    · rw [State.hum_modHum_ne _ _ hk]

end State.StationFrame

/-- From s a station of hummock g has reached t, and t shows the memories of v. -/
structure State.Works (g : Nat) (dev : Prop) (s v t : State) : Prop where
  frame : s.StationFrame g dev t
  view : v.sameView t

/-- An access to n bytes at address a of a descriptor's space goes through: in device memory on one plain page. -/
def State.goesThrough (s : State) (g : Nat) (m : List TlbEntry) (dev : Prop) (d : DescCap) (a n : Nat) : Prop :=
  d.space = 1 → dev ∧ ∃ e, m.find? (tlbHit (s.ctxOf g) (a % 2 ^ 52)) = some e ∧
    s.plainAt (s.ctxOf g) (a % 2 ^ 52) n e (elemDpa e (a % 2 ^ 52))

/-- Part of a span that goes through goes through. -/
theorem State.goesThrough.mono {s : State} {g : Nat} {m : List TlbEntry} {dev : Prop} {d : DescCap} {a n k : Nat}
    (h : s.goesThrough g m dev d a n) (hk : k ≤ n) : s.goesThrough g m dev d a k := by
  intro hd
  obtain ⟨hdev, e, he, h1, h2, h3, h4, h5⟩ := h hd
  exact ⟨hdev, e, he, h1, h2, h3, by omega, h5⟩

/-- Every row of the operand goes through. -/
def State.rowsOpen (s : State) (g : Nat) (m : List TlbEntry) (dev : Prop) (o : Opnd) : Prop :=
  ∀ x ∈ rowSpans o, s.goesThrough g m dev o.1 x.1 x.2

/-! ### Accesses of a station at work -/

section
variable {g : Nat} {m : List TlbEntry} {dev : Prop} {s v t : State}

theorem State.readAt_works (hs : s.mem.err = []) {d : DescCap} {a n : Nat} (hp : s.goesThrough g m dev d a n)
    (h : s.Works g dev v t) :
    ∃ t', t.readAt g m d a n = (t', bread (v.spaceMem g d) (v.placeIn g m d a) n, none) ∧ s.Works g dev v t' := by
  have hclean := h.frame.clean hs
  rw [← h.view.spaceMem, ← h.view.placeIn]
  by_cases hd : d.space = 1
  · obtain ⟨hdev, e, he, hplain⟩ := hp hd
    rw [← h.frame.ctxOf] at he hplain
    obtain ⟨t', hr, hf, hm⟩ := State.vaRead_found he (h.frame.plainAt hplain) hclean
    refine ⟨t', ?_, h.frame.trans (.of_dev hf hdev), h.view.trans ⟨hm, hf.recs, ?_, ?_⟩⟩
    · simp only [State.readAt, if_pos hd, hr, State.spaceMem_dev hd, State.placeIn_found hd he]
    · intro k; simp only [State.hum, hf.hums]
    · intro k; simp only [State.hum, hf.hums]
  · exact ⟨t, by simp [State.readAt, hd, State.eccSram_of_clean hclean, State.spaceMem, State.placeIn], h⟩

theorem State.writeAt_works (hs : s.mem.err = []) {d : DescCap} {a : Nat} {bs : List Byte}
    (hp : s.goesThrough g m dev d a bs.length) (whole : List Nat) (h : s.Works g dev v t) :
    ∃ t', t.writeAt g m d whole a bs = (t', .none) ∧ s.Works g dev (v.putChunks g m d [(a, bs)]) t' := by
  have hclean := h.frame.clean hs
  suffices ∃ t', t.writeAt g m d whole a bs = (t', .none) ∧ t.StationFrame g dev t' ∧ (t.putChunks g m d [(a, bs)]).sameView t' by
    obtain ⟨t', hw, hf, hv⟩ := this
    exact ⟨t', hw, h.frame.trans hf, (h.view.putChunks g m d _).trans hv⟩
  by_cases hd : d.space = 1
  · obtain ⟨hdev, e, he, hplain⟩ := hp hd
    rw [← h.frame.ctxOf] at he hplain
    obtain ⟨t', hw, hf, hm⟩ := State.vaWrite_found he (h.frame.plainAt hplain) hclean whole
    refine ⟨t', by simp only [State.writeAt, if_pos hd, hw], .of_dev hf hdev, ?_, ?_, fun k => ?_, fun k => ?_⟩
    · rw [hm, State.putChunks_hbm, if_pos hd]; simp only [State.placed, List.map, State.placeIn_found hd he]; rfl
    · rw [hf.recs, State.putChunks_recs]
    · rw [State.putChunks_mere]; simp [hd, State.hum, hf.hums]
    · rw [State.putChunks_holder]; simp only [State.hum, hf.hums]
  · have hput : t.putChunks g m d [(a, bs)] =
        t.modHum (t.mereOf g d) fun h => { h with mere := bwrite (t.hum (t.mereOf g d)).mere a bs } := by
      simp [State.putChunks, hd, storeAll, State.spaceMem, State.placeIn]
    refine ⟨_, ?_, .of_mere t (t.mereOf g d) (bwrite (t.hum (t.mereOf g d)).mere a bs), by rw [hput]; exact .refl _⟩
    have hw : ∀ f, (t.modHum (t.mereOf g d) f).mem.err = [] := fun _ => hclean
    simp only [State.writeAt, hd, if_false, State.settleSram_of_clean hclean, State.eccSramWrite_of_clean (hw _)]
    rfl

theorem State.writeAll_works (hs : s.mem.err = []) {d : DescCap} (whole : List Nat) {cs : List (Nat × List Byte)}
    (hp : ∀ c ∈ cs, s.goesThrough g m dev d c.1 c.2.length) (h : s.Works g dev v t) :
    ∃ t', t.writeAll g m d whole cs = (t', .none) ∧ s.Works g dev (v.putChunks g m d cs) t' := by
  induction cs generalizing v t with
  | nil => exact ⟨t, rfl, h.frame, (v.putChunks_nil g m d).symm.trans h.view⟩
  | cons c cs ih =>
    obtain ⟨t1, hw, h1⟩ := State.writeAt_works hs (hp c List.mem_cons_self) whole h
    obtain ⟨t2, hw2, h2⟩ := ih (fun x hx => hp x (List.mem_cons_of_mem _ hx)) h1
    refine ⟨t2, ?_, h2.frame, (v.putChunks_append g m d [c] cs).trans h2.view⟩
    simpa only [State.writeAll, List.foldl_cons, hw] using hw2

end

end Sys2Proof.Machine
end

section
/-!
PROOFS. Lengths of converted rows (02 R44, R46, R52): no row of a result is longer than its descriptor's row.
-/

namespace Sys2Proof.Machine

theorem leBytes_length (n v : Nat) : (leBytes n v).length = n := by
  induction n generalizing v with
  | zero => rfl
  | succ n ih => simp [leBytes, ih]

theorem rowBytes_mono (c : BitVec 4) {k l : Nat} (h : k ≤ l) : rowBytes c k ≤ rowBytes c l := by
  unfold rowBytes
  repeat' split
  all_goals omega

/-- Codes of 4 and 6 bits share bytes (R44); all others take a whole number of bytes each. -/
theorem rowBytes_whole {c : BitVec 4} (h0 : c ≠ 0) (h12 : ¬ (c = 1 ∨ c = 2)) (n : Nat) : rowBytes c n = n * rowBytes c 1 := by
  unfold rowBytes
  rw [if_neg h0, if_neg h12, if_neg h0, if_neg h12]
  repeat' split
  all_goals omega

/-- A packed row has the bytes of its descriptor's row of as many elements (R44, R159). -/
theorem packRow_length (c : BitVec 4) (codes : List Nat) : (packRow c codes).length = rowBytes c codes.length := by
  by_cases h0 : c = 0
  · subst h0; simp [packRow, rowBytes]
  by_cases h12 : c = 1 ∨ c = 2
  · simp only [packRow, rowBytes, if_neg h0, if_pos h12]
    simp [List.length_flatMap, leBytes_length, Nat.mul_comm]
  · simp only [packRow, if_neg h0, if_neg h12]
    simp [List.length_flatMap, leBytes_length, rowBytes_whole h0 h12 codes.length]

/-! ### Blocks (R46) -/

theorem bszOf_pos (b : BitVec 2) : 0 < bszOf b := by simp [bszOf]

/-- Taking one block away takes one from the number of blocks. -/
theorem ceilDiv_block {n b : Nat} (hn : 0 < n) (hb : 0 < b) : 1 + ceilDiv (n - b) b ≤ ceilDiv n b := by
  have key : (n - b + b - 1) / b + 1 ≤ (n + b - 1) / b := by
    rw [← Nat.add_div_right _ hb]
    by_cases h : n ≤ b
    · have h1 : n - b + b - 1 + b = b + (b - 1) := by omega
      rw [h1, Nat.add_div_left _ hb, Nat.div_eq_of_lt (by omega)]
      exact (Nat.le_div_iff_mul_le hb).2 (by omega)
    · exact Nat.div_le_div_right (by omega)
  simpa [ceilDiv, Nat.add_comm] using key

theorem ceilDiv_mono {k n : Nat} (b : Nat) (h : k ≤ n) : ceilDiv k b ≤ ceilDiv n b := Nat.div_le_div_right (by omega)

theorem convBlock_length (f : BitVec 12) (rm : Nat → Rm) (vs : List Val) :
    (convBlock f rm vs).codes.length = vs.length ∧ (convBlock f rm vs).scales.length = 1 := by
  unfold convBlock
  dsimp only
  split <;> simp

theorem convBlocks_length (f : BitVec 12) (rm : Nat → Rm) (fuel i : Nat) (vs : List Val) :
    (convBlocks f rm fuel i vs).codes.length ≤ vs.length ∧
      (convBlocks f rm fuel i vs).scales.length ≤ ceilDiv vs.length (fBsz f) := by
  induction fuel generalizing i vs with
  | zero => simp [convBlocks]
  | succ n ih =>
    cases vs with
    | nil => simp [convBlocks]
    | cons v vs =>
      obtain ⟨hc, hs⟩ := convBlock_length f (fun k => rm (i + k)) ((v :: vs).take (fBsz f))
      obtain ⟨ihc, ihs⟩ := ih (i + fBsz f) ((v :: vs).drop (fBsz f))
      have hblock := ceilDiv_block (n := (v :: vs).length) (Nat.succ_pos _) (bszOf_pos (f.extractLsb' 5 2))
      simp only [List.length_drop, List.length_take] at hc ihc ihs
      simp only [convBlocks, List.length_append]
      exact ⟨by omega, by rw [hs]; exact (Nat.add_le_add_left ihs 1).trans hblock⟩

/-- A converted row has at most as many codes as values, and one scale for each block of them (R46, R52). -/
theorem convRow_length (f : BitVec 12) (so : Option Val) (rm : Nat → Rm) (vs : List Val) :
    (convRow f so rm vs).codes.length ≤ vs.length ∧ (convRow f so rm vs).scales.length ≤ scaleBytes f vs.length := by
  unfold convRow scaleBytes
  split
  · exact convBlocks_length f rm _ 0 vs
  · simp

theorem scaleBytes_mono (f : BitVec 12) {k n : Nat} (h : k ≤ n) : scaleBytes f k ≤ scaleBytes f n := by
  unfold scaleBytes
  split
  · exact ceilDiv_mono _ h
  · rfl

/-- Every row of a scaled operand has a scale. -/
theorem scaleBytes_ne_zero {f : BitVec 12} (h : fScaled f = true) (d : DescCap) : scaleBytes f d.len ≠ 0 := by
  have hb : 0 < fBsz f := bszOf_pos _
  have hl : 0 < d.len := Nat.succ_pos _
  rw [scaleBytes, if_pos h, ceilDiv]
  exact (Nat.div_pos (by omega) hb).ne'

/-- The bytes of a converted row fit a row of the descriptor. -/
theorem packRow_convRow_fits (o : Opnd) (so : Option Val) (rm : Nat → Rm) {vs : List Val} (h : vs.length ≤ o.1.len) :
    (packRow (fCode o.2) (convRow o.2 so rm vs).codes).length ≤ rowBytes (fCode o.2) o.1.len ∧
      (convRow o.2 so rm vs).scales.length ≤ scaleBytes o.2 o.1.len := by
  obtain ⟨hc, hs⟩ := convRow_length o.2 so rm vs
  rw [packRow_length]
  exact ⟨rowBytes_mono _ (hc.trans h), hs.trans (scaleBytes_mono _ h)⟩

end Sys2Proof.Machine
end

section
/-!
PROOFS. Rows and tensors that a station reads and writes (02 R44, R52; 07 R159, R508; 08 R190).
-/

namespace Sys2Proof.Machine

section
variable {g : Nat} {m : List TlbEntry} {dev : Prop} {s v t : State} {o : Opnd}

/-! ### Reading -/

theorem State.rowsOpen.elems (h : s.rowsOpen g m dev o) {r : Nat} (hr : r < o.1.rows) :
    s.goesThrough g m dev o.1 (o.1.ebase + r * o.1.stride) (rowBytes (fCode o.2) o.1.len) :=
  h (_, _) (List.mem_append_left _ (List.mem_map.2 ⟨r, List.mem_range.2 hr, rfl⟩))

theorem State.rowsOpen.scales (h : s.rowsOpen g m dev o) {r : Nat} (hr : r < o.1.rows) (hn : scaleBytes o.2 o.1.len ≠ 0) :
    s.goesThrough g m dev o.1 (o.1.sbase + r * scaleBytes o.2 o.1.len) (scaleBytes o.2 o.1.len) := by
  refine h (_, _) (List.mem_append_right _ ?_)
  rw [if_neg hn]
  exact List.mem_map.2 ⟨r, List.mem_range.2 hr, rfl⟩

theorem State.readRows_works (hs : s.mem.err = []) {d : DescCap} {base stride n rows : Nat}
    (hp : ∀ r, r < rows → s.goesThrough g m dev d (base + r * stride) n) (h : s.Works g dev v t) :
    ∃ t', t.readRows g m d base stride n rows =
        (t', (List.range rows).map fun r => bread (v.spaceMem g d) (v.placeIn g m d (base + r * stride)) n, none) ∧
      s.Works g dev v t' := by
  induction rows with
  | zero => exact ⟨t, rfl, h⟩
  | succ k ih =>
    obtain ⟨t1, hr, h1⟩ := ih fun r hr => hp r (Nat.lt_succ_of_lt hr)
    obtain ⟨t2, hr2, h2⟩ := State.readAt_works hs (hp k (Nat.lt_succ_self k)) h1
    refine ⟨t2, ?_, h2⟩
    simp only [State.readRows] at hr ⊢
    rw [List.range_succ, List.foldl_append, hr]
    simp [hr2]

/-- The planes of an operand (R507, R508). -/
theorem State.readPlanes_works (hs : s.mem.err = []) (ho : s.rowsOpen g m dev o) (h : s.Works g dev v t) :
    ∃ t', t.readPlanes g m o o.1.rows o.1.len = (t', v.viewRows g m o, v.viewScales g m o, none) ∧ s.Works g dev v t' := by
  have hl : Nat.min o.1.len o.1.len = o.1.len := Nat.min_self _
  obtain ⟨t1, hr1, h1⟩ := State.readRows_works hs (fun r hr => ho.elems hr) h
  by_cases hn : scaleBytes o.2 o.1.len = 0
  · exact ⟨t1, by simp only [State.readPlanes, hl, hr1, hn, if_true, State.viewScales]; rfl, h1⟩
  · obtain ⟨t2, hr2, h2⟩ := State.readRows_works hs (fun r hr => ho.scales hr hn) h1
    refine ⟨t2, ?_, h2⟩
    simp only [State.readPlanes, hl, hr1, hn, if_false, hr2, State.viewScales, State.viewRows, State.viewRow]
    rfl

/-- One row of an operand (08 R190). -/
theorem State.readRow_works (hs : s.mem.err = []) (ho : s.rowsOpen g m dev o) {r : Nat} (hr : r < o.1.rows) (h : s.Works g dev v t) :
    ∃ t', t.readRow g m o r = (t', v.viewRow g m o r, none) ∧ s.Works g dev v t' := by
  obtain ⟨t1, hr1, h1⟩ := State.readAt_works hs (ho.elems hr) h
  by_cases hn : scaleBytes o.2 o.1.len = 0
  · exact ⟨t1, by simp only [State.readRow, hr1, hn, if_true, State.viewRow], h1⟩
  · obtain ⟨t2, hr2, h2⟩ := State.readAt_works hs (ho.scales hr hn) h1
    refine ⟨t2, ?_, h2⟩
    simp only [State.readRow, hr1, hn, if_false, hr2, State.viewRow]
    rfl

/-! ### Writing -/

/-- A row of bytes that fits its descriptor's row goes through where the operand's rows do. -/
theorem State.rowsOpen.rowChunks (ho : s.rowsOpen g m dev o) {r : Nat} (hr : r < o.1.rows) {e c : List Byte}
    (he : e.length ≤ rowBytes (fCode o.2) o.1.len) (hc : c.length ≤ scaleBytes o.2 o.1.len) :
    ∀ x ∈ rowChunks o r e c, s.goesThrough g m dev o.1 x.1 x.2.length := by
  intro x hx
  cases hf : fScaled o.2 with
  | false =>
    obtain rfl : x = (_, e) := by simpa [Machine.rowChunks, hf] using hx
    exact (ho.elems hr).mono he
  | true =>
    obtain rfl | rfl : x = (_, e) ∨ x = (_, c) := by simpa [Machine.rowChunks, hf] using hx
    · exact (ho.elems hr).mono he
    · exact (ho.scales hr (scaleBytes_ne_zero hf _)).mono hc

theorem State.rowsOpen.tensorRow (ho : s.rowsOpen g m dev o) (e : RunEnv) {r : Nat} (hr : r < o.1.rows) {vs : List Val}
    (hv : vs.length ≤ o.1.len) : ∀ x ∈ tensorRow e o r vs, s.goesThrough g m dev o.1 x.1 x.2.length := by
  obtain ⟨he, hc⟩ := packRow_convRow_fits o (if e.v40 && isFp8 o.2 then some (val32 (v40So o.1.raw o.2)) else none)
    (o.1.rm o.2 e.seed r) hv
  exact ho.rowChunks hr he hc

theorem State.rowsOpen.tensorChunks (ho : s.rowsOpen g m dev o) (e : RunEnv) {rows : List (List Val)} (hr : rows.length ≤ o.1.rows)
    (hv : ∀ vs ∈ rows, vs.length ≤ o.1.len) : ∀ x ∈ tensorChunks e o rows, s.goesThrough g m dev o.1 x.1 x.2.length := by
  have row {r : Nat} (h : r < rows.length) := packRow_convRow_fits o
    (if e.v40 && isFp8 o.2 then some (val32 (v40So o.1.raw o.2)) else none) (o.1.rm o.2 e.seed r) (hv _ (List.getElem_mem h))
  intro x hx
  simp only [Machine.tensorChunks, chunksOf, List.mem_append, List.mem_map] at hx
  rcases hx with ⟨⟨bs, r⟩, hmem, rfl⟩ | ⟨⟨bs, r⟩, hmem, rfl⟩
  · obtain ⟨hlt, hbs⟩ := List.mem_zipIdx' hmem
    simp only [List.length_map, List.length_zipIdx] at hlt
    simp only [List.getElem_map, List.getElem_zipIdx, Nat.zero_add] at hbs
    exact (ho.elems (hlt.trans_le hr)).mono (by rw [hbs]; exact (row hlt).1)
  · by_cases hf : fScaled o.2 = true
    · rw [if_pos hf] at hmem
      obtain ⟨hlt, hbs⟩ := List.mem_zipIdx' hmem
      simp only [List.length_map, List.length_zipIdx] at hlt
      simp only [List.getElem_map, List.getElem_zipIdx, Nat.zero_add] at hbs
      exact (ho.scales (hlt.trans_le hr) (scaleBytes_ne_zero hf _)).mono (by rw [hbs]; exact (row hlt).2)
    · simp [hf] at hmem

/-- Elements and events counted under a tag are no part of what an instruction reads or writes (06 R144 to R146). -/
theorem State.Works.counted (h : s.Works g dev v t) (tag : Nat) (f : TagCount → TagCount) : s.Works g dev v (t.modTag tag f) :=
  ⟨h.frame.trans (.of_eq rfl rfl rfl rfl), h.view.trans ⟨rfl, rfl, fun _ => rfl, fun _ => rfl⟩⟩

theorem State.writeTensor_works (hs : s.mem.err = []) (ho : s.rowsOpen g m dev o) {rows : List (List Val)}
    (hr : rows.length ≤ o.1.rows) (hv : ∀ vs ∈ rows, vs.length ≤ o.1.len) (cnt : Cnt) (h : s.Works g dev v t) :
    ∃ t', t.writeTensor g m o rows cnt = (t', .none) ∧ s.Works g dev (v.putChunks g m o.1 (tensorChunks (s.env g) o rows)) t' := by
  rw [← h.frame.env g]
  obtain ⟨t1, hw, h1⟩ := State.writeAll_works hs
    (if o.1.space = 1 then wholePages ((tensorChunks (t.env g) o rows).map fun c => (c.1, c.2.length)) else [])
    (ho.tensorChunks (t.env g) hr hv) h
  simp only [tensorChunks] at hw
  refine ⟨(t.writeTensor g m o rows cnt).1, ?_, ?_⟩ <;> simp only [State.writeTensor, State.writeChunks] <;> rw [hw]
  exact (h1.counted _ _).counted _ _

theorem State.writeRow_works (hs : s.mem.err = []) (ho : s.rowsOpen g m dev o) {r : Nat} (hr : r < o.1.rows) {vs : List Val}
    (hv : vs.length ≤ o.1.len) (whole : List Nat) (cnt : Cnt) (h : s.Works g dev v t) :
    ∃ t', t.writeRow g m whole o r vs cnt = (t', .none) ∧ s.Works g dev (v.putChunks g m o.1 (tensorRow (s.env g) o r vs)) t' := by
  rw [← h.frame.env g]
  obtain ⟨t1, hw, h1⟩ := State.writeAll_works hs whole (ho.tensorRow (t.env g) hr hv) h
  simp only [tensorRow] at hw
  refine ⟨(t.writeRow g m whole o r vs cnt).1, ?_, ?_⟩ <;> simp only [State.writeRow] <;> rw [hw]
  exact (h1.counted _ _).counted _ _

end

end Sys2Proof.Machine
end

section
/-!
PROOFS. A station instruction that finds its station free (07 R162 to R166, R171; 09 R222): it issues, its operands translate, it
starts at once, and it has finished.
-/

namespace Sys2Proof.Machine

/-! ### What a translation leaves alone -/

/-- Without an error a read changes no page record. -/
theorem State.physRead_recs {s : State} (h : s.mem.err = []) (who : Accessor) (a n ctx : Nat) :
    (s.physRead who a n ctx).s.mem.recs = s.mem.recs := by
  have ht := s.beforeAccess_dev (dpaFrame a) a n
  unfold State.physRead
  split
  · rfl
  · split
    · rfl
    · simp only [State.eccHbm_of_clean (ht.clean h)]
      exact ht.recs

theorem State.readEntry_recs {s : State} (h : s.mem.err = []) (c t i : Nat) : (s.readEntry c t i).1.mem.recs = s.mem.recs :=
  State.physRead_recs h _ _ _ _

theorem State.walk_recs {s : State} (h : s.mem.err = []) (c va fuel level t : Nat) :
    (s.walk c va fuel level t).1.mem.recs = s.mem.recs := by
  induction fuel generalizing s level t with
  | zero => rfl
  | succ n ih => grind [State.walk, State.readEntry_recs, (s.readEntry_frame c t _).clean]

theorem State.xlate_recs {s : State} (h : s.mem.err = []) (u c va : Nat) (write : Bool) :
    (s.xlate u c va write).1.mem.recs = s.mem.recs := by
  have hdraw (t : State) : t.draw.2.mem.recs = t.mem.recs := rfl
  grind [State.xlate, State.walk_recs]

/-- A translation that took s to t left the hummocks, the bytes of device memory and the page records alone, and made no error. -/
structure State.LookFrame (s t : State) : Prop where
  hums : t.hums = s.hums
  hbm : t.mem.hbm = s.mem.hbm
  recs : t.mem.recs = s.mem.recs
  clean : t.mem.err = []

theorem State.LookFrame.refl {s : State} (h : s.mem.err = []) : s.LookFrame s := ⟨rfl, rfl, rfl, h⟩

theorem State.LookFrame.trans {s t u : State} (h : s.LookFrame t) (k : t.LookFrame u) : s.LookFrame u :=
  ⟨k.hums.trans h.hums, k.hbm.trans h.hbm, k.recs.trans h.recs, k.clean⟩

theorem State.LookFrame.sameView {s t : State} (h : s.LookFrame t) : s.sameView t := by
  refine ⟨h.hbm, h.recs, fun k => ?_, fun k => ?_⟩ <;> simp only [State.hum, h.hums]

theorem State.xlate_look {s : State} (h : s.mem.err = []) (u c va : Nat) (write : Bool) :
    s.LookFrame (s.xlate u c va write).1 :=
  ⟨(s.xlate_frame u c va write).hums, s.xlate_hbm u c va write, State.xlate_recs h u c va write, (s.xlate_frame u c va write).clean h⟩

theorem State.xlateVia_look {s : State} (h : s.mem.err = []) (unit : Option Nat) (c a n : Nat) (write : Bool) :
    s.LookFrame (s.xlateVia unit c a n write).1 := by
  unfold State.xlateVia
  refine foldl_keeps (fun r : State × List TlbEntry × Xlat => s.LookFrame r.1) _ (fun r p hr => ?_) _ _ (.refl h)
  have hx := State.xlate_look hr.clean (unit.getD (vaSector p.1)) c p.1 write
  split
  · split
    · exact hr
    · split <;> rename_i heq <;> rw [heq] at hx <;> exact hr.trans hx
  · exact hr

/-- The translation of an instruction's operands (09 R222). -/
theorem State.xlateOpnds_look {s : State} (h : s.mem.err = []) (g c : Nat) (rs ws : List Opnd) :
    s.LookFrame (s.xlateOpnds g c rs ws).1 := by
  unfold State.xlateOpnds
  refine foldl_keeps (fun r : State × List TlbEntry × XRes => s.LookFrame r.1) _ (fun r x hr => ?_) _ _ (.refl h)
  have hx := State.xlateVia_look hr.clean (some (secOf g)) c x.1.1 x.1.2 x.2
  split
  · split <;> rename_i heq <;> rw [heq] at hx <;> exact hr.trans hx
  · exact hr

theorem State.opensTo.look {s s1 : State} {g : Fin 96} {m : List TlbEntry} {rs ws : List Opnd} (h : s.opensTo s1 g m rs ws)
    (hs : s.mem.err = []) : s.LookFrame s1 := by
  have hl := State.xlateOpnds_look hs g (s.ctxOf g) rs ws
  rwa [h.1] at hl

/-! ### Wake events at the partners written to (07 R171) -/

/-- Wake events that took s to t changed power and sequencers of hummocks that slept, and woke none that was not powered. -/
structure State.KnockFrame (s t : State) : Prop where
  mem : t.mem = s.mem
  err : t.err = s.err
  board : t.board = s.board
  mere : ∀ k, (t.hum k).mere = (s.hum k).mere
  holder : ∀ k, (t.hum k).holder = (s.hum k).holder
  awake : ∀ k, (s.hum k).power = .running → t.hum k = s.hum k
  powered : ∀ k, (s.hum k).power = .running ∨ (s.hum k).power = .still → (t.hum k).power = .running ∨ (t.hum k).power = .still

namespace State.KnockFrame

theorem refl (s : State) : s.KnockFrame s := ⟨rfl, rfl, rfl, fun _ => rfl, fun _ => rfl, fun _ _ => rfl, fun _ => id⟩

theorem trans {s t u : State} (h : s.KnockFrame t) (k : t.KnockFrame u) : s.KnockFrame u where
  mem := k.mem.trans h.mem
  err := k.err.trans h.err
  board := k.board.trans h.board
  mere n := (k.mere n).trans (h.mere n)
  holder n := (k.holder n).trans (h.holder n)
  awake n hn := (k.awake n (by rw [h.awake n hn]; exact hn)).trans (h.awake n hn)
  powered n hn := k.powered n (h.powered n hn)

variable {s t : State}

theorem sameView (h : s.KnockFrame t) : s.sameView t := ⟨by rw [h.mem], by rw [h.mem], h.mere, h.holder⟩

theorem framesBusy (h : s.KnockFrame t) (m : List TlbEntry) : t.framesBusy m = s.framesBusy m := by
  simp only [State.framesBusy, State.inReset, State.sectorRun, h.mem, h.err, h.board]

theorem reaches (h : s.KnockFrame t) {g : Nat} {d : DescCap} (hr : s.reaches g d = true) : t.reaches g d = true := by
  have hp (k : Fin 96) := h.powered k
  simp only [State.reaches, h.sameView.env, h.sameView.partner] at hr ⊢
  grind

theorem rowsOpen (h : s.KnockFrame t) {g : Nat} {m : List TlbEntry} {dev : Prop} {o : Opnd} (ho : s.rowsOpen g m dev o) :
    t.rowsOpen g m dev o := by
  simpa only [State.rowsOpen, State.goesThrough, State.plainAt, State.owner, State.isSealed, h.mem, h.sameView.ctxOf] using ho

end State.KnockFrame

theorem State.hum_modHum (s : State) (k n : Nat) (f : Hummock → Hummock) :
    (s.modHum k f).hum n = if n = k then f (s.hum k) else s.hum n := by
  split
  · rename_i h; rw [h, State.hum_modHum_same]
  · exact State.hum_modHum_ne _ _ ‹_›

/-- A hummock that was Still resumes. -/
theorem State.KnockFrame.of_still {s : State} {k : Nat} (hk : (s.hum k).power = .still) :
    s.KnockFrame (s.modHum k fun h => { h with power := .running, seq := { h.seq with st := .issuing } }) := by
  refine ⟨rfl, rfl, rfl, fun n => ?_, fun n => ?_, fun n hn => ?_, fun n hn => ?_⟩ <;> rw [State.hum_modHum]
  · split <;> simp_all
  · split <;> simp_all
  · rw [if_neg]
    rintro rfl
    rw [hk] at hn
    cases hn
  · split
    · exact .inl rfl
    · exact hn

theorem State.wakeEvent_knock (s : State) (k : Fin 96) : s.KnockFrame (s.wakeEvent k) := by
  unfold State.wakeEvent
  split
  · exact .of_still ‹_›
  · exact ⟨rfl, rfl, rfl, fun _ => rfl, fun _ => rfl, fun _ _ => rfl, fun _ => id⟩
  · exact .refl s

theorem State.knock_frame (s : State) (g : Nat) (ws : List Opnd) : s.KnockFrame (s.knock g ws) := by
  unfold State.knock
  refine foldl_keeps s.KnockFrame _ (fun t o h => ?_) _ _ (.refl s)
  split
  · split
    · exact h.trans (State.wakeEvent_knock _ _)
    · exact h
  · exact h

/-- An instruction that writes no partner's Mere wakes nobody. -/
theorem State.knock_of_own {s : State} {g : Nat} {ws : List Opnd} (h : ∀ o ∈ ws, o.1.space ≠ 2) : s.knock g ws = s := by
  induction ws with
  | nil => rfl
  | cons o ws ih =>
    have ho : o.1.space ≠ 2 := h o List.mem_cons_self
    simp only [State.knock, List.foldl_cons, if_neg ho]
    exact ih fun x hx => h x (List.mem_cons_of_mem _ hx)

/-! ### Operands that open -/

/-- Operands in the hummock's own Mere need no translation. -/
theorem ownMere.opensTo {os rs ws : List Opnd} (h : ownMere os) (ho : os = rs ++ ws) (s : State) (g : Fin 96) :
    s.opensTo s g [] rs ws := by
  subst ho
  have none {l : List Opnd} (hl : ∀ o ∈ l, o ∈ rs ++ ws) : (l.filter fun o => o.1.space == 1) = [] :=
    List.filter_eq_nil_iff.2 fun o hm => by simp [(h o (hl o hm)).1]
  refine ⟨?_, rfl, fun o hm => ⟨(h o hm).2, by simp [(h o hm).1], by simp [State.reaches, (h o hm).1], fun h1 => ?_⟩⟩
  · simp [State.xlateOpnds, none fun o hm => List.mem_append_left _ hm, none fun o hm => List.mem_append_right _ hm]
  · simp [(h o hm).1] at h1

/-- Rows of an operand outside device memory always go through. -/
theorem State.rowsOpen_of_mere {s : State} {g : Nat} {m : List TlbEntry} {dev : Prop} {o : Opnd} (h : o.1.space ≠ 1) :
    s.rowsOpen g m dev o := fun _ _ h1 => absurd h1 h

theorem State.plainOpnd.rowsOpen {s : State} {g : Nat} {m : List TlbEntry} {o : Opnd} (h : s.plainOpnd g m o) :
    s.rowsOpen g m True o := by
  obtain ⟨-, -, -, hp⟩ := h
  exact fun x hx h1 => ⟨trivial, hp h1 x hx⟩

/-- Operands that open let the instruction go on at once (07 R171, R174; 09 R222). -/
theorem State.runOp_opens {u s1 : State} {g : Fin 96} {m : List TlbEntry} {rs ws : List Opnd} (h : u.opensTo s1 g m rs ws)
    (i : Issued) (k : State → List TlbEntry → State) : u.runOp g i rs ws k = k (s1.knock g ws) m := by
  obtain ⟨hx, hbusy, hplain⟩ := h
  have hk := s1.knock_frame g ws
  have hmere : (rs ++ ws).all mereOk = true := List.all_eq_true.2 fun o ho => (hplain o ho).1
  have hreach : ((rs ++ ws).all fun o => (s1.knock g ws).reaches g o.1) = true :=
    List.all_eq_true.2 fun o ho => hk.reaches (hplain o ho).2.2.1
  simp only [State.runOp, hmere, hx, hk.framesBusy, hbusy, hreach]
  rfl

/-- After the translation and the wake events, the station works on the hummock as it was, in the same memories. -/
theorem State.opensTo.station {u s1 : State} {g : Fin 96} {m : List TlbEntry} {rs ws : List Opnd} (h : u.opensTo s1 g m rs ws)
    (hclean : u.mem.err = []) (hrun : (u.hum g).power = .running) :
    (s1.knock g ws).mem.err = [] ∧ (s1.knock g ws).hum g = u.hum g ∧ u.sameView s1 ∧ s1.sameView (s1.knock g ws) ∧
      ∀ o ∈ rs ++ ws, (s1.knock g ws).rowsOpen g m True o := by
  have hl := h.look hclean
  have hk := s1.knock_frame g ws
  have hg : s1.hum g = u.hum g := by simp only [State.hum, hl.hums]
  refine ⟨?_, ?_, hl.sameView, hk.sameView, fun o ho => hk.rowsOpen (h.2.2 o ho).rowsOpen⟩
  · rw [hk.mem, hl.clean]
  · rw [hk.awake g (by rw [hg, hrun]), hg]

/-! ### Issue at a free station (07 R162, R164, R166) -/

theorem State.pump_idle {s : State} {g : Fin 96} (h : (s.hum g).unret = []) : s.pump g = s := by simp [State.pump, h]

/-- The one instruction that is queued starts. -/
theorem State.pump_starts {u : State} {g : Fin 96} {e : Issued} (h : (u.hum g).unret = [e]) (hm : u.mayStart g e = true) :
    u.pump g = u.startOp g e := by simp [State.pump, h, hm]

/-- With no signal to send and no stall, letting the hummock go on is starting what is queued. -/
theorem State.advance_starts {u : State} {g : Fin 96} {e : Issued} (h : (u.hum g).unret = [e]) (hm : u.mayStart g e = true)
    (hsigs : ((u.startOp g e).hum g).seq.sigs = []) (hstall : ((u.startOp g e).hum g).seq.stall = none) :
    u.advance g = u.startOp g e := by
  simp [State.advance, State.pump_starts h hm, hsigs, State.flushSigs, State.recheck, hstall]

theorem Hummock.hasRoom_idle {h : Hummock} (hu : h.unret = []) (op : StOp) : h.hasRoom op = true := by
  have hl (l : Nat) : h.latOccupancy l = 0 := by simp [Hummock.latOccupancy, hu]
  have ho (c : Nat) : h.occupancy c = 0 := by simp [Hummock.occupancy, hu]
  unfold Hummock.hasRoom
  split <;> simp [hu, hl, ho]

section
variable {s : State} {g : Fin 96} {e : Issued}

@[simp] theorem State.entered_hum_same : (s.entered g e).hum g =
    { s.hum g with
      unret := (s.hum g).unret ++ [e], nextId := (s.hum g).nextId + 1
      seq := { (s.hum g).seq with pc := (s.hum g).seq.pc + 1 } } := State.hum_setHum_same _ _ _

theorem State.entered_hum_ne {k : Nat} (h : k ≠ g.val) : (s.entered g e).hum k = s.hum k := State.hum_setHum_ne _ _ h

theorem State.entered_sameView : s.sameView (s.entered g e) := by
  refine ⟨rfl, rfl, fun k => ?_, fun k => ?_⟩ <;> by_cases h : k = g.val
  · subst h; rw [State.entered_hum_same]
  · rw [State.entered_hum_ne h]
  · subst h; rw [State.entered_hum_same]
  · rw [State.entered_hum_ne h]

/-- A station instruction that may start at once enters its queue and starts; the sequencer goes on. -/
theorem State.issueOp_starts {op : StOp} {cap : Sequencer → Captures} (h : s.idleIssue g)
    (he : e = (s.hum g).newIssued op (cap (s.hum g).seq)) (hm : (s.entered g e).mayStart g e = true)
    (hseq : (((s.entered g e).startOp g e).hum g).seq = ((s.entered g e).hum g).seq)
    (hholder : (((s.entered g e).startOp g e).hum g).holder = (s.hum g).holder) :
    s.issueOp g op cap = (s.entered g e).startOp g e := by
  obtain ⟨hi, hpc, hunret, hsigs⟩ := h
  obtain ⟨-, hst, hstall, -⟩ := id hi
  rw [State.entered_hum_same] at hseq
  have hadv : (s.entered g e).advance g = (s.entered g e).startOp g e :=
    State.advance_starts (by simp [hunret]) hm (by simp [hseq, hsigs]) (by simp [hseq, hstall])
  have hq : s.enqueueOp g op (cap (s.hum g).seq) = (s.entered g e).startOp g e := by
    rw [← hadv, State.enqueueOp, if_pos (Hummock.hasRoom_idle hunret op), he]
    rfl
  have hcode : ((s.entered g e).startOp g e).codeFault g = (s.entered g e).startOp g e := by
    refine State.codeFault_of_inCode ?_
    obtain ⟨x, hx, hlt⟩ := hpc
    exact ⟨x, hholder.trans hx, by rwa [hseq]⟩
  rw [State.issueOp, State.issue_of_issues hi]
  simp only [State.pump_idle hunret, hst, beq_self_eq_true, if_true, hq, hcode, ite_self]

end

end Sys2Proof.Machine
end

section
/-!
PROOFS. The sources of a transfer or of a Reed operation (07 R165, R170; 08 R193), and WCONV (02 R52), which settles O13.
-/

namespace Sys2Proof.Machine

section
variable {g : Nat} {m : List TlbEntry} {dev : Prop} {s v t u : State} {o : Opnd}

/-! ### Events and groups taken -/

theorem Hummock.worksTo_setTile (h : Hummock) (n : Nat) : h.worksTo (h.setTile n (h.tile n).bare) := by
  refine ⟨rfl, fun k => ?_⟩
  by_cases hk : k = n
  · subst hk; rw [Hummock.tile_setTile_same]; rfl
  · rw [Hummock.tile_setTile_ne _ _ hk]

theorem State.Works.modHum (h : s.Works g dev v t) (f : Hummock → Hummock) (hw : (t.hum g).worksTo (f (t.hum g)))
    (hm : (f (t.hum g)).mere = (t.hum g).mere) : s.Works g dev v (t.modHum g f) := by
  have hf : t.StationFrame g dev (t.modHum g f) := .of_modHum t f hw
  refine ⟨h.frame.trans hf, h.view.trans ⟨rfl, rfl, fun k => ?_, hf.holder⟩⟩
  rw [State.hum_modHum]
  split
  · rename_i hk; rw [hk, hm]
  · rfl

theorem State.Works.takeTileEvs (h : s.Works g dev v t) (n : Nat) : s.Works g dev v (t.takeTileEvs g n).1 :=
  h.modHum (fun h => h.setTile n (h.tile n).bare) (Hummock.worksTo_setTile _ n) rfl

theorem State.Works.takeSlotEvs (h : s.Works g dev v t) (p : Nat) : s.Works g dev v (t.takeSlotEvs g p).1 :=
  h.modHum (fun h => { h with peatEvs := sset {} h.peatEvs p {} }) ⟨rfl, fun _ => rfl⟩ rfl

theorem State.Works.takeGroup (h : s.Works g dev v t) (q : Group) : s.Works g dev v (t.takeGroup g q) :=
  h.modHum _ ⟨rfl, fun _ => rfl⟩ rfl

/-! ### Sources -/

/-- A source is read without trouble, whatever its kind. -/
theorem State.readSource_works (hs : s.mem.err = []) (h : s.Works g dev v t) (weir : Bool) {srck : BitVec 2} (tile : BitVec 4)
    {rows cols : Nat} (ho : srck = 0 → s.rowsOpen g m dev o ∧ rows = o.1.rows ∧ cols = o.1.len) :
    (t.readSource g m weir srck tile o rows cols).bad = none ∧
      s.Works g dev v (t.readSource g m weir srck tile o rows cols).s := by
  have hclean := h.frame.clean hs
  by_cases h0 : srck = 0
  · obtain ⟨hopen, rfl, rfl⟩ := ho h0
    obtain ⟨t1, hr, h1⟩ := State.readPlanes_works hs hopen h
    simp only [State.readSource, if_pos h0, hr]
    exact ⟨trivial, h1⟩
  by_cases h2 : srck = 2
  · simp only [State.readSource, if_neg h0, if_pos h2, State.readSlot, State.eccSlot_of_clean hclean]
    exact ⟨rfl, h.takeSlotEvs _⟩
  · simp only [State.readSource, if_neg h0, if_neg h2]
    generalize (if srck = 3 then (t.hum g).nextGroup weir else none) = q
    cases q with
    | none =>
      simp only [State.readTile, State.eccTile_of_clean hclean]
      exact ⟨rfl, h.takeTileEvs _⟩
    | some q =>
      have hq : (t.takeGroup g q).mem.err = [] := hclean
      simp only [State.readTile, State.eccTile_of_clean hq]
      exact ⟨rfl, (h.takeGroup q).takeTileEvs _⟩

/-- Rows of memory, as the source of a transfer. -/
theorem State.readSource_rows_mere (hs : s.mem.err = []) (h : s.Works g dev v t) (ho : s.rowsOpen g m dev o) (weir : Bool)
    (tile : BitVec 4) (cols : Nat) (hc : cols = o.1.len) :
    (t.readSource g m weir 0 tile o o.1.rows cols).rows = (v.viewRows g m o).zipIdx.map fun r =>
      rowVals o.2 r.1 (((v.viewScales g m o)[r.2]?).getD []) cols := by
  subst hc
  obtain ⟨t1, hr, -⟩ := State.readPlanes_works hs ho h
  simp only [State.readSource, if_true, hr]

/-- A tile, a slot or a group reads alike in states that agree on their hummock. -/
theorem State.readSource_rows_tile (ht : t.mem.err = []) (hu : u.mem.err = []) (hg : t.hum g = u.hum g) (weir : Bool)
    {srck : BitVec 2} (h0 : srck ≠ 0) (tile : BitVec 4) (k : List TlbEntry) (rows cols : Nat) :
    (t.readSource g m weir srck tile o rows cols).rows = (u.readSource g k weir srck tile o rows cols).rows := by
  by_cases h2 : srck = 2
  · simp only [State.readSource, if_neg h0, if_pos h2, State.readSlot, State.eccSlot_of_clean ht, State.eccSlot_of_clean hu, hg]
  · simp only [State.readSource, if_neg h0, if_neg h2, hg]
    generalize (if srck = 3 then (u.hum g).nextGroup weir else none) = q
    cases q with
    | none => simp only [State.readTile, State.eccTile_of_clean ht, State.eccTile_of_clean hu, hg]
    | some q =>
      have htq : (t.takeGroup g q).mem.err = [] := ht
      have huq : (u.takeGroup g q).mem.err = [] := hu
      have hgq : (t.takeGroup g q).hum g = (u.takeGroup g q).hum g := by simp [State.takeGroup, hg]
      simp only [State.readTile, State.eccTile_of_clean htq, State.eccTile_of_clean huq, hgq]

/-- A tile, a slot or a group gives as many rows and columns as are asked for. -/
theorem State.readSource_shape_tile (t : State) (weir : Bool) {srck : BitVec 2} (h0 : srck ≠ 0) (tile : BitVec 4) (rows cols : Nat) :
    (t.readSource g m weir srck tile o rows cols).rows.length = rows ∧
      ∀ xs ∈ (t.readSource g m weir srck tile o rows cols).rows, xs.length = cols := by
  by_cases h2 : srck = 2
  · simp only [State.readSource, if_neg h0, if_pos h2, State.readSlot]
    simp
  · simp only [State.readSource, if_neg h0, if_neg h2, State.readTile]
    cases weir <;> simp

theorem rowVals_length (f : BitVec 12) (eb sb : List Byte) (n : Nat) : (rowVals f eb sb n).length = n := by simp [rowVals]

/-- So do rows of memory. -/
theorem State.readSource_shape (hs : s.mem.err = []) (h : s.Works g dev v t) (weir : Bool) {srck : BitVec 2} (tile : BitVec 4)
    {rows cols : Nat} (ho : srck = 0 → s.rowsOpen g m dev o ∧ rows = o.1.rows ∧ cols = o.1.len) :
    (t.readSource g m weir srck tile o rows cols).rows.length = rows ∧
      ∀ xs ∈ (t.readSource g m weir srck tile o rows cols).rows, xs.length = cols := by
  by_cases h0 : srck = 0
  · obtain ⟨hopen, rfl, hc⟩ := ho h0
    subst h0
    rw [State.readSource_rows_mere hs h hopen weir tile cols hc]
    refine ⟨by simp [State.viewRows], fun xs hx => ?_⟩
    obtain ⟨r, -, rfl⟩ := List.mem_map.1 hx
    exact rowVals_length _ _ _ _
  · exact t.readSource_shape_tile weir h0 tile rows cols

end

/-! ### An instruction that has finished -/

section
variable {g : Fin 96} {dev : Prop} {s s2 v t : State} {e : Issued}

@[simp] theorem State.finish_mem (t : State) (g id : Nat) : (t.finish g id).mem = t.mem := rfl
@[simp] theorem State.finish_regs (t : State) (g id : Nat) : (t.finish g id).regs = t.regs := rfl
@[simp] theorem State.finish_sluices (t : State) (g id : Nat) : (t.finish g id).sluices = t.sluices := rfl

theorem State.finish_hum_same (t : State) (g id : Nat) : (t.finish g id).hum g =
    { t.hum g with unret := (t.hum g).unret.map fun i => if i.id == id then { i with phase := .done, held := 0 } else i } :=
  State.hum_modHum_same _ _ _

theorem State.finish_hum_ne (t : State) {g k : Nat} (id : Nat) (h : k ≠ g) : (t.finish g id).hum k = t.hum k :=
  State.hum_modHum_ne _ _ h

theorem State.finish_sameView (t : State) (g id : Nat) : t.sameView (t.finish g id) := by
  refine ⟨rfl, rfl, fun k => ?_, fun k => ?_⟩ <;> by_cases h : k = g
  · subst h; rw [State.finish_hum_same]
  · rw [State.finish_hum_ne _ _ h]
  · subst h; rw [State.finish_hum_same]
  · rw [State.finish_hum_ne _ _ h]

/-- What the work of a station keeps of its own hummock: the entry waits, and the sequencer has gone on. -/
theorem State.Works.hum_of_entered (h : s2.Works g dev v t) (hg : s2.hum g = (s.entered g e).hum g) :
    (t.hum g).unret = (s.hum g).unret ++ [e] ∧ (t.hum g).seq = { (s.hum g).seq with pc := (s.hum g).seq.pc + 1 } ∧
      (t.hum g).holder = (s.hum g).holder ∧ (t.hum g).lats = (s.hum g).lats ∧ (t.hum g).peat = (s.hum g).peat ∧
      ∀ k, ((t.hum g).tile k).bare = ((s.hum g).tile k).bare := by
  obtain ⟨hrest, htile⟩ := h.frame.self
  rw [hg, State.entered_hum_same] at hrest htile
  exact ⟨by simpa using congrArg Hummock.unret hrest, by simpa using congrArg Hummock.seq hrest,
    by simpa using congrArg Hummock.holder hrest, by simpa using congrArg Hummock.lats hrest,
    by simpa using congrArg Hummock.peat hrest, htile⟩

/-- The instruction has finished as the hummock's only one. -/
theorem State.Works.finished (h : s2.Works g dev v t) (hg : s2.hum g = (s.entered g e).hum g) (hidle : (s.hum g).unret = []) :
    s.finished (t.finish g e.id) g e := by
  obtain ⟨hunret, hseq, -⟩ := h.hum_of_entered hg
  rw [hidle] at hunret
  constructor <;> rw [State.finish_hum_same]
  · simp [hunret]
  · exact hseq

theorem State.Works.tiles (h : s2.Works g dev v t) (hg : s2.hum g = (s.entered g e).hum g) (k : Nat) :
    { ((t.finish g e.id).hum g).tile k with evs := {} } = { (s.hum g).tile k with evs := {} } := by
  obtain ⟨-, -, -, -, -, htile⟩ := h.hum_of_entered hg
  rw [State.finish_hum_same]
  exact htile k

/-- A station instruction that may start, whose start is work that ends with it finished, issues, starts and has finished. -/
theorem State.issueOp_works {op : StOp} {cap : Sequencer → Captures} (hi : s.idleIssue g)
    (he : e = (s.hum g).newIssued op (cap (s.hum g).seq)) (hm : (s.entered g e).mayStart g e = true)
    (hstart : (s.entered g e).startOp g e = t.finish g e.id) (h : s2.Works g dev v t)
    (hg : s2.hum g = (s.entered g e).hum g) : s.issueOp g op cap = t.finish g e.id := by
  obtain ⟨-, hseq, hholder, -⟩ := h.hum_of_entered hg
  rw [← hstart]
  refine State.issueOp_starts hi he hm ?_ ?_ <;> rw [hstart, State.finish_hum_same]
  · rw [hseq, State.entered_hum_same]
  · exact hholder

/-- Work in the hummock's own Mere (`v`) changes nothing else of any memory, and no other hummock. -/
theorem State.Works.ownWork (h : (s.entered g e).Works g False v t) (hv : ∀ k, k ≠ g.val → (v.hum k).mere = (s.hum k).mere) :
    let u := t.finish g e.id
    (u.hum g).mere = (v.hum g).mere ∧ u.mem = s.mem ∧ u.regs = s.regs ∧ u.sluices = s.sluices ∧ (u.hum g).lats = (s.hum g).lats ∧
      (∀ k, { (u.hum g).tile k with evs := {} } = { (s.hum g).tile k with evs := {} }) ∧ (u.hum g).peat = (s.hum g).peat ∧
      ∀ k, k ≠ g.val → u.hum k = s.hum k := by
  obtain ⟨-, -, -, hlats, hpeat, -⟩ := h.hum_of_entered rfl
  refine ⟨?_, h.frame.mem id, h.frame.regs, h.frame.sluices, ?_, h.tiles rfl, ?_, fun k hk => ?_⟩
  · rw [(t.finish_sameView g e.id).mere, h.view.mere]
  · rw [State.finish_hum_same]; exact hlats
  · rw [State.finish_hum_same]; exact hpeat
  · have hrest := h.frame.others k hk
    have hmere : (t.hum k).mere = (s.hum k).mere := (h.view.mere k).trans (hv k hk)
    rw [State.entered_hum_ne hk] at hrest
    rw [State.finish_hum_ne _ _ hk, ← hrest, ← hmere]

end

/-! ### WCONV -/

section
variable {g : Fin 96} {m : List TlbEntry} {dev : Prop} {u s s1 s2 : State} {e : Issued} {f : WeirFields}

theorem State.convOk_shape (h : u.convOk g e f = true) (h0 : f.srck = 0) : e.db.rows = e.da.rows ∧ e.db.len = e.da.len := by
  simp only [State.convOk, State.weirShapeOk, if_pos h0, sameShape, Bool.and_eq_true, beq_iff_eq] at h
  exact ⟨h.2.2.1.1.symm, h.2.2.1.2.symm⟩

/-- The rows that WCONV takes from its source. -/
def State.convRows (s : State) (g : Nat) (m : List TlbEntry) (e : Issued) (f : WeirFields) : List (List Val) :=
  (s.readSource g m true f.srck f.tile (e.da, f.sfmt) e.db.rows e.db.len).rows.map fun r => r.map fun y => y.1

/-- WCONV whose operands open stores the converted rows of its source, and has finished (02 R52; 07 R170). -/
theorem State.startConv_works (hok : u.convOk g e f = true) (hopen : u.opensTo s1 g m (weirReads e f) (weirWrites e f.dfmt))
    (hs2 : s1.knock g (weirWrites e f.dfmt) = s2) (hs : s2.mem.err = [])
    (ho : ∀ o ∈ weirReads e f ++ weirWrites e f.dfmt, s2.rowsOpen g m dev o) :
    ∃ t, u.startConv g e f = t.finish g e.id ∧
      s2.Works g dev (s2.putChunks g m e.db (tensorChunks (s2.env g) (e.db, f.dfmt) (s2.convRows g m e f))) t := by
  have hsrc : f.srck = 0 → s2.rowsOpen g m dev (e.da, f.sfmt) ∧ e.db.rows = e.da.rows ∧ e.db.len = e.da.len := fun h0 =>
    ⟨ho _ (by simp [weirReads, h0]), State.convOk_shape hok h0⟩
  have hdst : s2.rowsOpen g m dev (e.db, f.dfmt) := ho _ (by simp [weirWrites])
  have h0 : s2.Works g dev s2 s2 := ⟨.refl s2, .refl s2⟩
  obtain ⟨hbad, hr⟩ := State.readSource_works hs h0 true f.tile hsrc
  obtain ⟨hlen, hcols⟩ := State.readSource_shape hs h0 true f.tile hsrc
  obtain ⟨t, hw, ht⟩ := State.writeTensor_works hs hdst (rows := s2.convRows g m e f) (by simp [State.convRows, hlen])
    (fun vs hvs => by
      obtain ⟨xs, hxs, rfl⟩ := List.mem_map.1 hvs
      simp [hcols xs hxs])
    ((s2.readSource g m true f.srck f.tile (e.da, f.sfmt) e.db.rows e.db.len).evs.add
      (inputFlush (s2.readSource g m true f.srck f.tile (e.da, f.sfmt) e.db.rows e.db.len).rows)) hr
  refine ⟨t, ?_, ht⟩
  simp only [State.convRows] at hw
  simp only [State.startConv, hok, State.runOp_opens hopen, hs2, hbad, hw]
  rfl

theorem exec_wconv (s : State) (g : Hum) (f : WeirFields) : exec (.wconv g f) s = .next (s.issueOp g (.wconv f) (weirCaptures f)) := rfl

theorem State.startOp_wconv (u : State) (h : e.op = .wconv f) : u.startOp g e = u.startConv g e f := by rw [State.startOp, h]

/-- WCONV that may start and works on its operands in s2, issues, and has finished. -/
theorem exec_wconv_works {v t : State} (hi : s.idleIssue g) (he : e = s.entry g (.wconv g f) (.wconv f))
    (hm : (s.entered g e).mayStart g e = true) (hstart : (s.entered g e).startConv g e f = t.finish g e.id)
    (h : s2.Works g dev v t) (hg : s2.hum g = (s.entered g e).hum g) : exec (.wconv g f) s = .next (t.finish g e.id) := by
  have hop : e.op = .wconv f := by rw [he]; rfl
  rw [exec_wconv, State.issueOp_works hi he hm (by rw [State.startOp_wconv _ hop, hstart]) h hg]

/-- WCONV in the hummock's own Mere. -/
theorem exec_wconv_own (hi : s.idleIssue g) (hclean : s.mem.err = []) (he : e = s.entry g (.wconv g f) (.wconv f))
    (hm : (s.entered g e).mayStart g e = true) (hok : (s.entered g e).convOk g e f = true)
    (hown : ownMere (weirReads e f ++ weirWrites e f.dfmt)) :
    ∃ t, exec (.wconv g f) s = .next t ∧ s.finished t g e ∧
      (t.hum g).mere = storeAll (s.hum g).mere (tensorChunks (s.env g) (e.db, f.dfmt) ((s.entered g e).convRows g [] e f)) ∧
      t.mem = s.mem ∧ t.regs = s.regs ∧ t.sluices = s.sluices ∧ (t.hum g).lats = (s.hum g).lats ∧
      (∀ k, { (t.hum g).tile k with evs := {} } = { (s.hum g).tile k with evs := {} }) ∧ (t.hum g).peat = (s.hum g).peat ∧
      ∀ k, k ≠ g.val → t.hum k = s.hum k := by
  have hin : s.sameView (s.entered g e) := State.entered_sameView
  obtain ⟨t, hstart, ht⟩ := State.startConv_works (dev := False) hok (hown.opensTo rfl (s.entered g e) g)
    (State.knock_of_own fun o ho => by simp [(hown o (List.mem_append_right _ ho)).1]) hclean
    fun o ho => State.rowsOpen_of_mere (by simp [(hown o ho).1])
  have hd : e.db.space = 0 := (hown _ (List.mem_append_right _ List.mem_cons_self)).1
  obtain ⟨hmere, hrest⟩ := ht.ownWork fun k hk => by rw [State.putChunks_own _ _ _ hd, if_neg hk, hin.mere]
  refine ⟨_, exec_wconv_works hi he hm hstart ht rfl, ht.finished rfl hi.2.2.1, ?_, hrest⟩
  rw [hmere, State.putChunks_own _ _ _ hd, if_pos rfl, hin.mere, hin.env]

/-- WCONV with operands in any space. -/
theorem exec_wconv_opens (hi : s.idleIssue g) (hclean : s.mem.err = []) (he : e = s.entry g (.wconv g f) (.wconv f))
    (hm : (s.entered g e).mayStart g e = true) (hok : (s.entered g e).convOk g e f = true)
    (hopen : (s.entered g e).opensTo s1 g m (weirReads e f) (weirWrites e f.dfmt)) :
    let rows := if f.srck = 0 then
        (s1.viewRows g m (e.da, f.sfmt)).zipIdx.map fun r =>
          rowVals f.sfmt r.1 (((s1.viewScales g m (e.da, f.sfmt))[r.2]?).getD []) e.db.len
      else ((s.entered g e).readSource g [] true f.srck f.tile (e.da, f.sfmt) e.db.rows e.db.len).rows
    ∃ t, exec (.wconv g f) s = .next t ∧ (t.hum g).unret = [{ e with phase := .done, held := 0 }] ∧
      (s1.putChunks g m e.db (tensorChunks (s.env g) (e.db, f.dfmt) (rows.map fun r => r.map fun y => y.1))).memoriesOf t ∧
      s.memoriesOf s1 ∧ ∀ k, { (t.hum g).tile k with evs := {} } = { (s.hum g).tile k with evs := {} } := by
  intro rows
  have hin : s.sameView (s.entered g e) := State.entered_sameView
  have hrun : ((s.entered g e).hum g).power = .running := by rw [State.entered_hum_same]; exact hi.1.1
  obtain ⟨hclean2, hg, hlook, hknock, ho⟩ := hopen.station hclean hrun
  obtain ⟨t, hstart, ht⟩ := State.startConv_works hok hopen rfl hclean2 ho
  have hrows : (s1.knock g (weirWrites e f.dfmt)).convRows g m e f = rows.map fun r => r.map fun y => y.1 := by
    by_cases h0 : f.srck = 0
    · obtain ⟨hr, hl⟩ := State.convOk_shape hok h0
      have hsrc := ho (e.da, f.sfmt) (by simp [weirReads, h0])
      simp only [rows, State.convRows]
      rw [if_pos h0, h0, hr, State.readSource_rows_mere hclean2 ⟨.refl _, hknock⟩ hsrc true f.tile e.db.len hl]
    · simp only [rows, State.convRows]
      rw [if_neg h0, State.readSource_rows_tile (u := s.entered g e) hclean2 hclean hg true h0]
  rw [hknock.env, hlook.env, hin.env, hrows] at ht
  refine ⟨_, exec_wconv_works hi he hm hstart ht hg, (ht.finished hg hi.2.2.1).1, ?_, (hin.trans hlook).memories, ht.tiles hg⟩
  exact ((hknock.putChunks g m e.db _).trans (ht.view.trans (t.finish_sameView _ _))).memories

end

/-- Settles O13. The operands open, in the hummock's own Mere without any translation; the source is read without trouble, and the
converted rows are stored as the only change (`State.startConv_works`). -/
theorem wconvResult : Obligations.WconvResult := by
  unfold Obligations.WconvResult
  exact ⟨fun s g f hi hclean hm hok hown => exec_wconv_own hi hclean rfl hm hok hown,
    fun s s1 g f m hi hclean hm hok hopen => exec_wconv_opens hi hclean rfl hm hok hopen⟩

end Sys2Proof.Machine
end

section
/-!
PROOFS. Lengths of the rows that Reed operations compute (08 R193 to R207): no row is longer than the row of its result.
-/

namespace Sys2Proof.Machine

/-! ### What a counting computation yields -/

/-- Whatever has been counted before, x yields a value with property p. -/
def Yields {α : Type} (x : NM α) (p : α → Prop) : Prop := ∀ k, p (x.run k).1

section
variable {α β : Type} {p : β → Prop}

theorem Yields.pure {b : β} (h : p b) : Yields (Pure.pure b) p := fun _ => h

theorem Yields.bind {x : NM α} {q : α → Prop} {f : α → NM β} (hx : Yields x q) (hf : ∀ a, q a → Yields (f a) p) :
    Yields (x >>= f) p := fun k => hf _ (hx k) _

/-- What a computation yields does not matter to one that yields p after any value. -/
theorem Yields.after (x : NM α) {f : α → NM β} (hf : ∀ a, Yields (f a) p) : Yields (x >>= f) p := fun _ => hf _ _

theorem Yields.ite {P : Prop} [Decidable P] {x y : NM β} (hx : P → Yields x p) (hy : ¬P → Yields y p) :
    Yields (if P then x else y) p := by
  split
  · exact hx ‹P›
  · exact hy ‹¬P›

theorem Yields.mono {x : NM β} {q : β → Prop} (hx : Yields x q) (h : ∀ b, q b → p b) : Yields x p := fun k => h _ (hx k)

end

theorem yields_mapM {α β : Type} (f : α → NM β) (xs : List α) : Yields (xs.mapM f) fun ys => ys.length = xs.length := by
  induction xs with
  | nil => exact .pure rfl
  | cons x xs ih =>
    rw [List.mapM_cons]
    refine .after _ fun y => .bind ih fun ys hys => .pure ?_
    rw [List.length_cons, hys, List.length_cons]

theorem yields_flatten_mapM {α β : Type} {n : Nat} (f : α → NM (List β)) (hf : ∀ x, Yields (f x) fun y => y.length = n)
    (xs : List α) : Yields (xs.mapM f) fun ys => ys.flatten.length = n * xs.length := by
  induction xs with
  | nil => exact .pure rfl
  | cons x xs ih =>
    rw [List.mapM_cons]
    refine .bind (hf x) fun y hy => .bind ih fun ys hys => .pure ?_
    rw [List.flatten_cons, List.length_append, hy, hys, List.length_cons, Nat.mul_succ, Nat.add_comm]

/-! ### Rows of the operations -/

theorem yields_takeRow (w : Format) (xs : InRow) : Yields (takeRow w xs) fun ys => ys.length = xs.length := yields_mapM _ _

/-- One value for each of a row that was taken in. -/
theorem yields_zipIdx_mapM {α β : Type} {n : Nat} {xs : List α} (h : xs.length = n) (f : α × Nat → NM β) :
    Yields (xs.zipIdx.mapM f) fun ys => ys.length = n := (yields_mapM f xs.zipIdx).mono fun _ hy => by simpa [h] using hy

theorem yields_elemRow (w : Format) (v40 : Bool) (c : Nat) (k : Val) (a b z : InRow) :
    Yields (elemRow w v40 c k a b z) fun ys => ys.length = a.length :=
  .bind (yields_takeRow w a) fun _ h => .after _ fun _ => .after _ fun _ => yields_zipIdx_mapM h _

theorem yields_lnormRow (eps : Val) (a g b : InRow) : Yields (lnormRow eps a g b) fun ys => ys.length = a.length :=
  .bind (yields_takeRow f32 a) fun _ h => .after _ fun _ => .after _ fun _ => .after _ fun _ => .after _ fun _ => .after _ fun _ =>
    .after _ fun _ => yields_zipIdx_mapM h _

theorem yields_rmsnRow (eps : Val) (a g : InRow) : Yields (rmsnRow eps a g) fun ys => ys.length = a.length :=
  .bind (yields_takeRow f32 a) fun _ h => .after _ fun _ => .after _ fun _ => .after _ fun _ => yields_zipIdx_mapM h _

/-- R205: an output for each of the two elements of a pair. -/
theorem yields_ropeRow (q : Nat) (a fr : InRow) : Yields (ropeRow q a fr) fun ys => ys.length ≤ a.length := by
  refine .bind (yields_takeRow f32 a) fun xs hx => .after _ fun fs => ?_
  refine .bind (yields_flatten_mapM (n := 2) _ (fun j => ?_) (List.range (xs.length / 2))) fun ys hys => .pure ?_
  · exact .after _ fun _ => .after _ fun _ => .after _ fun _ => .after _ fun _ => .after _ fun _ => .pure rfl
  · rw [hys, List.length_range, hx]; omega

theorem yields_scoreRow (sc : Val) (causal : Bool) (q k0 : Nat) (a : InRow) :
    Yields (scoreRow sc causal q k0 a) fun ys => ys.length = a.length :=
  .bind (yields_takeRow f32 a) fun _ h => yields_zipIdx_mapM h _

theorem yields_smxrRow (xs : List Val) : Yields (smxrRow xs) fun ys => ys.length = xs.length :=
  .bind (yields_mapM _ xs) fun _ h => .after _ fun _ => (yields_mapM _ _).mono fun _ hy => hy.trans h

theorem yields_v40Softmax (xs : List Val) : Yields (v40Softmax xs) fun ys => ys.length = xs.length :=
  .bind (yields_mapM _ xs) fun _ h => .after _ fun _ => (yields_mapM _ _).mono fun _ hy => hy.trans h

theorem yields_smxbRow (init : Bool) (st : SmState) (xs : List Val) :
    Yields (smxbRow init st xs) fun y => y.2.length = xs.length :=
  .after _ fun _ => .after _ fun _ => .bind (yields_mapM _ xs) fun _ h => .after _ fun _ => .after _ fun _ => .pure h

theorem yields_aupdRow (init : Bool) (st : SmState) (o v : InRow) : Yields (aupdRow init st o v) fun ys => ys.length = v.length := by
  refine .bind (yields_takeRow f32 v) fun vs h => ?_
  cases init with
  | true => exact .after _ fun _ => yields_zipIdx_mapM h _
  | false => exact .after _ fun _ => yields_zipIdx_mapM h _

theorem yields_amrgRow (a b : SmState) (c d : InRow) : Yields (amrgRow a b c d) fun y => y.2.length = d.length :=
  .after _ fun _ => .bind (yields_takeRow f32 d) fun _ h => .after _ fun _ => .after _ fun _ => .after _ fun _ => .after _ fun _ =>
    .after _ fun _ => .after _ fun _ => .bind (yields_zipIdx_mapM h _) fun _ hy => .pure hy

theorem yields_anormRow (st : SmState) (a : InRow) : Yields (anormRow st a) fun ys => ys.length = a.length :=
  .bind (yields_takeRow f32 a) fun _ h => (yields_mapM _ _).mono fun _ hy => hy.trans h

/-! ### What an operation produces -/

section
variable {i : Issued} {c : Nat} {f : RopFields}

/-- The rows that an operation produces fit the rows of its operands, and only SMXB and AMRG produce a state row (R195). -/
def RowOut.fits (i : Issued) (c : Nat) (out : RowOut) : Prop :=
  out.d.length ≤ i.dd.len ∧ (c = 0x2C → out.b.length ≤ i.db.len) ∧ (out.st.isSome = true → c = 0x29 ∨ c = 0x2B)

theorem DescCap.len_pos (d : DescCap) : 0 < d.len := by
  simp only [DescCap.len]; omega

/-- A result that is a row of D alone fits where the row does. -/
theorem RowOut.fits_row {ys : List Val} (hy : ys.length ≤ i.dd.len) (hc : c ≠ 0x2C) : RowOut.fits i c { d := ys } :=
  ⟨hy, fun h => absurd h hc, fun h => absurd h Bool.false_ne_true⟩

/-- So does one value, in every shape. -/
theorem RowOut.fits_value (y : Val) (hc : c ≠ 0x2C) : RowOut.fits i c { d := [y] } :=
  RowOut.fits_row i.dd.len_pos hc

/-- Where the result is no reduction, its row has L elements (R193). -/
theorem ropShapeOk_dd (h : ropShapeOk i c f = true) (hr : rRowOut c = false) (h2C : c ≠ 0x2C) (h30 : c ≠ 0x30) :
    i.dd.len = ropLen i c f := by
  simp only [ropShapeOk, Bool.and_eq_true, beq_iff_eq] at h
  obtain ⟨⟨⟨⟨⟨-, hd⟩, -⟩, -⟩, -⟩, -⟩ := h
  simpa [hr, h2C, h30] using hd

theorem ropShapeOk_anorm (h : ropShapeOk i 0x2C f = true) : i.db.rows = i.dd.rows ∧ i.db.len = ropLen i 0x2C f := by
  simp only [ropShapeOk, shapeIs, Bool.and_eq_true, Bool.or_eq_true, beq_iff_eq] at h
  obtain ⟨⟨⟨-, hb⟩, -⟩, -⟩ := h
  exact hb.resolve_left (by decide)

/-- The rows that an operation produces for row r fit, where its source A gives a row of at most L elements (R193). -/
theorem ropRow_fits (hshape : ropShapeOk i c f = true) (e : RunEnv) (r : Nat) {x : RowIn} (ha : x.a.length ≤ ropLen i c f) :
    Yields (ropRow e i c f r x) (RowOut.fits i c) := by
  have fits (hr : rRowOut c = false) (h2C : c ≠ 0x2C) (h30 : c ≠ 0x30) {ys : List Val} (hy : ys.length ≤ x.a.length) :
      ys.length ≤ i.dd.len := (hy.trans ha).trans_eq (ropShapeOk_dd hshape hr h2C h30).symm
  have row (hr : rRowOut c = false) (h2C : c ≠ 0x2C) (h30 : c ≠ 0x30) {ys : List Val} (hy : ys.length ≤ x.a.length) :
      Yields (Pure.pure { d := ys } : NM RowOut) (RowOut.fits i c) := .pure (RowOut.fits_row (fits hr h2C h30 hy) h2C)
  have value (h2C : c ≠ 0x2C) (y : Val) : Yields (Pure.pure { d := [y] } : NM RowOut) (RowOut.fits i c) :=
    .pure (RowOut.fits_value y h2C)
  unfold ropRow
  refine .ite (fun h => ?elem) fun _ => .ite (fun h => ?rmax) fun _ => .ite (fun h => ?sum) fun _ => .ite (fun h => ?rope) fun _ =>
    .ite (fun h => ?lnorm) fun _ => .ite (fun h => ?rmsn) fun _ => .ite (fun h => ?smxr) fun _ => .ite (fun h => ?smxb) fun _ =>
    .ite (fun h => ?aupd) fun _ => .ite (fun h => ?amrg) fun _ => .ite (fun h => ?anorm) fun h => ?xent
  case elem =>
    have hc : c ≤ 0x14 := of_decide_eq_true h
    have hr : rRowOut c = false := by simp only [rRowOut, Bool.or_eq_false_iff, beq_eq_false_iff_ne]; omega
    exact .bind (yields_elemRow _ _ _ _ _ _ _) fun y hy => row hr (by omega) (by omega) hy.le
  case rmax => exact .after _ fun xs => value (by omega) _
  case sum =>
    have h2C : c ≠ 0x2C := by rintro rfl; cases h
    refine .ite (fun _ => ?_) fun _ => ?_
    · exact .after _ fun y => value h2C y
    · exact .after _ fun y => value h2C y
  case rope =>
    subst h
    exact .bind (yields_ropeRow _ _ _) fun y hy => row rfl (by decide) (by decide) hy
  case lnorm =>
    subst h
    exact .bind (yields_lnormRow _ _ _ _) fun y hy => row rfl (by decide) (by decide) hy.le
  case rmsn =>
    subst h
    exact .bind (yields_rmsnRow _ _ _) fun y hy => row rfl (by decide) (by decide) hy.le
  case smxr =>
    subst h
    refine .ite (fun _ => ?_) fun _ => ?_
    · exact .bind (.bind (yields_takeRow _ _) fun xs hx => (yields_v40Softmax xs).mono fun y hy => hy.trans hx)
        fun y hy => row rfl (by decide) (by decide) hy.le
    · exact .bind (.bind (yields_scoreRow _ _ _ _ _) fun xs hx => (yields_smxrRow xs).mono fun y hy => hy.trans hx)
        fun y hy => row rfl (by decide) (by decide) hy.le
  case smxb =>
    subst h
    refine .after _ fun st => .bind (yields_scoreRow _ _ _ _ _) fun xs hx => .bind (yields_smxbRow _ _ xs) fun y hy => .pure ?_
    exact ⟨fits rfl (by decide) (by decide) (hy.trans hx).le, fun h => absurd h (by decide), fun _ => .inl rfl⟩
  case aupd =>
    subst h
    exact .after _ fun st => .bind (yields_aupdRow _ _ _ _) fun y hy => row rfl (by decide) (by decide) hy.le
  case amrg =>
    subst h
    refine .after _ fun sa => .after _ fun sb => .bind (yields_amrgRow _ _ _ _) fun y hy => .pure ?_
    exact ⟨(hy.trans (rowVals_length _ _ _ _)).le, fun h => absurd h (by decide), fun _ => .inr rfl⟩
  case anorm =>
    subst h
    refine .after _ fun st => .bind (yields_anormRow _ _) fun y hy => .after _ fun l => .pure ?_
    exact ⟨i.dd.len_pos, fun _ => hy.le.trans (ha.trans_eq (ropShapeOk_anorm hshape).2.symm), fun h => absurd h Bool.false_ne_true⟩
  case xent => exact .after _ fun st => .after _ fun y => value h y

end

end Sys2Proof.Machine
end

section
/-!
PROOFS. Rows of a Reed operation as they are read, computed and stored (08 R190, R191, R193).
-/

namespace Sys2Proof.Machine

/-! ### Shapes and formats of the operands -/

section
variable {i : Issued} {c : Nat} {f : RopFields}

theorem ropShapeOk_da (h : ropShapeOk i c f = true) (h0 : f.srck = 0) :
    i.da.rows = i.dd.rows ∧ i.da.len = if rStateA c then 4 else ropLen i c f := by
  simp only [ropShapeOk, shapeIs, if_pos h0, Bool.and_eq_true, beq_iff_eq] at h
  obtain ⟨⟨⟨⟨⟨ha, -⟩, -⟩, -⟩, -⟩, -⟩ := h
  exact ha

/-- A state is read from memory (R200, R203). -/
theorem ropShapeOk_srck (h : ropShapeOk i c f = true) (hc : rStateA c = true) : f.srck = 0 := by
  by_contra h0
  simp only [ropShapeOk, if_neg h0, hc, Bool.and_eq_true] at h
  obtain ⟨⟨⟨⟨⟨⟨⟨ha, -⟩, -⟩, -⟩, -⟩, -⟩, -⟩, -⟩ := h
  cases ha

/-- The row of B that row r takes lies in B. -/
theorem ropShapeOk_db (h : ropShapeOk i c f = true) (hb : readsB c = true) {r : Nat} (hr : r < i.dd.rows) :
    browRow f r < i.db.rows := by
  simp only [ropShapeOk, shapeIs, hb, Bool.and_eq_true, Bool.or_eq_true, beq_iff_eq] at h
  obtain ⟨⟨⟨⟨-, hdb⟩, -⟩, -⟩, -⟩ := h
  have hdb : i.db.rows = if f.brow then 1 else i.dd.rows := by simpa using (hdb.resolve_left (by decide)).1
  rw [hdb, browRow]
  split
  · exact Nat.zero_lt_one
  · exact hr

theorem ropShapeOk_dc (h : ropShapeOk i c f = true) (hc : readsC c = true) :
    i.dc.rows = (if c = 0x24 then if f.brow then 1 else i.dd.rows else i.dd.rows) ∧ (stateC c = true → i.dc.len = 4) := by
  simp only [ropShapeOk, shapeIs, hc, Bool.and_eq_true, Bool.or_eq_true, beq_iff_eq] at h
  obtain ⟨⟨-, hdc⟩, -⟩ := h
  obtain ⟨hrows, hlen⟩ := hdc.resolve_left (by decide)
  exact ⟨hrows, fun hs => by rw [hlen, if_pos hs]⟩

theorem ropShapeOk_dc_row (h : ropShapeOk i c f = true) (hc : readsC c = true) {r : Nat} (hr : r < i.dd.rows) :
    (if c = 0x24 then browRow f r else r) < i.dc.rows := by
  rw [(ropShapeOk_dc h hc).1, browRow]
  split
  · split
    · exact Nat.zero_lt_one
    · exact hr
  · exact hr

/-- The operand that an operation keeps its states in (R195): SMXB in C, AMRG in A. -/
def ropStateOp (i : Issued) (c : Nat) : Opnd := if c = 0x29 then i.opC else i.opA

theorem ropStateOp_writes (hc : c = 0x29 ∨ c = 0x2B) : ropStateOp i c ∈ ropWrites i c := by
  rcases hc with rfl | rfl <;> simp [ropStateOp, ropWrites]

theorem isF32_code {x : BitVec 12} (h : isF32 x = true) : fCode x = 7 := by
  simp only [isF32, Bool.and_eq_true, beq_iff_eq] at h
  exact h.1

/-- It has a row of four binary32 elements for each row of the result. -/
theorem ropStateOp_shape (h : ropShapeOk i c f = true) (hf : ropFmtOk i c f = true) (hc : c = 0x29 ∨ c = 0x2B) :
    (ropStateOp i c).1.rows = i.dd.rows ∧ (ropStateOp i c).1.len = 4 ∧ fCode (ropStateOp i c).2 = 7 := by
  simp only [ropFmtOk, Bool.and_eq_true, Bool.or_eq_true] at hf
  obtain ⟨⟨⟨⟨⟨⟨⟨⟨ha, -⟩, -⟩, -⟩, -⟩, hC⟩, -⟩, -⟩, -⟩ := hf
  rcases hc with rfl | rfl
  · obtain ⟨hrows, hlen⟩ := ropShapeOk_dc h rfl
    have hC : isF32 i.fmtC = true := hC.resolve_left (by decide)
    exact ⟨hrows, hlen rfl, isF32_code hC⟩
  · have h0 := ropShapeOk_srck h rfl
    obtain ⟨hrows, hlen⟩ := ropShapeOk_da h h0
    have ha : isF32 i.fmtA = true := ha.resolve_left (by simp [h0])
    exact ⟨hrows, hlen, isF32_code ha⟩

theorem SmState.bytes_length (x : SmState) : x.bytes.length = 16 := by simp [SmState.bytes, leBytes_length]

end

/-! ### Reading, computing and storing one row -/

/-- The operands of operation c have their shapes and formats, and every row of them goes through. -/
structure State.ropReady (s : State) (g : Nat) (m : List TlbEntry) (dev : Prop) (i : Issued) (c : Nat) (f : RopFields) : Prop where
  shape : ropShapeOk i c f = true
  fmt : ropFmtOk i c f = true
  opens : ∀ o ∈ ropReads i c f ++ ropWrites i c, s.rowsOpen g m dev o

section
variable {g : Nat} {m : List TlbEntry} {dev : Prop} {s v t : State} {o : Opnd} {i : Issued} {c r : Nat} {f : RopFields}
  {tile : List InRow} {out : RowOut}

theorem State.readIf_works (hs : s.mem.err = []) {on : Bool} (ho : on = true → s.rowsOpen g m dev o ∧ r < o.1.rows)
    (h : s.Works g dev v t) :
    ∃ t', t.readIf g m on o r = (t', if on then v.viewRow g m o r else ([], []), none) ∧ s.Works g dev v t' := by
  cases on with
  | false => exact ⟨t, rfl, h⟩
  | true => exact State.readRow_works hs (ho rfl).1 (ho rfl).2 h

/-- A row's operands are read without trouble, as they stand. -/
theorem State.readRop_works (hs : s.mem.err = []) (hp : s.ropReady g m dev i c f) (hr : r < i.dd.rows) (h : s.Works g dev v t) :
    ∃ t', t.readRop g m i c f tile r = (t', ropRowIn (v.viewRow g m) i c f tile r, none) ∧ s.Works g dev v t' := by
  have opens {o : Opnd} (ho : o ∈ ropReads i c f) := hp.opens o (List.mem_append_left _ ho)
  obtain ⟨t0, hA, h0⟩ := State.readIf_works (on := f.srck == 0) (o := i.opA) (r := r) hs (fun h0 =>
    ⟨opens (by simp_all [ropReads]), hr.trans_eq (ropShapeOk_da hp.shape (beq_iff_eq.1 h0)).1.symm⟩) h
  obtain ⟨t1, hB, h1⟩ := State.readIf_works (on := readsB c) (o := i.opB) hs (fun hb =>
    ⟨opens (by simp [ropReads, hb]), ropShapeOk_db hp.shape hb hr⟩) h0
  obtain ⟨t2, hC, h2⟩ := State.readIf_works (on := readsC c) (o := i.opC) hs (fun hc =>
    ⟨opens (by simp [ropReads, hc]), ropShapeOk_dc_row hp.shape hc hr⟩) h1
  obtain ⟨t3, hD, h3⟩ := State.readIf_works (on := readsD c) (o := i.opD) (r := r) hs (fun hd =>
    ⟨opens (by simp [ropReads, hd]), hr⟩) h2
  refine ⟨t3, ?_, h3⟩
  simp only [State.readRop, hA, hB, hC, hD]
  rfl

/-- Its row of A has at most L elements. -/
theorem ropRowIn_length (htile : ∀ xs ∈ tile, xs.length ≤ ropLen i c f) (row : Opnd → Nat → RawRow) (r : Nat) :
    (ropRowIn row i c f tile r).a.length ≤ ropLen i c f := by
  unfold ropRowIn
  dsimp only
  split
  · cases hx : tile[r]? with
    | none => exact Nat.zero_le _
    | some xs => exact htile xs (List.mem_of_getElem? hx)
  · split
    · exact Nat.zero_le _
    · exact (rowVals_length _ _ _ _).le

theorem State.writeState_works (hs : s.mem.err = []) (ho : s.rowsOpen g m dev o) (hr : r < o.1.rows) (hlen : o.1.len = 4)
    (hcode : fCode o.2 = 7) (x : SmState) (h : s.Works g dev v t) :
    ∃ t', t.writeState g m o r (some x) = (t', .none) ∧ s.Works g dev (v.putChunks g m o.1 (rowChunks o r x.bytes [])) t' := by
  have hfit : x.bytes.length ≤ rowBytes (fCode o.2) o.1.len := by rw [hlen, hcode, x.bytes_length]; decide
  obtain ⟨t', hw, h'⟩ := State.writeAll_works hs (wholeOf o) (ho.rowChunks hr hfit (c := []) (Nat.zero_le _)) h
  refine ⟨(t.writeState g m o r (some x)).1, ?_, ?_⟩ <;> simp only [State.writeState] <;> rw [hw]
  exact h'.counted _ _

/-- v with everything stored that an operation produces for a row. -/
def State.putRop (v : State) (g : Nat) (m : List TlbEntry) (e : RunEnv) (i : Issued) (c r : Nat) (out : RowOut) : State :=
  (ropRowPuts e i c r out).foldl (fun t p => t.putChunks g m p.1 p.2) v

/-- What an operation produces for a row is stored without trouble. -/
theorem State.writeRop_works (hs : s.mem.err = []) (hp : s.ropReady g m dev i c f) (hr : r < i.dd.rows) (hf : out.fits i c)
    (k : Cnt) (h : s.Works g dev v t) :
    ∃ t', t.writeRop g m i c r out k = (t', .none) ∧ s.Works g dev (v.putRop g m (s.env g) i c r out) t' := by
  obtain ⟨hd, hb, hst⟩ := hf
  have opens {o : Opnd} (ho : o ∈ ropWrites i c) := hp.opens o (List.mem_append_right _ ho)
  have hD : s.rowsOpen g m dev i.opD := opens (by simp [ropWrites])
  by_cases h2C : c = 0x2C
  · subst h2C
    obtain ⟨t1, hw1, h1⟩ := State.writeRow_works hs (opens (o := i.opB) (by simp [ropWrites]))
      (hr.trans_eq (ropShapeOk_anorm hp.shape).1.symm) (hb rfl) (wholeOf i.opB) k h
    obtain ⟨t2, hw2, h2⟩ := State.writeRow_works hs hD hr hd (wholeOf i.opD) {} h1
    exact ⟨t2, by simp [State.writeRop, hw1, hw2], h2⟩
  obtain ⟨t1, hw1, h1⟩ := State.writeRow_works hs hD hr hd (wholeOf i.opD) k h
  simp only [State.putRop, ropRowPuts, if_neg h2C]
  cases hx : out.st with
  | none => exact ⟨t1, by simp [State.writeRop, h2C, hw1, hx, State.writeState], h1⟩
  | some x =>
    have hc := hst (by simp [hx])
    obtain ⟨hrows, hlen, hcode⟩ := ropStateOp_shape hp.shape hp.fmt hc
    obtain ⟨t2, hw2, h2⟩ := State.writeState_works hs (opens (ropStateOp_writes hc)) (hr.trans_eq hrows.symm) hlen hcode x h1
    simp only [ropStateOp] at hw2
    exact ⟨t2, by simp [State.writeRop, h2C, hw1, hx, hw2], h2⟩

/-- v after row r of an operation: computed from what its sources hold in v, and stored. -/
def State.ropStep (v : State) (g : Nat) (m : List TlbEntry) (e : RunEnv) (i : Issued) (c : Nat) (f : RopFields) (tile : List InRow)
    (r : Nat) : State :=
  v.putRop g m e i c r ((ropRow e i c f r (ropRowIn (v.viewRow g m) i c f tile r)).run {}).1

/-- An operation's rows in ascending order. -/
theorem State.ropView_eq_foldl (v : State) (g : Nat) (m : List TlbEntry) (e : RunEnv) (i : Issued) (c : Nat) (f : RopFields)
    (tile : List InRow) : v.ropView g m e i c f tile = (List.range i.dd.rows).foldl (fun v r => v.ropStep g m e i c f tile r) v := rfl

theorem State.doRow_works (hs : s.mem.err = []) (hp : s.ropReady g m dev i c f) (htile : ∀ xs ∈ tile, xs.length ≤ ropLen i c f)
    (hr : r < i.dd.rows) (h : s.Works g dev v t) :
    ∃ t', t.doRow g m i c f tile r = (t', false) ∧ s.Works g dev (v.ropStep g m (s.env g) i c f tile r) t' := by
  obtain ⟨t1, hread, h1⟩ := State.readRop_works (tile := tile) hs hp hr h
  obtain ⟨t2, hw, h2⟩ := State.writeRop_works hs hp hr
    (ropRow_fits hp.shape (s.env g) r (ropRowIn_length htile (v.viewRow g m) r) {})
    ((ropRow (s.env g) i c f r (ropRowIn (v.viewRow g m) i c f tile r)).run {}).2 h1
  refine ⟨t2, ?_, h2⟩
  simp only [State.doRow, hread, h1.frame.env, hw]

theorem State.doRows_works (hs : s.mem.err = []) (hp : s.ropReady g m dev i c f) (htile : ∀ xs ∈ tile, xs.length ≤ ropLen i c f)
    (h : s.Works g dev v t) :
    ∃ t', t.doRows g m i c f tile = (t', false) ∧ s.Works g dev (v.ropView g m (s.env g) i c f tile) t' := by
  simp only [State.doRows, State.ropView_eq_foldl]
  suffices ∀ n, n ≤ i.dd.rows → ∃ t',
      (List.range n).foldl (fun (acc : State × Bool) r => if acc.2 then acc else acc.1.doRow g m i c f tile r) (t, false) = (t', false) ∧
        s.Works g dev ((List.range n).foldl (fun v r => v.ropStep g m (s.env g) i c f tile r) v) t' from this _ le_rfl
  intro n hn
  induction n with
  | zero => exact ⟨t, rfl, h⟩
  | succ n ih =>
    obtain ⟨t1, hrows, h1⟩ := ih (Nat.le_of_succ_le hn)
    obtain ⟨t2, hrow, h2⟩ := State.doRow_works hs hp htile hn h1
    refine ⟨t2, ?_, ?_⟩ <;> rw [List.range_succ, List.foldl_append]
    · rw [hrows]; exact hrow
    · exact h2

end

end Sys2Proof.Machine
end

section
/-!
PROOFS. Reed operations as they issue, start and finish (08 R190, R195), which settles O16.
-/

namespace Sys2Proof.Machine

/-! ### Operations in the hummock's own Mere -/

section
variable {g : Nat} {m : List TlbEntry} {v : State} {e : RunEnv} {i : Issued} {c r : Nat} {f : RopFields} {tile : List InRow}
  {out : RowOut}

theorem State.viewRow_own (v : State) (g : Nat) (m : List TlbEntry) {o : Opnd} (ho : o.1.space = 0) (r : Nat) :
    v.viewRow g m o r = mereRow (v.hum g).mere o r := by
  simp [State.viewRow, State.spaceMem, State.placeIn, State.mereOf, ho, mereRow]

/-- What an operation takes for a row depends on the operands that it reads alone. -/
theorem ropRowIn_congr {row row' : Opnd → Nat → RawRow} (h : ∀ o ∈ ropReads i c f, ∀ k, row o k = row' o k) :
    ropRowIn row i c f tile r = ropRowIn row' i c f tile r := by
  have reads {on : Bool} {o : Opnd} {k : Nat} (ho : on = true → o ∈ ropReads i c f) :
      (if on then row o k else ([], [])) = if on then row' o k else ([], []) := by
    cases on with
    | false => rfl
    | true => exact h o (ho rfl) k
  simp only [ropRowIn]
  rw [reads (o := i.opA), reads (o := i.opB), reads (o := i.opC), reads (o := i.opD)] <;> intro hon <;> simp_all [ropReads]

/-- What it stores goes to the operands that it writes. -/
theorem ropRowPuts_writes (hf : out.fits i c) {p : DescCap × List (Nat × List Byte)} (hp : p ∈ ropRowPuts e i c r out) :
    ∃ o ∈ ropWrites i c, p.1 = o.1 := by
  obtain ⟨-, -, hst⟩ := hf
  have hD : i.opD ∈ ropWrites i c := by simp [ropWrites]
  by_cases h2C : c = 0x2C
  · subst h2C
    obtain rfl | rfl : p = (i.opB.1, _) ∨ p = (i.opD.1, _) := by simpa [ropRowPuts] using hp
    · exact ⟨i.opB, by simp [ropWrites], rfl⟩
    · exact ⟨i.opD, hD, rfl⟩
  simp only [ropRowPuts, if_neg h2C, List.mem_cons] at hp
  rcases hp with rfl | hp
  · exact ⟨i.opD, hD, rfl⟩
  cases hx : out.st with
  | none => simp [hx] at hp
  | some x =>
    obtain rfl : p = ((ropStateOp i c).1, _) := by simpa [hx, ropStateOp] using hp
    exact ⟨ropStateOp i c, ropStateOp_writes (hst (by simp [hx])), rfl⟩

theorem State.putAll_own (ps : List (DescCap × List (Nat × List Byte))) (hps : ∀ p ∈ ps, p.1.space = 0) (v : State) (k : Nat) :
    ((ps.foldl (fun t p => t.putChunks g m p.1 p.2) v).hum k).mere =
      if k = g then storeAll (v.hum g).mere (ps.flatMap fun p => p.2) else (v.hum k).mere := by
  induction ps generalizing v with
  | nil => split <;> simp_all [storeAll]
  | cons p ps ih =>
    rw [List.foldl_cons, ih (fun q hq => hps q (List.mem_cons_of_mem _ hq))]
    simp only [State.putChunks_own v g m (hps p List.mem_cons_self), if_true, List.flatMap_cons, storeAll, List.foldl_append]
    split <;> rfl

/-- Its rows, in the hummock's own Mere. -/
theorem State.ropView_own (hown : ∀ o ∈ ropReads i c f ++ ropWrites i c, o.1.space = 0) (hshape : ropShapeOk i c f = true)
    (htile : ∀ xs ∈ tile, xs.length ≤ ropLen i c f) (v : State) (k : Nat) :
    ((v.ropView g m e i c f tile).hum k).mere = if k = g then ropMere e i c f tile (v.hum g).mere else (v.hum k).mere := by
  rw [State.ropView_eq_foldl, ropMere]
  generalize List.range i.dd.rows = rs
  induction rs generalizing v with
  | nil => split <;> simp_all
  | cons r rs ih =>
    have hin : ropRowIn (v.viewRow g m) i c f tile r = ropRowIn (mereRow (v.hum g).mere) i c f tile r :=
      ropRowIn_congr fun o ho k => v.viewRow_own g m (hown o (List.mem_append_left _ ho)) k
    have hstep (k : Nat) : ((v.ropStep g m e i c f tile r).hum k).mere = if k = g then
        storeAll (v.hum g).mere (ropRowOut e i c r ((ropRow e i c f r (ropRowIn (mereRow (v.hum g).mere) i c f tile r)).run {}).1)
        else (v.hum k).mere := by
      rw [State.ropStep, hin]
      refine State.putAll_own _ (fun p hp => ?_) v k
      obtain ⟨o, ho, hpo⟩ := ropRowPuts_writes (ropRow_fits hshape e r (ropRowIn_length htile _ r) {}) hp
      rw [hpo, hown o (List.mem_append_right _ ho)]
    rw [List.foldl_cons, List.foldl_cons, ih, hstep k, hstep g, if_pos rfl]
    split <;> rfl

end

/-! ### An operation from its issue to its end -/

section
variable {g : Fin 96} {m : List TlbEntry} {dev : Prop} {u s s1 s2 v : State} {e : Issued} {c : Nat} {ropc : BitVec 8} {f : RopFields}
  {i : Instr}

/-- The tile, slot or STREAM group that an operation takes as A, read; nothing where A is memory. -/
def State.ropSource (s : State) (g : Nat) (m : List TlbEntry) (e : Issued) (c : Nat) (f : RopFields) : Source :=
  if f.srck = 0 then ⟨s, [], {}, none⟩ else s.readSource g m false f.srck f.tile e.opA e.dd.rows (ropLen e c f)

theorem State.ropSource_works (hs : s.mem.err = []) (h : s.Works g dev v u) :
    (u.ropSource g m e c f).bad = none ∧ s.Works g dev v (u.ropSource g m e c f).s := by
  by_cases h0 : f.srck = 0
  · simp only [State.ropSource, if_pos h0]
    exact ⟨trivial, h⟩
  · simp only [State.ropSource, if_neg h0]
    exact State.readSource_works hs h false f.tile fun h => absurd h h0

/-- No row of it is longer than L. -/
theorem State.ropSource_length (s : State) (g : Nat) (m : List TlbEntry) (e : Issued) (c : Nat) (f : RopFields) :
    ∀ xs ∈ (s.ropSource g m e c f).rows, xs.length ≤ ropLen e c f := by
  intro xs hxs
  by_cases h0 : f.srck = 0
  · simp [State.ropSource, h0] at hxs
  · rw [State.ropSource, if_neg h0] at hxs
    exact ((s.readSource_shape_tile false h0 f.tile e.dd.rows (ropLen e c f)).2 xs hxs).le

/-- It reads alike in states that agree on the hummock. -/
theorem State.ropSource_rows (hs : s.mem.err = []) (hu : u.mem.err = []) (hg : s.hum g = u.hum g) (k : List TlbEntry) :
    (s.ropSource g m e c f).rows =
      if f.srck = 0 then [] else (u.readSource g k false f.srck f.tile e.opA e.dd.rows (ropLen e c f)).rows := by
  by_cases h0 : f.srck = 0
  · simp only [State.ropSource, if_pos h0]
  · simp only [State.ropSource, if_neg h0]
    exact State.readSource_rows_tile hs hu hg false h0 f.tile k _ _

theorem State.ropOk_ready (hok : u.ropOk g e c f = true) (ho : ∀ o ∈ ropReads e c f ++ ropWrites e c, s.rowsOpen g m dev o) :
    s.ropReady g m dev e c f := by
  simp only [State.ropOk, Bool.and_eq_true] at hok
  obtain ⟨⟨⟨⟨⟨-, hshape⟩, hfmt⟩, -⟩, -⟩, -⟩ := hok
  exact ⟨hshape, hfmt, ho⟩

/-- An operation whose operands open completes its rows, and has finished (08 R190). -/
theorem State.startRop_works (hok : u.ropOk g e ropc.toNat f = true)
    (hopen : u.opensTo s1 g m (ropReads e ropc.toNat f) (ropWrites e ropc.toNat))
    (hs2 : s1.knock g (ropWrites e ropc.toNat) = s2) (hs : s2.mem.err = []) (hv : v.sameView s2)
    (ho : ∀ o ∈ ropReads e ropc.toNat f ++ ropWrites e ropc.toNat, s2.rowsOpen g m dev o) :
    ∃ t, u.startRop g e ropc f = t.finish g e.id ∧
      s2.Works g dev (v.ropView g m (s2.env g) e ropc.toNat f (s2.ropSource g m e ropc.toNat f).rows) t := by
  have h0 : s2.Works g dev v s2 := ⟨.refl s2, hv⟩
  obtain ⟨hbad, hsrc⟩ := State.ropSource_works (m := m) (e := e) (c := ropc.toNat) (f := f) hs h0
  obtain ⟨t, hrows, ht⟩ := State.doRows_works hs (State.ropOk_ready hok ho) (s2.ropSource_length g m e ropc.toNat f)
    (hsrc.counted (if ropc.toNat = 0x2C then e.db.tag else e.dd.tag) fun x =>
      x.charge ((s2.ropSource g m e ropc.toNat f).evs.add (scalarCnt e ropc.toNat f)))
  refine ⟨t, ?_, ht⟩
  simp only [State.ropSource] at hbad hrows
  simp only [State.startRop, hok, State.runOp_opens hopen, hs2, hbad, State.charge, hrows]
  rfl

/-- The instructions of Reed operations issue with the captures of R191. -/
theorem exec_rop (h : stationOp i = some (g, .rop ropc f)) (s : State) :
    ∃ cap : Sequencer → Captures, cap (s.hum g).seq = captures (s.hum g).seq i ∧
      exec i s = .next (s.issueOp g (.rop ropc f) cap) := by
  unfold stationOp at h
  split at h <;> cases h <;> exact ⟨_, rfl, rfl⟩

theorem State.startOp_rop (u : State) (h : e.op = .rop ropc f) : u.startOp g e = u.startRop g e ropc f := by rw [State.startOp, h]

/-- An operation that may start and works on its operands in s2, issues, and has finished. -/
theorem exec_rop_works {t : State} (h : stationOp i = some (g, .rop ropc f)) (hi : s.idleIssue g)
    (he : e = s.entry g i (.rop ropc f)) (hm : (s.entered g e).mayStart g e = true)
    (hstart : (s.entered g e).startRop g e ropc f = t.finish g e.id) (hw : s2.Works g dev v t)
    (hg : s2.hum g = (s.entered g e).hum g) : exec i s = .next (t.finish g e.id) := by
  obtain ⟨cap, hcap, hexec⟩ := exec_rop h s
  have hop : e.op = .rop ropc f := by rw [he]; rfl
  rw [hexec, State.issueOp_works hi (by rw [hcap, he]; rfl) hm (by rw [State.startOp_rop _ hop, hstart]) hw hg]

/-- An operation in the hummock's own Mere. -/
theorem exec_rop_own (h : stationOp i = some (g, .rop ropc f)) (hi : s.idleIssue g) (hclean : s.mem.err = [])
    (he : e = s.entry g i (.rop ropc f)) (hm : (s.entered g e).mayStart g e = true)
    (hok : (s.entered g e).ropOk g e ropc.toNat f = true) (hown : ownMere (ropReads e ropc.toNat f ++ ropWrites e ropc.toNat)) :
    let tile := if f.srck = 0 then []
      else ((s.entered g e).readSource g [] false f.srck f.tile e.opA e.dd.rows (ropLen e ropc.toNat f)).rows
    ∃ t, exec i s = .next t ∧ s.finished t g e ∧ (t.hum g).mere = ropMere (s.env g) e ropc.toNat f tile (s.hum g).mere ∧
      t.mem = s.mem ∧ t.regs = s.regs ∧ t.sluices = s.sluices ∧ (t.hum g).lats = (s.hum g).lats ∧
      (∀ k, { (t.hum g).tile k with evs := {} } = { (s.hum g).tile k with evs := {} }) ∧ (t.hum g).peat = (s.hum g).peat ∧
      ∀ k, k ≠ g.val → t.hum k = s.hum k := by
  intro tile
  have hin : s.sameView (s.entered g e) := State.entered_sameView
  have ho : ∀ o ∈ ropReads e ropc.toNat f ++ ropWrites e ropc.toNat, (s.entered g e).rowsOpen g [] False o := fun o ho =>
    State.rowsOpen_of_mere (by simp [(hown o ho).1])
  obtain ⟨t, hstart, ht⟩ := State.startRop_works hok (hown.opensTo rfl (s.entered g e) g)
    (State.knock_of_own fun o ho => by simp [(hown o (List.mem_append_right _ ho)).1]) hclean (.refl _) ho
  have hview := State.ropView_own (g := g) (m := []) (e := (s.entered g e).env g) (fun o ho => (hown o ho).1)
    (State.ropOk_ready hok ho).shape ((s.entered g e).ropSource_length g [] e ropc.toNat f) (s.entered g e)
  obtain ⟨hmere, hrest⟩ := ht.ownWork fun k hk => by rw [hview, if_neg hk, hin.mere]
  refine ⟨_, exec_rop_works h hi he hm hstart ht rfl, ht.finished rfl hi.2.2.1, ?_, hrest⟩
  rw [hmere, hview, if_pos rfl, hin.mere, hin.env, State.ropSource_rows (s := s.entered g e) (u := s.entered g e) hclean hclean rfl []]

/-- An operation with operands in any space. -/
theorem exec_rop_opens (h : stationOp i = some (g, .rop ropc f)) (hi : s.idleIssue g) (hclean : s.mem.err = [])
    (he : e = s.entry g i (.rop ropc f)) (hm : (s.entered g e).mayStart g e = true)
    (hok : (s.entered g e).ropOk g e ropc.toNat f = true)
    (hopen : (s.entered g e).opensTo s1 g m (ropReads e ropc.toNat f) (ropWrites e ropc.toNat)) :
    let tile := if f.srck = 0 then []
      else ((s.entered g e).readSource g [] false f.srck f.tile e.opA e.dd.rows (ropLen e ropc.toNat f)).rows
    ∃ t, exec i s = .next t ∧ (t.hum g).unret = [{ e with phase := .done, held := 0 }] ∧
      (s1.ropView g m (s.env g) e ropc.toNat f tile).memoriesOf t ∧ s.memoriesOf s1 ∧
      ∀ k, { (t.hum g).tile k with evs := {} } = { (s.hum g).tile k with evs := {} } := by
  intro tile
  have hin : s.sameView (s.entered g e) := State.entered_sameView
  have hrun : ((s.entered g e).hum g).power = .running := by rw [State.entered_hum_same]; exact hi.1.1
  obtain ⟨hclean2, hg, hlook, hknock, ho⟩ := hopen.station hclean hrun
  obtain ⟨t, hstart, ht⟩ := State.startRop_works hok hopen rfl hclean2 hknock ho
  rw [hknock.env, hlook.env, hin.env, State.ropSource_rows (u := s.entered g e) hclean2 hclean hg []] at ht
  exact ⟨_, exec_rop_works h hi he hm hstart ht hg, (ht.finished hg hi.2.2.1).1,
    (ht.view.trans (t.finish_sameView _ _)).memories, (hin.trans hlook).memories, ht.tiles hg⟩

end

/-- Settles O16. The operands open, in the hummock's own Mere without any translation; each row is read, computed and stored without
trouble, since no row that an operation produces is longer than its operand's (`ropRow_fits`), and the rows in ascending order are the
only change (`State.startRop_works`). -/
theorem reedResult : Obligations.ReedResult := by
  unfold Obligations.ReedResult
  exact ⟨fun i s g ropc f h hi hclean hm hok hown => exec_rop_own h hi hclean rfl hm hok hown,
    fun i s s1 g ropc f m h hi hclean hm hok hopen => exec_rop_opens h hi hclean rfl hm hok hopen⟩

end Sys2Proof.Machine
end

section
/-!
PROOFS. The words of the sequencer (07 R167 to R170, R176, R177; 03 R79, R80; 04 R107; 08 R191, R194): where the fields of an encoded word
stand, and the round trip, which settles O2.
-/

namespace Sys2Proof

/-! ### Fields of words put together

The width of a body is written as one number where it is the sum of its fields' widths: `no_index` lets `simp` see past that. -/

section
variable {v w s : Nat} (x : BitVec v) (y : BitVec w)

theorem field_of_high {n : Nat} (h : w ≤ s) :
    BitVec.extractLsb' s n (HAppend.hAppend (γ := no_index (BitVec (v + w))) x y) = x.extractLsb' (s - w) n :=
  BitVec.extractLsb'_append_eq_of_le h

theorem field_of_low {n : Nat} (h : s + n ≤ w) :
    BitVec.extractLsb' s n (HAppend.hAppend (γ := no_index (BitVec (v + w))) x y) = y.extractLsb' s n :=
  BitVec.extractLsb'_append_eq_of_add_le h

theorem bit_of_high (h : w ≤ s) :
    BitVec.getLsbD (HAppend.hAppend (γ := no_index (BitVec (v + w))) x y) s = x.getLsbD (s - w) :=
  BitVec.getLsbD_append.trans (if_neg (Nat.not_lt.2 h))

theorem bit_of_low (h : s < w) :
    BitVec.getLsbD (HAppend.hAppend (γ := no_index (BitVec (v + w))) x y) s = y.getLsbD s :=
  BitVec.getLsbD_append.trans (if_pos h)

end

theorem bit1_bit (b : Bool) : (bit1 b).getLsbD 0 = b := by simp [bit1]

section
variable (c : BitVec 8) (b : BitVec 56)

theorem opWord_opcode : (opWord c b).extractLsb' 56 8 = c := (field_of_high c b (by decide)).trans BitVec.extractLsb'_eq_self

/-- A field below the opcode is a field of the body (R167). -/
theorem opWord_field {i n : Nat} (h : i + n ≤ 56) : (opWord c b).extractLsb' i n = b.extractLsb' i n := field_of_low c b h

theorem opWord_bit {i : Nat} (h : i < 56) : (opWord c b).getLsbD i = b.getLsbD i := bit_of_low c b h

end

/-! ### Groups of fields -/

section
variable (c : BitVec 8)

theorem weirOfWord_opWord (f : WeirFields) : weirOfWord (opWord c (weirBody f)) = f := by
  simp only [weirOfWord, opWord_field, opWord_bit, weirBody, field_of_high, field_of_low, bit_of_high, bit_of_low, bit1_bit,
    BitVec.extractLsb'_eq_self, Nat.reduceLeDiff, Nat.reduceLT, Nat.reduceSub, Nat.reduceAdd, Nat.le_refl]

theorem sendOfWord_opWord (f : SendFields) : sendOfWord (opWord c (sendBody f)) = f := by
  simp only [sendOfWord, opWord_field, opWord_bit, sendBody, field_of_high, field_of_low, bit_of_high, bit_of_low, bit1_bit,
    BitVec.extractLsb'_eq_self, Nat.reduceLeDiff, Nat.reduceLT, Nat.reduceSub, Nat.reduceAdd, Nat.le_refl]

theorem ropOfWord_opWord (r : BitVec 8) (f : RopFields) : ropOfWord (opWord c (ropBody r f)) = f := by
  simp only [ropOfWord, opWord_field, opWord_bit, ropBody, field_of_high, field_of_low, bit_of_high, bit_of_low, bit1_bit,
    BitVec.extractLsb'_eq_self, Nat.reduceLeDiff, Nat.reduceLT, Nat.reduceSub, Nat.reduceAdd, Nat.le_refl]

theorem passOfWord_opWord (f : PassFields) : passOfWord (opWord c (passBody f)) = f := by
  simp only [passOfWord, opWord_field, opWord_bit, passBody, field_of_high, field_of_low, bit_of_high, bit_of_low, bit1_bit,
    BitVec.extractLsb'_eq_self, Nat.reduceLeDiff, Nat.reduceLT, Nat.reduceSub, Nat.reduceAdd, Nat.le_refl]

theorem scfgOfWord_opWord (f : ScfgFields) : scfgOfWord (opWord c (scfgBody f)) = f := by
  simp only [scfgOfWord, opWord_field, opWord_bit, scfgBody, field_of_high, field_of_low, bit_of_high, bit_of_low, bit1_bit,
    BitVec.extractLsb'_eq_self, Nat.reduceLeDiff, Nat.reduceLT, Nat.reduceSub, Nat.reduceAdd, Nat.le_refl]

end

/-- ROPC stands in [37:30] (R191, R194). -/
theorem ropBody_ropc (r : BitVec 8) (f : RopFields) : (ropBody r f).extractLsb' 30 8 = r := by
  simp only [ropBody, field_of_high, field_of_low, BitVec.extractLsb'_eq_self, Nat.reduceLeDiff, Nat.reduceSub, Nat.reduceAdd,
    Nat.le_refl]

/-- Settles O2. Every command that has a word is a row of the encoding tables; its opcode selects the row of the decoder
(`opWord_opcode`), and each field is read where the encoder has put it. -/
theorem sequencerWordRoundTrip : Obligations.SequencerWordRoundTrip := by
  unfold Obligations.SequencerWordRoundTrip
  intro i g w hw hg
  unfold encodeSeqWord at hw
  split at hw
  all_goals cases hw
  all_goals cases hg
  all_goals
    simp only [decodeSeqWord, opWord_opcode, weirOfWord_opWord, sendOfWord_opWord, ropOfWord_opWord, ropBody_ropc, passOfWord_opWord,
      scfgOfWord_opWord, opWord_field, opWord_bit, scalarBody, field_of_high, field_of_low, bit_of_high, bit_of_low, bit1_bit,
      BitVec.extractLsb'_eq_self, Nat.reduceLeDiff, Nat.reduceLT, Nat.reduceSub, Nat.reduceAdd, Nat.le_refl]
    rfl

end Sys2Proof
end

section
/-!
PROOFS. Station instructions that wait in their queues (07 R162, R164, R166; 03 R75, R82): what letting a hummock go on does where nothing
starts, how a station instruction enters its queue or stalls, and how one retires. Settles O10, O18 and O57.
-/

namespace Sys2Proof.Machine

/-! ### Where nothing starts -/

section
variable {s : State} {g : Fin 96}

/-- An instruction that its station has begun does not start again. -/
theorem State.mayStart_begun {j : Issued} (h : j.phase ≠ .queued) : s.mayStart g j = false := by simp [State.mayStart, h]

/-- Loads and passes do not start with the others: the Lattices start them (03 R69, R72). -/
theorem State.mayStart_lattice {j : Issued} (h : isLattice j.op = true) : s.mayStart g j = false := by simp [State.mayStart, h]

/-- Nothing of the queues starts where no instruction in them may. -/
theorem State.pump_of_waiting (h : ∀ j ∈ (s.hum g).unret, s.mayStart g j = false) : s.pump g = s := by
  unfold State.pump
  refine foldl_keeps (· = s) _ (fun t x ht => ?_) _ _ rfl
  subst ht
  split
  · rfl
  · rw [if_neg (by simp [h _ (List.mem_of_find?_eq_some ‹_›)])]

theorem State.pump_of_begun (h : ∀ j ∈ (s.hum g).unret, j.phase ≠ .queued) : s.pump g = s :=
  State.pump_of_waiting fun j hj => State.mayStart_begun (h j hj)

/-- With nothing to start and no signal to send, what is left is the stall in which the sequencer stands. -/
theorem State.advance_eq_recheck (hp : s.pump g = s) (hs : (s.hum g).seq.sigs = []) : s.advance g = s.recheck g := by
  simp [State.advance, hp, hs, State.flushSigs]

theorem State.recheck_of_no_stall (h : (s.hum g).seq.stall = none) : s.recheck g = s := by simp [State.recheck, h]

theorem State.advance_of_waiting (h : ∀ j ∈ (s.hum g).unret, s.mayStart g j = false) (hs : (s.hum g).seq.sigs = [])
    (hst : (s.hum g).seq.stall = none) : s.advance g = s := by
  rw [State.advance_eq_recheck (State.pump_of_waiting h) hs, State.recheck_of_no_stall hst]

theorem State.advance_of_begun (h : ∀ j ∈ (s.hum g).unret, j.phase ≠ .queued) (hs : (s.hum g).seq.sigs = [])
    (hst : (s.hum g).seq.stall = none) : s.advance g = s :=
  State.advance_of_waiting (fun j hj => State.mayStart_begun (h j hj)) hs hst

end

/-! ### Issue into a queue -/

section
variable {s : State} {g : Fin 96} {op : StOp} {cap : Sequencer → Captures} {e : Issued}

/-- A station instruction whose queue has room enters it, where that lets nothing start. -/
theorem State.issueOp_enters (hi : s.issues g) (hpc : s.inCode g ((s.hum g).seq.pc + 1)) (hp : s.pump g = s)
    (hroom : (s.hum g).hasRoom op = true) (he : e = (s.hum g).newIssued op (cap (s.hum g).seq))
    (ha : (s.entered g e).advance g = s.entered g e) : s.issueOp g op cap = s.entered g e := by
  obtain ⟨-, hst, -, -⟩ := id hi
  have hq : s.enqueueOp g op (cap (s.hum g).seq) = s.entered g e := by
    rw [← ha, State.enqueueOp, if_pos hroom, he]
    rfl
  have hcode : (s.entered g e).codeFault g = s.entered g e := by
    obtain ⟨x, hx, hlt⟩ := hpc
    exact State.codeFault_of_inCode ⟨x, by simpa using hx, by simpa using hlt⟩
  rw [State.issueOp, State.issue_of_issues hi]
  simp only [hp, hst, beq_self_eq_true, if_true, hq, hcode, ite_self]

/-- One whose queue is full stalls the sequencer, which is to try it again (R82, R166). -/
theorem State.issueOp_stalls (hi : s.issues g) (hp : s.pump g = s) (hroom : (s.hum g).hasRoom op = false) :
    s.seqBecomes (s.issueOp g op cap) g { (s.hum g).seq with st := .waitQueue, stall := some .queue } := by
  obtain ⟨-, hst, -, -⟩ := id hi
  have hq : s.issueOp g op cap = s.modHum g fun h => h.modSeq fun q => { q with st := .waitQueue, stall := some .queue } := by
    rw [State.issueOp, State.issue_of_issues hi]
    simp [hp, hst, State.enqueueOp, hroom, Hummock.modSeq]
  rw [hq]
  exact ⟨s.onlyHum_setHum g _, by rw [State.hum_modHum_same]; rfl, by rw [State.hum_modHum_same]; rfl⟩

/-- Every station instruction issues with the captures of its operands (R75, R166). -/
theorem exec_station {i : Instr} (h : stationOp i = some (g, op)) (s : State) :
    ∃ cap : Sequencer → Captures, cap (s.hum g).seq = captures (s.hum g).seq i ∧ exec i s = .next (s.issueOp g op cap) := by
  unfold stationOp at h
  split at h <;> cases h <;> exact ⟨_, rfl, rfl⟩

/-- The entered instruction waits with those before it: nothing goes on. -/
theorem State.advance_entered (h : ∀ j ∈ (s.hum g).unret, (s.entered g e).mayStart g j = false)
    (he : (s.entered g e).mayStart g e = false) (hs : (s.hum g).seq.sigs = []) (hst : (s.hum g).seq.stall = none) :
    (s.entered g e).advance g = s.entered g e := by
  refine State.advance_of_waiting (fun j hj => ?_) (by simpa using hs) (by simpa using hst)
  rw [State.entered_hum_same] at hj
  rcases List.mem_append.1 hj with hj | hj
  · exact h j hj
  · rwa [List.mem_singleton.1 hj]

theorem exec_station_enters {i : Instr} (h : stationOp i = some (g, op)) (hi : s.issues g) (hpc : s.inCode g ((s.hum g).seq.pc + 1))
    (hp : s.pump g = s) (hroom : (s.hum g).hasRoom op = true)
    (ha : (s.entered g (s.entry g i op)).advance g = s.entered g (s.entry g i op)) :
    exec i s = .next (s.entered g (s.entry g i op)) := by
  obtain ⟨cap, hcap, hexec⟩ := exec_station h s
  rw [hexec, State.issueOp_enters hi hpc hp hroom (by rw [hcap]; rfl) ha]

theorem exec_station_stalls {i : Instr} (h : stationOp i = some (g, op)) (hi : s.issues g) (hp : s.pump g = s)
    (hroom : (s.hum g).hasRoom op = false) :
    ∃ t, exec i s = .next t ∧ s.seqBecomes t g { (s.hum g).seq with st := .waitQueue, stall := some .queue } := by
  obtain ⟨cap, -, hexec⟩ := exec_station h s
  exact ⟨_, hexec, State.issueOp_stalls hi hp hroom⟩

end

/-- Settles O10. Where nothing of the queues may start, the instruction enters its queue and nothing else goes on
(`State.issueOp_enters`); where its queue is full, the sequencer stalls (`State.issueOp_stalls`). -/
theorem stationIssueResult : Obligations.StationIssueResult := by
  unfold Obligations.StationIssueResult
  refine ⟨fun i s g op h hi hpc hsigs hq hroom hm => ?_, fun i s g op h hi hq hroom => ?_⟩
  · refine exec_station_enters h hi hpc (State.pump_of_begun hq) hroom ?_
    exact State.advance_entered (fun j hj => State.mayStart_begun (hq j hj)) hm hsigs hi.2.2.1
  · exact exec_station_stalls h hi (State.pump_of_begun hq) hroom

/-! ### The queues of the Lattices (03 R82) -/

theorem opClass_lattice : ∀ {op : StOp}, isLattice op = true → opClass op = 0x03
  | .lload .., _ | .lpass _, _ => rfl

/-- A Lattice instruction has room where each Lattice that it names queues fewer than four. -/
theorem Hummock.hasRoom_lattice {h : Hummock} {op : StOp} (hop : isLattice op = true) (hn : h.unret.length < 32) :
    h.hasRoom op = true ↔ ∀ l, l < 4 → (latMask op).getLsbD l = true → h.latOccupancy l < 4 := by
  have h4 (p : Nat → Prop) : (∀ l ∈ [0, 1, 2, 3], p l) ↔ ∀ l, l < 4 → p l := by
    constructor
    · intro a l hl
      exact a l (by simp; omega)
    · intro a l hl
      exact a l (by simp at hl; omega)
  simp only [Hummock.hasRoom, hn, decide_true, Bool.true_and, opClass_lattice hop, List.all_eq_true, h4, Bool.or_eq_true,
    Bool.not_eq_true', decide_eq_true_eq]
  grind

/-- Loads and passes that are queued leave everything else of the hummock where it is. -/
theorem State.onlyLatticeQueued.waits {s t : State} {g : Fin 96} (h : s.onlyLatticeQueued g) :
    ∀ j ∈ (s.hum g).unret, t.mayStart g j = false := by
  intro j hj
  rcases h.2 j hj with hl | hq
  · exact State.mayStart_lattice hl
  · exact State.mayStart_begun hq

/-- Settles O57: the queue has room exactly where each Lattice named queues fewer than four (`Hummock.hasRoom_lattice`). -/
theorem latticeQueueHoldsFour : Obligations.LatticeQueueHoldsFour := by
  unfold Obligations.LatticeQueueHoldsFour
  intro i s g op h hop hi hpc hq hn
  have hroom := Hummock.hasRoom_lattice hop hn
  have hp : s.pump g = s := State.pump_of_waiting hq.waits
  constructor
  · rintro ⟨l, hl, hm, hfull⟩
    refine exec_station_stalls h hi hp (Bool.eq_false_iff.2 fun hr => ?_)
    exact absurd (hroom.1 hr l hl hm) (Nat.not_lt.2 hfull)
  · intro hfree
    refine exec_station_enters h hi hpc hp (hroom.2 hfree) ?_
    exact State.advance_entered hq.waits (State.mayStart_lattice hop) hq.1 hi.2.2.1

/-! ### Retirement (07 R164) -/

section
variable {s : State} {g : Fin 96} {pos : Fin 32} {i : Issued}

/-- Releasing weight tiles changes Lattices alone. -/
theorem Hummock.dropHolds_rest (h : Hummock) (i : Issued) : { h.dropHolds i with lats := h.lats } = h := by
  unfold Hummock.dropHolds
  split
  · refine foldl_keeps (fun k : Hummock => { k with lats := h.lats } = h) _ (fun k l hk => ?_) _ _ rfl
    split
    · exact hk
    · exact hk
  · rfl

theorem Hummock.dropHolds_seq (h : Hummock) (i : Issued) : (h.dropHolds i).seq = h.seq := by
  simpa using congrArg Hummock.seq (h.dropHolds_rest i)

theorem Hummock.dropHolds_holder (h : Hummock) (i : Issued) : (h.dropHolds i).holder = h.holder := by
  simpa using congrArg Hummock.holder (h.dropHolds_rest i)

/-- The finished instruction has left the unretired ones, and the weight tiles that it held open are released. -/
def State.retired (s : State) (g : Fin 96) (pos : Fin 32) (i : Issued) : State :=
  s.modHum g fun h => { h.dropHolds i with unret := h.unret.eraseIdx pos.val }

theorem State.retired_hum_same : (s.retired g pos i).hum g =
    { (s.hum g).dropHolds i with unret := (s.hum g).unret.eraseIdx pos.val } := State.hum_modHum_same _ _ _

theorem State.retired_hum_ne {k : Nat} (h : k ≠ g.val) : (s.retired g pos i).hum k = s.hum k := State.hum_modHum_ne _ _ h

theorem State.onlyHum.modHum {t : State} (h : s.onlyHum t g) (f : Hummock → Hummock) : s.onlyHum (t.modHum g f) g :=
  ⟨h.1, fun k hk => (State.hum_modHum_ne _ _ hk).trans (h.2 k hk)⟩

theorem State.retired_onlyHum : s.onlyHum (s.retired g pos i) g := s.onlyHum_setHum g _

/-- The end of a program changes its sequencer, and what its launch counts (R172). -/
theorem State.endNow_spec (s : State) (g : Fin 96) :
    (s.endNow g).hum g = { s.hum g with seq := { (s.hum g).seq with st := .ended, wake := false, stall := none } } ∧
      (s.endNow g).mem = s.mem ∧ ∀ k, k ≠ g.val → (s.endNow g).hum k = s.hum k := by
  have hum (t : State) (id : Nat) (f : Launch → Launch) (k : Nat) : (t.modLaunch id f).hum k = t.hum k := rfl
  unfold State.endNow
  dsimp only
  split
  · exact ⟨by rw [hum, State.hum_setHum_same], rfl, fun k hk => by rw [hum, State.hum_setHum_ne _ _ hk]⟩
  · exact ⟨State.hum_setHum_same _ _ _, rfl, fun k hk => State.hum_setHum_ne _ _ hk⟩

/-- It retires, and what is left to do is what the sequencer waits for. -/
theorem exec_instructionRetire (hi : (s.hum g).unret[pos.val]? = some i) (hd : i.phase = .done) (hs : s.stepped g i 1 = true)
    (hq : ∀ j ∈ (s.hum g).unret, j.phase ≠ .queued) (hsigs : (s.hum g).seq.sigs = []) :
    exec (.instructionRetire g pos) s = .next ((s.retired g pos i).recheck g) := by
  have hadv : (s.retired g pos i).advance g = (s.retired g pos i).recheck g := by
    refine State.advance_eq_recheck (State.pump_of_begun fun j hj => ?_) ?_ <;> rw [State.retired_hum_same] at *
    · exact hq j (List.mem_of_mem_eraseIdx hj)
    · simpa [Hummock.dropHolds_seq] using hsigs
  show Host.Outcome.next (s.retire g pos) = _
  rw [← hadv]
  simp only [State.retire, State.pump_of_begun hq, hi, hd, hs, beq_self_eq_true, Bool.and_self, if_true]
  rfl

end

/-- Settles O18. After the retirement (`exec_instructionRetire`) nothing starts, and each clause is one stall in which the sequencer may
stand. -/
theorem retireResult : Obligations.RetireResult := by
  unfold Obligations.RetireResult
  intro s g pos i hi hd hs hq hsigs
  have hexec := exec_instructionRetire hi hd hs hq hsigs
  have hg := s.retired_hum_same (g := g) (pos := pos) (i := i)
  have hseq : ((s.retired g pos i).hum g).seq = (s.hum g).seq := by rw [hg]; exact Hummock.dropHolds_seq _ _
  refine ⟨fun hst => ?issuing, fun mask hst hrest hpc => ?fence, fun hst hrest => ?ended⟩
  case issuing =>
    rw [State.recheck_of_no_stall (by rw [hseq, hst])] at hexec
    exact ⟨_, hexec, State.retired_onlyHum, hg⟩
  case fence =>
    have hany : (((s.retired g pos i).hum g).unret.any fun j => inMask mask j.op) = false := by
      rw [hg]; simpa using hrest
    have hcode : ((s.retired g pos i).modHum g Hummock.resume).codeFault g = (s.retired g pos i).modHum g Hummock.resume := by
      obtain ⟨x, hx, hlt⟩ := hpc
      refine State.codeFault_of_inCode ⟨x, ?_, ?_⟩ <;> rw [State.hum_modHum_same, hg]
      · exact (Hummock.dropHolds_holder _ _).trans hx
      · simpa [Hummock.resume, Hummock.dropHolds_seq] using hlt
    have hre : (s.retired g pos i).recheck g = (s.retired g pos i).modHum g Hummock.resume := by
      simp [State.recheck, hseq, hst, hany, hcode]
    rw [hre] at hexec
    refine ⟨_, hexec, State.retired_onlyHum.modHum _, ?_⟩
    rw [State.hum_modHum_same, hg, Hummock.resume, Hummock.dropHolds_seq]
  case ended =>
    have hre : (s.retired g pos i).recheck g = (s.retired g pos i).endNow g := by
      simp [State.recheck, hseq, hst, hsigs, show ((s.retired g pos i).hum g).unret = [] by rw [hg]; exact hrest]
    obtain ⟨hend, hmem, hother⟩ := (s.retired g pos i).endNow_spec g
    rw [hre] at hexec
    refine ⟨_, hexec, ?_, ?_, ?_, hmem, fun k hk => (hother k hk).trans (State.retired_hum_ne hk)⟩ <;> rw [hend]
    · rw [hg]; exact hrest
    · simpa using congrArg Sequencer.x hseq

end Sys2Proof.Machine
end

section
/-!
PROOFS. The commit of a RESIDENT pass (03 R71, R76; 04 R97): a replay rebuilds the working bank in every row, which refutes O21.
-/

namespace Sys2Proof.Machine

/-- An LPASS on Lattice 0 of one INT8 row into tile 0, not from +0. -/
def replayedFields : PassFields := ⟨1, 0, 9, 0, 0, false, 0, false, false, false⟩

/-- That pass at work, with the weight 1 at K = N = 1. -/
def replayedPass : Issued :=
  { id := 0, op := .lpass replayedFields, pc := 0, da := ⟨0, 0⟩, db := ⟨0, 0⟩, dc := ⟨0, 0⟩, dd := ⟨0, 0⟩, va := 0, vb := 0, vc := 0
    phase := .running, tries := 0, mask := 1, groups := 0, held := tileBit 0
    wts := [(0, { Lattice.reset with km1 := 0, nm1 := 0, w := [(0, 1)] })], outstanding := 0, since := 0 }

/-- Hummock 0 runs it on the activation 127. Tile 0 stands at OFF = 127, where 127 x 2^127 overflows and the offset can be lowered. Its
row 1 is committed in bank 1, and bank 0 keeps an old working value of element (1, 0), at key 256. -/
def replaying : State :=
  { State.reset with
    hums := [(0, { Hummock.reset with
      unret := [replayedPass], mere := [(0, 127)], sump := [(0, { SumpTile.reset with off := 127, sel := 2, bank0 := [(256, 1)] })] })] }

/-- What the pass computes with: INT8 in Fast mode. -/
def replayedRun : PassRun := ⟨⟨0, 0, 0⟩, .int8, 9, 0x3F800000⟩

/-- The working bank with the row of the pass, before the decision of R97. -/
def replayedTile : SumpTile :=
  (addRows replayedRun (replayedPass.weights 0) 0 0 (((replaying.hum 0).tile 0).begin false false)
    (replaying.readActs 0 replayedPass replayedFields 256 0 1).2.1).1

theorem replaying_runs : runningPass (replaying.hum 0) = some (replayedPass, replayedFields) ∧
    replaying.passRun 0 replayedPass replayedFields = some replayedRun ∧ replaying.hasTiles 0 replayedPass 1 = true ∧
    ((replaying.hum 0).tile 0).spilling = false := by decide +kernel

theorem replayedTile_canLower : replayedTile.canLower = true := by decide +kernel

/-- The replay begins: nothing has committed, and the old working value at key 256 is gone. -/
theorem replaying_commit : (let x := ((((replaying.passCommit 0).advance 0).hum 0).tile 0)
    x.sel = 2 ∧ x.cnt = 0 ∧ x.com 0 256 = 0) ∧ ((replaying.hum 0).tile 0).com 0 256 = 1 := by decide +kernel

/-- Refutes O21: its clause about a pass that runs again says that the committed bank reads as before at every row r and every column
c, with no bound on c. `SumpTile.com r c` reads key 256 r + c of the bank that row r selects, and from c = 256 on that is an element of
another row, whose committed bank may be the other one: where row 0 is committed in bank 0 and row 1 in bank 1 (`replaying`), "column
256 of row 0" is the working value of element (1, 0), which the rebuild of the working bank replaces. -/
theorem not_lpassCommitResult : ¬ Obligations.LpassCommitResult := by
  unfold Obligations.LpassCommitResult
  intro h
  obtain ⟨hrun, hpass, htiles, hspill⟩ := replaying_runs
  obtain ⟨hclauses, -⟩ := h replaying 0 replayedPass replayedFields replayedRun hrun rfl hpass rfl rfl (by decide) htiles rfl rfl rfl
    (fun l hl => by
      obtain rfl : l = 0 := List.mem_singleton.1 hl
      exact hspill)
  obtain ⟨-, hreplay, -⟩ := hclauses rfl rfl
  obtain ⟨t, -, ht, -, -, -, -, -, -, -, hcom, -⟩ := hreplay 0 rfl replayedTile_canLower
  obtain ⟨⟨-, -, hafter⟩, hbefore⟩ := replaying_commit
  obtain rfl : (replaying.passCommit 0).advance 0 = t := Host.Outcome.next.inj ht
  have hsame := hcom 0 256
  exact absurd (hafter.symm.trans (hsame.trans hbefore)) (by decide)

end Sys2Proof.Machine
end

section
/-!
PROOFS. What the Lattices read (03 R68, R75; 07 R507) where no memory error stands: nothing changes, nothing stops the station, and a load
stages the elements of its tile.
-/

namespace Sys2Proof.Machine

section
variable {s : State} {g : Nat}

/-! ### Reads without a translation -/

/-- A page that no leaf covers reads zero, and nothing is accessed (09 R222). -/
theorem State.vaRead_uncovered (s : State) (c a n : Nat) : (s.vaRead [] c a n).s = s ∧ (s.vaRead [] c a n).trouble = .none := by
  unfold State.vaRead
  apply foldl_keeps fun x : Access => x.s = s ∧ x.trouble = .none
  · exact fun x p h => h
  · exact ⟨rfl, rfl⟩

/-- The bytes that a Lattice receives from address a of a descriptor's space. -/
def State.latBytes (s : State) (g : Nat) (d : DescCap) (a n : Nat) : List Byte := (s.readAt g [] d a n).2.1

theorem State.readAt_clean (h : s.mem.err = []) (d : DescCap) (a n : Nat) :
    s.readAt g [] d a n = (s, s.latBytes g d a n, none) := by
  obtain ⟨hs, ht⟩ := s.vaRead_uncovered (s.ctxOf g) (a % 2 ^ 52) n
  by_cases hd : d.space = 1
  · simp only [State.latBytes, State.readAt, if_pos hd, hs, ht]
  · simp [State.latBytes, State.readAt, if_neg hd, State.eccSram_of_clean h]

/-- In the hummock's own Mere they are the bytes that stand there. -/
theorem State.latBytes_mere (h : s.mem.err = []) {d : DescCap} (hd : d.space = 0) (a n : Nat) :
    s.latBytes g d a n = bread (s.hum g).mere a n := by
  simp [State.latBytes, State.readAt, State.mereOf, hd, State.eccSram_of_clean h]

theorem State.readRows_clean (h : s.mem.err = []) (d : DescCap) (base stride n rows : Nat) :
    s.readRows g [] d base stride n rows = (s, (List.range rows).map fun r => s.latBytes g d (base + r * stride) n, none) := by
  induction rows with
  | zero => rfl
  | succ k ih =>
    simp only [State.readRows] at ih ⊢
    rw [List.range_succ, List.foldl_append, ih]
    simp [State.readAt_clean h]

/-- The planes of a weight tile. -/
theorem State.readPlanes_clean (h : s.mem.err = []) (o : Opnd) (rows k : Nat) :
    ∃ ss, s.readPlanes g [] o rows k = (s, (List.range rows).map fun r =>
      s.latBytes g o.1 (o.1.ebase + r * o.1.stride) (rowBytes (fCode o.2) (Nat.min k o.1.len)), ss, none) := by
  by_cases hn : scaleBytes o.2 o.1.len = 0
  · exact ⟨_, by simp only [State.readPlanes, State.readRows_clean h, hn, if_true]; rfl⟩
  · exact ⟨_, by simp only [State.readPlanes, State.readRows_clean h, hn, if_false]; rfl⟩

/-- The activation rows of a pass. -/
theorem State.readActs_clean (h : s.mem.err = []) (i : Issued) (f : PassFields) (k a n : Nat) :
    ∃ rows, s.readActs g i f k a n = (s, rows, none) ∧ rows.length = n := by
  by_cases hz : scaleBytes f.afmt i.da.len = 0
  · exact ⟨_, by simp only [State.readActs, State.readRows_clean h, hz, if_true]; rfl, by simp⟩
  · exact ⟨_, by simp only [State.readActs, State.readRows_clean h, hz, if_false]; rfl, by simp⟩

end

/-! ### The weights of a load (R68) -/

/-- One column's elements put in, from row 0 down. -/
theorem sget_column {v : Nat → BitVec 16} {m : Store (BitVec 16)} {c c' : Nat} (hc : c < 256) (hc' : c' < 256) (n k : Nat) :
    sget 0 ((List.range n).foldl (fun m i => sset 0 m (256 * i + c) (v i)) m) (256 * k + c') =
      if c' = c ∧ k < n then v k else sget 0 m (256 * k + c') := by
  induction n with
  | zero => simp
  | succ n ih =>
    rw [List.range_succ, List.foldl_append, List.foldl_cons, List.foldl_nil, sget_sset, ih]
    by_cases h : 256 * k + c' = 256 * n + c
    · obtain ⟨rfl, rfl⟩ : c' = c ∧ k = n := by omega
      simp
    · have : (c' = c ∧ k < n + 1) ↔ (c' = c ∧ k < n) := by omega
      simp only [if_neg h, this]

/-- All columns. -/
theorem sget_columns {v : Nat → Nat → BitVec 16} {cols : Nat} (hcols : cols ≤ 256) {c' : Nat} (hc' : c' < 256) (n k : Nat) :
    sget 0 ((List.range cols).foldl (fun m c => (List.range n).foldl (fun m i => sset 0 m (256 * i + c) (v c i)) m) [])
      (256 * k + c') = if c' < cols ∧ k < n then v c' k else 0 := by
  induction cols with
  | zero => simp
  | succ c ih =>
    rw [List.range_succ, List.foldl_append, List.foldl_cons, List.foldl_nil, sget_column (by omega) hc', ih (by omega)]
    grind

theorem loadWeights_elem (d : DescCap) (f : BitVec 12) {k n : Nat} (hn : n ≤ 256) (es ss : List (List Byte)) {c : Nat} (hc : c < 256)
    (i : Nat) :
    sget 0 (loadWeights d f k n es ss).1 (256 * i + c) =
      if c < n ∧ i < Nat.min k d.len then BitVec.ofNat 16 (elemBits (fCode f) ((es[c]?).getD []) i) else 0 :=
  sget_columns hn hc _ _

end Sys2Proof.Machine
end

section
/-!
PROOFS. The start of a load and its completion, and the start of a pass (03 R58, R62, R68, R69, R72, R74), which settles O20.
-/

namespace Sys2Proof.Machine

section
variable {s : State} {g : Fin 96} {lat : BitVec 2} {i : Issued} {f : BitVec 12} {km1 : BitVec 9} {nm1 : BitVec 8}

/-! ### A load stages its tile -/

theorem State.lloadOk_space {d : DescCap} {k n : Nat} (h : s.lloadOk g d f k n = true) : d.space = 0 := by
  simp only [State.lloadOk, latDescOk, Bool.and_eq_true, beq_iff_eq] at h
  obtain ⟨⟨⟨-, ⟨hspace, -⟩, -⟩, -⟩, -⟩ := h
  exact hspace

/-- The Lattice with a load's weights staged and its operands set; the cells keep their weights (R58, log 104). -/
def Lattice.stagedBy (l : Lattice) (i : Issued) (f : BitVec 12) (km1 : BitVec 9) (nm1 : BitVec 8)
    (w : Store (BitVec 16) × Store (BitVec 8)) : Lattice :=
  { l with
    stage := w.1, stageSc := w.2, fmt := f, km1 := km1, nm1 := nm1, sw := v40So i.da.raw f, loaded := false
    loading := some i.id, src := some (i.da, f), hold := some i.id }

/-- The rows of a load's tile as they stand in the Mere, as far as the loaded K and the row's length go. -/
def loadRows (m : List Host.Cell) (d : DescCap) (f : BitVec 12) (k n : Nat) : List (List Byte) :=
  (List.range n).map fun r => bread m (d.ebase + r * d.stride) (rowBytes (fCode f) (Nat.min k d.len))

/-- A legal load whose tile lies in the Mere stages it, and runs. -/
theorem State.startLoad_clean (hok : s.lloadOk g i.da f (km1.toNat + 1) (nm1.toNat + 1) = true) (hm : mereOk (i.da, f) = true)
    (hs : s.mem.err = []) (l : Nat) :
    ∃ ss, s.startLoad g i l f km1 nm1 =
      (s.modHum g fun h => h.setLat l ((h.lat l).stagedBy i f km1 nm1
        (loadWeights i.da f (km1.toNat + 1) (nm1.toNat + 1)
          (loadRows (s.hum g).mere i.da f (km1.toNat + 1) (nm1.toNat + 1)) ss))).modOp g i.id
        fun j => { j with phase := .running, since := (s.hum g).steps } := by
  obtain ⟨ss, hr⟩ := State.readPlanes_clean (g := g) hs (i.da, f) (nm1.toNat + 1) (km1.toNat + 1)
  simp only [State.latBytes_mere hs (State.lloadOk_space hok)] at hr
  refine ⟨ss, ?_⟩
  simp only [State.startLoad, hok, hm, hr]
  rfl

theorem exec_lloadStart (hq : queuedLoad (s.hum g) lat.toNat = some i) (hop : i.op = .lload lat f km1 nm1)
    (hm : loadMayStart (s.hum g) lat.toNat i = true) :
    exec (.lloadStart g lat) s = .next (s.startLoad g i lat.toNat f km1 nm1) := by
  show Host.Outcome.next (s.loadStart g lat.toNat) = _
  simp only [State.loadStart, hq, hop, hm, if_true]

/-- Element (k, n) of what a load has staged (R68): that of the tile within the loaded K and N and the row's length, +0 elsewhere. -/
theorem loadWeights_loadRows (m : List Host.Cell) (d : DescCap) (ss : List (List Byte)) {k n : Nat} (hn : n < 256) :
    sget 0 (loadWeights d f (km1.toNat + 1) (nm1.toNat + 1) (loadRows m d f (km1.toNat + 1) (nm1.toNat + 1)) ss).1 (256 * k + n) =
      if k ≤ km1.toNat ∧ k < d.len ∧ n ≤ nm1.toNat then
        BitVec.ofNat 16 (elemBits (fCode f) (bread m (d.ebase + n * d.stride)
          (rowBytes (fCode f) (Nat.min (km1.toNat + 1) d.len))) k)
      else 0 := by
  have hcols : nm1.toNat + 1 ≤ 256 := nm1.isLt
  rw [loadWeights_elem d f hcols _ ss hn k]
  have hiff : (n < nm1.toNat + 1 ∧ k < Nat.min (km1.toNat + 1) d.len) ↔ k ≤ km1.toNat ∧ k < d.len ∧ n ≤ nm1.toNat := by
    rw [show Nat.min (km1.toNat + 1) d.len = min (km1.toNat + 1) d.len from rfl, lt_min_iff]
    omega
  by_cases h : k ≤ km1.toNat ∧ k < d.len ∧ n ≤ nm1.toNat
  · rw [if_pos h, if_pos (hiff.2 h)]
    have hr : (loadRows m d f (km1.toNat + 1) (nm1.toNat + 1))[n]? =
        some (bread m (d.ebase + n * d.stride) (rowBytes (fCode f) (Nat.min (km1.toNat + 1) d.len))) := by
      simp [loadRows, Nat.lt_succ_of_le h.2.2]
    rw [hr, Option.getD_some]
  · rw [if_neg h, if_neg (hiff.not.2 h)]

/-! ### A load completes -/

theorem State.onlyHum.modOp {t : State} (h : s.onlyHum t g) (id : Nat) (f : Issued → Issued) : s.onlyHum (t.modOp g id f) g :=
  h.modHum _

/-- Finishing an instruction queues none. -/
theorem State.finish_begun {t : State} (h : ∀ j ∈ (t.hum g).unret, j.phase ≠ .queued) (id : Nat) :
    ∀ j ∈ ((t.finish g id).hum g).unret, j.phase ≠ .queued := by
  rw [State.finish_hum_same]
  intro j hj
  obtain ⟨k, hk, rfl⟩ := List.mem_map.1 hj
  split
  · simp
  · exact h k hk

/-- A load that has run its steps latches what it has staged, and has finished (R58, R69). -/
theorem exec_lloadComplete
    (hf : ((s.hum g).unret.find? fun j => isLoadOf lat.toNat j && j.phase == .running && s.stepped g j 256) = some i)
    (hl : ((s.hum g).lat lat.toNat).loading = some i.id) (hq : ∀ j ∈ (s.hum g).unret, j.phase ≠ .queued)
    (hsigs : (s.hum g).seq.sigs = []) (hst : (s.hum g).seq.stall = none) :
    exec (.lloadComplete g lat) s =
      .next ((s.modHum g fun h => h.setLat lat.toNat (h.lat lat.toNat).latched).finish g i.id) := by
  have hdone : s.loadDone g lat.toNat = (s.modHum g fun h => h.setLat lat.toNat (h.lat lat.toNat).latched).finish g i.id := by
    simp only [State.loadDone, hf]
    simp only [State.modHum, hl, beq_self_eq_true, if_true]
  show Host.Outcome.next ((s.loadDone g lat.toNat).advance g) = _
  rw [hdone, State.advance_of_begun]
  · exact State.finish_begun (by rw [State.hum_modHum_same]; exact hq) _
  · rw [State.finish_hum_same, State.hum_modHum_same]; exact hsigs
  · rw [State.finish_hum_same, State.hum_modHum_same]; exact hst

/-! ### A pass takes the Chord -/

theorem mem_passLats {f : PassFields} {l : Nat} : l ∈ passLats f ↔ l < 4 ∧ f.mask.getLsbD l = true := by
  have h4 : l ∈ [0, 1, 2, 3] ↔ l < 4 := by simp; omega
  rw [passLats, List.mem_filter, h4]

/-- The weights that a pass takes with it: those met on each Lattice of a list. -/
theorem sget_foldl_sins {α : Type} (d : α) (w : Nat → α) (ls : List Nat) (m : Store α) (l : Nat) :
    sget d (ls.foldl (fun m l => sins m l (w l)) m) l = if l ∈ ls then w l else sget d m l := by
  induction ls generalizing m with
  | nil => simp
  | cons k ls ih =>
    rw [List.foldl_cons, ih]
    by_cases hk : l = k
    · subst hk; simp [sget_sins_same]
    · simp [hk, sget_sins_ne d m _ hk]

variable {p : PassFields}

/-- Pass i with the Chord, on the weights of the hummock's Lattices (R62, R75). -/
def Issued.started (i : Issued) (h : Hummock) (p : PassFields) : Issued :=
  { i with
    phase := .running, wts := (passLats p).foldl (fun m l => sins m l (h.lat l)) [], mask := p.mask, tries := 0, groups := 0
    since := h.steps }

theorem Issued.started_weights (i : Issued) (h : Hummock) {l : Nat} (hl : l < 4) (hm : p.mask.getLsbD l = true) :
    (i.started h p).weights l = h.lat l := by
  rw [Issued.weights, Issued.started, sget_foldl_sins, if_pos (mem_passLats.2 ⟨hl, hm⟩)]

theorem exec_lpassStart {pre post : List Issued} (hu : (s.hum g).unret = pre ++ i :: post) (hop : i.op = .lpass p)
    (hq : i.phase = .queued) (hw : i.wts = []) (hpre : ∀ j ∈ pre, ∀ h, j.op = .lpass h → j.phase ≠ .queued)
    (hm : passMayStart (s.hum g) i p = true) (hok : s.lpassOk g i.da p (fun l => (s.hum g).lat l) = true)
    (hmere : mereOk (i.da, p.afmt) = true) :
    exec (.lpassStart g) s = .next (s.modOp g i.id fun j => { j with
      phase := .running, wts := (i.started (s.hum g) p).wts, mask := p.mask, tries := 0, groups := 0, since := (s.hum g).steps }) := by
  have hmet : (fun l => i.metLat (s.hum g) l) = fun l => (s.hum g).lat l := by simp [Issued.metLat, hw]
  have hstart : s.passStart g = s.startPass g i p := by
    unfold State.passStart
    dsimp only
    rw [hu, List.findSome?_append, List.findSome?_eq_none_iff.2]
    · simp [hop, hq, hm]
    · intro j hj
      split
      · exact absurd ‹_› (hpre j hj _ ‹_›)
      · rfl
  show Host.Outcome.next (s.passStart g) = _
  rw [hstart, State.startPass, hmet]
  simp only [hok, hmere]
  simp [Issued.started]

/-- One instruction changed in its place among the unretired ones. -/
theorem map_at_id {pre post : List Issued} (hpre : ∀ j ∈ pre, j.id ≠ i.id) (hpost : ∀ j ∈ post, j.id ≠ i.id) (u : Issued → Issued) :
    ((pre ++ i :: post).map fun j => if j.id == i.id then u j else j) = pre ++ u i :: post := by
  have same (l : List Issued) (h : ∀ j ∈ l, j.id ≠ i.id) : (l.map fun j => if j.id == i.id then u j else j) = l :=
    (List.map_congr_left fun j hj => by simp [h j hj]).trans (List.map_id l)
  rw [List.map_append, List.map_cons, same pre hpre, same post hpost, if_pos (beq_self_eq_true _)]

end

/-- Settles O20: a load stages its tile (`State.startLoad_clean`) and completes (`exec_lloadComplete`), and a pass takes the Chord
(`exec_lpassStart`). -/
theorem engineStartResult : Obligations.EngineStartResult := by
  unfold Obligations.EngineStartResult
  refine ⟨fun s g lat i f km1 nm1 => ⟨fun hq hop hm hok hmere hs => ?loadStarts, fun hf hl hq hsigs hst => ?loadCompletes⟩,
    fun s g pre post i f hu hop hq hw hpre hpost hm hok hmere => ?passStarts⟩
  case loadStarts =>
    obtain ⟨ss, hstart⟩ := State.startLoad_clean hok hmere hs lat.toNat
    refine ⟨_, exec_lloadStart hq hop hm, ?_⟩
    rw [hstart]
    refine ⟨(s.onlyHum_setHum g _).modHum _, ?_⟩
    rw [State.modOp, State.hum_modHum_same, State.hum_modHum_same]
    refine ⟨?_, fun k hk => Hummock.lat_setLat_ne _ _ hk, rfl, rfl, rfl, rfl, rfl⟩
    intro l
    rw [show l = _ from Hummock.lat_setLat_same (s.hum g) _ _]
    exact ⟨rfl, rfl, rfl, rfl, rfl, rfl, rfl, fun k n _ hn => loadWeights_loadRows _ _ ss hn⟩
  case loadCompletes =>
    refine ⟨_, exec_lloadComplete hf hl hq hsigs hst, (s.onlyHum_setHum g _).modHum _, ?_⟩
    rw [State.finish_hum_same, State.hum_modHum_same]
    exact ⟨Hummock.lat_setLat_same _ _ _, fun k hk => Hummock.lat_setLat_ne _ _ hk, rfl, rfl, rfl, rfl, rfl, rfl⟩
  case passStarts =>
    refine ⟨_, i.started (s.hum g) f, exec_lpassStart hu hop hq hw (fun j hj => (hpre j hj).2) hm hok hmere,
      s.onlyHum_setHum g _, ?_⟩
    rw [State.modOp, State.hum_modHum_same]
    exact ⟨(congrArg _ hu).trans (map_at_id (fun j hj => (hpre j hj).1) hpost _), rfl, rfl, rfl, rfl, rfl,
      fun l hl hm => Issued.started_weights i _ hl hm, rfl, rfl, rfl, rfl, rfl, rfl⟩

end Sys2Proof.Machine
end

section
/-!
PROOFS. What a Lattice's operation does to a Sump tile (04 R87 to R99) does not turn on the events that the tile keeps, and leaves its
spill as it is; charging events (06 R146) and committing (04 R88) change that tile at most.
-/

namespace Sys2Proof.Machine

/-! ### Operations on a tile and its kept events -/

namespace SumpTile

variable (t : SumpTile) (p : PassRun) (l : Lattice)

theorem setWork_bare (r c : Nat) (v : BitVec 32) : t.bare.setWork r c v = (t.setWork r c v).bare := by
  rw [setWork, setWork, show t.bare.sel = t.sel from rfl]
  split <;> rfl

theorem finalInf_bare : t.bare.finalInf.1 = t.finalInf.1.bare := by
  have hfold (os : List (Nat × BitVec 2)) (u : SumpTile) :
      os.foldl (fun (a : SumpTile) p => a.setWork (p.1 / 256) (p.1 % 256) (enc32 (.inf (p.2 == 2)))) u.bare =
        (os.foldl (fun (a : SumpTile) p => a.setWork (p.1 / 256) (p.1 % 256) (enc32 (.inf (p.2 == 2)))) u).bare :=
    List.foldl_hom bare fun a p => (a.setWork_bare _ _ _)
  exact congrArg (fun u : SumpTile => { u with ovf := [] }) (hfold (t.ovf.filter fun p => !t.special p.1) t)

theorem commit_bare (n leaves : Nat) : t.bare.commit n leaves = (t.commit n leaves).bare := by
  have hoffs : t.bare.newOffs = t.newOffs := by unfold newOffs; rfl
  have htop : t.bare.topRow = t.topRow := by unfold topRow; rfl
  rw [commit, hoffs, htop]
  simp only [commit, bare]

theorem rebuild_bare (clr : Bool) : (t.bare.rebuild clr).1 = (t.rebuild clr).1.bare := rfl

theorem canLower_bare : t.bare.canLower = t.canLower := rfl

/-! ### Operations on a tile and its spill -/

@[simp] theorem setWork_spilling (r c : Nat) (v : BitVec 32) : (t.setWork r c v).spilling = t.spilling := by
  unfold setWork; split <;> rfl

@[simp] theorem begin_spilling (clr anew : Bool) : (t.begin clr anew).spilling = t.spilling := by
  unfold begin; split <;> rfl

@[simp] theorem putWork_spilling (row : Store (BitVec 32)) (r : Nat) : (t.putWork row r).spilling = t.spilling := by
  unfold putWork; dsimp only; split <;> rfl

@[simp] theorem openRow_spilling (r : Nat) : (t.openRow r).1.spilling = t.spilling := by
  unfold openRow
  dsimp only
  split
  · rfl
  · split <;> simp

@[simp] theorem add_spilling (rm : Rm) (r c : Nat) (x : Leaf) : (t.add rm r c x).1.spilling = t.spilling := by
  unfold add
  dsimp only
  split
  · simp
  · split
    · simp [mark]
    · split <;> simp [mark]

@[simp] theorem addV40_spilling (r c : Nat) (v : Val) (k : Cnt) : (t.addV40 r c v k).1.spilling = t.spilling := by
  simp [addV40]

/-- An accumulation of additions and events that leaves the tile's spill as it is. -/
theorem foldl_spilling {α : Type} (step : SumpTile × Cnt → α → SumpTile × Cnt) (h : ∀ a x, (step a x).1.spilling = a.1.spilling)
    (xs : List α) (a : SumpTile × Cnt) : (xs.foldl step a).1.spilling = a.1.spilling :=
  foldl_keeps (fun b : SumpTile × Cnt => b.1.spilling = a.1.spilling) _ (fun b x hb => (h b x).trans hb) _ _ rfl

@[simp] theorem addElem_spilling (base r c : Nat) (x : ActRow) : (addElem p l base t r c x).1.spilling = t.spilling := by
  unfold addElem
  split <;> dsimp only <;> rw [foldl_spilling]
  · exact fun a b => a.1.addV40_spilling r c b.1 b.2
  · exact fun a b => a.1.add_spilling _ r c b.1

@[simp] theorem addRows_spilling (base r0 : Nat) (rows : List ActRow) : (addRows p l base r0 t rows).1.spilling = t.spilling := by
  unfold addRows
  rw [foldl_spilling]
  intro a x
  rw [foldl_spilling]
  exact fun b c => b.1.addElem_spilling p l base (r0 + x.2) c x.1

@[simp] theorem finalInf_spilling : t.finalInf.1.spilling = t.spilling :=
  foldl_keeps (fun u : SumpTile => u.spilling = t.spilling) _ (fun u _ hu => (u.setWork_spilling _ _ _).trans hu) _ _ rfl

end SumpTile

/-- The spill of a tile is seen without its events. -/
theorem SumpTile.spilling_of_bare {t u : SumpTile} (h : t.bare = u.bare) : t.spilling = u.spilling :=
  show t.bare.spilling = u.bare.spilling by rw [h]

/-! ### Steps that change one tile at most -/

/-- t differs from s in tile k of hummock g at most, and in what the device reports and counts (06 R146). -/
structure State.onlyTile (s t : State) (g k : Nat) : Prop where
  mem : t.mem = s.mem
  others : ∀ j, j ≠ g → t.hum j = s.hum j
  rest : { t.hum g with sump := (s.hum g).sump } = s.hum g
  tiles : ∀ j, j ≠ k → (t.hum g).tile j = (s.hum g).tile j

section
variable {s t u : State} {g k : Nat}

namespace State.onlyTile

theorem refl (s : State) (g k : Nat) : s.onlyTile s g k := ⟨rfl, fun _ _ => rfl, rfl, fun _ _ => rfl⟩

theorem trans (h : s.onlyTile t g k) (h' : t.onlyTile u g k) : s.onlyTile u g k :=
  ⟨h'.mem.trans h.mem, fun j hj => (h'.others j hj).trans (h.others j hj),
    (congrArg (fun x : Hummock => { x with sump := (s.hum g).sump }) h'.rest).trans h.rest,
    fun j hj => (h'.tiles j hj).trans (h.tiles j hj)⟩

theorem clean (h : s.onlyTile t g k) (hs : s.mem.err = []) : t.mem.err = [] := h.mem ▸ hs

end State.onlyTile

theorem State.onlyTile_setTile (s : State) (g k : Nat) (f : Hummock → SumpTile) :
    s.onlyTile (s.modHum g fun h => h.setTile k (f h)) g k := by
  refine ⟨rfl, fun j hj => State.hum_modHum_ne _ _ hj, ?_, fun j hj => ?_⟩
  · rw [State.hum_modHum_same]; rfl
  · rw [State.hum_modHum_same, Hummock.tile_setTile_ne _ _ hj]

/-- Reporting NUM_OVF changes no hummock and no memory (04 R99). -/
theorem State.numOvf_frame (s : State) : s.numOvf.mem = s.mem ∧ ∀ j, s.numOvf.hum j = s.hum j := by
  unfold State.numOvf
  split
  · exact ⟨rfl, fun _ => rfl⟩
  · exact ⟨rfl, fun _ => rfl⟩

theorem State.onlyTile.numOvf (h : s.onlyTile t g k) : s.onlyTile t.numOvf g k := by
  obtain ⟨hm, hh⟩ := t.numOvf_frame
  exact ⟨hm.trans h.mem, fun j hj => (hh j).trans (h.others j hj), by rw [hh]; exact h.rest, fun j hj => by rw [hh]; exact h.tiles j hj⟩

/-- Events are kept in tile k. -/
def State.keepEvs (s : State) (g k : Nat) (c : Cnt) : State :=
  s.modHum g fun h => h.setTile k { h.tile k with evs := (h.tile k).evs.add c }

theorem State.keepEvs_spec (s : State) (g k : Nat) (c : Cnt) :
    s.onlyTile (s.keepEvs g k c) g k ∧ (((s.keepEvs g k c).hum g).tile k).bare = ((s.hum g).tile k).bare := by
  refine ⟨s.onlyTile_setTile g k _, ?_⟩
  rw [State.keepEvs, State.hum_modHum_same, Hummock.tile_setTile_same]
  rfl

/-- Charging events leaves the tile as it is but for the events that it keeps. -/
theorem State.chargeTile_spec (s : State) (g k : Nat) (c : Cnt) :
    s.onlyTile (s.chargeTile g k c) g k ∧ (((s.chargeTile g k c).hum g).tile k).bare = ((s.hum g).tile k).bare := by
  obtain ⟨hkept, htile⟩ := s.keepEvs_spec g k c
  have hnamed : s.onlyTile (s.charge ((s.hum g).tile k).tag.toNat c) g k := ⟨rfl, fun _ _ => rfl, rfl, fun _ _ => rfl⟩
  unfold State.chargeTile State.chargeOvf
  dsimp only
  split
  · split
    · exact ⟨hnamed, rfl⟩
    · exact ⟨hnamed.numOvf, by rw [(State.numOvf_frame _).2]; rfl⟩
  · split
    · exact ⟨hkept, htile⟩
    · exact ⟨hkept.numOvf, by rw [(State.numOvf_frame _).2]; exact htile⟩

/-- A tile becomes x, and events of it are charged. -/
theorem State.putTile_spec (s : State) (g k : Nat) (x : SumpTile) (c : Cnt) :
    let t := (s.modHum g fun h => h.setTile k x).chargeTile g k c
    s.onlyTile t g k ∧ ((t.hum g).tile k).bare = x.bare := by
  obtain ⟨honly, hbare⟩ := (s.modHum g fun h => h.setTile k x).chargeTile_spec g k c
  refine ⟨(s.onlyTile_setTile g k _).trans honly, hbare.trans ?_⟩
  rw [State.hum_modHum_same, Hummock.tile_setTile_same]

/-! ### Commit and spill of a tile -/

theorem State.spillDone_of_idle (h : ((s.hum g).tile k).spilling = false) : s.spillDone g k = s := by simp [State.spillDone, h]

theorem State.eccRows_of_clean (h : s.mem.err = []) (g k : Nat) (rows : BitVec 256) : s.eccRows g k rows = s := by
  rw [State.eccRows, h, List.filter_nil, ← h]

/-- Without a spill in progress, and with no operation that counts, a commit only turns the banks of the tile. -/
theorem State.commitTile_idle (hs : s.mem.err = []) (hk : ((s.hum g).tile k).spilling = false) (leaves : Nat) :
    s.commitTile g k 0 leaves = s.modHum g fun h => h.setTile k (((s.hum g).tile k).commit 0 leaves) := by
  simp [State.commitTile, State.spillDone_of_idle hk, State.eccRows_of_clean hs]

end

end Sys2Proof.Machine
end

section
/-!
PROOFS. STREAM groups and the end of a spill (03 R71, R76; 04 R97, R102 to R104), which settles O22.
-/

namespace Sys2Proof.Machine

/-! ### The ring tiles of a group (03 R71) -/

theorem getElem?_takeWhile_bne {l : Nat} {ls : List Nat} (h : l ∈ ls) : ls[(ls.takeWhile fun k => k != l).length]? = some l := by
  induction ls with
  | nil => simp at h
  | cons k ls ih =>
    by_cases hk : k = l
    · simp [hk]
    · simpa [hk] using ih ((List.mem_cons.1 h).resolve_left (Ne.symm hk))

/-- The masked Lattices of a STREAM pass have rings of their own. -/
theorem ringTile_inj {f : PassFields} {l k : Nat} (hl : l ∈ passLats f) (hk : k ∈ passLats f) (hout : f.out = true) {j : Nat}
    (h : ringTile f l j = ringTile f k j) : l = k := by
  have hG : 0 < passG f := by simp [passG, hout]
  have hrank : rankOf f l = rankOf f k := by
    unfold ringTile at h
    exact Nat.eq_of_mul_eq_mul_right hG (by omega)
  have hget := getElem?_takeWhile_bne hl
  rw [show ((passLats f).takeWhile fun k => k != l).length = rankOf f k from hrank] at hget
  exact Option.some.inj (hget.symm.trans (getElem?_takeWhile_bne hk))

section
variable {s t u : State} {g : Nat} {i : Issued} {f : PassFields} {p : PassRun} {rows : List ActRow} {l : Nat}

/-! ### One Lattice's group -/

/-- The working bank of tile x with a group's rows added, from +0 (R71). -/
def groupTile (x : SumpTile) (i : Issued) (p : PassRun) (rows : List ActRow) (l : Nat) : SumpTile :=
  (addRows p (i.weights l) x.lidx.toNat 0 (x.begin true true) rows).1

/-- Lattice l adds its group to its ring tile, and decides about it (R71, R97); true where it replays. -/
def State.groupLat (s : State) (g : Nat) (i : Issued) (f : PassFields) (p : PassRun) (rows : List ActRow) (l : Nat) : State × Bool :=
  (s.addTiles g i p l true false [(ringTile f l i.groups, rows)]).decideTiles g 0x03 true 0
    (leafCount p.env.mode p.cm (i.weights l).k) [ringTile f l i.groups]

theorem State.addTiles_group (s : State) (g : Nat) (i : Issued) (p : PassRun) (rows : List ActRow) (l k : Nat) :
    ∃ c, s.addTiles g i p l true false [(k, rows)] =
      (s.modHum g fun h => h.setTile k (groupTile ((s.hum g).tile k) i p rows l)).chargeTile g k c := ⟨_, rfl⟩

/-- What stands in the ring tile once the rows are added. -/
theorem State.addTiles_spec (s : State) (g : Nat) (i : Issued) (p : PassRun) (rows : List ActRow) (l k : Nat) :
    let t := s.addTiles g i p l true false [(k, rows)]
    s.onlyTile t g k ∧ ((t.hum g).tile k).bare = (groupTile ((s.hum g).tile k) i p rows l).bare := by
  obtain ⟨c, hc⟩ := s.addTiles_group g i p rows l k
  rw [hc]
  exact s.putTile_spec g k _ c

theorem groupTile_spilling (x : SumpTile) (i : Issued) (p : PassRun) (rows : List ActRow) (l : Nat) :
    (groupTile x i p rows l).spilling = x.spilling := by simp [groupTile]

/-- Without an overflow that can lower the offset, the ring tile commits. -/
theorem State.groupLat_commits (hs : s.mem.err = []) {x : SumpTile} (hx : (s.hum g).tile (ringTile f l i.groups) = x)
    (hsp : x.spilling = false) (hlow : (groupTile x i p rows l).canLower = false) :
    let r := s.groupLat g i f p rows l
    r.2 = false ∧ s.onlyTile r.1 g (ringTile f l i.groups) ∧ ((r.1.hum g).tile (ringTile f l i.groups)).bare =
      ((groupTile x i p rows l).finalInf.1.commit 0 (leafCount p.env.mode p.cm (i.weights l).k)).bare := by
  subst hx
  obtain ⟨honly, hbare⟩ := s.addTiles_spec g i p rows l (ringTile f l i.groups)
  unfold State.groupLat
  generalize s.addTiles g i p l true false [(ringTile f l i.groups, rows)] = a at honly hbare
  generalize ringTile f l i.groups = k at *
  generalize hy : groupTile ((s.hum g).tile k) i p rows l = y at *
  have hcan : ((a.hum g).tile k).canLower = false := by
    rw [← SumpTile.canLower_bare, hbare, SumpTile.canLower_bare]; exact hlow
  obtain ⟨honly2, hbare2⟩ := a.putTile_spec g k ((a.hum g).tile k).finalInf.1 ((a.hum g).tile k).finalInf.2
  have hinf : (((a.hum g).tile k).finalInf.1).bare = y.finalInf.1.bare := by
    rw [← SumpTile.finalInf_bare, hbare, SumpTile.finalInf_bare]
  simp only [State.decideTiles, List.any_cons, List.any_nil, hcan, Bool.or_false, List.foldl_cons, List.foldl_nil, Bool.false_eq_true,
    if_false]
  generalize (a.modHum g fun h => h.setTile k ((a.hum g).tile k).finalInf.1).chargeTile g k ((a.hum g).tile k).finalInf.2 = b
    at honly2 hbare2
  have hb := honly.trans honly2
  have hidle : ((b.hum g).tile k).spilling = false := by
    rw [SumpTile.spilling_of_bare (hbare2.trans hinf), SumpTile.finalInf_spilling, ← hy, groupTile_spilling]
    exact hsp
  rw [State.commitTile_idle (hb.clean hs) hidle]
  refine ⟨trivial, hb.trans (b.onlyTile_setTile g k _), ?_⟩
  rw [State.hum_modHum_same, Hummock.tile_setTile_same, ← SumpTile.commit_bare, hbare2, hinf, SumpTile.commit_bare]

/-- With one, the ring tile is rebuilt at the lowered offset (R97). -/
theorem State.groupLat_replays {x : SumpTile} (hx : (s.hum g).tile (ringTile f l i.groups) = x) (hsp : x.spilling = false)
    (hlow : (groupTile x i p rows l).canLower = true) :
    let r := s.groupLat g i f p rows l
    r.2 = true ∧ s.onlyTile r.1 g (ringTile f l i.groups) ∧
      ((r.1.hum g).tile (ringTile f l i.groups)).bare = ((groupTile x i p rows l).rebuild true).1.bare := by
  subst hx
  obtain ⟨honly, hbare⟩ := s.addTiles_spec g i p rows l (ringTile f l i.groups)
  unfold State.groupLat
  generalize s.addTiles g i p l true false [(ringTile f l i.groups, rows)] = a at honly hbare
  generalize ringTile f l i.groups = k at *
  generalize hy : groupTile ((s.hum g).tile k) i p rows l = y at *
  have hcan : ((a.hum g).tile k).canLower = true := by
    rw [← SumpTile.canLower_bare, hbare, SumpTile.canLower_bare]; exact hlow
  have hidle : ((a.hum g).tile k).spilling = false := by
    rw [SumpTile.spilling_of_bare hbare, ← hy, groupTile_spilling]
    exact hsp
  obtain ⟨honly2, hbare2⟩ := a.putTile_spec g k (((a.hum g).tile k).rebuild true).1 (((a.hum g).tile k).rebuild true).2
  simp only [State.decideTiles, List.any_cons, List.any_nil, hcan, Bool.or_false, List.foldl_cons, List.foldl_nil, if_true,
    State.spillDone_of_idle hidle, State.eccAdded, List.map_cons, List.map_nil, Bool.false_eq_true, if_false]
  refine ⟨trivial, honly.trans honly2, hbare2.trans ?_⟩
  rw [← SumpTile.rebuild_bare, hbare, SumpTile.rebuild_bare]

/-! ### The groups of all Lattices -/

/-- The group that Lattice l hands on (R71, R209). -/
def groupOf (i : Issued) (f : PassFields) (l : Nat) : Group :=
  ⟨BitVec.ofNat 4 (ringTile f l i.groups), f.dest, i.id, i.groups, rankOf f l, false⟩

/-- One Lattice's part of a group's commit, with the Lattices that replay. -/
def State.groupStep (g : Nat) (i : Issued) (f : PassFields) (p : PassRun) (rows : List ActRow) (a : State × BitVec 4) (l : Nat) :
    State × BitVec 4 :=
  if !i.mask.getLsbD l then a
  else
    let r := a.1.groupLat g i f p rows l
    if r.2 then (r.1, a.2 ||| 1#4 <<< l) else (r.1.modHum g fun h => { h with groups := h.groups ++ [groupOf i f l] }, a.2)

/-- What follows once every Lattice has committed its group or joined the replay set. -/
def State.groupEnd (s : State) (g : Nat) (i : Issued) (f : PassFields) (r : State × BitVec 4) : State :=
  if r.2 ≠ 0 then
    (r.1.modOp g i.id fun k => { k with mask := r.2, tries := k.tries + 1, since := (s.hum g).steps }).squashAfter g i.id r.2 i.weights
  else if groupCount f ≤ i.groups + 1 then r.1.finish g i.id
  else r.1.modOp g i.id fun k => { k with groups := i.groups + 1, mask := f.mask, tries := 0 }

/-- The rows of the pass's next group, as they are read. -/
def State.groupRows (s : State) (g : Nat) (i : Issued) (f : PassFields) (p : PassRun) : List ActRow :=
  (s.readActs g i f (kMax p.cm) (256 * i.groups) (Nat.min 256 (f.mm1.toNat + 1 - 256 * i.groups))).2.1

theorem State.commitGroup_clean (hs : s.mem.err = []) (i : Issued) (f : PassFields) (p : PassRun) :
    s.commitGroup g i f p = s.groupEnd g i f ((passLats f).foldl (State.groupStep g i f p (s.groupRows g i f p)) (s, 0)) := by
  obtain ⟨rows, hr, -⟩ := State.readActs_clean (g := g) hs i f (kMax p.cm) (256 * i.groups)
    (Nat.min 256 (f.mm1.toNat + 1 - 256 * i.groups))
  have hrows : s.groupRows g i f p = rows := by rw [State.groupRows, hr]
  simp only [State.commitGroup, hr, hrows]
  rfl

/-- t is s once the Lattices of ls have committed their groups, each with its ring tile then as `done` says, and handed them on. -/
structure State.handedOn (s : State) (g : Nat) (i : Issued) (f : PassFields) (done : Nat → SumpTile) (ls : List Nat) (t : State) :
    Prop where
  mem : t.mem = s.mem
  others : ∀ k, k ≠ g → t.hum k = s.hum k
  rest : { t.hum g with sump := (s.hum g).sump, groups := (s.hum g).groups } = s.hum g
  groups : (t.hum g).groups = (s.hum g).groups ++ ls.map (groupOf i f)
  done : ∀ l ∈ ls, ((t.hum g).tile (ringTile f l i.groups)).bare = (done l).bare
  tiles : ∀ k, (∀ l ∈ ls, k ≠ ringTile f l i.groups) → (t.hum g).tile k = (s.hum g).tile k

theorem State.handedOn.nil (s : State) (g : Nat) (i : Issued) (f : PassFields) (done : Nat → SumpTile) :
    s.handedOn g i f done [] s := ⟨rfl, fun _ _ => rfl, rfl, by simp, by simp, fun _ _ => rfl⟩

/-- The next Lattice hands its group on; its ring is its own. -/
theorem State.handedOn.concat {done : Nat → SumpTile} {ls : List Nat} (h : s.handedOn g i f done ls t)
    (ho : t.onlyTile u g (ringTile f l i.groups)) (hd : ((u.hum g).tile (ringTile f l i.groups)).bare = (done l).bare)
    (hne : ∀ k ∈ ls, ringTile f k i.groups ≠ ringTile f l i.groups) :
    s.handedOn g i f done (ls ++ [l]) (u.modHum g fun h => { h with groups := h.groups ++ [groupOf i f l] }) := by
  have hg : (u.hum g).groups = (t.hum g).groups := (congrArg Hummock.groups ho.rest :)
  have htile (k : Nat) : ((u.modHum g fun h => { h with groups := h.groups ++ [groupOf i f l] }).hum g).tile k = (u.hum g).tile k := by
    rw [State.hum_modHum_same]; rfl
  constructor
  case mem => exact ho.mem.trans h.mem
  case others => exact fun k hk => (State.hum_modHum_ne _ _ hk).trans ((ho.others k hk).trans (h.others k hk))
  case rest =>
    rw [State.hum_modHum_same]
    exact (congrArg (fun x : Hummock => { x with sump := (s.hum g).sump, groups := (s.hum g).groups }) ho.rest).trans h.rest
  case groups =>
    rw [State.hum_modHum_same, List.map_append, ← List.append_assoc, ← h.groups, ← hg]
    rfl
  case done =>
    intro k hk
    rw [htile]
    rcases List.mem_append.1 hk with hk | hk
    · rw [ho.tiles _ (hne k hk)]; exact h.done k hk
    · rw [List.mem_singleton.1 hk]; exact hd
  case tiles =>
    intro k hk
    rw [htile, ho.tiles k (hk l (by simp))]
    exact h.tiles k fun j hj => hk j (List.mem_append_left _ hj)

/-- The Lattices of a list commit their groups, in its order. -/
theorem State.groupStep_fold (hs : s.mem.err = []) (hmask : i.mask = f.mask) (hout : f.out = true) {x : Nat → SumpTile}
    (hx : ∀ l ∈ passLats f, (s.hum g).tile (ringTile f l i.groups) = x l ∧ (x l).spilling = false ∧
      (groupTile (x l) i p rows l).canLower = false) (ls : List Nat) (hls : ls ⊆ passLats f) (hnd : ls.Nodup) :
    ∃ t, ls.foldl (State.groupStep g i f p rows) (s, 0) = (t, 0) ∧ s.handedOn g i f
      (fun l => (groupTile (x l) i p rows l).finalInf.1.commit 0 (leafCount p.env.mode p.cm (i.weights l).k)) ls t := by
  induction ls using List.reverseRecOn with
  | nil => exact ⟨s, rfl, .nil ..⟩
  | append_singleton ls l ih =>
    obtain ⟨hnd', -, hdisj⟩ := List.nodup_append.1 hnd
    obtain ⟨t, ht, hon⟩ := ih (fun k hk => hls (List.mem_append_left _ hk)) hnd'
    have hl : l ∈ passLats f := hls (by simp)
    have hne (k : Nat) (hk : k ∈ ls) : ringTile f k i.groups ≠ ringTile f l i.groups := fun h =>
      hdisj k hk l (by simp) (ringTile_inj (hls (List.mem_append_left _ hk)) hl hout h)
    obtain ⟨htile, hsp, hlow⟩ := hx l hl
    rw [← hon.tiles _ fun k hk h => hne k hk h.symm] at htile
    obtain ⟨hcommit, honly, hbare⟩ := State.groupLat_commits (hon.mem ▸ hs) htile hsp hlow
    refine ⟨_, ?_, hon.concat honly hbare hne⟩
    rw [List.foldl_append, ht, List.foldl_cons, List.foldl_nil, State.groupStep, hmask, (mem_passLats.1 hl).2]
    simp [hcommit]

/-! ### The command -/

theorem State.groupCommit_eq (hrun : runningPass (s.hum g) = some (i, f)) (hp : s.passRun g i f = some p) (hout : f.out = true)
    (htiles : s.hasTiles g i (Nat.min (f.mm1.toNat + 1) (256 * (i.groups + 1))) = true) (hfree : ringFree (s.hum g) i f = true) :
    s.groupCommit g = s.commitGroup g i f p := by
  simp only [State.groupCommit, hrun, hp, hout, htiles, hfree, Bool.and_self, if_true]

/-- A single unretired instruction changes. -/
theorem State.modOp_single {t : State} {j : Issued} (h : (t.hum g).unret = [j]) (u : Issued → Issued) :
    (t.modOp g j.id u).hum g = { t.hum g with unret := [u j] } := by
  rw [State.modOp, State.hum_modHum_same, h]
  simp

/-! ### Weights loaded again (03 R76) -/

/-- t is s, but the Lattices of hummock g, and the weights that its one unretired instruction j runs on, were read again. -/
structure State.reloaded (s : State) (g : Nat) (j : Issued) (t : State) : Prop where
  mem : t.mem = s.mem
  others : ∀ k, k ≠ g → t.hum k = s.hum k
  rest : { t.hum g with lats := (s.hum g).lats, unret := (s.hum g).unret } = s.hum g
  unret : ∃ m, (t.hum g).unret = [{ j with wts := m }]

theorem State.reloaded.reloadLat {j : Issued} (h : s.reloaded g j t) (hs : s.mem.err = []) (l : Nat) (x : Lattice) (put : Bool) :
    ∃ u, t.reloadLat g j.id l x put = (u, none) ∧ s.reloaded g j u := by
  unfold State.reloadLat
  split
  · exact ⟨t, rfl, h⟩
  · rename_i d wf _
    obtain ⟨ss, hr⟩ := State.readPlanes_clean (g := g) (h.mem ▸ hs : t.mem.err = []) (d, wf) x.n x.k
    rw [hr]
    refine ⟨_, rfl, h.mem, fun k hk => ?_, ?_, ?_⟩
    · rw [State.modOp, State.hum_modHum_ne _ _ hk, State.hum_modHum_ne _ _ hk, h.others k hk]
    · rw [State.modOp, State.hum_modHum_same, State.hum_modHum_same]
      refine Eq.trans ?_ h.rest
      split <;> rfl
    · obtain ⟨m, hm⟩ := h.unret
      rw [State.modOp_single (j := { j with wts := m })]
      · exact ⟨_, rfl⟩
      · rw [State.hum_modHum_same]
        split <;> exact hm

theorem State.reloaded.foldl {j : Issued} (h : s.reloaded g j t) (hs : s.mem.err = []) (w : Nat → Lattice) (put : Nat → Bool)
    (ls : List Nat) :
    ∃ u, ls.foldl (fun (a : State × Option Bad) l => ((a.1.reloadLat g j.id l (w l) (put l)).1,
      a.2.orElse fun _ => (a.1.reloadLat g j.id l (w l) (put l)).2)) (t, none) = (u, none) ∧ s.reloaded g j u := by
  induction ls generalizing t with
  | nil => exact ⟨t, rfl, h⟩
  | cons l ls ih =>
    obtain ⟨u, hu, hr⟩ := h.reloadLat hs l (w l) (put l)
    rw [List.foldl_cons, hu]
    exact ih hr

/-- With no later instruction, a replay only loads the weights again. -/
theorem State.squashAfter_alone {j : Issued} (hs : s.mem.err = []) (hu : (s.hum g).unret = [j]) (v : BitVec 4) (w : Nat → Lattice) :
    s.reloaded g j (s.squashAfter g j.id v w) := by
  have h0 : s.reloaded g j (s.setHum g { s.hum g with unret := [j] }) :=
    ⟨rfl, fun k hk => State.hum_setHum_ne _ _ hk, by rw [State.hum_setHum_same], j.wts, by rw [State.hum_setHum_same]⟩
  unfold State.squashAfter
  simp only [hu, List.dropWhile_cons, bne_self_eq_false, Bool.false_eq_true, if_false, List.drop_succ_cons, List.drop_zero, List.any_nil,
    List.any_cons, Bool.false_and, Bool.or_false, Bool.false_or, List.map_cons, List.map_nil]
  obtain ⟨u, hfold, hr⟩ := h0.foldl hs w (fun l => ((s.hum g).lat l).hold == (w l).hold) ([0, 1, 2, 3].filter fun l => v.getLsbD l)
  simp only [hfold]
  exact hr

/-! ### The end of a group's commit -/

/-- What a committed group leaves of its pass: a next group, or none (R71). -/
def Issued.groupDone (j : Issued) (f : PassFields) : Issued :=
  if f.mm1.toNat < 256 * (j.groups + 1) then { j with phase := .done, held := 0 }
  else { j with groups := j.groups + 1, mask := f.mask, tries := 0 }

theorem State.groupEnd_commits (hu : (t.hum g).unret = [i]) :
    (s.groupEnd g i f (t, 0)).mem = t.mem ∧ (∀ k, k ≠ g → (s.groupEnd g i f (t, 0)).hum k = t.hum k) ∧
      (s.groupEnd g i f (t, 0)).hum g = { t.hum g with unret := [i.groupDone f] } := by
  have hlast : groupCount f ≤ i.groups + 1 ↔ f.mm1.toNat < 256 * (i.groups + 1) := by unfold groupCount; omega
  simp only [State.groupEnd, ne_eq, not_true_eq_false, if_false, hlast, Issued.groupDone]
  split
  · exact ⟨rfl, fun k hk => State.finish_hum_ne _ _ hk, State.modOp_single hu _⟩
  · exact ⟨rfl, fun k hk => State.hum_modHum_ne _ _ hk, State.modOp_single hu _⟩

/-- A pass that runs again on the Lattices of v, once its hummock has taken n steps (R76). -/
def Issued.again (v : BitVec 4) (n : Nat) (j : Issued) : Issued := { j with mask := v, tries := j.tries + 1, since := n }

/-- The Lattices of v replay. -/
theorem State.groupEnd_replays (hs : t.mem.err = []) (hu : (t.hum g).unret = [i]) {v : BitVec 4} (hv : v ≠ 0) :
    (s.groupEnd g i f (t, v)).mem = t.mem ∧ (∀ k, k ≠ g → (s.groupEnd g i f (t, v)).hum k = t.hum k) ∧
      { (s.groupEnd g i f (t, v)).hum g with lats := (t.hum g).lats, unret := (t.hum g).unret } = t.hum g ∧
      ∃ m, ((s.groupEnd g i f (t, v)).hum g).unret = [{ i.again v (s.hum g).steps with wts := m }] := by
  have hhum : (t.modOp g i.id (Issued.again v (s.hum g).steps)).hum g = { t.hum g with unret := [i.again v (s.hum g).steps] } :=
    State.modOp_single hu _
  have hr : (t.modOp g i.id (Issued.again v (s.hum g).steps)).reloaded g (i.again v (s.hum g).steps) (s.groupEnd g i f (t, v)) := by
    rw [State.groupEnd, if_pos hv]
    exact State.squashAfter_alone (s := t.modOp g i.id (Issued.again v (s.hum g).steps)) (j := i.again v (s.hum g).steps) hs
      (by rw [hhum]) v i.weights
  refine ⟨hr.mem, fun k hk => (hr.others k hk).trans (State.hum_modHum_ne _ _ hk), ?_, hr.unret⟩
  have hrest := hr.rest
  rw [hhum] at hrest
  exact congrArg (fun h : Hummock => { h with unret := (t.hum g).unret }) hrest

theorem exec_streamGroupCommit {g : Hum} (hs : s.mem.err = []) (hrun : runningPass (s.hum g) = some (i, f))
    (hp : s.passRun g i f = some p) (hout : f.out = true)
    (htiles : s.hasTiles g i (Nat.min (f.mm1.toNat + 1) (256 * (i.groups + 1))) = true) (hfree : ringFree (s.hum g) i f = true)
    {r : State × BitVec 4} (hr : (passLats f).foldl (State.groupStep g i f p (s.groupRows g i f p)) (s, 0) = r) {j : Issued}
    (hu : ((s.groupEnd g i f r).hum g).unret = [j]) (hj : j.phase ≠ .queued) (hseq : ((s.groupEnd g i f r).hum g).seq = (s.hum g).seq)
    (hsigs : (s.hum g).seq.sigs = []) (hst : (s.hum g).seq.stall = none) :
    exec (.streamGroupCommit g) s = .next (s.groupEnd g i f r) := by
  show Host.Outcome.next ((s.groupCommit g).advance g) = _
  rw [State.groupCommit_eq hrun hp hout htiles hfree, State.commitGroup_clean hs, hr, State.advance_of_begun]
  · rw [hu]
    simpa using hj
  · rw [hseq]; exact hsigs
  · rw [hseq]; exact hst

/-- The mask of a pass on a single Lattice. -/
theorem mask_of_passLats {f : PassFields} {l : Nat} (h : passLats f = [l]) : f.mask = 1#4 <<< l := by
  have hmem (k : Nat) : k < 4 ∧ f.mask.getLsbD k = true ↔ k = l := by rw [← mem_passLats, h, List.mem_singleton]
  have hl : l < 4 := ((hmem l).2 rfl).1
  refine BitVec.eq_of_getLsbD_eq fun k hk => ?_
  have hk' : f.mask.getLsbD k = true ↔ k = l := (and_iff_right hk).symm.trans (hmem k)
  rw [Bool.eq_iff_iff, hk', BitVec.getLsbD_shiftLeft]
  simp [hk]
  omega

theorem runningPass_phase {h : Hummock} (hrun : runningPass h = some (i, f)) : i.phase = .running := by
  obtain ⟨j, -, hj⟩ := List.exists_of_findSome?_eq_some hrun
  split at hj
  · cases hj; assumption
  · cases hj

theorem passLats_nodup (f : PassFields) : (passLats f).Nodup := List.Nodup.filter _ (by decide)

section
variable {g : Hum}
variable (hrun : runningPass (s.hum g) = some (i, f)) (hun : (s.hum g).unret = [i]) (hp : s.passRun g i f = some p) (hout : f.out = true)
  (hmask : i.mask = f.mask) (htiles : s.hasTiles g i (Nat.min (f.mm1.toNat + 1) (256 * (i.groups + 1))) = true)
  (hfree : ringFree (s.hum g) i f = true) (hs : s.mem.err = []) (hsigs : (s.hum g).seq.sigs = []) (hst : (s.hum g).seq.stall = none)
include hrun hun hp hout hmask htiles hfree hs hsigs hst

/-- The next group commits on every Lattice and is handed on. -/
theorem exec_streamGroupCommit_handsOn {x : Nat → SumpTile}
    (hx : ∀ l ∈ passLats f, (s.hum g).tile (ringTile f l i.groups) = x l ∧ (x l).spilling = false ∧
      (groupTile (x l) i p (s.groupRows g i f p) l).canLower = false) :
    ∃ t u, exec (.streamGroupCommit g) s = .next u ∧ u.mem = t.mem ∧ (∀ k, k ≠ g.val → u.hum k = t.hum k) ∧
      u.hum g = { t.hum g with unret := [i.groupDone f] } ∧ s.handedOn g i f (fun l =>
        (groupTile (x l) i p (s.groupRows g i f p) l).finalInf.1.commit 0 (leafCount p.env.mode p.cm (i.weights l).k)) (passLats f) t := by
  obtain ⟨t, hfold, hon⟩ := State.groupStep_fold hs hmask hout hx (passLats f) (List.Subset.refl _) (passLats_nodup f)
  have hu : (t.hum g).unret = [i] := (congrArg Hummock.unret hon.rest :).trans hun
  obtain ⟨hmem, hothers, hhum⟩ := State.groupEnd_commits (s := s) (f := f) hu
  have hphase : (i.groupDone f).phase ≠ .queued := by
    unfold Issued.groupDone
    split <;> simp [runningPass_phase hrun]
  refine ⟨t, _, exec_streamGroupCommit hs hrun hp hout htiles hfree hfold ?_ hphase ?_ hsigs hst, hmem, hothers, hhum, hon⟩
  · rw [hhum]
  · rw [hhum]; exact (congrArg Hummock.seq hon.rest :)

/-- The group of a single Lattice is not handed on: its tile is rebuilt, and the pass runs again. -/
theorem exec_streamGroupCommit_replays {l : Nat} (hl : passLats f = [l]) {x : SumpTile}
    (hx : (s.hum g).tile (ringTile f l i.groups) = x) (hsp : x.spilling = false)
    (hlow : (groupTile x i p (s.groupRows g i f p) l).canLower = true) :
    ∃ u m, exec (.streamGroupCommit g) s = .next u ∧ u.mem = s.mem ∧ (∀ k, k ≠ g.val → u.hum k = s.hum k) ∧
      { u.hum g with lats := (s.hum g).lats, sump := (s.hum g).sump, unret := (s.hum g).unret } = s.hum g ∧
      (u.hum g).unret = [{ i.again f.mask (s.hum g).steps with wts := m }] ∧
      ((u.hum g).tile (ringTile f l i.groups)).bare = ((groupTile x i p (s.groupRows g i f p) l).rebuild true).1.bare := by
  have hmem : l ∈ passLats f := by simp [hl]
  obtain ⟨hagain, honly, hbare⟩ := State.groupLat_replays hx hsp hlow
  have hfold : (passLats f).foldl (State.groupStep g i f p (s.groupRows g i f p)) (s, 0) =
      ((s.groupLat g i f p (s.groupRows g i f p) l).1, f.mask) := by
    rw [hl, List.foldl_cons, List.foldl_nil, State.groupStep, hmask, (mem_passLats.1 hmem).2]
    simp [hagain, mask_of_passLats hl]
  generalize s.groupLat g i f p (s.groupRows g i f p) l = r at *
  have hu : (r.1.hum g).unret = [i] := (congrArg Hummock.unret honly.rest :).trans hun
  have hv : f.mask ≠ 0 := fun h => by simpa [h] using (mem_passLats.1 hmem).2
  obtain ⟨hm, hothers, hrest, m, hu'⟩ := State.groupEnd_replays (s := s) (f := f) (honly.clean hs) hu hv
  have hkept : { (s.groupEnd g i f (r.1, f.mask)).hum g with
      lats := (s.hum g).lats, sump := (s.hum g).sump, unret := (s.hum g).unret } = s.hum g :=
    Eq.trans
      (congrArg (fun h : Hummock => { h with
        lats := (s.hum g).lats, sump := (s.hum g).sump, unret := (s.hum g).unret }) hrest)
      (congrArg (fun h : Hummock => { h with lats := (s.hum g).lats, unret := (s.hum g).unret }) honly.rest)
  refine ⟨_, m, exec_streamGroupCommit hs hrun hp hout htiles hfree hfold hu' ?_ (congrArg Hummock.seq hkept :) hsigs hst,
    hm.trans honly.mem, fun k hk => (hothers k hk).trans (honly.others k hk), hkept, hu',
    (congrArg (fun h : Hummock => (h.tile (ringTile f l i.groups)).bare) hrest).trans hbare⟩
  simp [Issued.again, runningPass_phase hrun]

end

/-! ### The end of a spill (R103) -/

/-- The operations that committed while the tile spilled. -/
def SumpTile.chased (x : SumpTile) : Nat := (x.cut.map fun c => c.chased).getD 0

/-- The tile once its spill has ended. -/
def SumpTile.spillEnded (x : SumpTile) : SumpTile :=
  { x with off := 0, woff := if x.begun then x.woff else 0, cnt := satAdd (0 : BitVec 7) x.chased, spilling := false, cut := none }

/-- The SSPILLs that end with the spill of tile k. -/
def spillsOf (h : Hummock) (k : Nat) : List Issued := h.unret.filter fun i => i.op == .sspill (BitVec.ofNat 4 k) && i.phase == .running

/-- The spill of tile k has ended, and the SSPILLs on it have finished. -/
def State.spillEnded (s : State) (g k : Nat) : State :=
  (spillsOf (s.hum g) k).foldl (fun (a : State) i => a.finish g i.id)
    (s.setHum g ((s.hum g).setTile k ((s.hum g).tile k).spillEnded))

theorem State.spillDone_of_spilling {k : Nat} (h : ((s.hum g).tile k).spilling = true) :
    s.spillDone g k =
      if 0 < ((s.hum g).tile k).chased && !((s.hum g).tile k).begun && (s.spillEnded g k).spillDue g k then
        (s.spillEnded g k).startSpill g k
      else s.spillEnded g k := by
  simp only [State.spillDone, h, Bool.not_true, Bool.false_eq_true, if_false]
  rfl

/-- An instruction after those of a list have finished. -/
def Issued.endedIn (is : List Issued) (j : Issued) : Issued :=
  if is.any fun i => j.id == i.id then { j with phase := .done, held := 0 } else j

theorem State.foldl_finish_hum (is : List Issued) (s : State) :
    (is.foldl (fun (a : State) i => a.finish g i.id) s).hum g =
      { s.hum g with unret := (s.hum g).unret.map (Issued.endedIn is) } := by
  induction is generalizing s with
  | nil => exact congrArg (fun l => ({ s.hum g with unret := l } : Hummock)) (List.map_id (s.hum g).unret).symm
  | cons i is ih =>
    rw [List.foldl_cons, ih, State.finish_hum_same, List.map_map]
    refine congrArg (fun l => ({ s.hum g with unret := l } : Hummock)) (List.map_congr_left fun j _ => ?_)
    by_cases h : j.id = i.id <;> simp [Issued.endedIn, h]

theorem State.spillEnded_hum (s : State) (g k : Nat) :
    (s.spillEnded g k).hum g = { (s.hum g).setTile k ((s.hum g).tile k).spillEnded with
      unret := (s.hum g).unret.map (Issued.endedIn (spillsOf (s.hum g) k)) } := by
  rw [State.spillEnded, State.foldl_finish_hum, State.hum_setHum_same]
  rfl

theorem State.spillEnded_tile (s : State) (g k : Nat) : ((s.spillEnded g k).hum g).tile k = ((s.hum g).tile k).spillEnded := by
  rw [State.spillEnded_hum]
  exact Hummock.tile_setTile_same _ _ _

theorem State.spillEnded_tile_ne (s : State) (g : Nat) {k j : Nat} (h : j ≠ k) :
    ((s.spillEnded g k).hum g).tile j = (s.hum g).tile j := by
  rw [State.spillEnded_hum]
  exact Hummock.tile_setTile_ne _ _ h

theorem State.spillEnded_onlyHum (s : State) (g : Hum) (k : Nat) : s.onlyHum (s.spillEnded g k) g :=
  foldl_keeps (fun t : State => s.onlyHum t g) _ (fun _ _ ht => ht.modOp _ _) _ _ (s.onlyHum_setHum g _)

theorem Issued.endedIn_begun (is : List Issued) {j : Issued} (h : j.phase ≠ .queued) : (j.endedIn is).phase ≠ .queued := by
  unfold Issued.endedIn
  split
  · simp
  · exact h

theorem Issued.endedIn_mem {is : List Issued} {j : Issued} (h : j ∈ is) :
    (j.endedIn is).id = j.id ∧ (j.endedIn is).op = j.op ∧ (j.endedIn is).phase = .done := by
  have hany : (is.any fun i => j.id == i.id) = true := List.any_eq_true.2 ⟨j, h, beq_self_eq_true _⟩
  rw [Issued.endedIn, if_pos hany]
  exact ⟨rfl, rfl, rfl⟩

theorem State.onlyHum.mem {g : Hum} (h : s.onlyHum t g) : t.mem = s.mem := (congrArg State.mem h.1 :)

theorem State.spillEnded_begun (h : ∀ j ∈ (s.hum g).unret, j.phase ≠ .queued) (k : Nat) :
    ∀ j ∈ ((s.spillEnded g k).hum g).unret, j.phase ≠ .queued := by
  rw [State.spillEnded_hum]
  intro j hj
  obtain ⟨i, hi, rfl⟩ := List.mem_map.1 hj
  exact Issued.endedIn_begun _ (h i hi)

theorem satAdd_zero_toNat (n : Nat) : (satAdd (0 : BitVec 7) n).toNat = min n 127 := by
  unfold satAdd
  split <;> rename_i h <;> simp at h ⊢ <;> omega

theorem State.spillEnded_env (s : State) (g k : Nat) : (s.spillEnded g k).env g = s.env g := by
  unfold State.env
  rw [State.spillEnded_hum]
  rfl

/-- What committed while the tile spilled may ask for the next spill (R102; log 106). -/
theorem State.spillEnded_due (s : State) (g k : Nat) : (s.spillEnded g k).spillDue g k = true ↔
    ((s.hum g).tile k).bind = true ∧ (s.env g).v40 = false ∧ ((s.hum g).tile k).sm1.toNat < ((s.hum g).tile k).chased := by
  have hsm1 := ((s.hum g).tile k).sm1.isLt
  have hcnt : ((s.hum g).tile k).spillEnded.cnt.toNat = min ((s.hum g).tile k).chased 127 := satAdd_zero_toNat _
  have hlt : ((s.hum g).tile k).sm1.toNat + 1 ≤ ((s.hum g).tile k).spillEnded.cnt.toNat ↔
      ((s.hum g).tile k).sm1.toNat < ((s.hum g).tile k).chased := by omega
  rw [State.spillDue, State.spillEnded_tile, State.spillEnded_env]
  simp only [Bool.and_eq_true, Bool.not_eq_true', decide_eq_true_eq]
  rw [← hlt]
  simp [SumpTile.spillEnded, and_assoc]

/-- A spill starts: what it changes of its hummock (R103). -/
theorem State.startSpill_hum (hs : s.mem.err = []) (g k : Nat) :
    ∃ (x : SumpTile) (p : Nat) (y : Store (BitVec 64)) (e : Store Cnt), x.spilling = true ∧
      (s.startSpill g k).hum g = { ((s.hum g).setTile k x).setSlot p y with peatEvs := e } := by
  rw [State.startSpill, State.eccTile_of_clean hs]
  dsimp only
  rw [State.eccSlot_of_clean hs]
  dsimp only
  rw [if_neg (by simp)]
  have hecc (t : State) (kind a n : Nat) : (t.eccSramWrite g kind a n).hum g = t.hum g := rfl
  have hcharge (t : State) (tag : Nat) (c : Cnt) : (t.charge tag c).hum g = t.hum g := rfl
  simp only [apply_ite fun t : State => t.hum g, hcharge, ite_self, hecc, State.hum_modHum_same]
  refine ⟨_, _, _, _, ?_, rfl⟩
  rfl

theorem exec_spillComplete {g : Hum} {tile : BitVec 4} (ht : s.spillDone g tile.toNat = t)
    (hu : ∀ j ∈ (t.hum g).unret, j.phase ≠ .queued) (hseq : (t.hum g).seq = (s.hum g).seq) (hsigs : (s.hum g).seq.sigs = [])
    (hst : (s.hum g).seq.stall = none) : exec (.spillComplete g tile) s = .next t := by
  show Host.Outcome.next ((s.spillDone g tile.toNat).advance g) = _
  rw [ht, State.advance_of_begun hu (hseq ▸ hsigs) (hseq ▸ hst)]

theorem exec_streamGroupAck {g : Hum} {tile : BitVec 4} {q : Group}
    (hq : ((s.hum g).groups.find? fun q => q.tile == tile && q.taken) = some q) (hu : ∀ j ∈ (s.hum g).unret, j.phase ≠ .queued)
    (hsigs : (s.hum g).seq.sigs = []) (hst : (s.hum g).seq.stall = none) :
    exec (.streamGroupAck g tile) s = .next (s.setHum g { s.hum g with groups := (s.hum g).groups.erase q }) := by
  show execStreamGroupAck g tile s = _
  simp only [execStreamGroupAck, hq]
  rw [State.advance_of_begun] <;> rw [State.hum_setHum_same] <;> assumption

end

/-- Settles O22: a group is handed on (`exec_streamGroupCommit_handsOn`) or replays (`exec_streamGroupCommit_replays`), and a spill ends
(`State.spillEnded`), after which the next one may start (`State.startSpill_hum`). -/
theorem streamResult : Obligations.StreamResult := by
  unfold Obligations.StreamResult
  refine ⟨fun s g i f p hrun hop hun hp hout hmask htiles hfree hs hsigs hst hrows => ?group, fun s g tile hq hsigs hst =>
    ⟨fun q hfind => ?ack, fun hsp => ⟨fun hle => ?spillEnds, fun hlt hbind hbegun hv40 hs => ?spillsAgain⟩⟩⟩
  case group =>
    intro n x y hx
    have hy (l : Nat) : y l = groupTile (x l) i p (s.groupRows g i f p) l := rfl
    simp only [hy]
    refine ⟨fun hlow => ?_, fun l hl hlow => ?_⟩
    · obtain ⟨t, u, hexec, hmem, hothers, hhum, hon⟩ := exec_streamGroupCommit_handsOn hrun hun hp hout hmask htiles hfree hs hsigs hst
        fun l hl => ⟨rfl, (hx l hl).1, hlow l hl⟩
      refine ⟨u, hexec, ?_⟩
      rw [hhum]
      exact ⟨hon.groups, hon.done, hon.tiles, apply_ite (fun j => [j]) _ _ _, (congrArg Hummock.lats hon.rest :),
        (congrArg Hummock.mere hon.rest :), hmem.trans hon.mem, fun k hk => (hothers k hk).trans (hon.others k hk)⟩
    · obtain ⟨u, m, hexec, hmem, hothers, hkept, hu, hbare⟩ := exec_streamGroupCommit_replays hrun hun hp hout hmask htiles hfree hs
        hsigs hst hl rfl (hx l (by simp [hl])).1 hlow
      have hphase : i.phase = .running := runningPass_phase hrun
      exact ⟨u, _, hexec, (congrArg Hummock.groups hkept :), hu, rfl, hphase, rfl, rfl, rfl, hbare,
        (congrArg Hummock.mere hkept :), hmem, hothers⟩
  case ack =>
    exact ⟨_, exec_streamGroupAck hfind hq hsigs hst, s.onlyHum_setHum g _, State.hum_setHum_same _ _ _⟩
  case spillEnds =>
    have hdone : s.spillDone g tile.toNat = s.spillEnded g tile.toNat := by
      rw [State.spillDone_of_spilling hsp, if_neg]
      rw [Bool.and_eq_true, State.spillEnded_due]
      exact fun h => absurd h.2.2.2 (Nat.not_lt.2 hle)
    refine ⟨_, exec_spillComplete hdone (State.spillEnded_begun hq _) (by rw [State.spillEnded_hum]; rfl) hsigs hst,
      s.spillEnded_onlyHum g _, s.spillEnded_tile g _, fun k hk => s.spillEnded_tile_ne g hk, ?_⟩
    rw [State.spillEnded_hum]
    refine ⟨rfl, fun j hj hop hrun => ⟨_, List.mem_map_of_mem hj, ?_⟩, rfl, rfl⟩
    exact Issued.endedIn_mem (by simp [spillsOf, hj, hop, hrun])
  case spillsAgain =>
    have hdone : s.spillDone g tile.toNat = (s.spillEnded g tile.toNat).startSpill g tile.toNat := by
      rw [State.spillDone_of_spilling hsp, if_pos]
      have hpos : 0 < ((s.hum g).tile tile.toNat).chased := Nat.zero_lt_of_lt hlt
      rw [Bool.and_eq_true, State.spillEnded_due]
      exact ⟨by simp [hpos, hbegun], hbind, hv40, hlt⟩
    obtain ⟨y, p, slot, e, hy, hhum⟩ := State.startSpill_hum ((s.spillEnded_onlyHum g tile.toNat).mem ▸ hs) g tile.toNat
    refine ⟨_, exec_spillComplete hdone ?_ ?_ hsigs hst, ?_⟩
    all_goals rw [hhum]
    · exact State.spillEnded_begun hq _
    · show ((s.spillEnded g tile.toNat).hum g).seq = _
      rw [State.spillEnded_hum]; rfl
    · refine ⟨?_, fun k hk => ?_, ?_⟩
      · exact (congrArg SumpTile.spilling (Hummock.tile_setTile_same _ _ y)).trans hy
      · exact (Hummock.tile_setTile_ne _ y hk).trans (s.spillEnded_tile_ne g hk)
      · show ((s.spillEnded g tile.toNat).hum g).mere = _
        rw [State.spillEnded_hum]; rfl

end Sys2Proof.Machine
end

section
/-!
PROOFS. What an access to device memory, and the translation before it, leave of the memory-side reduction units and of the epoch
(04 R111, R113; 05 R128; 09 R222).
-/

namespace Sys2Proof.Machine

/-- A step that took s to t left alone the epoch, and the contributions and rounds of the reduction units. -/
structure State.UnitFrame (s t : State) : Prop where
  ep : t.ep = s.ep
  contribs : t.mem.contribs = s.mem.contribs
  rounds : t.mem.rounds = s.mem.rounds
  closed : t.mem.closed = s.mem.closed

namespace State.UnitFrame

theorem refl (s : State) : s.UnitFrame s := ⟨rfl, rfl, rfl, rfl⟩

theorem trans {s t u : State} (h : s.UnitFrame t) (k : t.UnitFrame u) : s.UnitFrame u :=
  ⟨k.ep.trans h.ep, k.contribs.trans h.contribs, k.rounds.trans h.rounds, k.closed.trans h.closed⟩

theorem openEpoch {s t : State} (h : s.UnitFrame t) : t.openEpoch = s.openEpoch := by rw [State.openEpoch, h.ep]; rfl

end State.UnitFrame

/-! ### Accesses -/

theorem State.awaitZero_units (s : State) (f : Nat) : s.UnitFrame (s.awaitZero f) := by
  unfold State.awaitZero
  split <;> exact ⟨rfl, rfl, rfl, rfl⟩

theorem State.wakeStacks_units (s : State) (a n : Nat) : s.UnitFrame (s.wakeStacks a n) := by
  unfold State.wakeStacks
  refine foldl_keeps s.UnitFrame _ (fun t i h => ?_) _ _ (.refl s)
  dsimp only
  split
  · exact h.trans ⟨rfl, rfl, rfl, rfl⟩
  · exact h

theorem countEcc_units (s : State) (sec chan ce ue : Nat) : s.UnitFrame (countEcc s sec chan ce ue) := by
  unfold countEcc
  split <;> exact ⟨rfl, rfl, rfl, rfl⟩

theorem State.memEvent_units (s : State) (kind sector chan src ctx addr seq : Nat) :
    s.UnitFrame (s.memEvent kind sector chan src ctx addr seq) := by
  constructor <;> simp [State.memEvent]

theorem State.eccHbm_units (s : State) (lo hi ctx : Nat) : s.UnitFrame (s.eccHbm lo hi ctx).1 := by
  unfold State.eccHbm
  refine foldl_keeps (fun r : State × Option Nat => s.UnitFrame r.1) _ (fun r p h => ?_) _ _ (.refl s)
  dsimp only
  split
  · have hfix (e : BitVec 288) : r.1.UnitFrame (r.1.setErr p.1 e) := ⟨rfl, rfl, rfl, rfl⟩
    exact (h.trans (hfix _)).trans (countEcc_units _ _ _ _ _)
  · exact (h.trans (countEcc_units _ _ _ _ _)).trans (State.memEvent_units _ _ _ _ _ _ _ _)
  · exact h

theorem State.settleErr_units (s : State) (lo hi : Nat) : s.UnitFrame (s.settleErr lo hi) := by
  unfold State.settleErr
  split <;> exact ⟨rfl, rfl, rfl, rfl⟩

theorem State.physRead_units (s : State) (who : Accessor) (a n ctx : Nat) : s.UnitFrame (s.physRead who a n ctx).s := by
  unfold State.physRead
  split
  · exact .refl s
  · split
    · exact ⟨rfl, rfl, rfl, rfl⟩
    · exact ((s.awaitZero_units _).trans (State.wakeStacks_units _ _ _)).trans (State.eccHbm_units _ _ _ _)

theorem State.physWrite_units (s : State) (who : Accessor) (a : Nat) (bs : List Byte) : s.UnitFrame (s.physWrite who a bs) := by
  have ht := ((s.awaitZero_units (dpaFrame a)).trans (State.wakeStacks_units _ a bs.length)).trans
    (State.settleErr_units _ (a / 32) ((a + bs.length + 31) / 32))
  obtain h | h | ⟨t, rfl, h⟩ := s.physWrite_cases who a bs <;> rw [h]
  · exact .refl s
  · exact ⟨rfl, rfl, rfl, rfl⟩
  · exact ht.trans ⟨rfl, rfl, rfl, rfl⟩

theorem State.vaRead_units (s : State) (m : List TlbEntry) (c a n : Nat) : s.UnitFrame (s.vaRead m c a n).s := by
  unfold State.vaRead
  refine foldl_keeps (fun r : Access => s.UnitFrame r.s) _ (fun r p h => ?_) _ _ (.refl s)
  dsimp only
  split
  · exact h
  · exact h.trans (State.physRead_units _ _ _ _ _)

/-- A write under a leaf of an unprotected page opens no page. -/
theorem State.vaWrite_units (s : State) {e : TlbEntry} (h : (e.big && e.leaf.getLsbD 3) = false) (c a : Nat) (bs : List Byte)
    (whole : List Nat) : s.UnitFrame (s.vaWrite [e] c a bs whole).1 := by
  unfold State.vaWrite
  refine foldl_keeps (fun r : State × Trouble × List Byte => s.UnitFrame r.1) _ (fun r p hr => ?_) _ _ (.refl s)
  dsimp only
  split
  · exact hr
  · rename_i e' he
    obtain rfl : e' = e := by simpa using List.mem_of_find?_eq_some he
    rw [if_neg (ne_true_of_eq_false h)]
    exact hr.trans (State.physWrite_units _ _ _ _)

/-! ### Translation -/

theorem State.walk_units (s : State) (c va fuel level t : Nat) : s.UnitFrame (s.walk c va fuel level t).1 := by
  induction fuel generalizing s level t with
  | zero => exact .refl s
  | succ n ih =>
    have hread (i : Nat) : s.UnitFrame (s.readEntry c t i).1 := s.physRead_units _ _ _ _
    grind [State.walk, State.UnitFrame.refl, State.UnitFrame.trans]

theorem State.xlate_units (s : State) (u c va : Nat) (write : Bool) : s.UnitFrame (s.xlate u c va write).1 := by
  have hdraw (t : State) : t.UnitFrame t.draw.2 := ⟨rfl, rfl, rfl, rfl⟩
  have htlb (t : State) (l : List (Nat × TlbEntry)) : t.UnitFrame { t with mem := { t.mem with tlb := l } } := ⟨rfl, rfl, rfl, rfl⟩
  grind [State.xlate, State.walk_units, State.UnitFrame.refl, State.UnitFrame.trans]

theorem State.xlateVia_units (s : State) (unit : Option Nat) (c a n : Nat) (write : Bool) :
    s.UnitFrame (s.xlateVia unit c a n write).1 := by
  unfold State.xlateVia
  refine foldl_keeps (fun r : State × List TlbEntry × Xlat => s.UnitFrame r.1) _ (fun r p hr => ?_) _ _ (.refl s)
  have hx := r.1.xlate_units (unit.getD (vaSector p.1)) c p.1 write
  split
  · split
    · exact hr
    · split <;> rename_i heq <;> rw [heq] at hx <;> exact hr.trans hx
  · exact hr

/-- The translation of an instruction's operands. -/
theorem State.xlateOpnds_units (s : State) (g c : Nat) (rs ws : List Opnd) : s.UnitFrame (s.xlateOpnds g c rs ws).1 := by
  unfold State.xlateOpnds
  refine foldl_keeps (fun r : State × List TlbEntry × XRes => s.UnitFrame r.1) _ (fun r x hr => ?_) _ _ (.refl s)
  have hx := r.1.xlateVia_units (some (secOf g)) c x.1.1 x.1.2 x.2
  split
  · split <;> rename_i heq <;> rw [heq] at hx <;> exact hr.trans hx
  · exact hr

end Sys2Proof.Machine
end

section
/-!
PROOFS. A contribution at its memory-side reduction unit (04 R111 to R113; 05 R125, R128, R129), which settles O34.
-/

namespace Sys2Proof.Machine

/-! ### Acceptance -/

/-- An instruction with one contribution less outstanding, where it is the sender (04 R111). -/
def Issued.credited (id : Nat) (i : Issued) : Issued :=
  if i.id == id then { i with outstanding := i.outstanding - 1, phase := if i.outstanding ≤ 1 then .done else i.phase } else i

theorem State.accepted_local {c : Contrib} {g : Hum} {id : Nat} (h : c.src = some (g, id)) (t : State) :
    t.accepted c = t.modHum g fun h => { h with unret := h.unret.map (Issued.credited id) } := by
  simp only [State.accepted, h]
  rfl

/-- Accepting a contribution of this device changes its sender alone. -/
theorem State.accepted_spec {c : Contrib} {g : Hum} {id : Nat} (h : c.src = some (g, id)) (t : State) :
    (t.accepted c).mem = t.mem ∧ ((t.accepted c).hum g).unret = (t.hum g).unret.map (Issued.credited id) ∧
      ∀ k, k ≠ g.val → (t.accepted c).hum k = t.hum k := by
  rw [State.accepted_local h]
  exact ⟨rfl, by rw [State.hum_modHum_same], fun k hk => State.hum_modHum_ne _ _ hk⟩

/-! ### The element -/

/-- A unit that went from s to t has stored nothing in device memory, and left its ownership map, its seals and the hummocks alone. -/
structure State.NoStore (s t : State) : Prop where
  hbm : t.mem.hbm = s.mem.hbm
  own : t.mem.own = s.mem.own
  loaded : t.mem.loaded = s.mem.loaded
  clean : s.mem.err = [] → t.mem.err = []
  hums : ∀ k, t.hum k = s.hum k

namespace State.NoStore

variable {s t u : State}

theorem trans (h : s.NoStore t) (k : t.NoStore u) : s.NoStore u :=
  ⟨k.hbm.trans h.hbm, k.own.trans h.own, k.loaded.trans h.loaded, fun e => k.clean (h.clean e), fun n => (k.hums n).trans (h.hums n)⟩

theorem of_mem (hm : t.mem = s.mem) (hh : ∀ k, t.hum k = s.hum k) : s.NoStore t :=
  ⟨by rw [hm], by rw [hm], by rw [hm], by rw [hm]; exact id, hh⟩

theorem plainAt (h : s.NoStore t) {c va n d : Nat} {e : TlbEntry} (p : s.plainAt c va n e d) : t.plainAt c va n e d := by
  simpa only [State.plainAt, State.owner, State.isSealed, h.own, h.loaded] using p

end State.NoStore

section
variable {s t : State} {c va d : Nat} {e : TlbEntry}

/-- Charging events changes no hummock and no memory. -/
theorem State.chargeOvf_frame (s : State) (tag : Nat) (k : Cnt) :
    (s.chargeOvf tag k).mem = s.mem ∧ ∀ j, (s.chargeOvf tag k).hum j = s.hum j := by
  obtain ⟨hm, hh⟩ := (s.charge tag k).numOvf_frame
  unfold State.chargeOvf
  dsimp only
  split
  · exact ⟨rfl, fun _ => rfl⟩
  · exact ⟨hm, hh⟩

theorem State.readElem_plain (hclean : s.mem.err = []) (h : s.plainAt c va 4 e d) :
    ∃ t, s.readElem c va e = ⟨t, bread s.mem.hbm d 4, .none⟩ ∧ s.NoStore t ∧ s.UnitFrame t := by
  obtain ⟨t, hr, hd, hm⟩ := State.vaRead_found (m := [e]) (by simp [h.1]) h hclean
  have hu := s.vaRead_units [e] c va 4
  rw [hr] at hu
  exact ⟨t, hr, ⟨hm, hd.own, hd.loaded, hd.clean, fun k => by rw [State.hum, hd.hums]; rfl⟩, hu⟩

/-- The element is written as the one change since s. -/
theorem State.NoStore.writeElem (hs : s.NoStore t) (hclean : s.mem.err = []) (h : s.plainAt c va 4 e d) (v : BitVec 32) :
    ∃ u, t.writeElem c va e v = (u, .none) ∧ (∀ k, u.hum k = s.hum k) ∧ t.UnitFrame u ∧
      storedAt s.mem.hbm u.mem.hbm d (leBytes 4 v.toNat) := by
  have hp : t.plainAt c va (leBytes 4 v.toNat).length e d := by rw [leBytes_length]; exact hs.plainAt h
  obtain ⟨u, hw, hd, hm⟩ := State.vaWrite_found (m := [e]) (by simp [h.1]) hp (hs.clean hclean) []
  have hu := t.vaWrite_units (Bool.and_eq_false_imp.2 h.2.1) c va (leBytes 4 v.toNat) []
  rw [hw] at hu
  refine ⟨u, hw, fun k => ?_, hu, ?_⟩
  · rw [← hs.hums, State.hum, hd.hums]; rfl
  · rw [hm, hs.hbm]; exact storedAt_bwrite _ _ _

end

/-! ### Rounds of an element -/

section
variable {rs : List Round} {d : Nat}

theorem rounds_filter_sameElem (h : ∀ r ∈ rs, r.dpa ≠ d) : rs.filter (sameElem d) = [] :=
  List.filter_eq_nil_iff.2 fun r hr => by simp [sameElem, h r hr]

theorem rounds_filter_other (h : ∀ r ∈ rs, r.dpa ≠ d) (n : BitVec 32) :
    (rs.filter fun x => !(sameElem d x && x.round == n)) = rs :=
  List.filter_eq_self.2 fun r hr => by simp [sameElem, h r hr]

theorem lowestRound_none (h : ∀ r ∈ rs, r.dpa ≠ d) : lowestRound rs d = none := by
  rw [lowestRound, rounds_filter_sameElem h]
  rfl

theorem lowestRound_only {r : Round} (h : ∀ x ∈ rs, x.dpa ≠ r.dpa) : lowestRound (rs ++ [r]) r.dpa = some r := by
  have hr : sameElem r.dpa r = true := by simp [sameElem]
  rw [lowestRound, List.filter_append, rounds_filter_sameElem h, List.filter_cons_of_pos hr]
  rfl

/-- The one round of an element is taken out again. -/
theorem rounds_filter_only {r : Round} (h : ∀ x ∈ rs, x.dpa ≠ r.dpa) :
    ((rs ++ [r]).filter fun x => !(sameElem r.dpa x && x.round == r.round)) = rs := by
  rw [List.filter_append, rounds_filter_other h]
  simp [sameElem]

end

theorem State.progress_none {s : State} {d : Nat} (h : ∀ r ∈ s.mem.rounds, r.dpa ≠ d) (n : Nat) : s.progress d n = s := by
  cases n with
  | zero => rfl
  | succ n => simp only [State.progress, lowestRound_none h]

/-- An unopened round whose parts have not all come opens with the element's value, and waits (05 R128). -/
theorem State.progress_waits {s a : State} {r : Round} {bs : List Byte} (hl : lowestRound s.mem.rounds r.dpa = some r)
    (ho : r.opened = none) (ha : s.readElem r.ctx.toNat r.va.toNat r.leaf = ⟨a, bs, .none⟩) (hn : r.parts.length < r.p.toNat) (n : Nat) :
    s.progress r.dpa (n + 1) = a.setRound { r with opened := some (BitVec.ofNat 32 (leNat bs)) } := by
  simp only [State.progress, hl, ho, ha, if_pos hn, Option.isNone_none]

/-- The round has closed, and its events are charged. -/
def State.roundClosed (s : State) (r : Round) (k : Cnt) : State :=
  (s.modMem fun m => { m with
    rounds := m.rounds.filter fun x => !(sameElem r.dpa x && x.round == r.round)
    closed := sset none m.closed r.dpa (some r.round) }).chargeOvf r.tag.toNat k

theorem State.roundClosed_spec (s : State) (r : Round) (k : Cnt) :
    s.NoStore (s.roundClosed r k) ∧ (s.roundClosed r k).mem.contribs = s.mem.contribs ∧
      (s.roundClosed r k).mem.rounds = (s.mem.rounds.filter fun x => !(sameElem r.dpa x && x.round == r.round)) ∧
      (s.roundClosed r k).mem.closed = sset none s.mem.closed r.dpa (some r.round) := by
  unfold State.roundClosed
  obtain ⟨hm, hh⟩ := (s.modMem fun m => { m with
    rounds := m.rounds.filter fun x => !(sameElem r.dpa x && x.round == r.round)
    closed := sset none m.closed r.dpa (some r.round) }).chargeOvf_frame r.tag.toNat k
  refine ⟨State.NoStore.trans (t := s.modMem _) ⟨rfl, rfl, rfl, id, fun _ => rfl⟩ (.of_mem hm hh), ?_, ?_, ?_⟩ <;> rw [hm] <;> rfl

/-- An unopened round whose parts have all come closes with its root (05 R125, R128), and the next one of its element follows. -/
theorem State.progress_closes {s a u : State} {r : Round} {bs : List Byte} {root : BitVec 32} {k : Cnt}
    (hl : lowestRound s.mem.rounds r.dpa = some r) (ho : r.opened = none)
    (ha : s.readElem r.ctx.toNat r.va.toNat r.leaf = ⟨a, bs, .none⟩) (hn : r.p.toNat ≤ r.parts.length) (hmode : r.mode ≠ 2)
    (hroot : orderedRoot (BitVec.ofNat 32 (leNat bs)) (r.parts.map fun p => contribVal p.2.1 p.2.2) = (root, k))
    (hw : (a.roundClosed r k).writeElem r.ctx.toNat r.va.toNat r.leaf root = (u, .none)) (n : Nat) :
    s.progress r.dpa (n + 1) = u.progress r.dpa n := by
  simp only [State.roundClosed] at hw
  simp only [State.progress, hl, ho, ha, if_neg (Nat.not_lt.2 hn), Option.isNone_none, if_neg hmode, Option.getD_some, hroot, hw]

/-! ### Taking a contribution -/

/-- From s a unit has taken the contribution at position pos, which is still to be accepted. -/
structure State.unitTook (s : State) (pos : Nat) (t : State) : Prop where
  hums : ∀ k, t.hum k = s.hum k
  contribs : t.mem.contribs = s.mem.contribs.eraseIdx pos

section
variable {s : State} {pos : Nat} {c : Contrib} {g : Hum} {id d : Nat}

theorem exec_reduceContribution_takes (hc : s.mem.contribs[pos]? = some c) (h : s.takes c) :
    exec (.reduceContribution pos) s = .next (if c.ordered then s.takeOrdered pos c else s.takeFast pos c) := by
  obtain ⟨hbusy, hatt, hepoch, hcont⟩ := h
  show execReduceContribution pos s = _
  simp only [execReduceContribution, hc, hbusy, hatt, hepoch, hcont]
  cases c.ordered <;> simp

/-- One of another attempt or epoch is dropped (R113). -/
theorem exec_reduceContribution_drops (hc : s.mem.contribs[pos]? = some c) (hbusy : s.framesBusy [c.leaf] = false)
    (h : c.att ≠ s.ep.att ∨ c.epoch ≠ s.openEpoch) : exec (.reduceContribution pos) s = .next (s.dropContrib pos) := by
  have hother : (c.att != s.ep.att || c.epoch != s.openEpoch || s.ep.contained) = true := by
    rcases h with h | h <;> simp [h]
  show execReduceContribution pos s = _
  simp only [execReduceContribution, hc, hbusy, hother]
  rfl

/-- The element that stands at d in device memory. -/
def State.elemAt (s : State) (d : Nat) : BitVec 32 := BitVec.ofNat 32 (leNat (bread s.mem.hbm d 4))

/-- The sum that a Fast contribution leaves in its element (R111). -/
def Contrib.fastSum (c : Contrib) (old : BitVec 32) : Val :=
  (f32.round .rne ((f32.decode old.toNat).1.add (contribVal c.code c.bits).1).1).1

theorem behindRound_of_none (h : ∀ r ∈ s.mem.rounds, r.dpa ≠ c.dpa) : s.behindRound c = false := by
  have : s.mem.rounds.any (fun r => sameElem c.dpa r && r.opened.isSome) = false :=
    List.any_eq_false.2 fun r hr => by simp [sameElem, h r hr]
  simp [State.behindRound, this]

/-- A Fast contribution whose element reads well is added, and its events charged, whatever they are. -/
theorem State.takeFast_eq {a : State} {bs : List Byte} (hfree : s.behindRound c = false)
    (ha : s.readElem c.ctx.toNat c.va.toNat c.leaf = ⟨a, bs, .none⟩) :
    ∃ k : Cnt,
      let r := ((a.dropContrib pos).chargeOvf c.tag.toNat k).writeElem c.ctx.toNat c.va.toNat c.leaf
        (enc32 (c.fastSum (BitVec.ofNat 32 (leNat bs))))
      s.takeFast pos c = (r.1.unitTrouble c.dpa r.2).accepted c := by
  simp only [State.takeFast, hfree, ha]
  exact ⟨_, rfl⟩

/-- In Fast mode the element becomes the sum. -/
theorem State.takeFast_adds (hno : ∀ r ∈ s.mem.rounds, r.dpa ≠ c.dpa) (hclean : s.mem.err = [])
    (hp : s.plainAt c.ctx.toNat c.va.toNat 4 c.leaf d) :
    ∃ t : State, s.takeFast pos c = t.accepted c ∧ s.unitTook pos t ∧ t.mem.rounds = s.mem.rounds ∧
      storedAt s.mem.hbm t.mem.hbm d (leBytes 4 (enc32 (c.fastSum (s.elemAt d))).toNat) := by
  obtain ⟨a, ha, hread, hunits⟩ := State.readElem_plain hclean hp
  obtain ⟨k, hk⟩ := State.takeFast_eq (pos := pos) (behindRound_of_none hno) ha
  obtain ⟨hm, hh⟩ := (a.dropContrib pos).chargeOvf_frame c.tag.toNat k
  have hdrop : a.NoStore (a.dropContrib pos) := ⟨rfl, rfl, rfl, id, fun _ => rfl⟩
  obtain ⟨t, ht, hhums, hwrite, hstored⟩ := ((hread.trans hdrop).trans (.of_mem hm hh)).writeElem hclean hp
    (enc32 (c.fastSum (s.elemAt d)))
  have htaken : s.takeFast pos c = t.accepted c := by
    simp only [State.elemAt] at ht
    rw [hk, ht]
    rfl
  refine ⟨t, htaken, ⟨hhums, ?_⟩, ?_, hstored⟩
  · rw [hwrite.contribs, hm, ← hunits.contribs]; rfl
  · rw [hwrite.rounds, hm, ← hunits.rounds]; rfl

/-- A contribution for a round no later than the last that has closed is discarded (R129). -/
theorem State.takeOrdered_late {n : BitVec 32} (hn : sget none s.mem.closed c.dpa = some n) (hle : c.round.toNat ≤ n.toNat) :
    s.takeOrdered pos c = ((s.dropContrib pos).charge c.tag.toNat { invalid := 1 }).accepted c := by
  have hv : s.verdict c = .discard := by simp [State.verdict, hn, hle]
  simp only [State.takeOrdered, hv]

/-- The round of an Ordered contribution, begun. -/
theorem State.begun_spec (hno : ∀ r ∈ s.mem.rounds, r.dpa ≠ c.dpa) :
    let u := (s.dropContrib pos).setRound c.begins
    s.NoStore u ∧ s.unitTook pos u ∧ u.mem.rounds = s.mem.rounds ++ [c.begins] ∧
      lowestRound u.mem.rounds c.begins.dpa = some c.begins := by
  have hrounds : ((s.dropContrib pos).setRound c.begins).mem.rounds = s.mem.rounds ++ [c.begins] := by
    show (s.mem.rounds.filter fun x => !(sameElem c.dpa x && x.round == c.round)) ++ [c.begins] = _
    rw [rounds_filter_other hno]
  exact ⟨⟨rfl, rfl, rfl, id, fun _ => rfl⟩, ⟨fun _ => rfl, rfl⟩, hrounds, hrounds ▸ lowestRound_only hno⟩

section
variable (hno : ∀ r ∈ s.mem.rounds, r.dpa ≠ c.dpa)
  (hfresh : ∀ n, sget none s.mem.closed c.dpa = some n → n.toNat < c.round.toNat) (hroom : s.orbRoom c = true)
include hno hfresh hroom

/-- The first contribution of a round that is not late begins it where the buffer has room (R128, R235). -/
theorem State.takeOrdered_begins :
    s.takeOrdered pos c = (((s.dropContrib pos).setRound c.begins).progress c.dpa (s.mem.rounds.length + 2)).accepted c := by
  obtain ⟨-, -, hrounds, -⟩ := State.begun_spec (pos := pos) hno
  have hv : s.verdict c = .hold := by
    cases hn : sget none s.mem.closed c.dpa with
    | none => simp [State.verdict, hn, rounds_filter_sameElem hno]
    | some n => simp [State.verdict, hn, Nat.not_le.2 (hfresh n hn), rounds_filter_sameElem hno]
  have hfind : (s.mem.rounds.find? fun r => sameElem c.dpa r && r.round == c.round) = none :=
    List.find?_eq_none.2 fun r hr => by simp [sameElem, hno r hr]
  have hlen : ((s.dropContrib pos).setRound c.begins).mem.rounds.length = s.mem.rounds.length + 1 := by
    simp [hrounds]
  simp only [State.takeOrdered, hv, hroom, hfind, hlen]
  rfl

variable (hclean : s.mem.err = []) (hp : s.plainAt c.ctx.toNat c.va.toNat 4 c.leaf d)
include hclean hp

/-- With more parts to come the round is open, and waits. -/
theorem State.takeOrdered_opens (h1 : 1 < c.p.toNat) :
    ∃ t : State, s.takeOrdered pos c = t.accepted c ∧ s.unitTook pos t ∧ t.mem.hbm = s.mem.hbm ∧
      t.mem.rounds = s.mem.rounds ++ [{ c.begins with opened := some (s.elemAt d) }] := by
  obtain ⟨hbegun, htook, hrounds, hl⟩ := State.begun_spec (pos := pos) hno
  rw [State.takeOrdered_begins hno hfresh hroom]
  generalize (s.dropContrib pos).setRound c.begins = u at hbegun htook hrounds hl
  obtain ⟨a, ha, hread, hunits⟩ := State.readElem_plain (hbegun.clean hclean) (hbegun.plainAt hp)
  refine ⟨_, congrArg (State.accepted · c) (State.progress_waits hl rfl ha h1 _), ⟨fun k => ?_, ?_⟩, ?_, ?_⟩
  · exact (hread.hums k).trans (hbegun.hums k)
  · exact hunits.contribs.trans htook.contribs
  · exact hread.hbm.trans hbegun.hbm
  · show (a.mem.rounds.filter fun x => !(sameElem c.begins.dpa x && x.round == c.begins.round)) ++ [_] = _
    rw [hunits.rounds, hrounds, rounds_filter_only hno, hbegun.hbm]
    rfl

/-- The only part of a round closes it with its root. -/
theorem State.takeOrdered_closes (h1 : c.p.toNat = 1) (hmode : c.mode ≠ 2) :
    ∃ t : State, s.takeOrdered pos c = t.accepted c ∧ s.unitTook pos t ∧ t.mem.rounds = s.mem.rounds ∧
      sget none t.mem.closed c.dpa = some c.round ∧
      storedAt s.mem.hbm t.mem.hbm d (leBytes 4 (orderedRoot (s.elemAt d) [contribVal c.code c.bits]).1.toNat) := by
  obtain ⟨hbegun, htook, hrounds, hl⟩ := State.begun_spec (pos := pos) hno
  rw [State.takeOrdered_begins hno hfresh hroom]
  generalize (s.dropContrib pos).setRound c.begins = u at hbegun htook hrounds hl
  obtain ⟨a, ha, hread, hunits⟩ := State.readElem_plain (hbegun.clean hclean) (hbegun.plainAt hp)
  rw [hbegun.hbm] at ha
  obtain ⟨hstill, hcontribs, hleft, hclosed⟩ := a.roundClosed_spec c.begins (orderedRoot (s.elemAt d) [contribVal c.code c.bits]).2
  obtain ⟨t, ht, hhums, hwrite, hstored⟩ := ((hbegun.trans hread).trans hstill).writeElem hclean hp
    (orderedRoot (s.elemAt d) [contribVal c.code c.bits]).1
  have hrest : t.mem.rounds = s.mem.rounds := by
    rw [hwrite.rounds, hleft, hunits.rounds, hrounds, rounds_filter_only hno]
  have hdone : u.progress c.dpa (s.mem.rounds.length + 2) = t :=
    (State.progress_closes hl rfl ha h1.le hmode rfl ht _).trans (State.progress_none (by rw [hrest]; exact hno) _)
  refine ⟨t, by rw [hdone], ⟨hhums, ?_⟩, hrest, ?_, hstored⟩
  · rw [hwrite.contribs, hcontribs, hunits.contribs, htook.contribs]
  · rw [hwrite.closed, hclosed]; exact sget_sset_same _ _ _ _

end

end

/-- What the sender, the other hummocks and the contributions have become once a contribution that was taken is accepted. -/
theorem State.unitTook.accepted {s t : State} {pos : Nat} {c : Contrib} {g : Hum} {id : Nat} (h : s.unitTook pos t)
    (hsrc : c.src = some (g, id)) :
    (t.accepted c).mem = t.mem ∧ ((t.accepted c).hum g).unret = (s.hum g).unret.map (Issued.credited id) ∧
      ∀ k, k ≠ g.val → (t.accepted c).hum k = s.hum k := by
  obtain ⟨hmem, hunret, hothers⟩ := State.accepted_spec hsrc t
  exact ⟨hmem, by rw [hunret, h.hums], fun k hk => (hothers k hk).trans (h.hums k)⟩

/-- Settles O34. A unit adds a Fast contribution to its element (`State.takeFast_adds`), begins a round with an Ordered one, which
closes (`State.takeOrdered_closes`) or waits (`State.takeOrdered_opens`), discards one that is late (`State.takeOrdered_late`), and
drops one of another attempt (`exec_reduceContribution_drops`). -/
theorem reduceContributionResult : Obligations.ReduceContributionResult := by
  unfold Obligations.ReduceContributionResult
  intro s pos c g id d hc hsrc hclean hp old rest taken noRound fresh
  refine ⟨fun ht ho hno => ?fast, fun ht ho hno hfresh hroom h1 hmode => ?closes, fun ht ho hno hfresh hroom h1 => ?opens,
    fun ht ho ⟨n, hn, hle⟩ => ?late, fun hbusy hother => exec_reduceContribution_drops hc hbusy hother⟩
  all_goals rw [exec_reduceContribution_takes hc ht, ho]
  case fast =>
    obtain ⟨t, htake, htook, hrounds, hstored⟩ := State.takeFast_adds hno hclean hp
    obtain ⟨hmem, hunret, hothers⟩ := htook.accepted hsrc
    exact ⟨_, congrArg _ htake, hmem ▸ hstored, hmem ▸ htook.contribs, hmem ▸ hrounds, hunret, hothers⟩
  case closes =>
    obtain ⟨t, htake, htook, hrounds, hclosed, hstored⟩ := State.takeOrdered_closes hno hfresh hroom hclean hp h1 hmode
    obtain ⟨hmem, hunret, hothers⟩ := htook.accepted hsrc
    exact ⟨_, congrArg _ htake, hmem ▸ hstored, hmem ▸ htook.contribs, hmem ▸ hrounds, hmem ▸ hclosed, hunret, hothers⟩
  case opens =>
    obtain ⟨t, htake, htook, hhbm, hrounds⟩ := State.takeOrdered_opens hno hfresh hroom hclean hp h1
    obtain ⟨hmem, hunret, hothers⟩ := htook.accepted hsrc
    exact ⟨_, congrArg _ htake, hmem ▸ hhbm, hmem ▸ htook.contribs, hmem ▸ hrounds, hunret, hothers⟩
  case late =>
    have htook : s.unitTook pos ((s.dropContrib pos).charge c.tag.toNat { invalid := 1 }) := ⟨fun _ => rfl, rfl⟩
    obtain ⟨hmem, hunret, -⟩ := htook.accepted hsrc
    exact ⟨_, congrArg _ (State.takeOrdered_late hn hle), (congrArg MemState.hbm hmem :), hmem ▸ htook.contribs,
      (congrArg MemState.rounds hmem :), hunret⟩

end Sys2Proof.Machine
end

section
/-!
PROOFS. A station instruction alone in a hummock whose tiles are at rest starts as it issues (04 R104, R108; 07 R162, R164, R165).
-/

namespace Sys2Proof.Machine

/-- No STREAM group stands on the tiles of hummock h, and none of them spills. -/
def Hummock.tilesAtRest (h : Hummock) : Prop := h.groups = [] ∧ ∀ k, (h.tile k).spilling = false

section
variable {s : State} {g : Fin 96} {e : Issued}

theorem earlier_alone {h : Hummock} (hu : h.unret = [e]) : earlier h e = [] := by simp [earlier, hu]

/-- An instruction that stands alone is at the head of each queue that it stands in (04 R108). -/
theorem Hummock.atHead_alone {h : Hummock} (hu : h.unret = [e]) (mode : BitVec 2) : h.atHead mode e = true := by
  refine List.all_eq_true.2 fun k _ => ?_
  have hq : (h.queueOf k).takeWhile (fun j => j.id != e.id) = [] := by
    rw [Hummock.queueOf, hu]
    cases hk : e.held.getLsbD k <;> simp [hk]
  rw [hq]
  exact Bool.or_true _

theorem Hummock.settledFor_rest {h : Hummock} (hr : h.tilesAtRest) : h.settledFor e = true := by
  obtain ⟨hg, hs⟩ := hr
  simp [Hummock.settledFor, hg, hs]

/-- It may start where it writes no operand and takes no STREAM group. -/
theorem State.mayStart_alone {u : State} (hu : (u.hum g).unret = [e]) (hr : (u.hum g).tilesAtRest) (hq : e.phase = .queued)
    (hlat : isLattice e.op = false) (hw : opWrites e = []) (hstream : streamUser e.op = none) : u.mayStart g e = true := by
  have hhazard : hazardFree (u.hum g) e = true := by simp [hazardFree, earlier_alone hu, hw, anyOverlap]
  have hgroup : groupReady (u.hum g) e.op = true := by simp [groupReady, hstream]
  simp [State.mayStart, earlier_alone hu, hhazard, hgroup, Hummock.atHead_alone hu, Hummock.settledFor_rest hr, hq, hlat]

/-- So may an instruction that issues on an idle hummock whose tiles are at rest. -/
theorem State.mayStart_entry {i : Instr} {op : StOp} (hi : s.idleIssue g) (hr : (s.hum g).tilesAtRest) (he : e = s.entry g i op)
    (hlat : isLattice op = false) (hw : opWrites e = []) (hstream : streamUser op = none) : (s.entered g e).mayStart g e = true := by
  subst he
  have hu : (s.hum g).unret = [] := hi.2.2.1
  exact State.mayStart_alone (by simp [hu]) (by rw [State.entered_hum_same]; exact hr) rfl hlat hw hstream

/-- The station starts it on its hummock as it was. -/
theorem exec_station_starts {i : Instr} {op : StOp} {t : State} (h : stationOp i = some (g, op)) (hi : s.idleIssue g)
    (he : e = s.entry g i op) (hm : (s.entered g e).mayStart g e = true) (hstart : (s.entered g e).startOp g e = t)
    (hseq : (t.hum g).seq = { (s.hum g).seq with pc := (s.hum g).seq.pc + 1 }) (hholder : (t.hum g).holder = (s.hum g).holder) :
    exec i s = .next t := by
  obtain ⟨cap, hcap, hexec⟩ := exec_station h s
  subst hstart
  rw [hexec, State.issueOp_starts hi (he.trans (by rw [hcap]; rfl)) hm (by rw [hseq, State.entered_hum_same]) hholder]

end

end Sys2Proof.Machine
end

section
/-!
PROOFS. SCFG and SCLR of a Sump tile (04 R107).
-/

namespace Sys2Proof.Machine

/-- Slot p holds +0 throughout, and no events are kept with it. -/
def Hummock.slotCleared (h : Hummock) (p : Nat) : Hummock := { h.setSlot p [] with peatEvs := sset {} h.peatEvs p {} }

theorem Hummock.slot_slotCleared (h : Hummock) (p q : Nat) : (h.slotCleared p).slot q = if q = p then [] else h.slot q := by
  split
  · rename_i hq; rw [hq]; exact h.slot_setSlot_same p []
  · exact h.slot_setSlot_ne [] ‹_›

/-- Tile k of hummock g becomes x, and where b stands slot p is cleared. -/
def State.retile (s : State) (g k : Nat) (x : SumpTile) (b : Bool) (p : Nat) : State :=
  if b then (s.modHum g fun h => h.setTile k x).modHum g fun h => h.slotCleared p else s.modHum g fun h => h.setTile k x

theorem State.retile_hum (s : State) (g k : Nat) (x : SumpTile) (b : Bool) (p : Nat) :
    (s.retile g k x b p).hum g = if b then ((s.hum g).setTile k x).slotCleared p else (s.hum g).setTile k x := by
  cases b <;> simp [State.retile]

theorem State.onlyHum.retile {s t : State} {g : Hum} (h : s.onlyHum t g) (k : Nat) (x : SumpTile) (b : Bool) (p : Nat) :
    s.onlyHum (t.retile g k x b p) g := by
  unfold State.retile
  split
  · exact (h.modHum _).modHum _
  · exact h.modHum _

/-- What an instruction that sets tile k, and clears slot p where b stands, leaves. -/
structure State.retiled (s t : State) (g : Hum) (e : Issued) (k : Nat) (x : SumpTile) (b : Bool) (p : Nat) : Prop where
  only : s.onlyHum t g
  done : s.finished t g e
  holder : (t.hum g).holder = (s.hum g).holder
  tile : (t.hum g).tile k = x
  tiles : ∀ j, j ≠ k → (t.hum g).tile j = (s.hum g).tile j
  slots : ∀ q, (t.hum g).slot q = if b && q == p then [] else (s.hum g).slot q
  lats : (t.hum g).lats = (s.hum g).lats
  mere : (t.hum g).mere = (s.hum g).mere

section
variable {s : State} {g : Hum} {e : Issued}

theorem State.retile_finish (hu : (s.hum g).unret = []) (k : Nat) (x : SumpTile) (b : Bool) (p : Nat) :
    s.retiled (((s.entered g e).retile g k x b p).finish g e.id) g e k x b p := by
  have hhum : (((s.entered g e).retile g k x b p).finish g e.id).hum g =
      { (if b then ((s.hum g).setTile k x).slotCleared p else (s.hum g).setTile k x) with
        unret := [{ e with phase := .done, held := 0 }], nextId := (s.hum g).nextId + 1
        seq := { (s.hum g).seq with pc := (s.hum g).seq.pc + 1 } } := by
    rw [State.finish_hum_same, State.retile_hum, State.entered_hum_same]
    cases b <;> simp [Hummock.slotCleared, Hummock.setSlot, Hummock.setTile, hu]
  refine ⟨((s.onlyHum_setHum g _).retile k x b p).modHum _, ⟨?_, ?_⟩, ?_, ?_, fun j hj => ?_, fun q => ?_, ?_, ?_⟩ <;> rw [hhum]
  · cases b <;> rfl
  · cases b <;> exact Hummock.tile_setTile_same _ _ _
  · cases b <;> exact Hummock.tile_setTile_ne _ _ hj
  · cases b
    · rfl
    · exact (Hummock.slot_slotCleared _ p q).trans (by simp; rfl)
  · cases b <;> rfl
  · cases b <;> rfl

/-- An instruction that starts by setting a tile and clearing a slot has finished as it issues. -/
theorem exec_retiles {i : Instr} {op : StOp} (hop : stationOp i = some (g, op)) (hi : s.idleIssue g) (hr : (s.hum g).tilesAtRest)
    (he : e = s.entry g i op) (hlat : isLattice op = false) (hw : opWrites e = []) (hstream : streamUser op = none)
    {k : Nat} {x : SumpTile} {b : Bool} {p : Nat}
    (hstart : (s.entered g e).startOp g e = ((s.entered g e).retile g k x b p).finish g e.id) :
    ∃ t, exec i s = .next t ∧ s.retiled t g e k x b p :=
  have h := State.retile_finish (e := e) hi.2.2.1 k x b p
  ⟨_, exec_station_starts hop hi he (State.mayStart_entry hi hr he hlat hw hstream) hstart h.done.2 h.holder, h⟩

/-! ### SCFG and SCLR -/

/-- The tile after SCFG with a draw key and coordinates. -/
def SumpTile.configured (x : SumpTile) (f : ScfgFields) (key at_ : BitVec 64) : SumpTile :=
  { x with
    bind := f.bind, pslot := if f.bind then f.pslot else x.pslot, sm1 := f.sm1, lsum := f.lsum
    tag := if f.lsum then key.extractLsb' 0 31 else x.tag, lidx := if f.lsum then key.extractLsb' 32 32 else x.lidx
    orgRow := if f.lsum then at_.extractLsb' 0 32 else x.orgRow, orgCol := if f.lsum then at_.extractLsb' 32 32 else x.orgCol }

/-- The tile after SCLR. -/
def SumpTile.cleared (x : SumpTile) : SumpTile :=
  { x with bank0 := [], bank1 := [], off := 0, roff := [], woff := 0, cnt := 0, evs := {} }

theorem SumpTile.com_of_empty {x : SumpTile} (h0 : x.bank0 = []) (h1 : x.bank1 = []) (r c : Nat) : x.com r c = 0 := by
  simp [SumpTile.com, h0, h1]

/-- SCFG of a slot that no other tile is bound to. -/
theorem State.startScfg_retiles {f : ScfgFields}
    (h : f.bind = true → ∀ u, u < 16 → u ≠ f.tile.toNat → ((s.hum g).tile u).bind = true → ((s.hum g).tile u).pslot ≠ f.pslot) :
    s.startScfg g e f = (s.retile g f.tile.toNat (((s.hum g).tile f.tile.toNat).configured f e.va e.vb) (f.bind && f.pclr)
      f.pslot.toNat).finish g e.id := by
  have hfree : (f.bind && (List.range 16).any fun u =>
      u != f.tile.toNat && ((s.hum g).tile u).bind && ((s.hum g).tile u).pslot == f.pslot) = false := by
    rw [Bool.and_eq_false_imp]
    intro hb
    refine List.any_eq_false.2 fun u hu => ?_
    have := h hb u (List.mem_range.1 hu)
    grind
  unfold State.startScfg SumpTile.configured
  simp only [hfree]
  cases f.lsum <;> rfl

theorem State.startSclr_retiles {k : Nat} {cpeat : Bool} (h : cpeat = true → ((s.hum g).tile k).bind = true) :
    s.startSclr g e k cpeat = (s.retile g k ((s.hum g).tile k).cleared cpeat ((s.hum g).tile k).pslot.toNat).finish g e.id := by
  have hbound : (cpeat && !((s.hum g).tile k).bind) = false := by
    cases hc : cpeat
    · rfl
    · simp [h hc]
  unfold State.startSclr
  simp only [hbound]
  rfl

theorem exec_scfg_retiles {f : ScfgFields} (hi : s.idleIssue g) (hr : (s.hum g).tilesAtRest)
    (h : f.bind = true → ∀ u, u < 16 → u ≠ f.tile.toNat → ((s.hum g).tile u).bind = true → ((s.hum g).tile u).pslot ≠ f.pslot) :
    ∃ t, exec (.scfg g f) s = .next t ∧ s.retiled t g (s.entry g (.scfg g f) (.scfg f)) f.tile.toNat
      (((s.hum g).tile f.tile.toNat).configured f ((s.hum g).seq.reg f.xk) ((s.hum g).seq.reg f.xc)) (f.bind && f.pclr)
      f.pslot.toNat := by
  refine exec_retiles rfl hi hr rfl rfl rfl rfl ?_
  show (s.entered g _).startScfg g _ f = _
  rw [State.startScfg_retiles (by rw [State.entered_hum_same]; exact h), State.entered_hum_same]
  rfl

theorem exec_sclr_retiles {tile : BitVec 4} {cpeat : Bool} (hi : s.idleIssue g) (hr : (s.hum g).tilesAtRest)
    (h : cpeat = true → ((s.hum g).tile tile.toNat).bind = true) :
    ∃ t, exec (.sclr g tile cpeat) s = .next t ∧ s.retiled t g (s.entry g (.sclr g tile cpeat) (.sclr tile cpeat)) tile.toNat
      ((s.hum g).tile tile.toNat).cleared cpeat ((s.hum g).tile tile.toNat).pslot.toNat := by
  refine exec_retiles rfl hi hr rfl rfl rfl rfl ?_
  show (s.entered g _).startSclr g _ tile.toNat cpeat = _
  rw [State.startSclr_retiles (by rw [State.entered_hum_same]; exact h), State.entered_hum_same]
  rfl

end

end Sys2Proof.Machine
end

section
/-!
PROOFS. SSPILL of a Sump tile into its Peat slot (04 R86, R103), and what settles O11.
-/

namespace Sys2Proof.Machine

/-! ### The sum of a spill -/

theorem sget_of_unlisted {α : Type} (d : α) {m : Store α} {k : Nat} (h : k ∉ m.map fun p => p.1) : sget d m k = d := by
  induction m with
  | nil => rfl
  | cons p m ih =>
    rw [List.map_cons, List.mem_cons, not_or] at h
    rw [sget, if_neg (Ne.symm h.1), ih h.2]

/-- Keys set one after the other, each to a value of its own. -/
theorem sget_foldl_sset {α : Type} [DecidableEq α] (d : α) (w : Nat → α) (ks : List Nat) (m : Store α) (n : Nat) :
    sget d (ks.foldl (fun m k => sset d m k (w k)) m) n = if n ∈ ks then w n else sget d m n := by
  induction ks generalizing m with
  | nil => rfl
  | cons k ks ih =>
    rw [List.foldl_cons, ih, sget_sset]
    grind

/-- What an element of a slot becomes when v is added to it (R103). -/
def spillSum (old : BitVec 64) (v : Val) : BitVec 64 := enc64 (f64.round .rne ((val64 old).add v).1).1

theorem spillSum_zero : spillSum 0 (.zero false) = 0 := by decide

namespace SumpTile

variable (t : SumpTile) (slot : Store (BitVec 64))

/-- An element that the committed bank does not list is +0. -/
theorem com_of_unlisted {r c : Nat} (hc : c < 256) (h : 256 * r + c ∉ t.entries.map fun p => p.1) : t.com r c = 0 := by
  refine sget_of_unlisted 0 fun hm => h ?_
  have hrow : (256 * r + c) / 256 = r := by omega
  obtain ⟨p, hp, hk⟩ := List.mem_map.1 hm
  refine List.mem_map.2 ⟨p, ?_, hk⟩
  rw [← hk] at hrow
  cases hsel : t.sel.getLsbD r <;> simp_all [entries]

/-- The keys of the elements that a spill adds: those of the tile, and the others of the slot. -/
def spillKeys : List Nat :=
  (t.entries.map fun p => p.1) ++ (slot.map fun p => p.1).filter fun k => !(t.entries.any fun p => p.1 == k)

theorem spill_slot : (t.spill slot).2.1 =
    (t.spillKeys slot).foldl (fun m k => sset 0 m k (spillSum (sget 0 slot k) (t.value (k / 256) (k % 256)))) slot :=
  (List.foldl_hom (fun a : Store (BitVec 64) × Cnt => a.1) fun _ _ => rfl).symm

theorem value_of_zero {r c : Nat} (h : t.com r c = 0) : t.value r c = .zero false := by
  rw [value, h]
  rfl

/-- A spill adds every element of the tile to its element of the slot. -/
theorem spill_elem {r c : Nat} (hc : c < 256) :
    sget 0 (t.spill slot).2.1 (256 * r + c) = spillSum (sget 0 slot (256 * r + c)) (t.value r c) := by
  have hr : (256 * r + c) / 256 = r := by omega
  have hm : (256 * r + c) % 256 = c := by omega
  rw [spill_slot, sget_foldl_sset, hr, hm]
  split
  · rfl
  · rename_i hk
    have hkeys : 256 * r + c ∉ (t.entries.map fun p => p.1) ∧ 256 * r + c ∉ slot.map fun p => p.1 := by
      simp only [spillKeys, List.mem_append, not_or] at hk
      obtain ⟨he, hs⟩ := hk
      refine ⟨he, fun hmem => hs (List.mem_filter.2 ⟨hmem, ?_⟩)⟩
      rw [List.any_eq_false.2 fun p hp => by simpa using fun e => he (List.mem_map.2 ⟨p, hp, e⟩)]
      rfl
    obtain ⟨he, hs⟩ := hkeys
    rw [sget_of_unlisted 0 hs, t.value_of_zero (t.com_of_unlisted hc he), spillSum_zero]

end SumpTile

/-! ### The spill -/

/-- The tile while a spill of it, cut where c says, runs. -/
def SumpTile.spillRuns (x : SumpTile) (c : SpillCut) : SumpTile :=
  { x with bank0 := [], bank1 := [], roff := [], spilling := true, cut := some c, evs := {} }

/-- A spill of tile k of hummock g has started in t: the values of h's tile have moved into the slot of its binding (log 71). -/
structure State.spillStarted (h : Hummock) (t : State) (g k : Nat) : Prop where
  seq : (t.hum g).seq = h.seq
  holder : (t.hum g).holder = h.holder
  mere : (t.hum g).mere = h.mere
  tile : ∃ c, (t.hum g).tile k = (h.tile k).spillRuns c
  tiles : ∀ j, j ≠ k → (t.hum g).tile j = h.tile j
  slot : (t.hum g).slot (h.tile k).pslot.toNat = ((h.tile k).spill (h.slot (h.tile k).pslot.toNat)).2.1
  slots : ∀ p, p ≠ (h.tile k).pslot.toNat → (t.hum g).slot p = h.slot p

section
variable {s : State}

theorem State.startSpill_moves (hs : s.mem.err = []) (g k : Nat) :
    State.spillStarted (s.hum g) (s.startSpill g k) g k ∧ (s.startSpill g k).mem.hbm = s.mem.hbm := by
  have hecc (t : State) (kind a n : Nat) : (t.eccSramWrite g kind a n).hum g = t.hum g := rfl
  have hcharge (t : State) (tag : Nat) (c : Cnt) : (t.charge tag c).hum g = t.hum g := rfl
  have hhbm (t : State) (tag : Nat) (c : Cnt) : (t.charge tag c).mem.hbm = t.mem.hbm := rfl
  obtain ⟨c, v, hhum, hmem⟩ : ∃ (c : SpillCut) (v : Store Cnt),
      (s.startSpill g k).hum g = { ((s.hum g).setTile k (((s.hum g).tile k).spillRuns c)).setSlot ((s.hum g).tile k).pslot.toNat
          (((s.hum g).tile k).spill ((s.hum g).slot ((s.hum g).tile k).pslot.toNat)).2.1 with peatEvs := v } ∧
        (s.startSpill g k).mem.hbm = s.mem.hbm := by
    rw [State.startSpill, State.eccTile_of_clean hs]
    dsimp only
    rw [State.eccSlot_of_clean hs]
    dsimp only
    rw [if_neg (by simp)]
    simp only [apply_ite fun t : State => t.hum g, apply_ite fun t : State => t.mem.hbm, hcharge, hhbm, ite_self, hecc,
      State.hum_modHum_same]
    exact ⟨_, _, rfl, rfl⟩
  refine ⟨⟨?_, ?_, ?_, ⟨c, ?_⟩, fun j hj => ?_, ?_, fun p hp => ?_⟩, hmem⟩ <;> rw [hhum]
  · rfl
  · rfl
  · rfl
  · exact Hummock.tile_setTile_same _ _ _
  · exact Hummock.tile_setTile_ne _ _ hj
  · exact Hummock.slot_setSlot_same _ _ _
  · exact Hummock.slot_setSlot_ne _ _ hp

/-- SSPILL of a bound tile outside V40 mode starts its spill as it issues. -/
theorem exec_sspill_moves {g : Hum} {tile : BitVec 4} (hi : s.idleIssue g) (hr : (s.hum g).tilesAtRest) (hs : s.mem.err = [])
    (hv40 : (s.env g).v40 = false) (hbind : ((s.hum g).tile tile.toNat).bind = true) :
    ∃ t, exec (.sspill g tile) s = .next t ∧ t.mem.hbm = s.mem.hbm ∧
      State.spillStarted { (s.hum g) with seq := { (s.hum g).seq with pc := (s.hum g).seq.pc + 1 } } t g tile.toNat := by
  let e := s.entry g (.sspill g tile) (.sspill tile)
  let u := (s.entered g e).modOp g e.id fun j => { j with phase := .running, held := 0 }
  have henv : ((s.entered g e).env g).v40 = false := by rw [State.entered_sameView.env]; exact hv40
  have hstart : (s.entered g e).startOp g e = u.startSpill g tile.toNat := by
    show (s.entered g e).startSspill g e tile.toNat = _
    rw [State.startSspill, State.entered_hum_same, if_neg (by simpa [Hummock.tile] using hbind), if_neg (by simp [henv])]
  obtain ⟨hmoves, hhbm⟩ := State.startSpill_moves (s := u) hs g tile.toNat
  have hu : u.hum g = { (s.hum g) with
      unret := (u.hum g).unret, nextId := (s.hum g).nextId + 1, seq := { (s.hum g).seq with pc := (s.hum g).seq.pc + 1 } } := by
    simp only [u, State.modOp, State.hum_modHum_same, State.entered_hum_same]
  rw [hu] at hmoves
  exact ⟨_, exec_station_starts rfl hi rfl (State.mayStart_entry hi hr rfl rfl rfl rfl) hstart hmoves.seq hmoves.holder, hhbm, ⟨hmoves.seq,
    hmoves.holder, hmoves.mere, hmoves.tile, hmoves.tiles, hmoves.slot, hmoves.slots⟩⟩

end

/-- Settles O11. SCFG sets the registers of its tile (`exec_scfg_retiles`), SCLR clears it (`exec_sclr_retiles`), and SSPILL moves its
values into its slot (`exec_sspill_moves`), each added to its element (`SumpTile.spill_elem`). -/
theorem tileResult : Obligations.TileResult := by
  unfold Obligations.TileResult
  refine ⟨fun s g f tile cpeat hi hgroups hrest => ⟨fun hfree => ?scfg, fun hbound => ?sclr⟩,
    fun s g tile hi hgroups hclean hrest hv40 hbind => ?sspill⟩
  case scfg =>
    obtain ⟨t, hexec, h⟩ := exec_scfg_retiles hi ⟨hgroups, hrest⟩ hfree
    exact ⟨t, hexec, h.only, h.done, h.tile, h.tiles, h.slots, h.lats, h.mere⟩
  case sclr =>
    obtain ⟨t, hexec, h⟩ := exec_sclr_retiles hi ⟨hgroups, hrest⟩ hbound
    exact ⟨t, hexec, h.only, h.done, fun r c => by rw [h.tile]; exact SumpTile.com_of_empty rfl rfl r c, h.tile, h.tiles, h.slots,
      h.lats, h.mere⟩
  case sspill =>
    obtain ⟨t, hexec, hhbm, h⟩ := exec_sspill_moves hi ⟨hgroups, hrest⟩ hclean hv40 hbind
    obtain ⟨c, htile⟩ := h.tile
    refine ⟨t, hexec, h.seq, fun r c hr hc => ?_, fun r c => ?_, ?_, ?_, ?_, h.tiles, h.slots, h.mere, hhbm⟩
    · exact (congrArg (sget 0 · (256 * r + c)) h.slot).trans (SumpTile.spill_elem _ _ hc)
    · rw [htile]; exact SumpTile.com_of_empty rfl rfl r c
    all_goals rw [htile]; rfl

end Sys2Proof.Machine
end

section
/-!
PROOFS. WRED of rows of the Mere into a Sump tile (04 R87, R92, R97, R102), and the rows that a station reads in its own Mere (07 R170).
-/

namespace Sys2Proof.Machine

section
variable {s t : State} {g k : Nat}

/-! ### Rows of the hummock's own Mere, under any translation -/

theorem State.readAt_mere (h : s.mem.err = []) (m : List TlbEntry) {d : DescCap} (hd : d.space = 0) (a n : Nat) :
    s.readAt g m d a n = (s, bread (s.hum g).mere a n, none) := by
  simp [State.readAt, State.mereOf, hd, State.eccSram_of_clean h]

theorem State.readRows_mere (h : s.mem.err = []) (m : List TlbEntry) {d : DescCap} (hd : d.space = 0) (base stride n rows : Nat) :
    s.readRows g m d base stride n rows = (s, (List.range rows).map fun r => bread (s.hum g).mere (base + r * stride) n, none) := by
  induction rows with
  | zero => rfl
  | succ k ih =>
    simp only [State.readRows] at ih ⊢
    rw [List.range_succ, List.foldl_append, ih]
    simp [State.readAt_mere h m hd]

/-- The planes of an operand. -/
theorem State.readPlanes_mere (h : s.mem.err = []) (m : List TlbEntry) {o : Opnd} (hd : o.1.space = 0) :
    s.readPlanes g m o o.1.rows o.1.len = (s, mereRows (s.hum g).mere o, mereScales (s.hum g).mere o, none) := by
  have hlen : Nat.min o.1.len o.1.len = o.1.len := Nat.min_self _
  by_cases hn : scaleBytes o.2 o.1.len = 0 <;>
    simp only [State.readPlanes, State.readRows_mere h m hd, hlen, hn, mereRows, mereScales, if_true, if_false, Option.orElse]

/-- The values of an operand's rows as they stand in a Mere. -/
def mereVals (c : List Host.Cell) (o : Opnd) : List (List (Val × Bool)) :=
  (mereRows c o).zipIdx.map fun r => rowVals o.2 r.1 (((mereScales c o)[r.2]?).getD []) o.1.len

/-- A source that is no tile and no slot: nothing changes, and nothing stops the station. -/
theorem State.readSource_mere (h : s.mem.err = []) (m : List TlbEntry) {o : Opnd} (hd : o.1.space = 0) (weir : Bool) (tile : BitVec 4) :
    s.readSource g m weir 0 tile o o.1.rows o.1.len = ⟨s, mereVals (s.hum g).mere o, {}, none⟩ := by
  simp only [State.readSource, State.readPlanes_mere h m hd, if_true, mereVals]

theorem mereVals_length (c : List Host.Cell) (o : Opnd) : (mereVals c o).length = o.1.rows := by simp [mereVals, mereRows]

/-- Row r of the values is that of the operand's row r. -/
theorem mereVals_getElem? (c : List Host.Cell) (o : Opnd) {r : Nat} (hr : r < o.1.rows) :
    (mereVals c o)[r]? = some (rowVals o.2 (mereRow c o r).1 (mereRow c o r).2 o.1.len) := by
  by_cases hn : scaleBytes o.2 o.1.len = 0 <;> simp [mereVals, mereRows, mereScales, mereRow, hn, hr]

end

/-! ### Additions to a tile -/

namespace SumpTile

variable (t : SumpTile)

theorem bare_sel : t.bare.sel = t.sel := rfl
theorem bare_written : t.bare.written = t.written := rfl
theorem bare_fresh : t.bare.fresh = t.fresh := rfl
theorem bare_woff : t.bare.woff = t.woff := rfl
theorem bare_rowOff (r : Nat) : t.bare.rowOff r = t.rowOff r := rfl
theorem bare_ovf : t.bare.ovf = t.ovf := rfl
theorem bare_work (r c : Nat) : t.bare.work r c = t.work r c := rfl

theorem putWork_bare (row : Store (BitVec 32)) (r : Nat) : t.bare.putWork row r = (t.putWork row r).bare := by
  rw [putWork, putWork, bare_sel]
  dsimp only
  split <;> rfl

theorem openRow_bare (r : Nat) : t.bare.openRow r = ((t.openRow r).1.bare, (t.openRow r).2) := by
  simp only [openRow, putWork_bare, bare_sel, bare_written, bare_fresh, bare_woff, bare_rowOff]
  split
  · rfl
  · split <;> rfl

theorem add_bare (rm : Rm) (r c : Nat) (x : Leaf) : t.bare.add rm r c x = ((t.add rm r c x).1.bare, (t.add rm r c x).2) := by
  simp only [add, openRow_bare, setWork_bare, bare_ovf, bare_work]
  split
  · rfl
  · split
    · rfl
    · split <;> rfl

theorem addV40_bare (r c : Nat) (v : Val) (k : Cnt) : t.bare.addV40 r c v k = ((t.addV40 r c v k).1.bare, (t.addV40 r c v k).2) := by
  simp only [addV40, openRow_bare, setWork_bare, bare_work]

/-- One addition of a transfer to its tile t (R92), as it stands in `a` with the events so far. -/
def addOne (e : RunEnv) (base r : Nat) (a : SumpTile × Cnt) (x : (Val × Bool) × Nat) : SumpTile × Cnt :=
  let y := if e.v40 then a.1.addV40 r x.2 x.1.1 {}
    else a.1.add (t.rm e.seed r x.2 base) r x.2 ⟨x.1.1.scale t.woff.toInt, {}, none⟩
  (y.1, a.2.add y.2)

theorem addTransfer_eq (e : RunEnv) (base : Nat) (rows : List (List (Val × Bool))) :
    addTransfer e base t rows = rows.zipIdx.foldl (fun a row => row.1.zipIdx.foldl (t.addOne e base row.2) a) (t, {}) := rfl

/-- A tile without its events, with the events counted beside it. -/
def bareWith (a : SumpTile × Cnt) : SumpTile × Cnt := (a.1.bare, a.2)

theorem addOne_bare (e : RunEnv) (base r : Nat) (a : SumpTile × Cnt) (x : (Val × Bool) × Nat) :
    t.bare.addOne e base r (bareWith a) x = bareWith (t.addOne e base r a x) := by
  have hrm : t.bare.rm e.seed r x.2 base = t.rm e.seed r x.2 base := rfl
  unfold addOne
  rw [hrm]
  by_cases hv : e.v40 = true
  · simp only [hv, if_true, bareWith, addV40_bare]
  · simp only [hv, bareWith]
    rw [if_neg (by simp), if_neg (by simp), add_bare]
    rfl

/-- What a transfer adds does not turn on the events that the tile keeps. -/
theorem addTransfer_bare (e : RunEnv) (base : Nat) (rows : List (List (Val × Bool))) :
    addTransfer e base t.bare rows = bareWith (addTransfer e base t rows) := by
  rw [addTransfer_eq, addTransfer_eq]
  exact List.foldl_hom (init := (t, {})) bareWith fun a row => List.foldl_hom bareWith fun b x => t.addOne_bare e base row.2 b x

/-! ### What additions leave of a tile -/

@[simp] theorem setWork_bind (r c : Nat) (v : BitVec 32) : (t.setWork r c v).bind = t.bind := by
  unfold setWork; split <;> rfl

@[simp] theorem begin_bind (clr anew : Bool) : (t.begin clr anew).bind = t.bind := by
  unfold begin; split <;> rfl

@[simp] theorem begin_begun (clr anew : Bool) : (t.begin clr anew).begun = true := by
  unfold begin
  split
  · assumption
  · rfl

/-- An operation on a tile begins once. -/
theorem begin_of_begun {t : SumpTile} (h : t.begun = true) (clr anew : Bool) : t.begin clr anew = t := by rw [begin, if_pos h]

@[simp] theorem putWork_bind (row : Store (BitVec 32)) (r : Nat) : (t.putWork row r).bind = t.bind := by
  unfold putWork; dsimp only; split <;> rfl

@[simp] theorem openRow_bind (r : Nat) : (t.openRow r).1.bind = t.bind := by
  unfold openRow
  dsimp only
  split
  · rfl
  · split <;> simp

@[simp] theorem add_bind (rm : Rm) (r c : Nat) (x : Leaf) : (t.add rm r c x).1.bind = t.bind := by
  unfold add
  dsimp only
  split
  · simp
  · split
    · simp [mark]
    · split <;> simp [mark]

@[simp] theorem addV40_bind (r c : Nat) (v : Val) (k : Cnt) : (t.addV40 r c v k).1.bind = t.bind := by
  simp [addV40]

/-- A transfer's additions keep whether the tile is bound, and its spill. -/
theorem addTransfer_keeps (e : RunEnv) (base : Nat) (rows : List (List (Val × Bool))) :
    (addTransfer e base t rows).1.bind = t.bind ∧ (addTransfer e base t rows).1.spilling = t.spilling := by
  have hone (r : Nat) (a : SumpTile × Cnt) (x : (Val × Bool) × Nat) :
      (t.addOne e base r a x).1.bind = a.1.bind ∧ (t.addOne e base r a x).1.spilling = a.1.spilling := by
    unfold addOne
    dsimp only
    split <;> simp
  rw [addTransfer_eq]
  refine foldl_keeps (fun a : SumpTile × Cnt => a.1.bind = t.bind ∧ a.1.spilling = t.spilling) _ (fun a row ha => ?_) _ _ ⟨rfl, rfl⟩
  refine foldl_keeps (fun b : SumpTile × Cnt => b.1.bind = t.bind ∧ b.1.spilling = t.spilling) _ (fun b x hb => ?_) _ _ ha
  exact ⟨(hone row.2 b x).1.trans hb.1, (hone row.2 b x).2.trans hb.2⟩

/-- With no element beyond the range there is no infinity to put in its place (R99). -/
theorem finalInf_of_noOvf {t : SumpTile} (h : t.ovf = []) : t.finalInf.1 = t := by
  cases t; cases h; rfl

theorem canLower_of_noOvf {t : SumpTile} (h : t.ovf = []) : t.canLower = false := by simp [canLower, h]

end SumpTile

/-! ### A transfer that runs alone -/

section
variable {s : State} {g k : Nat}

/-- The commit of an unbound tile that does not spill only turns its banks (R102). -/
theorem State.commitTile_unbound (hs : s.mem.err = []) (hsp : ((s.hum g).tile k).spilling = false)
    (hbind : ((s.hum g).tile k).bind = false) (n leaves : Nat) :
    s.commitTile g k n leaves = s.modHum g fun h => h.setTile k (((s.hum g).tile k).commit n leaves) := by
  have hb : (((s.hum g).tile k).commit n leaves).bind = false := hbind
  simp [State.commitTile, State.spillDone_of_idle hsp, State.eccRows_of_clean hs, State.spillDue, hb]

/-- Without an element beyond the range, the decision about a tile is to commit it (R97). -/
theorem State.decideTiles_commits (hs : s.mem.err = []) {y : SumpTile} (hy : ((s.hum g).tile k).bare = y.bare)
    (hsp : y.spilling = false) (hbind : y.bind = false) (hovf : y.ovf = []) (cls : Nat) (clr : Bool) (n leaves : Nat) :
    ∃ t, s.decideTiles g cls clr n leaves [k] = (t, false) ∧ s.onlyTile t g k ∧ ((t.hum g).tile k).bare = (y.commit n leaves).bare := by
  have hinf : ((s.hum g).tile k).finalInf.1.bare = y.bare := by
    rw [← SumpTile.finalInf_bare, hy, SumpTile.finalInf_bare, SumpTile.finalInf_of_noOvf hovf]
  have hcan : ((s.hum g).tile k).canLower = false := by
    rw [← SumpTile.canLower_bare, hy, SumpTile.canLower_bare, SumpTile.canLower_of_noOvf hovf]
  obtain ⟨honly, hbare⟩ := s.putTile_spec g k ((s.hum g).tile k).finalInf.1 ((s.hum g).tile k).finalInf.2
  refine ⟨((s.modHum g fun h => h.setTile k ((s.hum g).tile k).finalInf.1).chargeTile g k
    ((s.hum g).tile k).finalInf.2).commitTile g k n leaves, ?_, ?_⟩
  · simp [State.decideTiles, hcan]
  · generalize (s.modHum g fun h => h.setTile k ((s.hum g).tile k).finalInf.1).chargeTile g k ((s.hum g).tile k).finalInf.2 = b
      at honly hbare
    have hb : ((b.hum g).tile k).bare = y.bare := hbare.trans hinf
    have hbound : ((b.hum g).tile k).bind = false := (show ((b.hum g).tile k).bare.bind = y.bare.bind by rw [hb]).trans hbind
    rw [State.commitTile_unbound (honly.clean hs) ((SumpTile.spilling_of_bare hb).trans hsp) hbound]
    refine ⟨honly.trans (b.onlyTile_setTile g k _), ?_⟩
    rw [State.hum_modHum_same, Hummock.tile_setTile_same, ← SumpTile.commit_bare, hb, SumpTile.commit_bare]

/-- A transfer into a tile begun as x, unbound, without a spill and without overflow, is added and commits at its first attempt. -/
theorem State.addAlone_commits (hs : s.mem.err = []) {x : SumpTile} (hx : ((s.hum g).tile k).bare = x.bare) (hbegun : x.begun = true)
    (hsp : x.spilling = false) (hbind : x.bind = false) (clr : Bool) (rows : List (List (Val × Bool))) (fuel : Nat)
    (hovf : (addTransfer (s.env g) x.lidx.toNat x rows).1.ovf = []) :
    s.onlyTile (s.addAlone g k clr rows (fuel + 1)) g k ∧
      (((s.addAlone g k clr rows (fuel + 1)).hum g).tile k).bare =
        ((addTransfer (s.env g) x.lidx.toNat x rows).1.commit 1 1).bare := by
  obtain ⟨hkbind, hkspill⟩ := x.addTransfer_keeps (s.env g) x.lidx.toNat rows
  generalize hX : (s.hum g).tile k = X at hx
  have hXbegun : X.begun = true := (show X.bare.begun = x.bare.begun by rw [hx]).trans hbegun
  have hXidx : X.lidx = x.lidx := show X.bare.lidx = x.bare.lidx by rw [hx]
  have hsum : (addTransfer (s.env g) x.lidx.toNat X rows).1.bare = (addTransfer (s.env g) x.lidx.toNat x rows).1.bare := by
    have h := X.addTransfer_bare (s.env g) x.lidx.toNat rows
    rw [hx, x.addTransfer_bare] at h
    exact (congrArg Prod.fst h).symm
  generalize hZ : addTransfer (s.env g) x.lidx.toNat X rows = Z at hsum
  obtain ⟨honly, hbare⟩ := s.putTile_spec g k Z.1 Z.2
  obtain ⟨t, hdecide, honly', hcommit⟩ := State.decideTiles_commits (honly.clean hs) (hbare.trans hsum) (hkspill.trans hsp)
    (hkbind.trans hbind) hovf 0x02 clr 1 1
  have hrun : s.addAlone g k clr rows (fuel + 1) = t := by
    simp [State.addAlone, hX, SumpTile.begin_of_begun hXbegun, hXidx, hZ, hdecide]
  rw [hrun]
  exact ⟨honly.trans honly', hcommit⟩

theorem State.eccAdded_clean (hs : s.mem.err = []) (clr : Bool) (n : Nat) : s.eccAdded g clr false [(k, n)] = (s, false) := by
  cases clr <;> simp [State.eccAdded, State.eccTile_of_clean hs]

end

/-! ### WRED into a tile -/

section
variable {s u : State} {g : Fin 96} {e : Issued} {f : WeirFields}

theorem State.onlyTile.env {s t : State} {g k : Nat} (h : s.onlyTile t g k) : t.env g = s.env g := by
  have hholder : (t.hum g).holder = (s.hum g).holder := by rw [← h.rest]
  simp only [State.env, hholder]

/-- What tile x holds once the rows of the Mere that WRED reads are added to its working bank. -/
def Issued.redTile (e : Issued) (f : WeirFields) (env : RunEnv) (mere : List Host.Cell) (x : SumpTile) : SumpTile :=
  (addTransfer env x.lidx.toNat (x.begin f.clr false) (mereVals mere (e.da, f.sfmt))).1

/-- WRED of rows of the Mere, not shared, adds them to its tile and commits it. -/
theorem State.startRedTile_adds (hs : u.mem.err = []) (hsrc : f.srck = 0) (hown : ownMere [(e.da, f.sfmt)])
    (hshared : (f.shr && (u.env g).mode == 0) = false) {x : SumpTile} (hx : (u.hum g).tile f.dtile.toNat = x)
    (hsp : x.spilling = false) (hbind : x.bind = false) (hovf : (e.redTile f (u.env g) (u.hum g).mere x).ovf = []) :
    ∃ t, u.startRedTile g e f = t.finish g e.id ∧ u.onlyTile t g f.dtile.toNat ∧
      ((t.hum g).tile f.dtile.toNat).bare = ((e.redTile f (u.env g) (u.hum g).mere x).commit 1 1).bare := by
  have hspace : e.da.space = 0 := (hown _ List.mem_cons_self).1
  have hopen : u.opensTo u g [] [(e.da, f.sfmt)] [] := hown.opensTo rfl u g
  have hread := State.readSource_mere (g := g) hs [] (o := (e.da, f.sfmt)) hspace true f.tile
  generalize hk : f.dtile.toNat = k at hx
  let evs : Cnt := ({} : Cnt).add (inputFlush (mereVals (u.hum g).mere (e.da, f.sfmt)))
  obtain ⟨honly, hbare⟩ := u.putTile_spec g k (x.begin f.clr false) evs
  have hbegin : (u.modHum g fun h => h.setTile k ((h.tile k).begin f.clr false)) = u.modHum g fun h => h.setTile k (x.begin f.clr false) := by
    simp only [State.modHum, hx]
  generalize hv : (u.modHum g fun h => h.setTile k (x.begin f.clr false)).chargeTile g k evs = v at honly hbare
  have hlidx : (x.begin f.clr false).lidx = x.lidx := by unfold SumpTile.begin; split <;> rfl
  obtain ⟨honly', hcommit⟩ := State.addAlone_commits (honly.clean hs) hbare (x.begin_begun f.clr false) (by simp [hsp]) (by simp [hbind])
    f.clr (mereVals (u.hum g).mere (e.da, f.sfmt)) 3 (by rw [honly.env, hlidx]; exact hovf)
  refine ⟨v.addAlone g k f.clr (mereVals (u.hum g).mere (e.da, f.sfmt)) 4, ?_, honly.trans honly', ?_⟩
  · rw [State.startRedTile, weirReads, if_pos hsrc, State.runOp_opens hopen]
    simp only [hsrc, if_true, State.knock, List.foldl_nil, hread, hshared, State.eccAdded_clean hs, hk]
    rw [← hv, ← hbegin]
    rfl
  · rw [hcommit, honly.env, hlidx]; rfl

end

end Sys2Proof.Machine
end

section
/-!
PROOFS. WRED into a Sump tile, as an instruction (04 R92, R97, R102).
-/

namespace Sys2Proof.Machine

section
variable {s u : State} {g : Hum} {e : Issued} {f : WeirFields}

/-- A hummock where one tile at most has changed. -/
theorem State.onlyTile.hum_eq {s t : State} {g k : Nat} (h : s.onlyTile t g k) : t.hum g = { (s.hum g) with sump := (t.hum g).sump } := by
  rw [← h.rest]

/-- The hummock of an instruction that changed one tile at most, once it has finished. -/
theorem State.onlyTile.finish_hum {t : State} {k : Nat} (h : (s.entered g e).onlyTile t g k) (hu : (s.hum g).unret = []) :
    (t.finish g e.id).hum g =
      { (s.hum g) with
        unret := [{ e with phase := .done, held := 0 }], nextId := (s.hum g).nextId + 1
        seq := { (s.hum g).seq with pc := (s.hum g).seq.pc + 1 }, sump := (t.hum g).sump } := by
  rw [State.finish_hum_same, h.hum_eq, State.entered_hum_same]
  simp [hu]

/-- WRED of rows of the Mere, not shared and without overflow, adds them to an unbound tile and has finished. -/
theorem exec_wred_adds (hi : s.idleIssue g) (hr : (s.hum g).tilesAtRest) (hs : s.mem.err = []) (he : e = s.entry g (.wred g f) (.wred f))
    (hsrc : f.srck = 0) (hdst : f.dstk = true) (hshared : (f.shr && (s.env g).mode == 0) = false)
    (hbind : ((s.hum g).tile f.dtile.toNat).bind = false) (hok : (s.entered g e).redOk g e f = true)
    (hown : ownMere [(e.da, f.sfmt)])
    (hovf : (e.redTile f (s.env g) (s.hum g).mere ((s.hum g).tile f.dtile.toNat)).ovf = []) :
    ∃ t, exec (.wred g f) s = .next (t.finish g e.id) ∧ (s.entered g e).onlyTile t g f.dtile.toNat ∧
      ((t.hum g).tile f.dtile.toNat).bare =
        ((e.redTile f (s.env g) (s.hum g).mere ((s.hum g).tile f.dtile.toNat)).commit 1 1).bare := by
  have hop : e.op = .wred f := by rw [he]; rfl
  have henv : (s.entered g e).env g = s.env g := State.entered_sameView.env g
  have hmere : ((s.entered g e).hum g).mere = (s.hum g).mere := State.entered_sameView.mere g
  have htile : ((s.entered g e).hum g).tile f.dtile.toNat = (s.hum g).tile f.dtile.toNat := by rw [State.entered_hum_same]; rfl
  obtain ⟨t, hstart, honly, hbare⟩ := State.startRedTile_adds (u := s.entered g e) hs hsrc hown (by rw [henv]; exact hshared) htile
    (hr.2 _) hbind (by rw [henv, hmere]; exact hovf)
  rw [henv, hmere] at hbare
  have hhum := honly.finish_hum hi.2.2.1
  refine ⟨t, exec_station_starts rfl hi he ?_ ?_ ?_ ?_, honly, hbare⟩
  · exact State.mayStart_entry hi hr he rfl (by simp [opWrites, writeOps, hop, hdst]) (by simp [streamUser, hsrc])
  · simp only [State.startOp, hop, State.startRed, hok, hdst, hstart]
    rfl
  · rw [hhum]
  · rw [hhum]

end

end Sys2Proof.Machine
end

section
/-!
PROOFS. The contributions of WRED to the memory-side reduction units (04 R111; 05 R128, R129).
-/

namespace Sys2Proof.Machine

/-! ### Lists of rows of one length -/

theorem length_flatMap_of_uniform {α β : Type} {f : α → List β} {n : Nat} {xs : List α} (h : ∀ x ∈ xs, (f x).length = n) :
    (xs.flatMap f).length = xs.length * n := by
  rw [List.length_flatMap, List.map_congr_left h]
  simp

/-- In row order, element c of row r stands at r x n + c. -/
theorem getElem?_flatMap_of_uniform {α β : Type} {f : α → List β} {n r c : Nat} {xs : List α} {x : α} (h : ∀ x ∈ xs, (f x).length = n)
    (hx : xs[r]? = some x) (hc : c < n) : (xs.flatMap f)[r * n + c]? = (f x)[c]? := by
  induction xs generalizing r with
  | nil => simp at hx
  | cons y ys ih =>
    have hy : (f y).length = n := h y List.mem_cons_self
    rw [List.flatMap_cons]
    cases r with
    | zero =>
      obtain rfl : y = x := by simpa using hx
      rw [List.getElem?_append_left (by omega), Nat.zero_mul, Nat.zero_add]
    | succ r =>
      rw [Nat.succ_mul, List.getElem?_append_right (by omega), ← ih (fun z hz => h z (List.mem_cons_of_mem _ hz)) (by simpa using hx)]
      congr 1
      omega

/-! ### The contributions of a row -/

/-- A row converted under an FMT without scales has a code for each value. -/
theorem convRow_codes_length {f : BitVec 12} (hf : fScaled f = false) (so : Option Val) (rm : Nat → Rm) (vs : List Val) :
    (convRow f so rm vs).codes.length = vs.length := by simp [convRow, hf]

section
variable {s t : State} {g : Hum} {e : Issued} {f : WeirFields} {m : List TlbEntry}

/-- The contribution of element c of row r, with those bits. -/
def State.contribAt (s : State) (g : Hum) (i : Issued) (f : WeirFields) (m : List TlbEntry) (r c bits : Nat) : Contrib :=
  let a := (i.db.ebase + r * i.db.stride + 4 * c) % 2 ^ 52
  { src := some (g, i.id), xfer := none, ctx := BitVec.ofNat 6 (s.ctxOf g), va := BitVec.ofNat 52 a
    dpa := elemDpa (leafAt m (s.ctxOf g) a) a, code := fCode f.dfmt, bits := BitVec.ofNat 64 bits, ordered := (s.env g).mode != 0
    q := i.va.extractLsb' 0 15, p := (i.va.extractLsb' 16 16).setWidth 17, round := i.va.extractLsb' 32 32
    launch := s.ep.launch.getD 0, att := s.ep.att, epoch := s.openEpoch, mode := (s.env g).mode, tag := BitVec.ofNat 31 i.db.tag
    leaf := leafAt m (s.ctxOf g) a }

theorem State.contribs_eq (r : Nat) (codes : List Nat) :
    s.contribs g e f m r codes = codes.zipIdx.map fun x => s.contribAt g e f m r x.2 x.1 := rfl

theorem State.length_contribs (r : Nat) (codes : List Nat) : (s.contribs g e f m r codes).length = codes.length := by
  simp [State.contribs_eq]

theorem State.getElem?_contribs {r c : Nat} {codes : List Nat} (hc : c < codes.length) :
    (s.contribs g e f m r codes)[c]? = some (s.contribAt g e f m r c (codes[c]?.getD 0)) := by
  simp [State.contribs_eq, hc]

/-! ### The contributions of a transfer -/

/-- The rows of a WRED, converted to the FMT of its contributions (log 102). -/
def Issued.redRows (e : Issued) (f : WeirFields) (seed : BitVec 64) (rows : List (List (Val × Bool))) : List Conv :=
  rows.zipIdx.map fun x => convRow f.dfmt none (e.db.rm f.dfmt seed x.2) (x.1.map fun y => y.1)

/-- The contributions of a WRED, in row order. -/
def State.redOut (s : State) (g : Hum) (e : Issued) (f : WeirFields) (m : List TlbEntry) (cs : List Conv) : List Contrib :=
  cs.zipIdx.flatMap fun x => s.contribs g e f m x.2 x.1.codes

/-- Every contribution is that of one element. -/
theorem State.mem_redOut {cs : List Conv} {y : Contrib} (h : y ∈ s.redOut g e f m cs) :
    ∃ r c bits, y = s.contribAt g e f m r c bits := by
  obtain ⟨x, -, hy⟩ := List.mem_flatMap.1 h
  rw [State.contribs_eq] at hy
  obtain ⟨z, -, rfl⟩ := List.mem_map.1 hy
  exact ⟨_, _, _, rfl⟩

section
variable {cs : List Conv} {n : Nat} (hn : ∀ x ∈ cs, x.codes.length = n)
include hn

theorem State.rowLength_redOut : ∀ x ∈ cs.zipIdx, (s.contribs g e f m x.2 x.1.codes).length = n := fun x hx => by
  obtain ⟨c, r⟩ := x
  rw [State.length_contribs]
  exact hn _ (List.fst_mem_of_mem_zipIdx hx)

theorem State.length_redOut : (s.redOut g e f m cs).length = cs.length * n := by
  rw [State.redOut, length_flatMap_of_uniform (State.rowLength_redOut hn), List.length_zipIdx]

theorem State.getElem?_redOut {r c : Nat} {x : Conv} (hx : cs[r]? = some x) (hc : c < n) :
    (s.redOut g e f m cs)[r * n + c]? = some (s.contribAt g e f m r c (x.codes[c]?.getD 0)) := by
  rw [State.redOut, getElem?_flatMap_of_uniform (State.rowLength_redOut hn) (x := (x, r)) (by simp [hx]) hc]
  exact State.getElem?_contribs (by rw [hn x (List.mem_of_getElem? hx)]; exact hc)

end

/-- Contributions turn on the hummock's launch and on the epoch alone. -/
theorem State.redOut_congr (hv : s.sameView t) (hep : t.ep = s.ep) (cs : List Conv) : t.redOut g e f m cs = s.redOut g e f m cs := by
  have hopen : t.openEpoch = s.openEpoch := by rw [State.openEpoch, hep]; rfl
  have hone (r c bits : Nat) : t.contribAt g e f m r c bits = s.contribAt g e f m r c bits := by
    simp only [State.contribAt, hv.ctxOf, hv.env, hep, hopen]
  simp only [State.redOut, State.contribs_eq, hone]

/-- The converted rows of a WRED from the Mere have a code for each element. -/
theorem redRows_codes (hf : fScaled f.dfmt = false) (seed : BitVec 64) (c : List Host.Cell) :
    ∀ x ∈ e.redRows f seed (mereVals c (e.da, f.sfmt)), x.codes.length = e.da.len := fun x hx => by
  obtain ⟨⟨row, r⟩, hrow, rfl⟩ := List.mem_map.1 hx
  obtain ⟨y, -, rfl⟩ := List.mem_map.1 (List.fst_mem_of_mem_zipIdx hrow)
  simp [convRow_codes_length hf, rowVals_length]

/-- Its row r is the operand's row r, converted. -/
theorem redRows_getElem? (seed : BitVec 64) (c : List Host.Cell) {r : Nat} (hr : r < e.da.rows) :
    (e.redRows f seed (mereVals c (e.da, f.sfmt)))[r]? = some (convRow f.dfmt none (e.db.rm f.dfmt seed r)
      ((rowVals f.sfmt (mereRow c (e.da, f.sfmt) r).1 (mereRow c (e.da, f.sfmt) r).2 e.da.len).map fun v => v.1)) := by
  simp [Issued.redRows, mereVals_getElem? c (e.da, f.sfmt) hr]

end

end Sys2Proof.Machine
end

section
/-!
PROOFS. WRED of rows of the Mere to device memory (04 R111; 05 R128, R129), which settles O14.
-/

namespace Sys2Proof.Machine

section
variable {s u s1 : State} {g : Hum} {e : Issued} {f : WeirFields} {m : List TlbEntry}

/-- A WRED whose contributions have been handed to the reduction units. -/
def State.redSent (s : State) (g : Hum) (e : Issued) (out : List Contrib) (tag : Nat) (cnt : Cnt) : State :=
  ((s.charge tag cnt).modMem fun mm => { mm with contribs := mm.contribs ++ out }).modOp g e.id fun j =>
    { j with phase := .running, held := 0, outstanding := out.length }

/-- A destination that is no partner's Mere wakes nobody and is reached; one in device memory is checked by its translation alone. -/
theorem State.runOp_toUnits {r w : Opnd} (hr : r.1.space = 0) (hmere : mereOk r = true) (hw : w.1.space = 1)
    (hx : u.xlateOpnds g (u.ctxOf g) [r] [w] = (s1, m, .ok)) (hbusy : s1.framesBusy m = false) (k : State → List TlbEntry → State) :
    u.runOp g e [r] [w] k = k s1 m := by
  have hknock : s1.knock g [w] = s1 := State.knock_of_own fun o ho => by simp [List.mem_singleton.1 ho, hw]
  have hwmere : mereOk w = true := by simp [mereOk, hw]
  simp [State.runOp, hmere, hwmere, hx, hknock, hbusy, State.reaches, hr, hw]

/-- What a WRED to the reduction units requires of its operands. -/
theorem State.redOk_units (h : u.redOk g e f = true) (hsrc : f.srck = 0) (hdst : f.dstk = false) :
    e.db.space = 1 ∧ fScaled f.dfmt = false ∧ e.db.rows = e.da.rows ∧ e.db.len = e.da.len := by
  rw [State.redOk, hdst, if_neg Bool.false_ne_true, State.weirShapeOk, if_pos hsrc, contribOk, sameShape] at h
  simp only [Bool.and_eq_true, beq_iff_eq, Bool.not_eq_true'] at h
  obtain ⟨⟨⟨⟨-, hscaled, -⟩, hdev⟩, -⟩, -, ⟨hrows, hlen⟩, -⟩ := h
  exact ⟨hdev, hscaled, hrows.symm, hlen.symm⟩

/-- WRED of rows of the Mere sends one contribution for each element. -/
theorem State.startRed_sends (hl : u.LookFrame s1) (hu : u.UnitFrame s1) (hsrc : f.srck = 0) (hdst : f.dstk = false)
    (hok : u.redOk g e f = true) (hspace : e.da.space = 0) (hmere : mereOk (e.da, f.sfmt) = true)
    (hx : u.xlateOpnds g (u.ctxOf g) [(e.da, f.sfmt)] [(e.db, fmt32)] = (s1, m, .ok)) (hbusy : s1.framesBusy m = false) :
    ∃ cnt, u.startRed g e f =
      s1.redSent g e (u.redOut g e f m (e.redRows f (u.env g).seed (mereVals (u.hum g).mere (e.da, f.sfmt)))) e.db.tag cnt := by
  obtain ⟨hdev, -, hrows, hlen⟩ := State.redOk_units hok hsrc hdst
  have hread := State.readSource_mere (g := g) hl.clean m (o := (e.da, f.sfmt)) hspace true f.tile
  rw [hl.sameView.mere] at hread
  have hstart : u.startRed g e f = u.startRedUnit g e f := by simp [State.startRed, hok, hdst]
  rw [hstart, State.startRedUnit, weirReads, if_pos hsrc, weirWrites,
    State.runOp_toUnits (r := (e.da, f.sfmt)) (w := (e.db, fmt32)) hspace hmere hdev hx hbusy,
    ← State.redOut_congr hl.sameView hu.ep, ← hl.sameView.env]
  simp only [hsrc, hrows, hlen, hread]
  exact ⟨_, rfl⟩

theorem State.redSent_hum (out : List Contrib) (tag : Nat) (cnt : Cnt) : (s1.redSent g e out tag cnt).hum g =
    { (s1.hum g) with
      unret := (s1.hum g).unret.map fun i =>
        if i.id == e.id then { i with phase := .running, held := 0, outstanding := out.length } else i } :=
  State.hum_modHum_same _ _ _

/-- WRED of rows of the Mere to device memory issues, and waits until its contributions are accepted. -/
theorem exec_wred_sends (hi : s.idleIssue g) (hs : s.mem.err = []) (he : e = s.entry g (.wred g f) (.wred f)) (hsrc : f.srck = 0)
    (hdst : f.dstk = false) (hm : (s.entered g e).mayStart g e = true) (hok : (s.entered g e).redOk g e f = true)
    (hspace : e.da.space = 0) (hmere : mereOk (e.da, f.sfmt) = true)
    (hx : (s.entered g e).xlateOpnds g (s.ctxOf g) [(e.da, f.sfmt)] [(e.db, fmt32)] = (s1, m, .ok)) (hbusy : s1.framesBusy m = false) :
    let out := s.redOut g e f m (e.redRows f (s.env g).seed (mereVals (s.hum g).mere (e.da, f.sfmt)))
    ∃ t, exec (.wred g f) s = .next t ∧ t.mem.contribs = s.mem.contribs ++ out ∧
      (t.hum g).unret = [{ e with phase := .running, held := 0, outstanding := out.length }] ∧
      (t.hum g).mere = (s.hum g).mere ∧ t.mem.hbm = s.mem.hbm ∧ ∀ k, k ≠ g.val → t.hum k = s.hum k := by
  intro out
  have hop : e.op = .wred f := by rw [he]; rfl
  have hv : s.sameView (s.entered g e) := State.entered_sameView
  have hl : (s.entered g e).LookFrame s1 := by
    have := State.xlateOpnds_look (s := s.entered g e) hs g (s.ctxOf g) [(e.da, f.sfmt)] [(e.db, fmt32)]
    rwa [hx] at this
  have hu : (s.entered g e).UnitFrame s1 := by
    have := (s.entered g e).xlateOpnds_units g (s.ctxOf g) [(e.da, f.sfmt)] [(e.db, fmt32)]
    rwa [hx] at this
  obtain ⟨cnt, hstart⟩ := State.startRed_sends hl hu hsrc hdst hok hspace hmere (by rw [hv.ctxOf]; exact hx) hbusy
  rw [State.redOut_congr hv rfl, hv.env, hv.mere] at hstart
  have hlook (k : Nat) : s1.hum k = (s.entered g e).hum k := by simp only [State.hum, hl.hums]
  have hhum : ((s1.redSent g e out e.db.tag cnt).hum g) =
      { (s.hum g) with
        unret := [{ e with phase := .running, held := 0, outstanding := out.length }], nextId := (s.hum g).nextId + 1
        seq := { (s.hum g).seq with pc := (s.hum g).seq.pc + 1 } } := by
    rw [State.redSent_hum, hlook, State.entered_hum_same]
    have hunret : (s.hum g).unret = [] := hi.2.2.1
    simp [hunret]
  refine ⟨s1.redSent g e out e.db.tag cnt, exec_station_starts rfl hi he hm ?_ ?_ ?_, ?_, ?_, ?_, hl.hbm, fun k hk => ?_⟩
  · simp only [State.startOp, hop]
    exact hstart
  · rw [hhum]
  · rw [hhum]
  · exact congrArg (· ++ out) hu.contribs
  · rw [hhum]
  · rw [hhum]
  · exact (State.hum_modHum_ne _ _ hk).trans ((hlook k).trans (State.entered_hum_ne hk))

end

/-- Settles O14. Into a tile, the rows are added and commit at the first attempt (`exec_wred_adds`); to device memory, each element goes
out as one contribution (`exec_wred_sends`), and element c of row r is the one at r x L + c (`State.getElem?_redOut`). -/
theorem wredResult : Obligations.WredResult := by
  unfold Obligations.WredResult
  refine ⟨fun s g f hi hgroups hs hrest => ?tile, fun s s1 g f m hi hs => ?units⟩
  case tile =>
    intro e x rows y hsrc hdst hshared hbind hok hown hovf
    obtain ⟨t, hexec, honly, hbare⟩ := exec_wred_adds hi ⟨hgroups, hrest⟩ hs rfl hsrc hdst hshared hbind hok hown hovf
    have hhum := honly.finish_hum hi.2.2.1
    refine ⟨t.finish g e.id, hexec, ⟨?_, ?_⟩, ?_, fun k hk => ?_, ?_, ?_, honly.mem, fun k hk => ?_⟩
    · rw [hhum]
    · rw [hhum]
    · rw [State.finish_hum_same]; exact hbare
    · rw [State.finish_hum_same]; exact (honly.tiles k hk).trans (by rw [State.entered_hum_same]; rfl)
    · rw [hhum]
    · rw [hhum]
    · exact (State.finish_hum_ne t _ hk).trans ((honly.others k hk).trans (State.entered_hum_ne hk))
  case units =>
    intro e u hsrc hdst hm hok hspace hmere hx hbusy
    obtain ⟨t, hexec, hcontribs, hunret, hmere', hhbm, hothers⟩ := exec_wred_sends hi hs rfl hsrc hdst hm hok hspace hmere hx hbusy
    obtain ⟨-, hscaled, -⟩ := State.redOk_units hok hsrc hdst
    have hcodes := redRows_codes (e := e) hscaled (s.env g).seed (s.hum g).mere
    refine ⟨t, _, hexec, hcontribs, ?_, fun y hy => ?_, fun r c hr hc => ?_, hunret, hmere', hhbm, hothers⟩
    · rw [State.length_redOut hcodes]
      simp [Issued.redRows, mereVals_length]
    · obtain ⟨r, c, bits, rfl⟩ := State.mem_redOut hy
      exact ⟨rfl, rfl, rfl, rfl, rfl, rfl, rfl, rfl, rfl, rfl⟩
    · exact ⟨_, State.getElem?_redOut hcodes (redRows_getElem? _ _ hr) hc, rfl, rfl, rfl, rfl⟩

end Sys2Proof.Machine
end

section
/-!
PROOFS. The element that an elementwise Reed operation computes (08 R194, R195; 05 R142; 02 R57), which settles O17.
-/

namespace Sys2Proof.Machine

/-! ### One rounding, whatever has been counted before it -/

section
variable (w : Format) (x y z : Val)

theorem yields_rnd (r : Val × Bool) : Yields (rnd w r) (· = (w.round .rne r.1).1) := fun _ => rfl

theorem yields_fadd : Yields (fadd w x y) (· = (w.round .rne (x.add y).1).1) := yields_rnd w _

theorem yields_fsub : Yields (fsub w x y) (· = (w.round .rne (x.sub y).1).1) := yields_rnd w _

theorem yields_fmul : Yields (fmul w x y) (· = (w.round .rne (x.mul y).1).1) := yields_rnd w _

theorem yields_fdiv : Yields (fdiv w x y) (· = (w.round .rne (x.div y).1).1) := yields_rnd w _

/-- The product is exact: the sum alone is rounded. -/
theorem yields_ffma : Yields (ffma w x y z) (· = (w.round .rne ((x.mul y).1.add z).1).1) := yields_rnd w _

/-- Two roundings: the product with log2 e, and 2 to it (05 R142). -/
theorem yields_v40Exp :
    Yields (v40Exp x) (· = (f32.round .rne (fexp2 f32 (f32.round .rne (x.mul (val32 0x3FB8AA3B)).1).1).1).1) :=
  .bind (yields_fmul f32 x _) fun y hy => by subst hy; exact yields_rnd f32 _

end

/-! ### Maximum and minimum of a NaN (02 R57) -/

section
variable {x y : Val}

theorem Val.maximum_of_nan (h : x = .nan ∨ y = .nan) : x.maximum y = .nan := by
  obtain rfl | rfl := h <;> simp [Val.maximum, Val.isNan]

theorem Val.minimum_of_nan (h : x = .nan ∨ y = .nan) : x.minimum y = .nan := by
  obtain rfl | rfl := h <;> simp [Val.minimum, Val.isNan]

theorem Val.nan_maximumNumber (y : Val) : Val.nan.maximumNumber y = y := rfl

theorem Val.nan_minimumNumber (y : Val) : Val.nan.minimumNumber y = y := rfl

theorem Val.maximumNumber_nan (x : Val) : x.maximumNumber .nan = x := by cases x <;> rfl

theorem Val.minimumNumber_nan (x : Val) : x.minimumNumber .nan = x := by cases x <;> rfl

end

/-! ### The branch of each code (08 R194) -/

section
variable (w : Format) (v : Bool) (k x y z : Val)

theorem ropElem_add : ropElem w v 0x00 k x y z = fadd w x y := rfl

theorem ropElem_sub : ropElem w v 0x01 k x y z = fsub w x y := rfl

theorem ropElem_mul : ropElem w v 0x02 k x y z = fmul w x y := rfl

theorem ropElem_div : ropElem w v 0x03 k x y z = fdiv w x y := rfl

theorem ropElem_fma : ropElem w v 0x04 k x y z = ffma w x y z := rfl

theorem ropElem_axpb : ropElem w v 0x05 k x y z = ffma w x k y := rfl

theorem ropElem_sqrt : ropElem w v 0x06 k x y z = rnd w x.sqrt := rfl

theorem ropElem_recip : ropElem w v 0x07 k x y z = fdiv w (vone false) x := rfl

theorem ropElem_rsqrt : ropElem w v 0x08 k x y z = rnd w (frsqrt x) := rfl

theorem ropElem_exp : ropElem w false 0x09 k x y z = rnd w (fexp w x) := rfl

theorem ropElem_exp_v40 : ropElem w true 0x09 k x y z = v40Exp x := rfl

theorem ropElem_exp2 : ropElem w v 0x0A k x y z = rnd w (fexp2 w x) := rfl

theorem ropElem_log : ropElem w v 0x0B k x y z = rnd w (flog w x) := rfl

theorem ropElem_log2 : ropElem w v 0x0C k x y z = rnd w (flog2 w x) := rfl

theorem ropElem_tanh : ropElem w v 0x0D k x y z = rnd w (ftanh w x) := rfl

theorem ropElem_sigmoid : ropElem w v 0x0E k x y z = rnd w (fsigmoid w x) := rfl

theorem ropElem_gelu : ropElem w v 0x0F k x y z = rnd w (fgelu w x) := rfl

theorem ropElem_max : ropElem w v 0x10 k x y z = pure (x.maximum y) := rfl

theorem ropElem_min : ropElem w v 0x11 k x y z = pure (x.minimum y) := rfl

theorem ropElem_maxnum : ropElem w v 0x12 k x y z = pure (x.maximumNumber y) := rfl

theorem ropElem_minnum : ropElem w v 0x13 k x y z = pure (x.minimumNumber y) := rfl

theorem ropElem_cvt : ropElem w v 0x14 k x y z = pure x := rfl

end

/-- Settles O17. Each code has its branch (`ropElem_add` to `ropElem_cvt`), and a branch that rounds does so once, whatever has been
counted (`yields_rnd`); the maximum and the minimum of a NaN are those of R57. -/
theorem reedElement : Obligations.ReedElement := by
  unfold Obligations.ReedElement
  intro w k x y z
  rw [ropElem_add, ropElem_sub, ropElem_mul, ropElem_div, ropElem_fma, ropElem_cvt, ropElem_axpb, ropElem_sqrt, ropElem_recip,
    ropElem_rsqrt, ropElem_exp, ropElem_exp_v40, ropElem_exp2, ropElem_log, ropElem_log2, ropElem_tanh, ropElem_sigmoid,
    ropElem_gelu, ropElem_max, ropElem_min, ropElem_maxnum, ropElem_minnum]
  refine ⟨yields_fadd w x y {}, yields_fsub w x y {}, yields_fmul w x y {}, yields_fdiv w x y {}, yields_ffma w x y z {}, ?cvt,
    yields_ffma w x k y {}, yields_rnd w _ {}, yields_fdiv w _ x {}, yields_rnd w _ {}, yields_rnd w _ {}, yields_v40Exp x {},
    yields_rnd w _ {}, yields_rnd w _ {}, yields_rnd w _ {}, yields_rnd w _ {}, yields_rnd w _ {}, yields_rnd w _ {},
    fun h => ⟨?max, ?min⟩, ?left, ?right⟩
  case cvt => rfl
  case max => exact Val.maximum_of_nan h
  case min => exact Val.minimum_of_nan h
  case left =>
    rintro rfl
    exact ⟨Val.nan_maximumNumber y, Val.nan_minimumNumber y⟩
  case right =>
    rintro rfl
    exact ⟨Val.maximumNumber_nan x, Val.minimumNumber_nan x⟩

end Sys2Proof.Machine
end

section
/-!
PROOFS. How a Lerkar packet is answered (11 R270 to R279): one that passes its checks is decided by its action, and the submissions
taken after it leave the contexts' states, the commit state and the ladder alone.
-/

namespace Sys2Proof.Machine

/-! ### A packet that passes its checks (R277) -/

/-- In s1, which has taken packet h, the checks of R277 find its class, its length, its parameters and the state in order. -/
structure Chk.Passes (k : Chk) (h : Hdr) (s1 : State) : Prop where
  cls : classBroken k.cls h = false
  len : k.lenOk = true
  args : k.argsOk = true
  legal : k.legal s1 = true

section
variable {s s1 u : State} {h : Hdr} {k : Chk} {act : State → Done} {d : Nat}

/-- A packet that is taken, and none of whose accesses stalls, is judged. -/
theorem State.command_judged (ht : s.takesCmd s1 h k.opc) (hfree : (k.spans s).any s.spanHeld = false) :
    s.command h k act = (s1.judgePacket h k act).concluded h := by
  obtain ⟨hheld, htake, -, -⟩ := ht
  simp [State.command, hheld, hfree, htake]

/-- A packet that passes, and whose command takes effect at once, is answered OK. -/
theorem State.command_now (ht : s.takesCmd s1 h k.opc) (hfree : (k.spans s).any s.spanHeld = false) (hp : k.Passes h s1)
    (ha : act s1 = .now u stOK d) : s.command h k act = s1.answers u h k.opc k.named (k.graph s1) d := by
  rw [State.command_judged ht hfree]
  obtain ⟨-, -, hpath, hrsvd⟩ := ht
  simp [State.judgePacket, State.answers, hpath, hrsvd, hp.cls, hp.len, hp.args, hp.legal, ha]

/-- A packet that passes, and whose command starts a level, leaves its reply waiting (R283). -/
theorem State.command_later (ht : s.takesCmd s1 h k.opc) (hfree : (k.spans s).any s.spanHeld = false) (hp : k.Passes h s1)
    (ha : act s1 = .later u d) : s.command h k act =
      (u.modFe fun f => { f with wait := some (mkReply stOK k.opc (s1.stateCode k.named (k.graph s1)) h d) }).concluded h := by
  rw [State.command_judged ht hfree]
  obtain ⟨-, -, hpath, hrsvd⟩ := ht
  simp [State.judgePacket, hpath, hrsvd, hp.cls, hp.len, hp.args, hp.legal, ha]

end

/-! ### Submissions taken (12 R296) -/

/-- What the submissions taken in going from s to t leave alone: the commit state, the ladder, device memory, the reply that waits, and
the states of the contexts. -/
structure State.SubmitFrame (s t : State) : Prop where
  ep : t.ep = s.ep
  err : t.err = s.err
  mem : t.mem = s.mem
  wait : t.fe.wait = s.fe.wait
  ctxSt : ∀ k, (t.ctx k).st = (s.ctx k).st

namespace State.SubmitFrame

theorem refl (s : State) : s.SubmitFrame s := ⟨rfl, rfl, rfl, rfl, fun _ => rfl⟩

theorem trans {s t u : State} (h : s.SubmitFrame t) (k : t.SubmitFrame u) : s.SubmitFrame u :=
  ⟨k.ep.trans h.ep, k.err.trans h.err, k.mem.trans h.mem, k.wait.trans h.wait, fun n => (k.ctxSt n).trans (h.ctxSt n)⟩

end State.SubmitFrame

theorem State.jot_submitFrame (s : State) (i : Nat) : s.SubmitFrame (s.jot i) := ⟨rfl, rfl, rfl, rfl, fun _ => rfl⟩

theorem State.msix_submitFrame (s : State) (v : BitVec 11) : s.SubmitFrame (s.msix v) := by
  obtain ⟨out, pba, h⟩ := s.msix_eq v
  rw [h]
  exact ⟨rfl, rfl, rfl, rfl, fun _ => rfl⟩

theorem State.setCtx_submitFrame (s : State) (c : Nat) {x : Ctx} (h : x.st = (s.ctx c).st) : s.SubmitFrame (s.setCtx c x) := by
  refine ⟨rfl, rfl, rfl, rfl, fun k => ?_⟩
  by_cases hk : k = c
  · subst hk
    rw [State.ctx_setCtx_same, h]
  · rw [State.ctx_setCtx_ne s x hk]

/-- All that admitting or refusing a launch can do (12 R298). -/
theorem State.admitNow_cases (s : State) (n : NewLaunch) :
    (∃ d e, s.admitNow n = .now (s.addLaunch n d) stOK e) ∨ ∃ st, s.admitNow n = .now s st 0 := by
  unfold State.admitNow
  dsimp only
  generalize (if n.gid = 0xFFFF then unitsOf n.params.length else 0) = units
  split
  · exact .inl ⟨_, _, rfl⟩
  · exact .inr ⟨_, rfl⟩

/-- All that deciding a submission can do: nothing, a counted violation, or an admission. -/
theorem State.decideDoorbell_cases (s : State) (c : BitVec 6) (e : List Byte) :
    (s.decideDoorbell c e).1 = s ∨ (s.decideDoorbell c e).1 = s.violCmd ∨ ∃ n d, (s.decideDoorbell c e).1 = s.addLaunch n d := by
  unfold State.decideDoorbell
  dsimp only
  split
  case isTrue => exact .inr (.inl rfl)
  case isFalse =>
    split
    case isTrue => exact .inl rfl
    case isFalse =>
      split
      case h_1 => exact .inl rfl
      case h_2 x _ =>
        split
        case isTrue => exact .inl rfl
        case isFalse =>
          split
          case isTrue => exact .inl rfl
          case isFalse =>
            generalize NewLaunch.mk _ _ _ _ _ _ _ _ _ _ _ _ _ _ = n
            obtain ⟨d, e, h⟩ | ⟨st, h⟩ := s.admitNow_cases n <;> rw [h]
            · exact .inr (.inr ⟨_, _, rfl⟩)
            · exact .inl rfl

theorem State.decideDoorbell_submitFrame (s : State) (c : BitVec 6) (e : List Byte) : s.SubmitFrame (s.decideDoorbell c e).1 := by
  obtain h | h | ⟨n, d, h⟩ := s.decideDoorbell_cases c e <;> rw [h]
  · exact .refl s
  · exact ⟨rfl, rfl, rfl, rfl, fun _ => rfl⟩
  · exact ⟨rfl, rfl, rfl, rfl, fun _ => rfl⟩

theorem State.decideSlot_submitFrame (s : State) (c : BitVec 6) (i : BitVec 4) : s.SubmitFrame (s.decideSlot c i).1 := by
  have hsub : s.SubmitFrame (s.setCtx c.toNat { (s.ctx c.toNat) with
      submitted := (s.ctx c.toNat).submitted &&& ~~~(1#16 <<< i.toNat) }) := s.setCtx_submitFrame c.toNat rfl
  unfold State.decideSlot
  dsimp only
  split
  case isTrue => exact hsub
  case isFalse =>
    refine (hsub.trans (State.setCtx_submitFrame _ _ ?_)).trans (State.decideDoorbell_submitFrame _ _ _)
    rw [State.ctx_setCtx_same]

theorem State.takeSlot_submitFrame (s : State) (c : BitVec 6) (i : BitVec 4) : s.SubmitFrame (s.takeSlot c i) := by
  have hd := s.decideSlot_submitFrame c i
  generalize ht : (s.decideSlot c i).1 = t at hd
  have ends (g : Ctx → List Host.Cell) : s.SubmitFrame ((t.modCtx c.toNat fun y => { y with slots := g y }).jot fepIx) := by
    have hslots : t.SubmitFrame (t.modCtx c.toNat fun y => { y with slots := g y }) := t.setCtx_submitFrame c.toNat rfl
    exact (hd.trans hslots).trans (State.jot_submitFrame _ _)
  unfold State.decideSlot at ht
  unfold State.takeSlot
  dsimp only at ht ⊢
  simp only [ht]
  exact iteInduction (motive := s.SubmitFrame) (fun _ => (ends _).trans (State.msix_submitFrame _ _)) (fun _ => ends _)

theorem State.takeDoorbells_submitFrame (s : State) (k fuel : Nat) : s.SubmitFrame (s.takeDoorbells k fuel) := by
  induction fuel generalizing s with
  | zero => exact .refl s
  | succ fuel ih =>
    have hpop (q : List (BitVec 6 × BitVec 4 × Nat)) : s.SubmitFrame (s.modFe fun f => { f with dbq := q }) :=
      ⟨rfl, rfl, rfl, rfl, fun _ => rfl⟩
    unfold State.takeDoorbells
    split
    case h_1 => exact .refl s
    case h_2 c i ahead rest _ =>
      split
      case isTrue => exact ((hpop rest).trans (State.takeSlot_submitFrame _ c i)).trans (ih _)
      case isFalse => exact .refl s

/-- A packet has been decided: its record is written, and the submissions that waited for it are taken. -/
theorem State.concluded_submitFrame (s : State) (h : Hdr) : s.SubmitFrame (s.concluded h) := by
  unfold State.concluded
  split
  · exact (s.jot_submitFrame fepIx).trans (State.takeDoorbells_submitFrame _ _ _)
  · exact .refl s

end Sys2Proof.Machine
end

section
/-!
PROOFS. Unsealing a context (16 R415; 09 R229, R232).
-/

namespace Sys2Proof.Machine

/-! ### Tables -/

/-- What a table does not read as its default stands in it. -/
theorem mem_of_sget_ne {α : Type} {d : α} {m : Store α} {k : Nat} (h : sget d m k ≠ d) : (k, sget d m k) ∈ m := by
  induction m with
  | nil => exact absurd rfl h
  | cons p m ih =>
    obtain ⟨j, v⟩ := p
    by_cases hj : j = k
    · subst hj
      simp [sget]
    · simp only [sget, if_neg hj] at h ⊢
      exact List.mem_cons_of_mem _ (ih h)

/-- A key within the range cleared reads as its default, every other key as before. -/
theorem sget_sclear {α : Type} (d : α) (m : Store α) (lo hi k : Nat) :
    sget d (sclear m lo hi) k = if lo ≤ k ∧ k < hi then d else sget d m k := by
  induction m with
  | nil => simp [sclear]
  | cons p m ih =>
    obtain ⟨j, v⟩ := p
    simp only [sclear] at ih ⊢
    by_cases hj : lo ≤ j ∧ j < hi
    · rw [List.filter_cons_of_neg (by simpa using hj), ih]
      by_cases hk : j = k
      · subst hk; simp [hj]
      · simp only [sget, if_neg hk]
    · rw [List.filter_cons_of_pos (by simp; omega)]
      by_cases hk : j = k
      · subst hk; simp only [sget, if_true, if_neg hj]
      · simp only [sget, if_neg hk, ih]

/-! ### One entry of the ownership map -/

theorem State.wakeStacks_fe (s : State) (a n : Nat) : (s.wakeStacks a n).fe = s.fe := by
  simpa using congrArg State.fe (s.wakeStacks_dev a n).rest

theorem State.wakeStacks_loaded (s : State) (a n : Nat) : (s.wakeStacks a n).mem.loaded = s.mem.loaded :=
  (s.wakeStacks_dev a n).loaded

theorem State.wakeStacks_own (s : State) (a n : Nat) : (s.wakeStacks a n).mem.own = s.mem.own :=
  (s.wakeStacks_dev a n).own

section
variable (s : State) (f : Nat) (e : OwnEntry)

/-- The map's entry of frame f is e; nothing else follows from it yet. -/
def State.setOwner : State := s.modMem fun m => { m with own := sset ownReset m.own f e }

theorem State.setOwner_fe : (s.setOwner f e).fe = s.fe := rfl
theorem State.setOwner_loaded : (s.setOwner f e).mem.loaded = s.mem.loaded := rfl
theorem State.setOwner_own : (s.setOwner f e).mem.own = sset ownReset s.mem.own f e := rfl
theorem State.setOwner_hbm : (s.setOwner f e).mem.hbm = s.mem.hbm := rfl

/-- Zeros are written to frame f (R232). -/
def State.zeroFrame : State := s.modMem fun m =>
  { m with
    hbm := sclear m.hbm (f * frameBytes) ((f + 1) * frameBytes)
    err := sclear m.err (f * 65536) ((f + 1) * 65536), zeroing := m.zeroing ++ [f] }

theorem State.zeroFrame_fe : (s.zeroFrame f).fe = s.fe := rfl
theorem State.zeroFrame_loaded : (s.zeroFrame f).mem.loaded = s.mem.loaded := rfl
theorem State.zeroFrame_own : (s.zeroFrame f).mem.own = s.mem.own := rfl
theorem State.zeroFrame_hbm : (s.zeroFrame f).mem.hbm = sclear s.mem.hbm (f * frameBytes) ((f + 1) * frameBytes) := rfl

theorem State.ownWrite_eq : s.ownWrite f e = if (s.owner f).isSealed && !e.isSealed then
    ((s.setOwner f e).wakeStacks (f * frameBytes) frameBytes).zeroFrame f else s.setOwner f e := rfl

/-- What a write of a map entry does (R229, R232): the entry stands in the map, and clearing SEALED zeroes the frame. -/
theorem State.ownWrite_does : (s.ownWrite f e).fe = s.fe ∧ (s.ownWrite f e).mem.loaded = s.mem.loaded ∧
    (s.ownWrite f e).mem.own = sset ownReset s.mem.own f e ∧ (s.ownWrite f e).mem.hbm =
      if (s.owner f).isSealed && !e.isSealed then sclear s.mem.hbm (f * frameBytes) ((f + 1) * frameBytes) else s.mem.hbm := by
  rw [State.ownWrite_eq]
  split
  · rw [State.zeroFrame_fe, State.zeroFrame_loaded, State.zeroFrame_own, State.zeroFrame_hbm, State.wakeStacks_fe,
      State.wakeStacks_loaded, State.wakeStacks_own, State.wakeStacks_hbm]
    exact ⟨rfl, rfl, rfl, rfl⟩
  · exact ⟨rfl, rfl, rfl, rfl⟩

theorem State.ownWrite_owner (k : Nat) : (s.ownWrite f e).owner k = if k = f then e else s.owner k := by
  obtain ⟨-, -, hown, -⟩ := s.ownWrite_does f e
  simp only [State.owner, hown, sget_sset]

theorem dpaFrame_eq_iff (a f : Nat) : dpaFrame a = f ↔ f * frameBytes ≤ a ∧ a < (f + 1) * frameBytes := by
  unfold dpaFrame frameBytes
  omega

/-- The bytes of a frame that is unsealed read zero; no other byte changes. -/
theorem State.ownWrite_byte (a : Nat) : bget (s.ownWrite f e).mem.hbm a =
    if dpaFrame a = f ∧ (s.owner f).isSealed = true ∧ e.isSealed = false then 0 else bget s.mem.hbm a := by
  obtain ⟨-, -, -, hhbm⟩ := s.ownWrite_does f e
  cases ho : (s.owner f).isSealed <;> cases he : e.isSealed <;> simp [hhbm, ho, he, bget, sget_sclear, dpaFrame_eq_iff]

end

/-! ### Every frame that a context owns -/

/-- The entry is sealed by context c. -/
def OwnEntry.sealedBy (e : OwnEntry) (c : Nat) : Bool := e.isSealed && e.ctx.toNat == c

/-- Entry p of the map as it stood is unsealed where context c seals it. -/
def State.unsealFrame (c : Nat) (s : State) (p : Nat × OwnEntry) : State :=
  if p.2.sealedBy c then s.ownWrite p.1 { p.2 with isSealed := false } else s

theorem State.unsealCtx_eq (s : State) (c : Nat) : s.unsealCtx c = (s.mem.own.foldl (State.unsealFrame c) s).modMem fun m =>
    { m with keys := sset 0 m.keys c 0, loaded := m.loaded &&& ~~~(1#64 <<< c) } := rfl

section
variable {c f : Nat} {l : List (Nat × OwnEntry)} {s : State} {p : Nat × OwnEntry}

theorem State.unsealFrame_skips (h : p.1 = f → p.2.sealedBy c = false) : (s.unsealFrame c p).owner f = s.owner f ∧
    ∀ a, dpaFrame a = f → bget (s.unsealFrame c p).mem.hbm a = bget s.mem.hbm a := by
  unfold State.unsealFrame
  split
  · have hne : f ≠ p.1 := fun e => by simp_all
    refine ⟨by rw [State.ownWrite_owner, if_neg hne], fun a ha => ?_⟩
    rw [State.ownWrite_byte, if_neg fun e => hne (ha.symm.trans e.1)]
  · exact ⟨rfl, fun _ _ => rfl⟩

/-- A frame that is not sealed stays so, and a byte of zero stays zero. -/
theorem State.unsealFrame_keeps_unsealed (p : Nat × OwnEntry) (h : (s.owner f).isSealed = false) :
    ((s.unsealFrame c p).owner f).isSealed = false := by
  unfold State.unsealFrame
  split
  · rw [State.ownWrite_owner]
    split
    · rfl
    · exact h
  · exact h

theorem State.unsealFrame_keeps_zero {a : Nat} (p : Nat × OwnEntry) (h : bget s.mem.hbm a = 0) :
    bget (s.unsealFrame c p).mem.hbm a = 0 := by
  unfold State.unsealFrame
  split
  · rw [State.ownWrite_byte, h, ite_self]
  · exact h

/-- A frame of which the map holds no entry sealed by c is left as it is. -/
theorem State.unsealFrames_skip (h : ∀ e, (f, e) ∈ l → e.sealedBy c = false) : (l.foldl (State.unsealFrame c) s).owner f = s.owner f ∧
    ∀ a, dpaFrame a = f → bget (l.foldl (State.unsealFrame c) s).mem.hbm a = bget s.mem.hbm a := by
  induction l generalizing s with
  | nil => exact ⟨rfl, fun _ _ => rfl⟩
  | cons p l ih =>
    have hp : p.1 = f → p.2.sealedBy c = false := fun e => h p.2 (by simp [← e])
    obtain ⟨ho, hb⟩ := ih (s := s.unsealFrame c p) fun e he => h e (List.mem_cons_of_mem _ he)
    obtain ⟨ho', hb'⟩ := State.unsealFrame_skips (s := s) hp
    exact ⟨ho.trans ho', fun a ha => (hb a ha).trans (hb' a ha)⟩

/-- A sealed frame of which the map holds an entry sealed by c is unsealed and reads zero. -/
theorem State.unsealFrames_clear (hs : (s.owner f).isSealed = true) {e : OwnEntry} (he : (f, e) ∈ l) (hc : e.sealedBy c = true) :
    ((l.foldl (State.unsealFrame c) s).owner f).isSealed = false ∧
      ∀ a, dpaFrame a = f → bget (l.foldl (State.unsealFrame c) s).mem.hbm a = 0 := by
  induction l generalizing s with
  | nil => cases he
  | cons p l ih =>
    by_cases hp : p.1 = f ∧ p.2.sealedBy c = true
    · obtain ⟨rfl, hpc⟩ := hp
      have hw : s.unsealFrame c p = s.ownWrite p.1 { p.2 with isSealed := false } := if_pos hpc
      refine ⟨foldl_keeps (fun t : State => (t.owner p.1).isSealed = false) _ (fun t q => t.unsealFrame_keeps_unsealed q) l _ ?_,
        fun a ha => foldl_keeps (fun t : State => bget t.mem.hbm a = 0) _ (fun t q => t.unsealFrame_keeps_zero q) l _ ?_⟩
      · rw [hw, State.ownWrite_owner, if_pos rfl]
      · rw [hw, State.ownWrite_byte, if_pos ⟨ha, hs, rfl⟩]
    · have hskip := (State.unsealFrame_skips (s := s) (c := c) (p := p) (f := f) fun e => by simpa [e] using hp).1
      have hl : (f, e) ∈ l := by
        rcases List.mem_cons.1 he with rfl | h
        · exact absurd ⟨rfl, hc⟩ hp
        · exact h
      exact ih (by rwa [hskip]) hl

end

/-- Discarding the keys changes neither the map nor a frame. -/
theorem State.unsealCtx_map (s : State) (c : Nat) : (s.unsealCtx c).mem.own = (s.mem.own.foldl (State.unsealFrame c) s).mem.own ∧
    (s.unsealCtx c).mem.hbm = (s.mem.own.foldl (State.unsealFrame c) s).mem.hbm := by
  simp only [State.unsealCtx_eq, State.modMem_mem, and_self]

/-- Unsealing a context leaves the front end as it is (R415). -/
theorem State.unsealCtx_fe (s : State) (c : Nat) : (s.unsealCtx c).fe = s.fe := by
  rw [State.unsealCtx_eq, State.modMem_fe]
  refine foldl_keeps (fun t : State => t.fe = s.fe) (State.unsealFrame c) (fun t p h => ?_) _ _ rfl
  unfold State.unsealFrame
  split
  · exact (t.ownWrite_does _ _).1.trans h
  · exact h

theorem State.unsealCtx_loaded (s : State) (c : Nat) : (s.unsealCtx c).mem.loaded = s.mem.loaded &&& ~~~(1#64 <<< c) := by
  have hfold : (s.mem.own.foldl (State.unsealFrame c) s).mem.loaded = s.mem.loaded := by
    refine foldl_keeps (fun t : State => t.mem.loaded = s.mem.loaded) (State.unsealFrame c) (fun t p h => ?_) _ _ rfl
    unfold State.unsealFrame
    split
    · exact (t.ownWrite_does _ _).2.1.trans h
    · exact h
  rw [State.unsealCtx_eq]
  simp only [State.modMem, hfold]

/-- R415: the context is unsealed, its keys are discarded, and its sealed frames, and no others, are unsealed and zeroed. -/
theorem State.unsealCtx_unsealsTo (s : State) {c : Nat} (hc : c < 64) : s.unsealsTo (s.unsealCtx c) c := by
  obtain ⟨hown, hhbm⟩ := s.unsealCtx_map c
  have howner (f : Nat) : (s.unsealCtx c).owner f = (s.mem.own.foldl (State.unsealFrame c) s).owner f := by
    simp only [State.owner, hown]
  have hstands {f : Nat} (h : (s.owner f).isSealed = true) : (f, s.owner f) ∈ s.mem.own :=
    mem_of_sget_ne fun e => by
      rw [State.owner, e] at h
      exact absurd h (by decide)
  refine ⟨?loaded, ?keys, ?others, ?map, ?zero, ?kept⟩
  case loaded => simp [State.isSealed, State.unsealCtx_loaded, hc]
  case keys =>
    simp only [State.unsealCtx_eq, State.modMem_mem, sget_sset_same]
  case others =>
    intro k hk hk64
    have hbit : (1#64 <<< c).getLsbD k = false := (BitVec.getLsbD_twoPow c k).trans (by simp [hk.symm])
    simp only [State.isSealed, State.unsealCtx_loaded, BitVec.getLsbD_and, BitVec.getLsbD_not, hbit, hk64, decide_true,
      Bool.not_false, Bool.and_true]
  case map =>
    intro f hf e
    rw [howner] at hf e
    by_cases hm : ∃ e, (f, e) ∈ s.mem.own ∧ e.sealedBy c = true
    · obtain ⟨e, he, hec⟩ := hm
      cases hs : (s.owner f).isSealed with
      | true => simp [(State.unsealFrames_clear hs he hec).1] at hf
      | false =>
        have hun := foldl_keeps (fun t : State => (t.owner f).isSealed = false) (State.unsealFrame c)
          (fun t p => t.unsealFrame_keeps_unsealed p) s.mem.own s hs
        simp [hun] at hf
    · have hno : ∀ e, (f, e) ∈ s.mem.own → e.sealedBy c = false := by simpa using hm
      rw [(State.unsealFrames_skip hno).1] at hf e
      simpa [OwnEntry.sealedBy, hf, e] using hno _ (hstands hf)
  case zero =>
    intro a hs hctx
    rw [hhbm]
    exact (State.unsealFrames_clear hs (hstands hs) (by simp [OwnEntry.sealedBy, hs, hctx])).2 a rfl
  case kept =>
    intro a hno
    have hskip := State.unsealFrames_skip (s := s) (c := c) (f := dpaFrame a) (l := s.mem.own) fun e he => by
      simpa [OwnEntry.sealedBy, Bool.and_eq_false_imp, imp_iff_not_or] using hno e he
    rw [hhbm, howner]
    exact ⟨hskip.2 a rfl, hskip.1⟩

end Sys2Proof.Machine
end

section
/-!
PROOFS. CTX_ABORT of a context (11 R283; 14 R349, R355, R357): what it ends, and the context abort that it starts.
-/

namespace Sys2Proof.Machine

/-! ### The running attempt fails -/

/-- From s to t the running attempt has failed; the contexts are as they were. -/
structure State.AttemptFails (s t : State) : Prop where
  failed : t.ep.failedAtt = some s.ep.att
  ctxs : t.fe.ctxs = s.fe.ctxs

/-- The attempt that runs has not sent PREPARE, the coordinator has not decided it, and it has not failed before (R355). -/
structure State.Abortable (s : State) : Prop where
  st : s.ep.st = .running ∨ s.ep.st = .prepared
  sent : s.ep.sent = false
  decided : s.decided = false
  fresh : s.ep.failedAtt ≠ some s.ep.att

section
variable {s t u : State}

theorem State.Abortable.of_ep (ha : s.Abortable) (h : t.ep = s.ep) : t.Abortable := by
  obtain ⟨hst, hsent, hdec, hfresh⟩ := ha
  exact ⟨h ▸ hst, h ▸ hsent, by simpa only [State.decided, State.openEpoch, h] using hdec, h ▸ hfresh⟩

theorem State.Abortable.failable (ha : s.Abortable) : s.failable = true := by
  rcases ha.st with h | h <;> simp [State.failable, h, ha.sent]

theorem State.AttemptFails.of_ep (k : t.AttemptFails u) (h : t.ep.att = s.ep.att) (hc : t.fe.ctxs = s.fe.ctxs) : s.AttemptFails u :=
  ⟨h ▸ k.failed, k.ctxs.trans hc⟩

theorem State.failAttempt_fails (s : State) : s.AttemptFails s.failAttempt := by
  unfold State.failAttempt
  dsimp only
  split <;> exact ⟨rfl, rfl⟩

/-- While a context abort runs, ABORT of the open attempt fails it and leaves the rollback for later (R355, R256). -/
theorem State.abortHere_fails (hx : s.err.ctxab.isSome) (hst : s.ep.st = .running ∨ s.ep.st = .prepared) (cause : BitVec 8)
    (att : BitVec 16) : s.AttemptFails (s.abortHere cause att) := by
  have fails (f : EpochState → EpochState) (hf : (f s.ep).att = s.ep.att) : s.AttemptFails (s.modEp f).failAttempt.tryRollback := by
    rw [State.tryRollback_of_ctxab (by rwa [(State.failAttempt_abortFrame _).ctxab])]
    exact (State.failAttempt_fails _).of_ep hf rfl
  by_cases hc : cause = 3
  · have h := fails (fun e => { e with acted := some (e.c + 1, att), after := some cause, afterSunder := true }) rfl
    rcases hst with hst | hst <;> simpa only [State.abortHere, State.modEp, if_pos hc, hst] using h
  · have h := fails (fun e => { e with acted := some (e.c + 1, att), after := some cause }) rfl
    rcases hst with hst | hst <;> simpa only [State.abortHere, State.modEp, if_neg hc, hst] using h

@[simp] theorem State.toChildren_fe (s : State) (ty : MsgType) (m : CommitMsg) : (s.toChildren ty m).fe = s.fe :=
  foldl_keeps (fun t : State => t.fe = s.fe) (fun acc k => acc.sendMsg ty m k) (fun _ _ h => h) _ _ rfl

theorem State.decideAbort_fails (hx : s.err.ctxab.isSome) (hst : s.ep.st = .running ∨ s.ep.st = .prepared) (cause : BitVec 8) :
    s.AttemptFails (s.decideAbort cause) := by
  unfold State.decideAbort
  dsimp only
  refine (State.abortHere_fails ?_ ?_ _ _).of_ep ?_ ?_
  · rwa [(State.toChildren_abortFrame _ _ _).ctxab]
  · rwa [State.toChildren_ep]
  · rw [State.toChildren_ep]; rfl
  · rw [State.toChildren_fe]; rfl

/-- The coordinator decides ABORT, and another member requests it: either way the attempt fails here (R254, R256, R355). -/
theorem State.memberFault_fails (hx : s.err.ctxab.isSome) (ha : s.Abortable) (cause : BitVec 8) :
    s.AttemptFails (s.memberFault cause) := by
  have hfails : s.memberFault cause = if s.isCoord then s.decideAbort cause
      else (s.failAttempt.sendMsg .abortReq { s.failAttempt.ownMsg with info := cause } 0).tryRollback := by
    rcases ha.st with h | h <;> simp [State.memberFault, h, ha.sent, ha.decided, ha.fresh]
  rw [hfails]
  split
  · exact State.decideAbort_fails hx ha.st cause
  · have hsent : (s.failAttempt.sendMsg .abortReq { s.failAttempt.ownMsg with info := cause } 0).err.ctxab = s.err.ctxab :=
      s.failAttempt_abortFrame.ctxab
    rw [State.tryRollback_of_ctxab (by rwa [hsent])]
    exact ⟨s.failAttempt_fails.failed, s.failAttempt_fails.ctxs⟩

theorem State.levelFault_fails (hx : s.err.ctxab.isSome) (ha : s.Abortable) (cause : BitVec 8) :
    s.AttemptFails (s.levelFault cause) := by
  rw [State.levelFault, if_pos ha.failable]
  exact State.memberFault_fails hx ha cause

/-- The cause is noted in the launch alone (R256). -/
theorem State.recordCause_rest (s : State) (cause : BitVec 8) :
    (s.recordCause cause).ep = s.ep ∧ (s.recordCause cause).err = s.err ∧ (s.recordCause cause).fe.ctxs = s.fe.ctxs := by
  unfold State.recordCause
  split <;> exact ⟨rfl, rfl, rfl⟩

/-- The mark of a level's start leaves the commit state and the front end alone. -/
theorem State.startMark_ep_fe (s : State) (r : LevelRun) : (s.startMark r).ep = s.ep ∧ (s.startMark r).fe = s.fe :=
  ⟨State.event_ep .., State.event_fe ..⟩

/-- A context abort with this code runs, and its start has been marked (R350, R361). -/
def State.abortMarked (s : State) (code : BitVec 32) : State :=
  (s.startMark (s.levelRun code)).modErr fun e => { e with ctxab := some (s.runCtx, s.levelRun code) }

/-- Where no level runs, a context abort that the host asks for is marked, and the attempt fails with cause 6 (R350, R355). -/
theorem State.contextAbort_starts (ha : s.Abortable) (hctxab : s.err.ctxab = none) (hchip : s.err.chip = none)
    (hbeyond : s.beyond = false) (code : BitVec 32) :
    s.contextAbort code 6 = ((s.abortMarked code).recordCause 6).levelFault 6 := by
  have hfail : (s.abortMarked code).failable = true := (ha.of_ep (s.startMark_ep_fe (s.levelRun code)).1).failable
  unfold State.abortMarked at hfail ⊢
  simp [State.contextAbort, hbeyond, hctxab, hchip, hfail]

theorem State.contextAbort_fails (ha : s.Abortable) (hctxab : s.err.ctxab = none) (hchip : s.err.chip = none)
    (hbeyond : s.beyond = false) (code : BitVec 32) :
    s.AttemptFails (s.contextAbort code 6) ∧ (s.contextAbort code 6).err.ctxab ≠ none := by
  obtain ⟨hep, hfe⟩ := s.startMark_ep_fe (s.levelRun code)
  obtain ⟨rep, rerr, rctxs⟩ := (s.abortMarked code).recordCause_rest 6
  have ha' : ((s.abortMarked code).recordCause 6).Abortable := ha.of_ep (rep.trans hep)
  have hx : ((s.abortMarked code).recordCause 6).err.ctxab.isSome := by rw [rerr]; rfl
  rw [State.contextAbort_starts ha hctxab hchip hbeyond]
  refine ⟨(State.levelFault_fails hx ha' 6).of_ep (congrArg EpochState.att (rep.trans hep))
    (rctxs.trans (congrArg FrontEnd.ctxs hfe)), ?_⟩
  rw [(State.levelFault_abortFrame hx 6).ctxab]
  exact Option.isSome_iff_ne_none.1 hx

end

/-! ### CTX_ABORT -/

section
variable {s : State} {c : Nat}

/-- A context without a launch has none to end. -/
theorem State.ctxAbort_of_noLaunch (hq : s.queuedOf c = []) (hrun : s.running = none) : s.ctxAbort c = .now s stOK 0 := by
  unfold State.ctxAbort
  split
  · rfl
  · simp only [hq, List.foldl_nil, State.abortRunning, hrun]
    split <;> rfl

/-- The launch in the open epoch, before PREPARE, ends by a context abort (R349). -/
theorem State.abortRunning_of_abortable {l : Launch} (hrun : s.running = some l) (hctx : l.ctx.toNat = c) (hlive : l.live = true)
    (ha : s.Abortable) : s.abortRunning c = ((s.recordCause 6).contextAbort (errCode 1 0x40 c 0x060) 6, true) := by
  rcases ha.st with h | h <;> simp [State.abortRunning, hrun, hctx, hlive, h, ha.sent]

/-- R283: CTX_ABORT of a running launch starts the context abort, for which its reply waits. -/
theorem State.ctxAbort_of_abortable {l : Launch} (hq : s.queuedOf c = []) (hst : (s.ctx c).st = .opened) (hrun : s.running = some l)
    (hctx : l.ctx.toNat = c) (hlive : l.live = true) (ha : s.Abortable) (hctxab : s.err.ctxab = none) (hchip : s.err.chip = none)
    (hbeyond : s.beyond = false) :
    ∃ u, s.ctxAbort c = .later u 1 ∧ (u.ctx c).st = .aborting ∧ u.ep.failedAtt = some s.ep.att ∧ u.err.ctxab ≠ none ∧
      u.mem = s.mem := by
  obtain ⟨rep, rerr, rctxs⟩ := s.recordCause_rest 6
  obtain ⟨hfails, hruns⟩ := State.contextAbort_fails (ha.of_ep rep) (by rw [rerr, hctxab]) (by rw [rerr, hchip])
    (by simpa only [State.beyond, rerr] using hbeyond) (errCode 1 0x40 c 0x060)
  have hmem := ((s.recordCause 6).contextAbort_mem_inbound (errCode 1 0x40 c 0x060) 6).1.trans (s.recordCause_abortFrame 6).mem
  have habort := State.abortRunning_of_abortable hrun hctx hlive ha
  generalize (s.recordCause 6).contextAbort (errCode 1 0x40 c 0x060) 6 = t at *
  have hopen : (t.ctx c).st = .opened := by
    rw [← hst]
    simp only [State.ctx, hfails.ctxs, rctxs]
  obtain ⟨x, hx⟩ := Option.ne_none_iff_exists'.1 hruns
  refine ⟨t.modCtx c fun x => { x with st := if x.st = .opened then .aborting else x.st }, ?_, ?_, ?_, hruns, hmem⟩
  · simp [State.ctxAbort, State.ctxSt, hst, hq, habort, hx]
  · simp [State.modCtx, hopen]
  · exact hfails.failed.trans (by rw [rep])

end

end Sys2Proof.Machine
end

section
/-!
PROOFS. The commands on contexts, sluices and the watch (11 R279, R282, R283; 07 R176 to R178; 06 R152), which settles O42.
-/

namespace Sys2Proof.Machine

/-! ### What becomes of a context and of a sluice -/

theorem State.ctxBecomes_setCtx (s : State) (c : Nat) (x : Ctx) : s.ctxBecomes (s.setCtx c x) c x :=
  ⟨State.ctx_setCtx_same s c x, fun _ hk => State.ctx_setCtx_ne s x hk, rfl⟩

theorem State.countBecomes_setSluice (s : State) (n : Nat) (v : BitVec 32) :
    s.countBecomes (s.setSluice n { (s.sluice n) with count := v }) n v :=
  ⟨State.sluice_setSluice_same s n _, fun _ hk => State.sluice_setSluice_ne s _ hk, rfl⟩

/-- A sluice without waiters serves none when its count is set (R177). -/
theorem State.setCount_serves {s : State} {n : Nat} (hw : (s.sluice n).waiters = []) (v : BitVec 32) :
    (s.setSluice n { (s.sluice n) with count := v }).serveAll n = s.setSluice n { (s.sluice n) with count := v } :=
  State.serveAll_of_noWaiters (by simpa using hw)

/-- R176: a signal that no one waits for adds to a count that has room for it. -/
theorem State.addSluice_counts {s : State} {n : Nat} {inc : BitVec 32} (hw : (s.sluice n).waiters = [])
    (hg : ∀ g, (s.hum g).wsen = false) (hroom : (s.sluice n).count.toNat + inc.toNat < 2 ^ 32) :
    s.addSluice n inc.toNat = (s.setSluice n { (s.sluice n) with count := (s.sluice n).count + inc }, false) := by
  have hcount : satAdd (s.sluice n).count inc.toNat = (s.sluice n).count + inc := by
    simp only [satAdd, hroom, if_true]
    exact BitVec.eq_of_toNat_eq (by simp)
  have hwake (x : Sluice) : (s.setSluice n x).wakeBySluice n = s.setSluice n x :=
    State.wakeBySluice_of_unarmed (s := s.setSluice n x) hg n
  simp only [State.addSluice, hcount, State.setCount_serves hw, hwake, decide_eq_false (Nat.not_le.2 hroom)]

/-! ### What the commands check (R278, R279, R282) -/

section
variable {s s1 : State} {h : Hdr} {c : Nat} {tctx : BitVec 8}

theorem kernel_unbroken (h0 : h.ctx = 0) : classBroken .kernel h = false := by simp [classBroken, h0]

theorem tctxOk_of_range (h1 : 1 ≤ tctx.toNat) (h64 : tctx.toNat < 64) : tctxOk tctx = true := by
  simp only [tctxOk, Bool.and_eq_true, decide_eq_true_eq]
  omega

theorem not_stFree {x : CtxSt} (h : x ≠ .free) : (!stFree x) = true := by
  cases x
  case free => exact absurd rfl h
  case opened | blocked | aborting => rfl

theorem State.legal_of_usable (h : s.usable c) : ctxLegal stUsable c s = true := by
  rcases h with h | h <;> simp [ctxLegal, State.ctxSt, stUsable, h]

theorem closable_of_opened (hst : (s.ctx c).st = .opened) (hl : s.liveOf c = 0) : closable c s = true := by
  simp [closable, stOpen, State.ctxSt, hst, hl]

/-! ### Commands on contexts (R282, R283) -/

theorem exec_nop_answers (ht : s.takesCmd s1 h 0x00) : exec (.nop ⟨h, 0⟩) s = .next (s1.answers s1 h 0x00 h.ctx.toNat 0 0) := by
  show Host.Outcome.next (s.command h _ _) = _
  rw [State.command_now ht rfl ⟨rfl, rfl, rfl, rfl⟩ rfl]

theorem exec_ctxOpen_answers (ht : s.takesCmd s1 h 0x01) (h0 : h.ctx = 0) (hlen : h.len = 8) (h1 : 1 ≤ tctx.toNat)
    (h64 : tctx.toNat < 64) (hst : (s1.ctx tctx.toNat).st = .free) : exec (.ctxOpen h tctx) s =
      .next (s1.answers (s1.setCtx tctx.toNat { (s1.ctx tctx.toNat) with st := .opened, dbSeq := 0 }) h 0x01 tctx.toNat 0 0) :=
  congrArg Host.Outcome.next (State.command_now ht rfl
    ⟨kernel_unbroken h0, by simp [hlen], tctxOk_of_range h1 h64, by simp [ctxLegal, State.ctxSt, stFree, hst]⟩ rfl)

theorem exec_ctxClose_answers (ht : s.takesCmd s1 h 0x02) (h0 : h.ctx = 0) (hlen : h.len = 8) (h1 : 1 ≤ tctx.toNat)
    (h64 : tctx.toNat < 64) (hst : (s1.ctx tctx.toNat).st = .opened) (hl : s1.liveOf tctx.toNat = 0) : exec (.ctxClose h tctx) s =
      .next (s1.answers ((if s1.isSealed tctx.toNat then s1.unsealCtx tctx.toNat else s1).modCtx tctx.toNat fun x =>
        { x with st := .free }) h 0x02 tctx.toNat 0 0) :=
  congrArg Host.Outcome.next (State.command_now ht rfl
    ⟨kernel_unbroken h0, by simp [hlen], tctxOk_of_range h1 h64, closable_of_opened hst hl⟩ rfl)

/-- A context that closes is free, and unsealed where it was sealed; no other context changes (R282, R415). -/
theorem State.closes (s1 : State) (hc : c < 64) :
    let u := (if s1.isSealed c then s1.unsealCtx c else s1).modCtx c fun x => { x with st := .free }
    (u.ctx c).st = .free ∧ (∀ k, k ≠ c → u.ctx k = s1.ctx k) ∧
      (s1.isSealed c = false → s1.ctxBecomes u c { (s1.ctx c) with st := .free }) ∧ (s1.isSealed c = true → s1.unsealsTo u c) := by
  cases hs : s1.isSealed c with
  | false =>
    have hb := s1.ctxBecomes_setCtx c { (s1.ctx c) with st := .free }
    exact ⟨congrArg Ctx.st hb.1, hb.2.1, fun _ => hb, nofun⟩
  | true =>
    have hctx (k : Nat) : (s1.unsealCtx c).ctx k = s1.ctx k := by simp only [State.ctx, State.unsealCtx_fe]
    refine ⟨by simp [State.modCtx], fun k hk => (State.ctx_setCtx_ne _ _ hk).trans (hctx k), nofun, fun _ => ?_⟩
    simpa only [if_true, State.unsealsTo, State.isSealed, State.owner, State.modCtx_mem] using s1.unsealCtx_unsealsTo hc

theorem exec_ctxAbort_ends_none (ht : s.takesCmd s1 h 0x03) (h0 : h.ctx = 0) (hlen : h.len = 8) (h1 : 1 ≤ tctx.toNat)
    (h64 : tctx.toNat < 64) (hst : (s1.ctx tctx.toNat).st ≠ .free) (hq : s1.queuedOf tctx.toNat = []) (hrun : s1.running = none) :
    exec (.ctxAbort h tctx) s = .next (s1.answers s1 h 0x03 tctx.toNat 0 0) :=
  congrArg Host.Outcome.next (State.command_now ht rfl
    ⟨kernel_unbroken h0, by simp [hlen], tctxOk_of_range h1 h64, not_stFree hst⟩ (State.ctxAbort_of_noLaunch hq hrun))

/-- The reply waits with DATA 1 until the level completes (R283), and the submissions taken meanwhile change nothing of the abort. -/
theorem exec_ctxAbort_starts {l : Launch} (ht : s.takesCmd s1 h 0x03) (h0 : h.ctx = 0) (hlen : h.len = 8) (h1 : 1 ≤ tctx.toNat)
    (h64 : tctx.toNat < 64) (hq : s1.queuedOf tctx.toNat = []) (hst : (s1.ctx tctx.toNat).st = .opened)
    (hrun : s1.running = some l) (hctx : l.ctx.toNat = tctx.toNat) (hlive : l.live = true) (ha : s1.Abortable)
    (hctxab : s1.err.ctxab = none) (hchip : s1.err.chip = none) (hbeyond : s1.beyond = false) :
    ∃ t, exec (.ctxAbort h tctx) s = .next t ∧ t.fe.wait = some (mkReply stOK 0x03 (s1.stateCode tctx.toNat 0) h 1) ∧
      (t.ctx tctx.toNat).st = .aborting ∧ t.ep.failedAtt = some s1.ep.att ∧ t.err.ctxab ≠ none ∧ t.mem.hbm = s1.mem.hbm := by
  obtain ⟨u, hact, hab, hfailed, hruns, hmem⟩ := State.ctxAbort_of_abortable hq hst hrun hctx hlive ha hctxab hchip hbeyond
  have hsub := (u.modFe fun f => { f with wait := some (mkReply stOK 0x03 (s1.stateCode tctx.toNat 0) h 1) }).concluded_submitFrame h
  refine ⟨_, congrArg Host.Outcome.next (State.command_later ht rfl ⟨kernel_unbroken h0, by simp [hlen],
    tctxOk_of_range h1 h64, not_stFree (x := s1.ctxSt tctx.toNat) ?_⟩ hact), hsub.wait, (hsub.ctxSt _).trans hab, ?_, ?_, ?_⟩
  · simp [State.ctxSt, hst]
  · rw [hsub.ep]; exact hfailed
  · rw [hsub.err]; exact hruns
  · rw [hsub.mem]; exact congrArg MemState.hbm hmem

theorem exec_sluiceRange_answers {base count : BitVec 16} (ht : s.takesCmd s1 h 0x04) (h0 : h.ctx = 0) (hlen : h.len = 8)
    (h64 : tctx.toNat < 64) (hbase : base.toNat < 32768) (hend : base.toNat + count.toNat ≤ 32768)
    (hfree : s.rangeTaken tctx.toNat base.toNat count.toNat = false) (hst : (s1.ctx tctx.toNat).st = .opened)
    (hl : s1.liveOf tctx.toNat = 0) : exec (.sluiceRange h tctx base count) s =
      .next (s1.answers (s1.setCtx tctx.toNat { (s1.ctx tctx.toNat) with sluBase := base, sluCount := count }) h 0x04 tctx.toNat 0 0) :=
  congrArg Host.Outcome.next (State.command_now ht rfl
    ⟨kernel_unbroken h0, by simp [hlen], by simp [h64, hbase, hend, hfree], closable_of_opened hst hl⟩ rfl)

end

/-! ### Commands on sluices and the watch (07 R176 to R178; 06 R152) -/

section
variable {s s1 : State} {h : Hdr} {slu : BitVec 16}
  (hrange : (s1.ctx h.ctx.toNat).sluBase = (s.ctx h.ctx.toNat).sluBase ∧ (s1.ctx h.ctx.toNat).sluCount = (s.ctx h.ctx.toNat).sluCount)
  (hin : slu.toNat < (s1.ctx h.ctx.toNat).sluCount.toNat) (hlen : h.len = 8) (huse : s1.usable h.ctx.toNat)

include hrange in
theorem State.sluPhys_of_range : s.sluPhys h.ctx.toNat slu = (s1.ctx h.ctx.toNat).sluBase.toNat + slu.toNat := by
  rw [State.sluPhys, hrange.1]

include hrange hin in
theorem State.sluIn_of_range : s.sluIn h.ctx.toNat slu = true := by
  simpa [State.sluIn, hrange.2] using hin

include hrange hin hlen huse

theorem exec_sluiceSet_answers {n : Nat} {count : BitVec 32} (hn : n = (s1.ctx h.ctx.toNat).sluBase.toNat + slu.toNat)
    (ht : s.takesCmd s1 h 0x05) (hw : (s1.sluice n).waiters = []) : exec (.sluiceSet h slu count) s =
      .next (s1.answers (s1.setSluice n { (s1.sluice n) with count := count }) h 0x05 h.ctx.toNat 0 (s1.sluice n).count.toNat) := by
  rw [← State.sluPhys_of_range hrange] at hn
  subst hn
  exact congrArg Host.Outcome.next (State.command_now ht rfl
    ⟨rfl, by simp [hlen], State.sluIn_of_range hrange hin, State.legal_of_usable huse⟩
    (congrArg (Done.now · stOK _) (State.setCount_serves hw count)))

theorem exec_sluiceSignal_answers {n : Nat} {inc : BitVec 32} (hn : n = (s1.ctx h.ctx.toNat).sluBase.toNat + slu.toNat)
    (ht : s.takesCmd s1 h 0x06) (hone : 1 ≤ inc.toNat) (hmax : inc.toNat ≤ 65535) (hw : (s1.sluice n).waiters = [])
    (hg : ∀ g, (s1.hum g).wsen = false) (hroom : (s1.sluice n).count.toNat + inc.toNat < 2 ^ 32) :
    exec (.sluiceSignal h slu inc) s = .next (s1.answers (s1.setSluice n { (s1.sluice n) with count := (s1.sluice n).count + inc })
      h 0x06 h.ctx.toNat 0 ((s1.sluice n).count.toNat + inc.toNat)) := by
  rw [← State.sluPhys_of_range hrange] at hn
  subst hn
  refine congrArg Host.Outcome.next (State.command_now ht rfl
    ⟨rfl, by simp [hlen], by simp [State.sluIn_of_range hrange hin, hone, hmax], State.legal_of_usable huse⟩ ?_)
  simp only [State.addSluice_counts hw hg hroom, State.sluice_setSluice_same, BitVec.toNat_add_of_lt hroom]
  rfl

theorem exec_sluiceRead_answers {n : Nat} (hn : n = (s1.ctx h.ctx.toNat).sluBase.toNat + slu.toNat) (ht : s.takesCmd s1 h 0x07) :
    exec (.sluiceRead h slu) s = .next (s1.answers s1 h 0x07 h.ctx.toNat 0
      ((s1.sluice n).count.toNat + 2 ^ 32 * Nat.min (s1.sluice n).waiters.length 255)) := by
  rw [← State.sluPhys_of_range hrange] at hn
  subst hn
  exact congrArg Host.Outcome.next (State.command_now ht rfl
    ⟨rfl, by simp [hlen], State.sluIn_of_range hrange hin, State.legal_of_usable huse⟩ rfl)

end

section
variable {s s1 : State} {h : Hdr} {tag : BitVec 31} {p n : BitVec 16}

/-- The entries of context c that WATCH_ARM of a tag leaves in place (06 R152). -/
def State.armedBut (s : State) (c : Nat) (tag : BitVec 31) : List Armed := (s.ctx c).armed.filter fun a => a.tag != tag

/-- WATCH_ARM with a tag below 2^31 is decided by N and by the entries that stay. -/
theorem exec_watchArm_answers {u : State} {d : Nat} (ht : s.takesCmd s1 h 0x08) (hlen : h.len = 8) (huse : s1.usable h.ctx.toNat)
    (hact : (if n = 0 then Done.now (s1.setCtx h.ctx.toNat { (s1.ctx h.ctx.toNat) with armed := s1.armedBut h.ctx.toNat tag }) stOK
        (s1.armedBut h.ctx.toNat tag).length
      else if 256 ≤ (s1.armedBut h.ctx.toNat tag).length then .now s1 stNoSpace 0
      else .now (s1.setCtx h.ctx.toNat { (s1.ctx h.ctx.toNat) with
        armed := s1.armedBut h.ctx.toNat tag ++ [⟨tag, p, n, 0⟩] }) stOK ((s1.armedBut h.ctx.toNat tag).length + 1)) = .now u stOK d) :
    exec (.watchArm h (tag.setWidth 32) p n) s = .next (s1.answers u h 0x08 h.ctx.toNat 0 d) := by
  have htag : (tag.setWidth 32).setWidth 31 = tag := by simp
  refine congrArg Host.Outcome.next (State.command_now ht rfl ⟨rfl, by simp [hlen], by simp, State.legal_of_usable huse⟩ ?_)
  simp only [htag]
  exact hact

end

/-- Settles O42. Each packet passes its checks and is answered from its action (`State.command_now`), or its reply waits for the level
that it starts (`State.command_later`); what becomes of the context or of the sluice is said once, for closing a context by
`State.closes` and for the context abort by `State.ctxAbort_of_abortable`. -/
theorem contextCommandResult : Obligations.ContextCommandResult := by
  unfold Obligations.ContextCommandResult
  intro s s1 h tctx hrange c own
  refine ⟨exec_nop_answers, ?ctxOpen, ?ctxClose, ?ctxAbort, ?sluiceRange, ?sluices, ?watchArm⟩
  case ctxOpen =>
    intro ht h0 hlen h1 h64 hst
    exact ⟨_, exec_ctxOpen_answers ht h0 hlen h1 h64 hst, s1.ctxBecomes_setCtx _ _⟩
  case ctxClose =>
    intro ht h0 hlen h1 h64 hst hl
    exact ⟨_, exec_ctxClose_answers ht h0 hlen h1 h64 hst hl, s1.closes h64⟩
  case ctxAbort =>
    intro ht h0 hlen h1 h64 hst hq
    refine ⟨exec_ctxAbort_ends_none ht h0 hlen h1 h64 hst hq, ?_⟩
    intro l hrun hctx hlive hopen hep hsent hdec hfresh hctxab hchip hbeyond
    exact exec_ctxAbort_starts ht h0 hlen h1 h64 hq hopen hrun hctx hlive ⟨hep, hsent, hdec, hfresh⟩ hctxab hchip hbeyond
  case sluiceRange =>
    intro base count ht h0 hlen h64 hbase hend hfree hst hl
    exact ⟨_, exec_sluiceRange_answers ht h0 hlen h64 hbase hend hfree hst hl, s1.ctxBecomes_setCtx _ _⟩
  case sluices =>
    intro slu hin hlen huse n
    refine ⟨?set, ?signal, exec_sluiceRead_answers (hrange own) hin hlen huse rfl⟩
    case set =>
      intro count ht hw
      exact ⟨_, exec_sluiceSet_answers (hrange own) hin hlen huse rfl ht hw, s1.countBecomes_setSluice _ _⟩
    case signal =>
      intro inc ht hone hmax hw hg hroom
      exact ⟨_, exec_sluiceSignal_answers (hrange own) hin hlen huse rfl ht hone hmax hw hg hroom, s1.countBecomes_setSluice _ _⟩
  case watchArm =>
    intro tag p n ht hlen huse rest
    refine ⟨fun hn => ?disarm, fun hn hroom => ?arm⟩
    case disarm => exact ⟨_, exec_watchArm_answers ht hlen huse (if_pos hn), s1.ctxBecomes_setCtx _ _⟩
    case arm =>
      exact ⟨_, exec_watchArm_answers ht hlen huse ((if_neg hn).trans (if_neg (Nat.not_le.2 hroom))), s1.ctxBecomes_setCtx _ _⟩

end Sys2Proof.Machine
end

section
/-!
PROOFS. Scalar and control instructions, and the hummock registers that a program reads and writes (07 R166, R168, R169, R187), which
settles O3, O4 and O5.
-/

namespace Sys2Proof.Machine

/-! ### Issue of an instruction that goes on -/

section
variable {s t : State} {g : Hum} {pc : BitVec 23} {xd : BitVec 5} {v : BitVec 64}

/-- An instruction whose effect goes on issuing only inside the code has that effect and no other. -/
theorem State.issue_eq (h : s.issues g) {act : State → State}
    (hpc : ((act s).hum g).seq.st = .issuing → (act s).inCode g ((act s).hum g).seq.pc) : s.issue g act = act s := by
  rw [State.issue_of_issues h]
  by_cases hst : ((act s).hum g).seq.st = .issuing
  · simp only [hst, beq_self_eq_true, if_true, State.codeFault_of_inCode (hpc hst)]
  · simp only [beq_eq_false_iff_ne.2 hst, Bool.false_eq_true, if_false]

/-- The same for one that changes its hummock alone, and goes on at pc. -/
theorem State.issue_modHum (h : s.issues g) {f : Hummock → Hummock} (hpc : s.inCode g pc)
    (hf : (f (s.hum g)).holder = (s.hum g).holder ∧ (f (s.hum g)).seq.pc = pc) :
    (s.issue g fun t => t.modHum g f) = s.modHum g f := by
  refine State.issue_eq h fun _ => ?_
  obtain ⟨x, hx, hlt⟩ := hpc
  refine ⟨x, ?_, ?_⟩ <;> rw [State.hum_modHum_same]
  · rw [hf.1, hx]
  · rwa [hf.2]

/-- t is s with PC of hummock g at pc and v in register xd (R166), and nothing else. -/
def State.writesReg (s t : State) (g : Hum) (pc : BitVec 23) (xd : BitVec 5) (v : BitVec 64) : Prop :=
  s.onlyHum t g ∧ (s.hum g).alikeButSeq (t.hum g) ∧ (s.hum g).seq.alikeButRegs (t.hum g).seq ∧ (t.hum g).seq.pc = pc ∧
    ∀ r : BitVec 5, (t.hum g).seq.reg r = if r = 0 then 0 else if r = xd then v else (s.hum g).seq.reg r

/-- Issue turns on what an effect does in this state. -/
theorem State.issue_congr (h : s.issues g) {act act' : State → State} (ha : act s = act' s) : s.issue g act = s.issue g act' := by
  simp only [State.issue_of_issues h, ha]

theorem State.modHum_writesReg {f : Hummock → Hummock}
    (hf : f (s.hum g) = { s.hum g with seq := { (s.hum g).seq.setReg xd v with pc := pc } }) :
    s.writesReg (s.modHum g f) g pc xd v := by
  have halike := (s.hum g).seq.setReg_alike xd v
  have hreg := (s.hum g).seq.reg_setReg xd v
  unfold Sequencer.alikeButRegs at halike
  refine ⟨s.onlyHum_setHum g _, ?_, ?_, ?_, fun r => ?_⟩ <;> rw [State.hum_modHum_same, hf]
  · rfl
  · exact halike
  · exact hreg r

/-- An instruction that writes a register and goes on at pc. -/
theorem State.issue_writesReg (h : s.issues g) (hpc : s.inCode g pc) {f : Hummock → Hummock}
    (hf : f (s.hum g) = { s.hum g with seq := { (s.hum g).seq.setReg xd v with pc := pc } }) :
    s.writesReg (s.issue g fun t => t.modHum g f) g pc xd v := by
  rw [State.issue_modHum h hpc (by rw [hf]; exact ⟨rfl, rfl⟩)]
  exact State.modHum_writesReg hf

end

/-! ### Values of the scalar rows (R168) -/

section
variable (x y : BitVec 64)

theorem sext_eq (imm : BitVec 32) : sext imm = BitVec.ofInt 64 imm.toInt := rfl

theorem Sequencer.opb_eq (q : Sequencer) (xb : BitVec 5) (imm : BitVec 32) : q.opb xb imm = aluB q xb imm := by
  by_cases h : xb = 0 <;> simp [Sequencer.opb, aluB, h, sext_eq]

theorem add_eq_ofNat : x + y = BitVec.ofNat 64 (x.toNat + y.toNat) := BitVec.eq_of_toNat_eq (by simp)

theorem sub_eq_ofInt : x - y = BitVec.ofInt 64 ((x.toNat : Int) - y.toNat) := by
  refine BitVec.eq_of_toNat_eq ?_
  have hx := x.isLt
  have hy := y.isLt
  rw [BitVec.toNat_sub, BitVec.toNat_ofInt]
  omega

theorem mul_eq_ofNat : x * y = BitVec.ofNat 64 (x.toNat * y.toNat) := BitVec.eq_of_toNat_eq (by simp)

theorem shl_eq_ofNat (n : Nat) : x <<< n = BitVec.ofNat 64 (x.toNat * 2 ^ n) :=
  BitVec.eq_of_toNat_eq (by simp [Nat.shiftLeft_eq])

theorem shr_eq_ofNat (n : Nat) : x >>> n = BitVec.ofNat 64 (x.toNat / 2 ^ n) := by
  refine BitVec.eq_of_toNat_eq ?_
  rw [BitVec.toNat_ushiftRight, Nat.shiftRight_eq_div_pow, BitVec.toNat_ofNat,
    Nat.mod_eq_of_lt ((Nat.div_le_self _ _).trans_lt x.isLt)]

theorem lui_eq_ofNat (imm : BitVec 32) :
    imm ++ x.extractLsb' 0 32 = BitVec.ofNat 64 (imm.toNat * 2 ^ 32 + x.toNat % 2 ^ 32) := by
  refine BitVec.eq_of_toNat_eq ?_
  have h := imm.isLt
  rw [BitVec.toNat_append, BitVec.extractLsb'_toNat, Nat.shiftRight_zero, ← Nat.shiftLeft_add_eq_or_of_lt (Nat.mod_lt _ (by decide)),
    Nat.shiftLeft_eq, BitVec.toNat_ofNat]
  omega

end

/-- Each scalar row writes the value of R168 into XD, computed from the registers that it finds. -/
theorem exec_scalarResult {s : State} {g : Hum} {i : Instr} {xd : BitVec 5} {v : BitVec 64}
    (h : scalarResult (fun k => (s.hum k).seq) i = some (g, xd, v)) :
    ∃ val : Sequencer → BitVec 64, val (s.hum g).seq = v ∧ exec i s = .next (s.scalar g fun q => q.setReg xd (val q)) := by
  unfold scalarResult at h
  split at h
  case h_1 => cases h; exact ⟨_, sext_eq _, rfl⟩
  case h_2 => cases h; exact ⟨_, lui_eq_ofNat _ _, rfl⟩
  case h_3 => cases h; exact ⟨_, by rw [← Sequencer.opb_eq]; exact add_eq_ofNat _ _, rfl⟩
  case h_4 => cases h; exact ⟨_, by rw [← Sequencer.opb_eq]; exact sub_eq_ofInt _ _, rfl⟩
  case h_5 | h_6 | h_7 => cases h; exact ⟨_, by rw [← Sequencer.opb_eq], rfl⟩
  case h_8 => cases h; exact ⟨_, by rw [← Sequencer.opb_eq]; exact shl_eq_ofNat _ _, rfl⟩
  case h_9 => cases h; exact ⟨_, by rw [← Sequencer.opb_eq]; exact shr_eq_ofNat _ _, rfl⟩
  case h_10 => cases h; exact ⟨_, by rw [← Sequencer.opb_eq]; exact mul_eq_ofNat _ _, rfl⟩
  case h_11 => cases h

/-- Settles O3. A scalar row writes its value (`exec_scalarResult`) and goes on inside the code (`State.issue_writesReg`). -/
theorem State.scalarResult : Obligations.ScalarResult := by
  unfold Obligations.ScalarResult
  intro i s g xd v h hi hpc
  obtain ⟨val, rfl, hexec⟩ := exec_scalarResult h
  refine ⟨_, hexec, State.issue_writesReg hi hpc ?_⟩
  simp [Hummock.modSeq, Sequencer.next]

/-! ### Branches and LOOP (R168, R169) -/

theorem branchTarget_eq (pc : BitVec 23) (imm : BitVec 32) : pc + (sext imm).setWidth 23 = branchTarget pc imm := by
  have hsext : (sext imm).setWidth 23 = BitVec.ofInt 23 imm.toInt := by
    refine BitVec.eq_of_toNat_eq ?_
    rw [sext_eq, BitVec.toNat_setWidth, BitVec.toNat_ofInt, BitVec.toNat_ofInt]
    omega
  rw [branchTarget, BitVec.ofInt_add, hsext, BitVec.ofInt_natCast, BitVec.ofNat_toNat, BitVec.setWidth_eq]

theorem Sequencer.branch_eq (q : Sequencer) (imm : BitVec 32) : q.branch imm = { q with pc := branchTarget q.pc imm } := by
  rw [← branchTarget_eq]; rfl

/-- COND compares as R169 says, and its other codes are reserved. -/
theorem brCond_eq (q : Sequencer) (xa xb : BitVec 5) (cond : BitVec 3) :
    brCond cond (q.reg xa) (q.reg xb) = branchTaken q xa xb cond := by
  have codes : ∀ c : BitVec 3, c = 0 ∨ c = 1 ∨ c = 2 ∨ c = 3 ∨ c = 4 ∨ c = 5 ∨ c = 6 ∨ c = 7 := by decide
  rcases codes cond with rfl | rfl | rfl | rfl | rfl | rfl | rfl | rfl
  · rfl
  · simp [brCond, branchTaken, bne, BEq.beq]
  · rfl
  · simp [brCond, branchTaken, BitVec.slt, ← decide_not]
  · rfl
  · simp [brCond, branchTaken, BitVec.ult, ← decide_not]
  · rfl
  · rfl

section
variable {s : State} {g : Hum} {xa xb xd : BitVec 5} {cond : BitVec 3} {imm : BitVec 32}

/-- An instruction that only moves PC. -/
theorem State.issue_pc {pc : BitVec 23} (h : s.issues g) (hpc : s.inCode g pc) {f : Sequencer → Sequencer}
    (hf : f (s.hum g).seq = { (s.hum g).seq with pc := pc }) :
    s.seqBecomes (s.issue g fun t => t.modHum g fun h => h.modSeq f) g { (s.hum g).seq with pc := pc } := by
  rw [← hf]
  refine State.issue_seq h f ?_ ?_ <;> rw [hf]
  · exact h.2.1
  · exact hpc

theorem exec_brc_taken (h : s.issues g) (ht : branchTaken (s.hum g).seq xa xb cond = some true) :
    exec (.brc g xa xb cond imm) s = .next (s.issue g fun t => t.modHum g fun h => h.modSeq fun q => q.branch imm) := by
  refine congrArg Host.Outcome.next (State.issue_congr h ?_)
  simp only [brCond_eq, ht]

theorem exec_brc_next (h : s.issues g) (ht : branchTaken (s.hum g).seq xa xb cond = some false) :
    exec (.brc g xa xb cond imm) s = .next (s.issue g fun t => t.modHum g fun h => h.modSeq Sequencer.next) := by
  refine congrArg Host.Outcome.next (State.issue_congr h ?_)
  simp only [brCond_eq, ht]

theorem Sequencer.loop_eq (q : Sequencer) (xd : BitVec 5) (imm : BitVec 32) : q.loop xd imm =
    { q.setReg xd (q.reg xd - 1) with pc := if q.reg xd - 1 ≠ 0 then branchTarget q.pc imm else q.pc + 1 } := by
  unfold Sequencer.loop
  generalize q.reg xd - 1 = v
  simp only [ne_eq, ite_not, Sequencer.branch_eq, Sequencer.next, Sequencer.setReg_pc]
  split <;> rfl

end

/-- Settles O4. NOP and the branches only move PC (`State.issue_pc`), a BRC as its condition says (`brCond_eq`); LOOP writes its register
too (`Sequencer.loop_eq`). -/
theorem controlResult : Obligations.ControlResult := by
  unfold Obligations.ControlResult
  refine ⟨fun s g xa xb cond imm h => ⟨fun hpc => ?nop, fun hpc => ?br, fun ht hpc => ?taken, fun ht hpc => ?next⟩,
    fun s g xd imm h => ?loop⟩
  case nop => exact ⟨_, rfl, State.issue_pc h hpc rfl⟩
  case br => exact ⟨_, rfl, State.issue_pc h hpc (Sequencer.branch_eq _ _)⟩
  case taken => exact ⟨_, exec_brc_taken h ht, State.issue_pc h hpc (Sequencer.branch_eq _ _)⟩
  case next => exact ⟨_, exec_brc_next h ht, State.issue_pc h hpc rfl⟩
  case loop =>
    intro v target hpc
    exact ⟨_, rfl, State.issue_writesReg h hpc (congrArg (fun q => { s.hum g with seq := q }) (Sequencer.loop_eq _ _ _))⟩

/-! ### SRD and SWR (R168, R187) -/

section
variable {s : State} {g : Hum} {xa xd : BitVec 5} {imm : BitVec 32}

theorem srdOk_of_named
    (h : imm = 0 ∨ imm = 0x1000 ∨ imm = 0x1018 ∨ (0x4000 ≤ imm.toNat ∧ imm.toNat < 0x4080 ∧ imm.toNat % 8 = 0)) :
    srdOk imm.toNat = true := by
  rcases h with rfl | rfl | rfl | ⟨hlo, hhi, h8⟩
  · rfl
  · rfl
  · rfl
  · simp [srdOk, hlo, hhi, h8]

/-- A register that SRD may name is read with PC at the next instruction, into XD. -/
theorem exec_srd_writesReg (h : s.issues g) (hpc : s.inCode g ((s.hum g).seq.pc + 1)) (hok : srdOk imm.toNat = true) :
    ∃ t, exec (.srd g xd imm) s = .next t ∧ s.writesReg t g ((s.hum g).seq.pc + 1) xd
      (readHumReg { (s.hum g) with seq := { (s.hum g).seq with pc := (s.hum g).seq.pc + 1 } } g imm.toNat) := by
  refine ⟨_, congrArg Host.Outcome.next (State.issue_congr h ?_), State.issue_writesReg h hpc
    (f := fun h => (h.modSeq Sequencer.next).modSeq fun q => q.setReg xd (readHumReg (h.modSeq Sequencer.next) g imm.toNat)) ?_⟩
  · simp only [hok, if_true]
  · simp only [Hummock.modSeq, Sequencer.next, Sequencer.setReg]
    split <;> rfl

/-- A write that changes nothing of the hummock but fields of its own and PC. -/
theorem exec_swr_modHum {off : BitVec 32} (h : s.issues g) (hpc : s.inCode g ((s.hum g).seq.pc + 1)) {f : Hummock → Hummock}
    (hexec : exec (.swr g xa off) s = .next (s.issue g fun t => t.modHum g f))
    (hf : (f (s.hum g)).holder = (s.hum g).holder ∧ (f (s.hum g)).seq.pc = (s.hum g).seq.pc + 1) :
    ∃ t, exec (.swr g xa off) s = .next t ∧ s.onlyHum t g ∧ t.hum g = f (s.hum g) := by
  rw [State.issue_modHum h hpc hf] at hexec
  exact ⟨_, hexec, s.onlyHum_setHum g _, State.hum_modHum_same _ _ _⟩

theorem exec_swr_pctl (h : s.issues g) : exec (.swr g xa 0x1008) s =
    .next (s.issue g fun t => t.modHum g fun k => (k.setPctl ((s.hum g).seq.reg xa)).modSeq Sequencer.next) :=
  congrArg Host.Outcome.next (State.issue_congr h rfl)

/-- A wake vector in the code is taken. -/
theorem exec_swr_wakevec (h : s.issues g) (hv : s.inCode g (((s.hum g).seq.reg xa).extractLsb' 0 23)) :
    exec (.swr g xa 0x1010) s = .next (s.issue g fun t => t.modHum g fun k =>
      { k.modSeq Sequencer.next with wvec := ((s.hum g).seq.reg xa).extractLsb' 0 23 }) := by
  obtain ⟨x, hx, hlt⟩ := hv
  have hcode : ¬ (s.hum g).codeLen ≤ (((s.hum g).seq.reg xa).extractLsb' 0 23).toNat := by
    simpa [Hummock.codeLen, hx] using hlt
  refine congrArg Host.Outcome.next (State.issue_congr h ?_)
  show (if (s.hum g).codeLen ≤ _ then _ else _) = _
  rw [if_neg hcode]

end

/-- Settles O5: each access changes its own hummock alone and goes on (`State.issue_modHum`). -/
theorem hummockRegisterAccess : Obligations.HummockRegisterAccess := by
  unfold Obligations.HummockRegisterAccess
  intro s g xd xa imm h hpc
  refine ⟨fun hoff => ?srd, ?pctl, ?wakevec⟩
  case srd => exact exec_srd_writesReg h hpc (srdOk_of_named hoff)
  case pctl => exact exec_swr_modHum h hpc (exec_swr_pctl h) ⟨rfl, rfl⟩
  case wakevec =>
    intro v q hv
    exact exec_swr_modHum h hpc (exec_swr_wakevec h hv) ⟨rfl, rfl⟩

end Sys2Proof.Machine
end

section
/-!
PROOFS. What a read of device memory leaves alone, with memory errors too (09 R218 to R226): the translation of its addresses, the
read of their bytes, and the front end's reads of an image.
-/

namespace Sys2Proof.Machine

/-- A read of device memory that took s to t left alone the Causeway, the hummocks, the sluices, the registers, the epoch, the reduction
units, and of the memory's state its bytes, the page records, the ownership map and the seals. -/
structure State.ReadFrame (s t : State) : Prop where
  access : s.AccessFrame t
  units : s.UnitFrame t
  hbm : t.mem.hbm = s.mem.hbm
  recs : t.mem.recs = s.mem.recs
  loaded : t.mem.loaded = s.mem.loaded
  regs : t.regs = s.regs

namespace State.ReadFrame

theorem refl (s : State) : s.ReadFrame s := ⟨.refl s, .refl s, rfl, rfl, rfl, rfl⟩

theorem trans {s t u : State} (h : s.ReadFrame t) (k : t.ReadFrame u) : s.ReadFrame u :=
  ⟨h.access.trans k.access, h.units.trans k.units, k.hbm.trans h.hbm, k.recs.trans h.recs, k.loaded.trans h.loaded, k.regs.trans h.regs⟩

end State.ReadFrame

/-- Corrections and counts of errors are no page records, seals or registers (R225). -/
theorem State.eccHbm_rest (s : State) (lo hi ctx : Nat) :
    (s.eccHbm lo hi ctx).1.mem.recs = s.mem.recs ∧ (s.eccHbm lo hi ctx).1.mem.loaded = s.mem.loaded ∧
      (s.eccHbm lo hi ctx).1.regs = s.regs := by
  have counted (t : State) (sec chan ce ue : Nat) : (countEcc t sec chan ce ue).mem.recs = t.mem.recs ∧
      (countEcc t sec chan ce ue).mem.loaded = t.mem.loaded ∧ (countEcc t sec chan ce ue).regs = t.regs := by
    unfold countEcc
    split <;> exact ⟨rfl, rfl, rfl⟩
  unfold State.eccHbm
  refine foldl_keeps (fun r : State × Option Nat => r.1.mem.recs = s.mem.recs ∧ r.1.mem.loaded = s.mem.loaded ∧ r.1.regs = s.regs)
    _ (fun r p h => ?_) _ _ ⟨rfl, rfl, rfl⟩
  dsimp only
  split
  · obtain ⟨h1, h2, h3⟩ := counted (r.1.setErr p.1 _) (dpaSector (32 * p.1)) (dpaChan (32 * p.1)) 1 0
    exact ⟨h1.trans h.1, h2.trans h.2.1, h3.trans h.2.2⟩
  · obtain ⟨h1, h2, h3⟩ := counted r.1 (dpaSector (32 * p.1)) (dpaChan (32 * p.1)) 0 1
    rw [State.memEvent_mem, State.memEvent, State.event_regs]
    exact ⟨h1.trans h.1, h2.trans h.2.1, h3.trans h.2.2⟩
  · exact h

theorem State.physRead_reads (s : State) (who : Accessor) (a n ctx : Nat) : s.ReadFrame (s.physRead who a n ctx).s := by
  suffices h : (s.physRead who a n ctx).s.mem.recs = s.mem.recs ∧ (s.physRead who a n ctx).s.mem.loaded = s.mem.loaded ∧
      (s.physRead who a n ctx).s.regs = s.regs from
    ⟨s.physRead_frame who a n ctx, s.physRead_units who a n ctx, s.physRead_hbm who a n ctx, h.1, h.2.1, h.2.2⟩
  unfold State.physRead
  split
  · exact ⟨rfl, rfl, rfl⟩
  · split
    · exact ⟨rfl, rfl, rfl⟩
    · obtain ⟨h1, h2, h3⟩ := ((s.awaitZero (dpaFrame a)).wakeStacks a n).eccHbm_rest (a / 32) ((a + n + 31) / 32) ctx
      have h := s.beforeAccess_dev (dpaFrame a) a n
      exact ⟨h1.trans h.recs, h2.trans h.loaded, h3.trans h.regs⟩

/-! ### Translation -/

theorem State.walk_reads (s : State) (c va fuel level t : Nat) : s.ReadFrame (s.walk c va fuel level t).1 := by
  induction fuel generalizing s level t with
  | zero => exact .refl s
  | succ n ih =>
    have hread (i : Nat) : s.ReadFrame (s.readEntry c t i).1 := s.physRead_reads _ _ _ _
    grind [State.walk, State.ReadFrame.refl, State.ReadFrame.trans]

theorem State.xlate_reads (s : State) (u c va : Nat) (write : Bool) : s.ReadFrame (s.xlate u c va write).1 := by
  have hdraw (t : State) : t.ReadFrame t.draw.2 := ⟨t.draw_frame, ⟨rfl, rfl, rfl, rfl⟩, rfl, rfl, rfl, rfl⟩
  have htlb (t : State) (l : List (Nat × TlbEntry)) : t.ReadFrame { t with mem := { t.mem with tlb := l } } :=
    ⟨t.setTlb_frame l, ⟨rfl, rfl, rfl, rfl⟩, rfl, rfl, rfl, rfl⟩
  grind [State.xlate, State.walk_reads, State.ReadFrame.refl, State.ReadFrame.trans]

theorem State.xlateVia_reads (s : State) (unit : Option Nat) (c a n : Nat) (write : Bool) :
    s.ReadFrame (s.xlateVia unit c a n write).1 := by
  unfold State.xlateVia
  refine foldl_keeps (fun r : State × List TlbEntry × Xlat => s.ReadFrame r.1) _ (fun r p hr => ?_) _ _ (.refl s)
  have hx := r.1.xlate_reads (unit.getD (vaSector p.1)) c p.1 write
  split
  · split
    · exact hr
    · split <;> rename_i heq <;> rw [heq] at hx <;> exact hr.trans hx
  · exact hr

/-- The translation of an instruction's operands. -/
theorem State.xlateOpnds_reads (s : State) (g c : Nat) (rs ws : List Opnd) : s.ReadFrame (s.xlateOpnds g c rs ws).1 := by
  unfold State.xlateOpnds
  refine foldl_keeps (fun r : State × List TlbEntry × XRes => s.ReadFrame r.1) _ (fun r x hr => ?_) _ _ (.refl s)
  have hx := r.1.xlateVia_reads (some (secOf g)) c x.1.1 x.1.2 x.2
  split
  · split <;> rename_i heq <;> rw [heq] at hx <;> exact hr.trans hx
  · exact hr

/-! ### Reads under leaves already found -/

theorem State.vaRead_reads (s : State) (m : List TlbEntry) (c a n : Nat) : s.ReadFrame (s.vaRead m c a n).s := by
  unfold State.vaRead
  refine foldl_keeps (fun r : Access => s.ReadFrame r.s) _ (fun r p h => ?_) _ _ (.refl s)
  dsimp only
  split
  · exact h
  · exact h.trans (State.physRead_reads _ _ _ _ _)

/-- Bytes that the front end or an SCP gets from the space of a context. -/
theorem State.feGet_reads {s s1 : State} {c va n : Nat} {bs : List Byte} (h : s.feGet c va n = (s1, .bytes bs)) : s.ReadFrame s1 := by
  have hx := s.xlateVia_reads none c va n false
  unfold State.feGet State.xlateSpan at h
  split at h
  case h_1 m e heq =>
    rw [heq] at hx
    obtain ⟨rfl, -⟩ := Prod.mk.inj h
    exact foldl_keeps (fun r : State × Option (List Byte) => s.ReadFrame r.1) _
      (fun r p hr => hr.trans (State.physRead_reads _ _ _ _ _)) _ _ hx
  case h_2 => cases h
  case h_3 => cases h

/-- Bytes read from a launch's image (07 R183, R184). -/
theorem State.imageRead_reads {s s1 : State} {l : Launch} {cls inst off n : Nat} {bs : List Byte}
    (h : s.imageRead l cls inst off n = (s1, some bs)) : s.ReadFrame s1 := by
  unfold State.imageRead at h
  split at h <;> cases h
  exact State.feGet_reads ‹_›

/-- The program table entry of a logical hummock (R184). -/
theorem State.programEntry_reads {s s1 : State} {l : Launch} {sec lhum : Nat} {e : List Byte}
    (h : s.programEntry l sec lhum = (s1, some e)) : s.ReadFrame s1 := by
  unfold State.programEntry at h
  split at h
  · exact (State.imageRead_reads ‹_›).trans (State.imageRead_reads h)
  · cases h

end Sys2Proof.Machine
end

section
/-!
PROOFS. Descriptors (07 R157, R166, R168, R169, R185): a field put into a word, and what DSET, DPATCH and DADD make of a descriptor,
which settles O6.
-/

namespace Sys2Proof.Machine

/-! ### A field of a word replaced -/

section
variable {n : Nat} (x : BitVec n) {lo w : Nat} (v : BitVec 64)

theorem getLsbD_ofNat_mul_two_pow {k i : Nat} (hi : i < n) (lo : Nat) :
    (BitVec.ofNat n (k * 2 ^ lo)).getLsbD i = (decide (lo ≤ i) && k.testBit (i - lo)) := by
  rw [BitVec.getLsbD_ofNat, Nat.testBit_mul_two_pow]
  simp [hi]

/-- The bits of a word with a field replaced (R169). -/
theorem getLsbD_putField {i : Nat} (hi : i < n) :
    (putField x lo w v).getLsbD i = if lo ≤ i ∧ i < lo + w then v.getLsbD (i - lo) else x.getLsbD i := by
  simp only [putField, BitVec.getLsbD_or, BitVec.getLsbD_and, BitVec.getLsbD_not, getLsbD_ofNat_mul_two_pow hi, hi, decide_true,
    Bool.true_and, Nat.testBit_two_pow_sub_one, Nat.testBit_mod_two_pow, BitVec.testBit_toNat]
  by_cases hlo : lo ≤ i
  · have hw : i - lo < w ↔ i < lo + w := by omega
    by_cases hup : i < lo + w <;> simp [hlo, hup, hw]
  · simp [hlo]

/-- The field reads back, truncated to its width. -/
theorem extractLsb'_putField_same (hn : lo + w ≤ n) : ((putField x lo w v).extractLsb' lo w).toNat = v.toNat % 2 ^ w := by
  have h : (putField x lo w v).extractLsb' lo w = BitVec.ofNat w v.toNat := by
    refine BitVec.eq_of_getLsbD_eq fun i hi => ?_
    rw [BitVec.getLsbD_extractLsb', getLsbD_putField x v (by omega), if_pos (by omega), BitVec.getLsbD_ofNat, BitVec.testBit_toNat,
      Nat.add_sub_cancel_left]
  rw [h, BitVec.toNat_ofNat]

/-- A field apart from it reads as before. -/
theorem extractLsb'_putField_apart {lo' w' : Nat} (hn : lo' + w' ≤ n) (h : lo' + w' ≤ lo ∨ lo + w ≤ lo') :
    (putField x lo w v).extractLsb' lo' w' = x.extractLsb' lo' w' := by
  refine BitVec.eq_of_getLsbD_eq fun i hi => ?_
  rw [BitVec.getLsbD_extractLsb', BitVec.getLsbD_extractLsb', getLsbD_putField x v (by omega), if_neg (by omega)]

end

/-! ### Fields of a descriptor (R157, R169) -/

/-- Place and width in a descriptor of the field that FIELD code k names, for the codes that name no origin. -/
def descPlace (k : Nat) : Nat × Nat :=
  match k with
  | 0 => (0, 52)
  | 1 => (64, 52)
  | 2 => (128, 32)
  | 3 => (192, 16)
  | 4 => (208, 20)
  | 5 => (116, 12)
  | 6 => (160, 31)
  | 7 => (228, 15)
  | 8 => (243, 7)
  | _ => (52, 3)

theorem descField_eq (d : DescCap) {k : Nat} (hk : k < 10) :
    descField d k = (d.raw.extractLsb' (descPlace k).1 (descPlace k).2).toNat := by
  interval_cases k <;> rfl

theorem patchPlace_eq : ∀ f : BitVec 4, f.toNat < 10 → patchPlace f = some (descPlace f.toNat) := by decide

theorem descPlace_width : ∀ k, k < 10 → (descPlace k).2 = descWidth k := by decide

theorem descPlace_fits : ∀ k, k < 10 → (descPlace k).1 + (descPlace k).2 ≤ 256 := by decide

/-- The fields lie apart. -/
theorem descPlace_apart : ∀ k, k < 10 → ∀ j, j < 10 → k ≠ j →
    (descPlace k).1 + (descPlace k).2 ≤ (descPlace j).1 ∨ (descPlace j).1 + (descPlace j).2 ≤ (descPlace k).1 := by decide

/-- A descriptor field put in, and every other one. -/
theorem descField_putField (d : DescCap) (v : BitVec 64) {j k : Nat} (hj : j < 10) (hk : k < 10) :
    descField { d with raw := putField d.raw (descPlace j).1 (descPlace j).2 v } k =
      if k = j then v.toNat % 2 ^ descWidth k else descField d k := by
  rw [descField_eq _ hk, descField_eq _ hk]
  by_cases h : k = j
  · subst h
    rw [if_pos rfl, extractLsb'_putField_same _ _ (descPlace_fits k hk), descPlace_width k hk]
  · rw [if_neg h, extractLsb'_putField_apart _ _ (descPlace_fits k hk) (descPlace_apart k hk j hj h)]

theorem descField_row (d : DescCap) : descField d 10 = (d.org.extractLsb' 0 32).toNat := rfl

theorem descField_col (d : DescCap) : descField d 11 = (d.org.extractLsb' 32 32).toNat := rfl

theorem lt_twelve_cases {k : Nat} (h : k < 12) : k < 10 ∨ k = 10 ∨ k = 11 := by omega

/-- DPATCH puts the register's value, truncated, into the field that FIELD names, and changes no other (R169). -/
theorem DescCap.patch_fields (d : DescCap) {f : BitVec 4} (hf : f.toNat < 12) (v : BitVec 64) :
    ∃ e, d.patch f v = some e ∧
      ∀ k, k < 12 → descField e k = if k = f.toNat then v.toNat % 2 ^ descWidth k else descField d k := by
  have code (k : BitVec 4) (h : f.toNat = k.toNat) : f = k := BitVec.eq_of_toNat_eq h
  rcases lt_twelve_cases hf with hraw | hrow | hcol
  · have h10 : f ≠ 10 := by rintro rfl; exact absurd hraw (by decide)
    have h11 : f ≠ 11 := by rintro rfl; exact absurd hraw (by decide)
    refine ⟨{ d with raw := putField d.raw (descPlace f.toNat).1 (descPlace f.toNat).2 v },
      by rw [DescCap.patch, if_neg h10, if_neg h11, patchPlace_eq f hraw]; rfl, fun k hk => ?_⟩
    rcases lt_twelve_cases hk with hk | rfl | rfl
    · exact descField_putField d v hraw hk
    · rw [if_neg (by omega), descField_row, descField_row]
    · rw [if_neg (by omega), descField_col, descField_col]
  · obtain rfl := code 10 hrow
    refine ⟨{ d with org := putField d.org 0 32 v }, rfl, fun k hk => ?_⟩
    rw [hrow]
    rcases lt_twelve_cases hk with hk | rfl | rfl
    · rw [if_neg (by omega), descField_eq _ hk, descField_eq _ hk]
    · rw [if_pos rfl, descField_row, extractLsb'_putField_same _ _ (by decide)]; rfl
    · rw [if_neg (by decide), descField_col, descField_col, extractLsb'_putField_apart _ _ (by decide) (.inr (by decide))]
  · obtain rfl := code 11 hcol
    refine ⟨{ d with org := putField d.org 32 32 v }, rfl, fun k hk => ?_⟩
    rw [hcol]
    rcases lt_twelve_cases hk with hk | rfl | rfl
    · rw [if_neg (by omega), descField_eq _ hk, descField_eq _ hk]
    · rw [if_neg (by decide), descField_row, descField_row, extractLsb'_putField_apart _ _ (by decide) (.inl (by decide))]
    · rw [if_pos rfl, descField_col, extractLsb'_putField_same _ _ (by decide)]; rfl

/-- The low 52 bits of a sum on 64 bits are those of the sum of the low 52 bits (log 86). -/
theorem extractLsb'_add_mod (x : BitVec 256) (lo : Nat) (a : BitVec 64) :
    (x.extractLsb' lo 64 + a).toNat % 2 ^ 52 = ((x.extractLsb' lo 52).toNat + a.toNat) % 2 ^ 52 := by
  rw [BitVec.toNat_add, BitVec.extractLsb'_toNat, BitVec.extractLsb'_toNat]
  omega

/-- DADD moves the two bases modulo 2^52, and changes no other field. -/
theorem DescCap.addBases_fields (d : DescCap) (a b : BitVec 64) :
    (d.addBases a b).ebase = (d.ebase + a.toNat) % 2 ^ 52 ∧ (d.addBases a b).sbase = (d.sbase + b.toNat) % 2 ^ 52 ∧
      ∀ k, 2 ≤ k → k < 12 → descField (d.addBases a b) k = descField d k := by
  have field {k : Nat} (hk : k < 10) : descField (d.addBases a b) k =
      if k = 1 then (d.raw.extractLsb' 64 64 + b).toNat % 2 ^ descWidth k
      else if k = 0 then (d.raw.extractLsb' 0 64 + a).toNat % 2 ^ descWidth k else descField d k := by
    rw [← descField_putField d _ (j := 0) (by decide) hk]
    exact descField_putField { d with raw := putField d.raw 0 52 (d.raw.extractLsb' 0 64 + a) } _ (j := 1) (by decide) hk
  have ebase := field (k := 0) (by decide)
  have sbase := field (k := 1) (by decide)
  rw [if_neg (by decide), if_pos rfl, descWidth, extractLsb'_add_mod] at ebase
  rw [if_pos rfl, descWidth, extractLsb'_add_mod] at sbase
  refine ⟨ebase, sbase, fun k h2 hk => ?_⟩
  · rcases lt_twelve_cases hk with hk | rfl | rfl
    · rw [field hk, if_neg (by omega), if_neg (by omega)]
    · rw [descField_row, descField_row, DescCap.addBases]
    · rw [descField_col, descField_col, DescCap.addBases]

/-! ### A descriptor register written -/

section
variable {s t u : State} {g : Hum} {td : BitVec 6} {d : DescCap}

theorem Sequencer.desc1_setDesc (q : Sequencer) (td k : BitVec 6) (d : DescCap) :
    (q.setDesc td d).desc1 k = if k = td then d else q.desc1 k := by
  by_cases h : k = td
  · subst h
    simp [Sequencer.desc1, Sequencer.setDesc]
  · have hne : k.toNat ≠ td.toNat := fun e => h (BitVec.eq_of_toNat_eq e)
    simp [Sequencer.desc1, Sequencer.setDesc, h, sget_sset_ne _ _ _ hne]

/-- The instruction's effect on its hummock: descriptor td becomes d, and PC goes on. -/
def Hummock.putDesc (h : Hummock) (td : BitVec 6) (d : DescCap) : Hummock := h.modSeq fun q => (q.setDesc td d).next

theorem State.modHum_descBecomes (s : State) (g : Hum) (td : BitVec 6) (d : DescCap) :
    s.descBecomes (s.modHum g fun h => h.putDesc td d) g td d := by
  have hg : ((s.modHum g fun h => h.putDesc td d).hum g) = (s.hum g).putDesc td d := State.hum_modHum_same _ _ _
  have hdesc (k : BitVec 6) : ((s.hum g).putDesc td d).seq.desc1 k = if k = td then d else (s.hum g).seq.desc1 k :=
    Sequencer.desc1_setDesc _ td k d
  refine ⟨s.onlyHum_setHum g _, ?_, ?_, ?_, ?_, fun k hk => ?_⟩ <;> rw [hg]
  · rfl
  · rfl
  · rfl
  · rw [hdesc, if_pos rfl]
  · rw [hdesc, if_neg hk]

theorem exec_dpatch (h : s.issues g) (hpc : s.inCode g ((s.hum g).seq.pc + 1)) {f : BitVec 4} {xa : BitVec 5}
    (hd : ((s.hum g).seq.desc1 td).patch f ((s.hum g).seq.reg xa) = some d) :
    exec (.dpatch g td f xa) s = .next (s.modHum g fun h => h.putDesc td d) := by
  rw [← State.issue_modHum h hpc (f := fun h => h.putDesc td d) ⟨rfl, rfl⟩]
  refine congrArg Host.Outcome.next (State.issue_congr h ?_)
  simp only [hd]
  rfl

theorem exec_dadd (h : s.issues g) (hpc : s.inCode g ((s.hum g).seq.pc + 1)) (xa xb : BitVec 5) :
    exec (.dadd g td xa xb) s = .next (s.modHum g fun h =>
      h.putDesc td (((s.hum g).seq.desc1 td).addBases ((s.hum g).seq.reg xa) ((s.hum g).seq.reg xb))) := by
  rw [← State.issue_modHum h hpc (f := fun h => h.putDesc td _) ⟨rfl, rfl⟩]
  refine congrArg Host.Outcome.next (State.issue_congr h ?_)
  simp only [State.modHum, Hummock.putDesc, Hummock.modSeq]

/-- DSET of an entry that reads without trouble takes it into descriptor td, in the state that the read leaves. -/
theorem exec_dset (h : s.issues g) (hpc : s.inCode g ((s.hum g).seq.pc + 1)) {imm : BitVec 32} {x : Holder} {s1 : State}
    {m : List TlbEntry} {e : TlbEntry} {va : Nat} (hx : (s.hum g).holder = some x) (hin : imm.toNat < x.ndesc)
    (hva : (x.descBase.toNat + 32 * imm.toNat) % 2 ^ 52 = va)
    (hxl : s.xlateVia (some (secOf g)) x.imgCtx.toNat va 32 false = (s1, m, .ok e)) (hfree : s1.framesBusy m = false)
    (hread : (s1.vaRead m x.imgCtx.toNat va 32).trouble = .none) (hu : (s1.vaRead m x.imgCtx.toNat va 32).s = u)
    (hums : u.hums = s.hums) :
    exec (.dset g td imm) s = .next (u.modHum g fun h => h.putDesc td (descOfBytes (s1.vaRead m x.imgCtx.toNat va 32).bytes)) := by
  have hact : s.descSet g td imm.toNat =
      u.modHum g fun h => h.putDesc td (descOfBytes (s1.vaRead m x.imgCtx.toNat va 32).bytes) := by
    simp only [State.descSet, hx, if_neg (Nat.not_le.2 hin), hva, hxl, hfree, hread, hu, Bool.false_eq_true, if_false,
      Hummock.putDesc, descOfBytes]
  rw [← hact]
  refine congrArg Host.Outcome.next (State.issue_eq h fun _ => ?_)
  have hg : u.hum g = s.hum g := by rw [State.hum, hums]; rfl
  obtain ⟨y, hy, hlt⟩ := hpc
  refine ⟨y, ?_, ?_⟩ <;> rw [hact, State.hum_modHum_same, hg]
  · exact hy
  · exact hlt

end

/-- Settles O6. DSET reads its entry without a change of anything that is named (`State.vaRead_reads`); what DPATCH and DADD make of the
fields is said by `DescCap.patch_fields` and `DescCap.addBases_fields`. -/
theorem descriptorResult : Obligations.DescriptorResult := by
  unfold Obligations.DescriptorResult
  refine ⟨fun s s1 g td imm x m e h hpc hx hin => ?dset, fun s g td f xa h hpc hf => ?dpatch, fun s g td xa xb h hpc => ?dadd⟩
  case dset =>
    intro va
    have hva : (x.descBase.toNat + 32 * imm.toNat) % 2 ^ 52 = va := rfl
    clear_value va
    intro hxl hfree htrouble u
    have hlook : s.ReadFrame s1 := by
      have := s.xlateVia_reads (some (secOf g)) x.imgCtx.toNat va 32 false
      rwa [hxl] at this
    have hall : s.ReadFrame u := hlook.trans (s1.vaRead_reads m x.imgCtx.toNat va 32)
    exact ⟨_, exec_dset h hpc hx hin hva hxl hfree htrouble rfl hall.access.hums, u.modHum_descBecomes g td _, hall.access.hums,
      hall.hbm, hall.recs, hall.access.sluices, hall.regs, hall.units.ep, hall.access.cwy⟩
  case dpatch =>
    obtain ⟨d, hd, hfields⟩ := ((s.hum g).seq.desc1 td).patch_fields hf ((s.hum g).seq.reg xa)
    exact ⟨_, d, exec_dpatch h hpc hd, s.modHum_descBecomes g td d, hfields⟩
  case dadd =>
    exact ⟨_, _, exec_dadd h hpc xa xb, s.modHum_descBecomes g td _, DescCap.addBases_fields _ _ _⟩

end Sys2Proof.Machine
end

section
/-!
PROOFS. Program faults (07 R174, R175): what raises one leaves the sluices' queues without its hummock, which refutes O7 and O58.
-/

namespace Sys2Proof.Machine

/-- Hummock 3 issues its first instruction, and its WAIT for 1 on sluice 1 still stands in the queue. The two obligations name every
state, and this is one of them; no claim that a run reaches it. -/
def waitingIssuer : State :=
  { State.reset with
    hums := [(3, { Hummock.reset with
      power := .running
      holder := some { launch := 1, att := 1, ctx := 1, lhum := 0, nhum := 1, mode := 0, seed := 0, imgCtx := 1, code := 0, codeLen := 64
                       descBase := 0x1000, ndesc := 4, entry := 0, isSealed := false }
      seq := { Sequencer.reset with st := .issuing } })]
    sluices := [(1, { Sluice.reset with waiters := [⟨some 3, 1, false⟩] })] }

theorem waitingIssuer_issues : waitingIssuer.issues 3 := ⟨rfl, rfl, rfl, _, rfl, by decide⟩

theorem waitingIssuer_inCode : waitingIssuer.inCode 3 ((waitingIssuer.hum (3 : Hum)).seq.pc + 1) := ⟨_, rfl, by decide⟩

/-- A PLD at offset 1 is misaligned (R168, R174). -/
theorem waitingIssuer_misaligned :
    ((waitingIssuer.hum (3 : Hum)).seq.reg 0 + BitVec.ofInt 64 (1 : BitVec 32).toInt).toNat % 8 ≠ 0 := by decide

/-- Its fault takes the hummock out of every sluice's queue (`State.programFault`), so the sluices are not as they were. -/
theorem not_faults_of_waitingIssuer {t : State} (ht : exec (.pld 3 0 0 1) waitingIssuer = .next t) :
    ¬ waitingIssuer.faults t 3 5 0x1A := by
  rintro ⟨-, -, -, -, -, -, -, -, hsluices, -⟩
  have hrun : (match exec (.pld 3 0 0 1) waitingIssuer with
    | .next u => some u.sluices
    | _ => none) = some [] := by decide
  rw [ht] at hrun
  exact absurd (Option.some.inj hrun) (by rw [hsluices]; decide)

/-- Refutes O7: the fault also takes the hummock's waiters out of the sluices' queues, where one stands. -/
theorem not_sequencerFaults : ¬ Obligations.SequencerFaults := by
  unfold Obligations.SequencerFaults
  intro h
  obtain ⟨-, hpld, -⟩ := h waitingIssuer 3 waitingIssuer_issues
  obtain ⟨t, ht, hfault⟩ := hpld 0 0 1 (.inl waitingIssuer_misaligned)
  exact not_faults_of_waitingIssuer ht hfault

/-- Refutes O58: its clause on a PLD that faults is O7's, and fails in the same state. -/
theorem not_parameterBlock : ¬ Obligations.ParameterBlock := by
  unfold Obligations.ParameterBlock
  intro h
  obtain ⟨hpld, -⟩ := h waitingIssuer 3
  obtain ⟨-, hbad⟩ := hpld 0 0 1 waitingIssuer_issues waitingIssuer_inCode
  obtain ⟨t, ht, hfault⟩ := hbad (.inl waitingIssuer_misaligned)
  exact not_faults_of_waitingIssuer ht hfault

end Sys2Proof.Machine
end

section
/-!
PROOFS. FENCE, END and WAITP with nothing to wait for (07 R168, R171, R172), which settles O8.
-/

namespace Sys2Proof.Machine

section
variable {s : State} {g : Hum} {x : Holder} {w : Stall}

/-- Hummock g stalled for w, its PC at the next instruction. -/
def State.stalled (s : State) (g : Hum) (w : Stall) : State :=
  s.modHum g fun h => h.modSeq fun q => { q.next with st := .waitQueue, stall := some w }

theorem State.stalled_hum (s : State) (g : Hum) (w : Stall) : (s.stalled g w).hum g =
    { s.hum g with seq := { (s.hum g).seq with pc := (s.hum g).seq.pc + 1, st := .waitQueue, stall := some w } } :=
  State.hum_modHum_same _ _ _

theorem State.stalled_onlyHum : s.onlyHum (s.stalled g w) g := s.onlyHum_setHum g _

theorem State.stalled_recheck (w : Stall) : (s.stalled g w).recheck g = (match w with
    | .fence m => if (s.hum g).unret.any fun i => inMask m i.op then s.stalled g w
        else ((s.stalled g w).modHum g Hummock.resume).codeFault g
    | .ended => if (s.hum g).unret = [] ∧ (s.hum g).seq.sigs = [] then (s.stalled g w).endNow g else s.stalled g w
    | .waitp => if (s.hum g).unret = [] ∧ (s.hum g).seq.sigs = [] then (s.stalled g w).waitNow g else s.stalled g w
    | .queue => (s.stalled g w).modHum g Hummock.resume
    | _ => s.stalled g w) := by
  cases w <;> simp only [State.recheck, State.stalled_hum]

/-- With nothing unretired and no signal to send, a stall is looked at at once. -/
theorem State.stallFor_of_retired (h : s.allRetired g) (w : Stall) : s.stallFor g w = (s.stalled g w).recheck g := by
  obtain ⟨hunret, hsigs⟩ := h
  refine State.advance_eq_recheck (s := s.stalled g w) (State.pump_idle ?_) ?_ <;> rw [State.stalled_hum]
  · exact hunret
  · exact hsigs

theorem State.stallFor_ended (h : s.allRetired g) : s.stallFor g .ended = (s.stalled g .ended).endNow g := by
  rw [State.stallFor_of_retired h, State.stalled_recheck]
  exact if_pos h

theorem State.stallFor_waitp (h : s.allRetired g) : s.stallFor g .waitp = (s.stalled g .waitp).waitNow g := by
  rw [State.stallFor_of_retired h, State.stalled_recheck]
  exact if_pos h

theorem State.stallFor_fence (h : s.allRetired g) (hpc : s.inCode g ((s.hum g).seq.pc + 1)) (mask : BitVec 4) :
    s.stallFor g (.fence mask) = (s.stalled g (.fence mask)).modHum g Hummock.resume := by
  have hnone : ((s.hum g).unret.any fun i => inMask mask i.op) = false := by rw [h.1]; rfl
  rw [State.stallFor_of_retired h, State.stalled_recheck]
  simp only [hnone, Bool.false_eq_true, if_false]
  obtain ⟨x, hx, hlt⟩ := hpc
  refine State.codeFault_of_inCode ⟨x, ?_, ?_⟩ <;> rw [State.hum_modHum_same, State.stalled_hum]
  · exact hx
  · exact hlt

/-- What END counts (R172). -/
theorem State.endNow_launches (hx : (s.hum g).holder = some x) :
    (s.endNow g).fe.launches = s.fe.launches.map fun l => if l.id == x.launch then { l with ended := l.ended + 1 } else l := by
  simp only [State.endNow, hx]
  rfl

theorem exec_fence (hi : s.issues g) (h : s.allRetired g) (hpc : s.inCode g ((s.hum g).seq.pc + 1)) (mask : BitVec 4) :
    exec (.fence g mask) s = .next ((s.stalled g (.fence mask)).modHum g Hummock.resume) := by
  rw [← State.stallFor_fence h hpc]
  refine congrArg Host.Outcome.next (State.issue_eq hi fun _ => ?_)
  rw [State.stallFor_fence h hpc]
  obtain ⟨x, hx, hlt⟩ := hpc
  refine ⟨x, ?_, ?_⟩ <;> rw [State.hum_modHum_same, State.stalled_hum]
  · exact hx
  · exact hlt

theorem exec_endProg (hi : s.issues g) (h : s.allRetired g) : exec (.endProg g) s = .next ((s.stalled g .ended).endNow g) := by
  rw [← State.stallFor_ended h]
  refine congrArg Host.Outcome.next (State.issue_eq hi fun hst => ?_)
  rw [State.stallFor_ended h, (State.endNow_spec _ g).1] at hst
  cases hst

/-- What WAITP makes of its hummock (R171). -/
def Hummock.waitp (h : Hummock) : Hummock :=
  if h.pmode then { h.gate with holder := h.holder, seq := { Sequencer.reset with st := .gated } }
  else { h with power := .still, seq := { h.seq with st := .still, stall := none } }

theorem Hummock.waitp_st (h : Hummock) : h.waitp.seq.st ≠ .issuing := by
  unfold Hummock.waitp
  split <;> simp

theorem exec_waitp (hi : s.issues g) (h : s.allRetired g) :
    exec (.waitp g) s = .next ((s.stalled g .waitp).modHum g Hummock.waitp) := by
  rw [show (s.stalled g .waitp).modHum g Hummock.waitp = s.stallFor g .waitp from (State.stallFor_waitp h).symm]
  refine congrArg Host.Outcome.next (State.issue_eq hi fun hst => absurd hst ?_)
  rw [State.stallFor_waitp h, State.waitNow, State.hum_modHum_same]
  exact Hummock.waitp_st _

end

/-- Settles O8. Nothing unretired and no signal to send: the stall ends in the instruction's own step (`State.stallFor_of_retired`). -/
theorem fenceEndWaitp : Obligations.FenceEndWaitp := by
  unfold Obligations.FenceEndWaitp
  intro s g x mask hi h hx
  obtain ⟨-, hst, hstall, -⟩ := id hi
  refine ⟨fun hpc => ?fence, ?ended, fun hmode => ?still, fun hmode => ?gated⟩
  case fence =>
    refine ⟨_, exec_fence hi h hpc mask, State.stalled_onlyHum.modHum _, ?_, ?_⟩ <;> rw [State.hum_modHum_same, State.stalled_hum]
    · simp only [Hummock.resume, hst, hstall]
    · rfl
  case ended =>
    obtain ⟨hum, hmem, hother⟩ := (s.stalled g .ended).endNow_spec g
    refine ⟨_, exec_endProg hi h, ?_, ?_, ?_, fun k hk => (hother k hk).trans (State.stalled_onlyHum.2 k hk), hmem, ?_⟩
    · rw [hum]
    · rw [hum, State.stalled_hum]
    · rw [hum, State.stalled_hum]
    · exact State.endNow_launches (by rw [State.stalled_hum]; exact hx)
  case still =>
    refine ⟨_, exec_waitp hi h, State.stalled_onlyHum.modHum _, ?_⟩
    rw [State.hum_modHum_same, State.stalled_hum]
    simp [Hummock.waitp, hmode, hstall]
  case gated =>
    refine ⟨_, exec_waitp hi h, State.stalled_onlyHum.modHum _, ?_⟩
    rw [State.hum_modHum_same, State.stalled_hum]
    simp [Hummock.waitp, hmode, hx, Hummock.gate, Hummock.reset, Sequencer.reset]

end Sys2Proof.Machine
end

section
/-!
PROOFS. Sluices (07 R176 to R181): how the head of a sluice's queue is served, SIGNAL and WAIT at the sequencer and a signal at its home,
which settles O9 and O19.
-/

namespace Sys2Proof.Machine

/-! ### What a change of one hummock or one sluice leaves -/

section
variable (s : State) (hs : List (Nat × Hummock)) (xs : List (Nat × Sluice))

theorem State.rest_setSluice (n : Nat) (x : Sluice) :
    { s.setSluice n x with hums := hs, sluices := xs } = { s with hums := hs, sluices := xs } := rfl

theorem State.rest_modHum (k : Nat) (f : Hummock → Hummock) :
    { s.modHum k f with hums := hs, sluices := xs } = { s with hums := hs, sluices := xs } := rfl

end

/-- A change of the sequencer alone. -/
theorem State.modSeq_seqBecomes (s : State) (g : Hum) (f : Sequencer → Sequencer) :
    s.seqBecomes (s.modHum g fun h => h.modSeq f) g (f (s.hum g).seq) := by
  refine ⟨s.onlyHum_setHum g _, ?_, ?_⟩ <;> rw [State.hum_modHum_same]
  · rfl
  · rfl

/-! ### Serving the waiters of a sluice (R177) -/

/-- The sluice whose only waiter has taken its threshold. -/
def Sluice.taken (x : Sluice) (thr : BitVec 32) (cons : Bool) : Sluice :=
  { x with count := if cons then x.count - thr else x.count, waiters := [] }

section
variable {s : State} {n : Nat} {k : Fin 96} {thr : BitVec 32} {cons : Bool}

/-- A waiter at the head whose threshold is not met keeps the queue waiting. -/
theorem State.serveAll_blocked {w : Waiter} {rest : List Waiter} (hw : (s.sluice n).waiters = w :: rest)
    (h : (s.sluice n).count.toNat < w.thr.toNat) : s.serveAll n = s := by
  simp only [State.serveAll, hw, List.length_cons, State.serve, if_neg (Nat.not_le.2 h)]

/-- A waiter alone in the queue whose threshold is met goes on. -/
theorem State.serveAll_alone (hw : (s.sluice n).waiters = [⟨some k, thr, cons⟩]) (h : thr.toNat ≤ (s.sluice n).count.toNat) :
    s.serveAll n = (s.setSluice n ((s.sluice n).taken thr cons)).modHum k Hummock.resume := by
  simp only [State.serveAll, hw, List.length_singleton, State.serve, if_pos h, Sluice.taken]

end

/-! ### WAIT (R177, R178) -/

section
variable {s : State} {g : Hum} {x : Holder} {slu : BitVec 15} {thr : BitVec 32} {cons : Bool} {n : Nat}

/-- Hummock g stalled at its WAIT, its PC at the next instruction. -/
def State.stalledAt (s : State) (g : Hum) (slu : BitVec 15) (thr : BitVec 32) (cons : Bool) : State :=
  s.modHum g fun h => h.modSeq fun q => { q.next with st := .waitSluice, stall := some (.sluice slu thr cons) }

theorem State.stalledAt_hum : (s.stalledAt g slu thr cons).hum g =
    { s.hum g with seq := { (s.hum g).seq with
        pc := (s.hum g).seq.pc + 1, st := .waitSluice, stall := some (.sluice slu thr cons) } } :=
  State.hum_modHum_same _ _ _

theorem State.stalledAt_hum_ne {k : Nat} (h : k ≠ g.val) : (s.stalledAt g slu thr cons).hum k = s.hum k := State.hum_modHum_ne _ _ h

/-- Hummock g, so stalled, stands last among the waiters of sluice n. -/
def State.queuedAt (s : State) (g : Hum) (slu : BitVec 15) (thr : BitVec 32) (cons : Bool) (n : Nat) : State :=
  (s.stalledAt g slu thr cons).setSluice n { s.sluice n with waiters := (s.sluice n).waiters ++ [⟨some g, thr, cons⟩] }

theorem State.queuedAt_sluice : (s.queuedAt g slu thr cons n).sluice n =
    { s.sluice n with waiters := (s.sluice n).waiters ++ [⟨some g, thr, cons⟩] } := State.sluice_setSluice_same _ _ _

theorem State.queuedAt_sluice_ne {k : Nat} (h : k ≠ n) : (s.queuedAt g slu thr cons n).sluice k = s.sluice k :=
  State.sluice_setSluice_ne _ _ h

theorem State.queuedAt_rest : { s.queuedAt g slu thr cons n with hums := s.hums, sluices := s.sluices } = s := by
  rw [State.queuedAt, State.rest_setSluice, State.stalledAt, State.rest_modHum]

theorem State.queuedAt_hum (k : Nat) : (s.queuedAt g slu thr cons n).hum k = (s.stalledAt g slu thr cons).hum k := rfl

theorem State.waitSluice_out (hx : (s.hum g).holder = some x) (ht : thr ≠ 0) (hn : s.sluiceOf x.ctx.toNat slu.toNat = none) :
    s.waitSluice g slu thr cons = s.stalledAt g slu thr cons := by
  simp only [State.waitSluice, State.ctxOf, hx, if_neg ht, hn]
  rfl

theorem State.waitSluice_in (hx : (s.hum g).holder = some x) (ht : thr ≠ 0) (hn : s.sluiceOf x.ctx.toNat slu.toNat = some n) :
    s.waitSluice g slu thr cons = (s.queuedAt g slu thr cons n).serveAll n := by
  simp only [State.waitSluice, State.ctxOf, hx, if_neg ht, hn]
  rfl

/-- A WAIT that leaves its sequencer stalled. -/
theorem exec_wait_stalls {t : State} (hi : s.issues g) (ht : s.waitSluice g slu thr cons = t) (hst : (t.hum g).seq.st = .waitSluice) :
    exec (.wait g slu thr cons) s = .next t := by
  subst ht
  refine congrArg Host.Outcome.next (State.issue_eq hi fun h => ?_)
  rw [hst] at h
  cases h

theorem exec_wait_zero (hi : s.issues g) (hpc : s.inCode g ((s.hum g).seq.pc + 1)) :
    exec (.wait g slu 0 cons) s = .next (s.modHum g fun h => h.modSeq Sequencer.next) := by
  rw [← State.issue_modHum hi hpc (f := fun h => h.modSeq Sequencer.next) ⟨rfl, rfl⟩]
  exact congrArg Host.Outcome.next (State.issue_congr hi (if_pos rfl))

/-- A WAIT behind a head that keeps the queue waiting: its own, or that of an earlier waiter. -/
theorem exec_wait_behind (hi : s.issues g) (hx : (s.hum g).holder = some x) (ht : thr ≠ 0)
    (hn : s.sluiceOf x.ctx.toNat slu.toNat = some n) {w : Waiter} {rest : List Waiter}
    (hw : (s.sluice n).waiters ++ [⟨some g, thr, cons⟩] = w :: rest) (hless : (s.sluice n).count.toNat < w.thr.toNat) :
    exec (.wait g slu thr cons) s = .next (s.queuedAt g slu thr cons n) := by
  refine exec_wait_stalls hi ?_ (by rw [State.queuedAt_hum, State.stalledAt_hum])
  rw [State.waitSluice_in hx ht hn]
  exact State.serveAll_blocked (by rw [State.queuedAt_sluice]; exact hw) (by rw [State.queuedAt_sluice]; exact hless)

/-- A WAIT that is met at once. -/
def State.waited (s : State) (g : Hum) (slu : BitVec 15) (thr : BitVec 32) (cons : Bool) (n : Nat) : State :=
  ((s.queuedAt g slu thr cons n).setSluice n (((s.queuedAt g slu thr cons n).sluice n).taken thr cons)).modHum g Hummock.resume

theorem State.waited_rest : { s.waited g slu thr cons n with hums := s.hums, sluices := s.sluices } = s := by
  rw [State.waited, State.rest_modHum, State.rest_setSluice, State.queuedAt_rest]

theorem State.waited_hum (hi : s.issues g) : (s.waited g slu thr cons n).hum g =
    { s.hum g with seq := { (s.hum g).seq with pc := (s.hum g).seq.pc + 1 } } := by
  obtain ⟨-, hst, hstall, -⟩ := hi
  have h : (s.waited g slu thr cons n).hum g = ((s.stalledAt g slu thr cons).hum g).resume := State.hum_modHum_same _ _ _
  simp only [h, State.stalledAt_hum, Hummock.resume, hst, hstall]

theorem State.waited_hum_ne {k : Nat} (h : k ≠ g.val) : (s.waited g slu thr cons n).hum k = s.hum k :=
  (State.hum_modHum_ne _ _ h).trans (State.stalledAt_hum_ne h)

theorem State.waited_sluice (hw : (s.sluice n).waiters = []) : (s.waited g slu thr cons n).sluice n =
    { s.sluice n with count := if cons then (s.sluice n).count - thr else (s.sluice n).count } := by
  have h : (s.waited g slu thr cons n).sluice n = ((s.queuedAt g slu thr cons n).sluice n).taken thr cons :=
    State.sluice_setSluice_same _ _ _
  simp only [h, State.queuedAt_sluice, Sluice.taken, hw]

theorem State.waited_sluice_ne {k : Nat} (h : k ≠ n) : (s.waited g slu thr cons n).sluice k = s.sluice k :=
  (State.sluice_setSluice_ne _ _ h).trans (State.queuedAt_sluice_ne h)

theorem exec_wait_met (hi : s.issues g) (hpc : s.inCode g ((s.hum g).seq.pc + 1)) (hx : (s.hum g).holder = some x) (ht : thr ≠ 0)
    (hn : s.sluiceOf x.ctx.toNat slu.toNat = some n) (hw : (s.sluice n).waiters = [])
    (hmet : thr.toNat ≤ (s.sluice n).count.toNat) : exec (.wait g slu thr cons) s = .next (s.waited g slu thr cons n) := by
  have hact : s.waitSluice g slu thr cons = s.waited g slu thr cons n := by
    rw [State.waitSluice_in hx ht hn]
    refine State.serveAll_alone ?_ ?_ <;> rw [State.queuedAt_sluice]
    · rw [hw, List.nil_append]
    · exact hmet
  rw [← hact]
  refine congrArg Host.Outcome.next (State.issue_eq hi fun _ => ?_)
  obtain ⟨y, hy, hlt⟩ := hpc
  refine ⟨y, ?_, ?_⟩ <;> rw [hact, State.waited_hum hi]
  · exact hy
  · exact hlt

end

/-! ### SIGNAL at the sequencer (R176, R179) -/

section
variable {s : State} {g : Hum} {x : Holder} {slu : BitVec 15} {inc : BitVec 16} {rank : BitVec 15} {rem : Bool}

/-- The signal that the sequencer of g sends, with nothing unretired to wait for. -/
def State.ownSig (s : State) (g : Hum) (x : Holder) (slu : BitVec 15) (inc : BitVec 16) (rem : Bool) (rank : BitVec 15) : Sig :=
  { slu := slu, inc := inc, rem := rem, rank := rank, ctx := x.ctx, launch := x.launch, att := x.att, after := []
    pc := (s.hum g).seq.pc }

/-- The signal taken up by the sequencer, its PC at the next instruction. -/
def State.signalling (s : State) (g : Hum) (y : Sig) : State :=
  s.modHum g fun h => h.modSeq fun q => { q.next with sigs := q.sigs ++ [y] }

/-- The signal given away again. -/
def State.signalled (s : State) (g : Hum) (y : Sig) : State :=
  (s.signalling g y).modHum g fun h => { h with seq := { h.seq with sigs := [] } }

theorem State.signalling_hum {y : Sig} (h : (s.hum g).seq.sigs = []) :
    (s.signalling g y).hum g = { s.hum g with seq := { (s.hum g).seq with pc := (s.hum g).seq.pc + 1, sigs := [y] } } := by
  simp only [State.signalling, State.hum_modHum_same, Hummock.modSeq, Sequencer.next, h, List.nil_append]

theorem State.signalled_hum {y : Sig} (h : (s.hum g).seq.sigs = []) :
    (s.signalled g y).hum g = { s.hum g with seq := { (s.hum g).seq with pc := (s.hum g).seq.pc + 1 } } := by
  simp only [State.signalled, State.hum_modHum_same, State.signalling_hum h, h]

theorem State.signalled_hum_ne {y : Sig} {k : Nat} (h : k ≠ g.val) : (s.signalled g y).hum k = s.hum k :=
  (State.hum_modHum_ne _ _ h).trans (State.hum_modHum_ne _ _ h)

theorem State.signalled_rest (y : Sig) (hs : List (Nat × Hummock)) (fs : List (Fin 96 × Sig)) :
    { s.signalled g y with hums := hs, flight := fs } = { s with hums := hs, flight := fs } := by
  have hmod (u : State) (f : Hummock → Hummock) :
      { u.modHum g f with hums := hs, flight := fs } = { u with hums := hs, flight := fs } := rfl
  rw [State.signalled, hmod, State.signalling, hmod]

theorem State.signalled_flight (y : Sig) : (s.signalled g y).flight = s.flight := rfl

theorem State.signalled_memberDev (y : Sig) (r : Nat) : (s.signalled g y).memberDev r = s.memberDev r := by
  unfold State.memberDev
  rfl

/-- The one signal that a sequencer holds and that waits for nothing leaves it. -/
theorem State.flushSigs_one {y : Sig} (h : (s.hum g).seq.sigs = [y]) (ha : y.after = []) :
    s.flushSigs g 1 = (s.modHum g fun h => { h with seq := { h.seq with sigs := [] } }).sendSig g y := by
  simp only [State.flushSigs, h, ha, List.all_nil, if_true]
  rfl

theorem State.sendSig_hums (s : State) (g : Hum) (y : Sig) : (s.sendSig g y).hums = s.hums := by
  unfold State.sendSig
  split
  · split <;> rfl
  · rfl

/-- With nothing unretired the signal leaves in the same step. -/
theorem State.sendSignal_of_retired (h : s.allRetired g) (hx : (s.hum g).holder = some x) (hstall : (s.hum g).seq.stall = none)
    (wmask : BitVec 4) :
    s.sendSignal g slu inc rem rank wmask =
      (s.signalled g (s.ownSig g x slu inc rem rank)).sendSig g (s.ownSig g x slu inc rem rank) := by
  obtain ⟨hunret, hsigs⟩ := h
  have hstart := State.signalling_hum (y := s.ownSig g x slu inc rem rank) hsigs
  have hsend : s.sendSignal g slu inc rem rank wmask = (s.signalling g (s.ownSig g x slu inc rem rank)).advance g := by
    simp only [State.sendSignal, hx, hunret, List.filter_nil, List.map_nil]
    rfl
  rw [hsend, State.advance, State.pump_idle (by rw [hstart]; exact hunret)]
  rw [hstart, List.length_singleton, State.flushSigs_one (by rw [hstart]) rfl]
  refine State.recheck_of_no_stall ?_
  rw [State.hum, State.sendSig_hums]
  exact (congrArg (·.seq.stall) (State.signalled_hum hsigs)).trans hstall

/-- A signal for a sluice of this device is on its way there. -/
theorem State.sendSig_home {y : Sig} (hrem : y.rem = false) : s.sendSig g y = { s with flight := s.flight ++ [(g, y)] } := by
  simp only [State.sendSig, hrem, Bool.false_eq_true, if_false]

theorem State.sendSig_flight {y : Sig} (hrem : y.rem = false) : (s.sendSig g y).flight = s.flight ++ [(g, y)] := by
  rw [State.sendSig_home hrem]

theorem State.sendSig_rest {y : Sig} (hrem : y.rem = false) (hs : List (Nat × Hummock)) (fs : List (Fin 96 × Sig)) :
    { s.sendSig g y with hums := hs, flight := fs } = { s with hums := hs, flight := fs } := by
  rw [State.sendSig_home hrem]

theorem State.sent_flight {y : Sig} (hrem : y.rem = false) : ((s.signalled g y).sendSig g y).flight = s.flight ++ [(g, y)] := by
  rw [State.sendSig_flight hrem, State.signalled_flight]

theorem State.sent_rest {y : Sig} (hrem : y.rem = false) :
    { (s.signalled g y).sendSig g y with hums := s.hums, flight := s.flight } = s := by
  rw [State.sendSig_rest hrem, State.signalled_rest]

/-- A signal for another device goes to the Causeway as a packet (R179). -/
theorem State.sendSig_away {y : Sig} (hrem : y.rem = true) (h : y.rank.toNat < s.groupSize) :
    s.sendSig g y = s.inject { s.ownPacket 0x03 0 (s.memberDev y.rank.toNat) with
      ctx := y.ctx, slu := y.slu, addr := y.inc.setWidth 64, enc := s.isSealed y.ctx.toNat } := by
  simp only [State.sendSig, hrem, if_true, if_pos h]

/-- What the Causeway's queue of packets to insert leaves as it is. -/
theorem State.inject_frame (s : State) (p : Packet) : (s.inject p).flight = s.flight ∧ (s.inject p).cwy.inject = s.cwy.inject ++ [p] ∧
    (s.inject p).hums = s.hums ∧ (s.inject p).mem = s.mem ∧ (s.inject p).sluices = s.sluices := ⟨rfl, rfl, rfl, rfl, rfl⟩

theorem State.hum_sendSig (s : State) (g : Hum) (y : Sig) (k : Nat) : (s.sendSig g y).hum k = s.hum k := by
  rw [State.hum, State.sendSig_hums]; rfl

theorem exec_signal_sends (h : s.idleIssue g) (hx : (s.hum g).holder = some x) (hinc : inc ≠ 0) (wmask : BitVec 4) :
    exec (.signal g slu inc rem rank wmask) s =
      .next ((s.signalled g (s.ownSig g x slu inc rem rank)).sendSig g (s.ownSig g x slu inc rem rank)) := by
  obtain ⟨hi, hpc, hret⟩ := h
  obtain ⟨-, -, hstall, -⟩ := id hi
  have hact := State.sendSignal_of_retired (slu := slu) (inc := inc) (rem := rem) (rank := rank) hret hx hstall wmask
  rw [← hact]
  refine congrArg Host.Outcome.next
    ((State.issue_congr hi (act' := fun t => t.sendSignal g slu inc rem rank wmask) (if_neg hinc)).trans
      (State.issue_eq hi fun _ => ?_))
  obtain ⟨y, hy, hlt⟩ := hpc
  refine ⟨y, ?_, ?_⟩ <;> rw [hact, State.hum_sendSig, State.signalled_hum hret.2]
  · exact hy
  · exact hlt

end

/-- Settles O9. SIGNAL: `State.sendSignal_of_retired`; WAIT: one lemma for each place where it may leave its sequencer. -/
theorem sluiceInstructionResult : Obligations.SluiceInstructionResult := by
  unfold Obligations.SluiceInstructionResult
  refine ⟨fun s g x slu inc rank wmask h hx hinc => ⟨?home, fun hrank => ?away⟩, fun s g x slu thr cons hi hpc hx => ?wait⟩
  case home =>
    refine ⟨_, exec_signal_sends h hx hinc wmask, State.sent_flight rfl, ?_, ?_, fun k hk => ?_, State.sent_rest rfl⟩
    · rw [State.hum_sendSig, State.signalled_hum h.2.2.2]
    · rw [State.hum_sendSig, State.signalled_hum h.2.2.2]; rfl
    · rw [State.hum_sendSig, State.signalled_hum_ne hk]
  case away =>
    have hsend := State.sendSig_away (g := g) (y := s.ownSig g x slu inc true rank) rfl
      (s := s.signalled g (s.ownSig g x slu inc true rank)) hrank
    have hexec := exec_signal_sends (rank := rank) (rem := true) (slu := slu) h hx hinc wmask
    rw [hsend] at hexec
    obtain ⟨hflight, hinject, hinjhums, hmem, hsluices⟩ := State.inject_frame (s.signalled g (s.ownSig g x slu inc true rank)) _
    refine ⟨_, hexec, hflight, ⟨_, hinject, rfl, rfl, State.signalled_memberDev _ _, rfl, rfl, rfl, rfl⟩, ?_, fun k hk => ?_, hmem,
      hsluices⟩
    · rw [State.hum, hinjhums]
      exact congrArg (·.seq) (State.signalled_hum h.2.2.2)
    · rw [State.hum, hinjhums]
      exact State.signalled_hum_ne hk
  case wait =>
    intro q stalled
    refine ⟨?zero, fun ht hn => ?out, fun n ht hn hw => ?alone, fun n ht hn hw => ?behind⟩
    case zero => exact ⟨_, exec_wait_zero hi hpc, s.modSeq_seqBecomes g _⟩
    case out =>
      exact ⟨_, exec_wait_stalls hi (State.waitSluice_out hx ht hn) (by rw [State.stalledAt_hum]), s.modSeq_seqBecomes g _⟩
    case alone =>
      by_cases hmet : thr.toNat ≤ (s.sluice n).count.toNat
      · refine ⟨_, exec_wait_met hi hpc hx ht hn hw hmet, State.waited_rest, fun k hk => State.waited_sluice_ne hk,
          fun k hk => State.waited_hum_ne hk, by rw [State.waited_hum hi]; rfl, ?_⟩
        rw [if_pos hmet, State.waited_hum hi, State.waited_sluice hw]
        exact ⟨rfl, rfl⟩
      · refine ⟨_, exec_wait_behind hi hx ht hn (by rw [hw]; rfl) (Nat.not_le.1 hmet), State.queuedAt_rest,
          fun k hk => State.queuedAt_sluice_ne hk, fun k hk => State.stalledAt_hum_ne hk,
          by rw [State.queuedAt_hum, State.stalledAt_hum]; rfl, ?_⟩
        rw [if_neg hmet, State.queuedAt_hum, State.stalledAt_hum, State.queuedAt_sluice, hw]
        exact ⟨rfl, rfl⟩
    case behind =>
      obtain ⟨w, rest, hw, hless⟩ := hw
      refine ⟨_, exec_wait_behind hi hx ht hn (by rw [hw]; rfl) hless, ?_, State.queuedAt_sluice,
        fun k hk => State.queuedAt_sluice_ne hk, fun k hk => State.stalledAt_hum_ne hk⟩
      rw [State.queuedAt_hum, State.stalledAt_hum]

/-! ### A signal at its home (R176 to R178, R181) -/

/-- Serving a sluice arms no wake sluice and disarms none. -/
theorem State.serve_wsen (n k : Nat) (fuel : Nat) : ∀ s : State, ((s.serve n fuel).hum k).wsen = (s.hum k).wsen := by
  induction fuel with
  | zero => exact fun s => rfl
  | succ fuel ih =>
    intro s
    have hresume (u : State) (g : Nat) : ((u.modHum g Hummock.resume).hum k).wsen = (u.hum k).wsen := by
      rw [State.hum_modHum]
      split
      · rename_i h; rw [h, Hummock.resume]
      · rfl
    unfold State.serve
    dsimp only
    split
    · rfl
    · split
      · rw [ih]
        split
        · exact hresume _ _
        · rfl
      · rfl

section
variable {s : State} {g : Hum} {y : Sig} {n : Nat}

/-- The sluice with the signal's increment added. -/
def Sluice.added (x : Sluice) (y : Sig) : Sluice := { x with count := x.count + y.inc.setWidth 32 }

/-- The signal taken off its way. -/
def State.arrived (s : State) (g : Hum) (y : Sig) : State := { s with flight := s.flight.erase (g, y) }

theorem satAdd_setWidth {c : BitVec 32} {i : BitVec 16} (h : c.toNat + i.toNat < 2 ^ 32) :
    satAdd c i.toNat = c + i.setWidth 32 := by
  rw [satAdd, if_pos h]
  exact BitVec.eq_of_toNat_eq (by simp)

theorem State.hum_setSluice (s : State) (n k : Nat) (x : Sluice) : (s.setSluice n x).hum k = s.hum k := rfl

/-- What room for the increment makes of it, where no hummock has armed its wake sluice. -/
theorem State.addSluice_room (hroom : (s.sluice n).count.toNat + y.inc.toNat < 2 ^ 32) (hg : ∀ k, (s.hum k).wsen = false) :
    s.addSluice n y.inc.toNat = ((s.setSluice n ((s.sluice n).added y)).serveAll n, false) := by
  have hwake : ((s.setSluice n ((s.sluice n).added y)).serveAll n).wakeBySluice n =
      (s.setSluice n ((s.sluice n).added y)).serveAll n :=
    State.wakeBySluice_of_unarmed (fun k => by rw [State.serveAll, State.serve_wsen, State.hum_setSluice, hg k]) n
  have hovf : ¬ 2 ^ 32 ≤ (s.sluice n).count.toNat + y.inc.toNat := Nat.not_le.2 hroom
  rw [Sluice.added] at hwake
  simp only [State.addSluice, satAdd_setWidth hroom, hwake, hovf, decide_false, Sluice.added]

theorem exec_signalAtHome_none (hf : (s.flight.find? fun p => p.1 == g) = some (g, y))
    (hn : s.sluiceOf y.ctx.toNat y.slu.toNat = none) : exec (.signalAtHome g) s = .next (s.arrived g y).violSluice := by
  have hn' : (s.arrived g y).sluiceOf y.ctx.toNat y.slu.toNat = none := hn
  refine congrArg Host.Outcome.next ?_
  rw [State.arrived] at *
  simp only [State.signalHome, hf, hn']

theorem exec_signalAtHome_stale (hf : (s.flight.find? fun p => p.1 == g) = some (g, y))
    (hn : s.sluiceOf y.ctx.toNat y.slu.toNat = some n) (hst : (s.sluice n).stale y = true) :
    exec (.signalAtHome g) s = .next (s.arrived g y) := by
  have hn' : (s.arrived g y).sluiceOf y.ctx.toNat y.slu.toNat = some n := hn
  have hst' : ((s.arrived g y).sluice n).stale y = true := hst
  refine congrArg Host.Outcome.next ?_
  rw [State.arrived] at *
  simp only [State.signalHome, hf, hn', hst', if_true]

theorem exec_signalAtHome_adds (hf : (s.flight.find? fun p => p.1 == g) = some (g, y))
    (hn : s.sluiceOf y.ctx.toNat y.slu.toNat = some n) (hst : (s.sluice n).stale y = false)
    (hroom : (s.sluice n).count.toNat + y.inc.toNat < 2 ^ 32) (hg : ∀ k, (s.hum k).wsen = false) :
    exec (.signalAtHome g) s = .next (((s.arrived g y).setSluice n ((s.sluice n).added y)).serveAll n) := by
  have hn' : (s.arrived g y).sluiceOf y.ctx.toNat y.slu.toNat = some n := hn
  have hst' : ((s.arrived g y).sluice n).stale y = false := hst
  have hadd := State.addSluice_room (s := s.arrived g y) (y := y) (n := n) hroom hg
  refine congrArg Host.Outcome.next (Eq.trans ?_ (congrArg Prod.fst hadd))
  rw [State.arrived] at *
  simp only [State.signalHome, hf, hn', hst', hadd, Bool.false_eq_true, if_false]

end

/-- Settles O19. What a signal does turns on its range, on the attempt that the sluice records, and on who waits there
(`State.serveAll_alone`). -/
theorem signalAtHomeResult : Obligations.SignalAtHomeResult := by
  unfold Obligations.SignalAtHomeResult
  intro s g y hf
  refine ⟨fun n hn hst hroom hg => ?adds, fun hn => ?ignored, fun n hn hst => exec_signalAtHome_stale hf hn hst⟩
  case adds =>
    intro c
    have hexec := exec_signalAtHome_adds hf hn hst hroom hg
    have hsame := State.sluice_setSluice_same (s.arrived g y) n ((s.sluice n).added y)
    have hne {k : Nat} (hk : k ≠ n) := State.sluice_setSluice_ne (s.arrived g y) ((s.sluice n).added y) hk
    refine ⟨fun hw => ?alone, fun k thr cons hw hthr => ?served⟩
    case alone =>
      rw [State.serveAll_of_noWaiters (by rw [hsame]; exact hw)] at hexec
      exact ⟨_, hexec, hsame, fun k hk => hne hk, rfl, rfl, rfl⟩
    case served =>
      rw [State.serveAll_alone (k := k) (thr := thr) (cons := cons) (by rw [hsame]; exact hw) (by rw [hsame]; exact hthr), hsame]
        at hexec
      refine ⟨_, hexec, ?_, fun j hj => ?_, ?_, ?_, ?_, fun j hj => State.hum_modHum_ne _ _ hj, rfl⟩
      · exact State.sluice_setSluice_same _ _ _
      · exact (State.sluice_setSluice_ne _ _ hj).trans (hne hj)
      · rw [State.hum_modHum_same]; rfl
      · rw [State.hum_modHum_same]; rfl
      · rw [State.hum_modHum_same]; rfl
  case ignored => exact ⟨_, exec_signalAtHome_none hf hn, rfl, rfl, rfl, rfl, rfl⟩

end Sys2Proof.Machine
end

section
/-!
PROOFS. The placement of a station program (07 R166, R184, R187), which settles O23.
-/

namespace Sys2Proof.Machine

/-- A hummock that has power takes a program: it issues at ENTRY with every register and descriptor at 0 (R166). -/
theorem Hummock.placed_powered {h : Hummock} (hp : h.power = .running ∨ h.power = .still) (x : Holder) (pctl wvec : Nat) :
    (h.placed x pctl wvec).holder = some x ∧ (h.placed x pctl wvec).power = .running ∧ (h.placed x pctl wvec).mere = h.mere ∧
      (h.placed x pctl wvec).seq = { Sequencer.reset with st := .issuing, pc := x.entry } := by
  have hmere (v : BitVec 64) : (h.dropEvs.setPctl v).mere = h.mere := rfl
  rcases hp with hp | hp <;> simp [Hummock.placed, hp, hmere]

theorem Sequencer.reg_of_x_nil {q : Sequencer} (h : q.x = []) (r : BitVec 5) : q.reg r = 0 := by
  unfold Sequencer.reg
  split
  · rfl
  · rw [h]; rfl

theorem Sequencer.desc1_of_nil {q : Sequencer} (hd : q.desc = []) (ho : q.org = []) (k : BitVec 6) : q.desc1 k = ⟨0, 0⟩ := by
  rw [Sequencer.desc1, hd, ho]; rfl

section
variable {s : State} {g : Hum} {x : Holder}

theorem State.hum_jot (s : State) (i k : Nat) : (s.jot i).hum k = s.hum k := rfl

/-- Hummock g placed under the values k and j of HUM_PCTL and HUM_WAKEVEC (log 41), and the record that its SCP makes of it. -/
def State.placedAt (s : State) (g : Hum) (x : Holder) (k j : Nat) : State :=
  let u := { s with freeCtr := s.freeCtr + 1 + 1 }
  (u.modHum g fun h => h.placed x k j).jot (secOf g)

theorem State.placedAt_hum (k j : Nat) : (s.placedAt g x k j).hum g = (s.hum g).placed x k j := by
  rw [State.placedAt, State.hum_jot, State.hum_modHum_same]; rfl

theorem State.placedAt_hum_ne {k j n : Nat} (h : n ≠ g.val) : (s.placedAt g x k j).hum n = s.hum n := by
  rw [State.placedAt, State.hum_jot, State.hum_modHum_ne _ _ h]; rfl

theorem State.place_powered (hp : (s.hum g).power = .running ∨ (s.hum g).power = .still) (hin : x.entry.toNat < x.codeLen) :
    ∃ k j, s.place g x = s.placedAt g x k j := by
  let k := Config.freeNat s.freeCtr
  let j := Config.freeNat (s.freeCtr + 1)
  refine ⟨k, j, ?_⟩
  obtain ⟨hholder, hpower, -, hseq⟩ := Hummock.placed_powered hp x k j
  have hplace : s.place g x = (s.placedAt g x k j).codeFault g := by
    have hpow : ((s.placedAt g x k j).hum g).power = .running := by rw [State.placedAt_hum]; exact hpower
    unfold State.place
    dsimp only [State.draw]
    split <;> rename_i heq
    · cases hpow.symm.trans heq
    · cases hpow.symm.trans heq
    · rfl
    · exact absurd hpow ‹_›
  rw [hplace]
  refine State.codeFault_of_inCode ⟨x, ?_, ?_⟩ <;> rw [State.placedAt_hum]
  · exact hholder
  · rw [hseq]; exact hin

end

/-- Settles O23. Reading the program table changes no hummock (`State.programEntry_reads`); what the placement makes of its own is said by
`Hummock.placed_powered`. -/
theorem placementResult : Obligations.PlacementResult := by
  unfold Obligations.PlacementResult
  intro s s1 g lhum l e hl hcan hcap hentry hp hin
  have hread := State.programEntry_reads hentry
  have hum (k : Nat) : s1.hum k = s.hum k := by rw [State.hum, hread.access.hums]; rfl
  rw [← hum g] at hp
  obtain ⟨k, j, hplace⟩ := State.place_powered (x := holderOf s1 l lhum e) hp hin
  obtain ⟨hholder, hpower, hmere, hseq⟩ := Hummock.placed_powered hp (holderOf s1 l lhum e) k j
  have hexec : exec (.placement g lhum) s = .next (s1.placedAt g (holderOf s1 l lhum e) k j) := by
    change execPlacement g lhum s = _
    simp only [execPlacement, hl, hcan, hcap, Bool.and_self, if_true, hentry, hplace]
  refine ⟨_, hexec, ?_, ?_, ?_, fun r => ?_, fun d => ?_, ?_, ?_, ?_, hread.hbm, fun n hn => ?_⟩
  · rw [State.placedAt_hum, hholder]
  · rw [State.placedAt_hum, hseq]
  · rw [State.placedAt_hum, hseq]; rfl
  · rw [State.placedAt_hum, hseq]; exact Sequencer.reg_of_x_nil rfl r
  · rw [State.placedAt_hum, hseq]; exact Sequencer.desc1_of_nil rfl rfl d
  · rw [State.placedAt_hum, hseq]; rfl
  · rw [State.placedAt_hum, hpower]
  · rw [State.placedAt_hum, hmere, hum]
  · rw [State.placedAt_hum_ne hn, hum]

end Sys2Proof.Machine
end

section
/-!
PROOFS. WMOVE (02 R44; 07 R159, R168, R508): rows stored apart from each other, the rows of one descriptor stored under another, and what
stands in a Mere after it, which settles O12.
-/

namespace Sys2Proof.Machine

/-! ### Bytes that lie apart (07 R159) -/

theorem bread_eq_range (m : List Host.Cell) (a n : Nat) : bread m a n = (List.range n).map fun i => bget m (a + i) := by
  induction n generalizing a with
  | zero => rfl
  | succ n ih =>
    rw [bread, ih, List.range_succ_eq_map]
    simp [Nat.add_comm, Nat.add_left_comm]

theorem bread_length (m : List Host.Cell) (a n : Nat) : (bread m a n).length = n := by simp [bread_eq_range]

/-- Bytes apart from those written read as before. -/
theorem bread_bwrite_apart (m : List Host.Cell) (bs : List Byte) {a b n : Nat} (h : b + n ≤ a ∨ a + bs.length ≤ b) :
    bread (bwrite m a bs) b n = bread m b n := by
  rw [bread_eq_range, bread_eq_range]
  refine List.map_congr_left fun i hi => ?_
  have hi := List.mem_range.1 hi
  rcases h with h | h
  · exact bget_bwrite_lt m bs (by omega)
  · exact bget_bwrite_ge m bs (by omega)

theorem storeAll_append (m : List Host.Cell) (xs ys : List (Nat × List Byte)) :
    storeAll m (xs ++ ys) = storeAll (storeAll m xs) ys := List.foldl_append

/-- Rows of n bytes stored at a stride of n or more: each reads back. -/
theorem bread_storeAll_rows (m : List Host.Cell) (base : Nat) {stride n : Nat} (hn : n ≤ stride) (es : List (List Byte))
    (hlen : ∀ x ∈ es, x.length = n) {r : Nat} {x : List Byte} (hx : es[r]? = some x) :
    bread (storeAll m (es.zipIdx.map fun y => (base + y.2 * stride, y.1))) (base + r * stride) n = x := by
  induction es using List.reverseRecOn with
  | nil => simp at hx
  | append_singleton es e ih =>
    have he : e.length = n := hlen e (by simp)
    rw [List.zipIdx_append, List.map_append, storeAll_append]
    simp only [List.zipIdx_singleton, List.map_cons, List.map_nil, storeAll, List.foldl_cons, List.foldl_nil, Nat.zero_add]
    rcases Nat.lt_trichotomy r es.length with hr | hr | hr
    · have hstep : r * stride + stride ≤ es.length * stride := by
        rw [← Nat.succ_mul]; exact Nat.mul_le_mul_right _ hr
      rw [bread_bwrite_apart _ _ (.inl (by omega))]
      exact ih (fun y hy => hlen y (List.mem_append_left _ hy)) (by rwa [List.getElem?_append_left hr] at hx)
    · subst hr
      obtain rfl : e = x := by simpa using hx
      rw [← he, bread_bwrite]
    · rw [List.getElem?_eq_none (by simp; omega)] at hx
      cases hx

/-! ### Rows stored under a descriptor go through -/

section
variable {s t u v s1 s2 : State} {m : List TlbEntry} {dev : Prop} {a b : DescCap} {fmt : BitVec 12}

/-- Rows of a shape stored under another descriptor of the same shape. -/
theorem State.rowsOpen.movedChunks {g : Nat} (ho : s.rowsOpen g m dev (b, fmt)) (hrows : a.rows = b.rows) (hlen : a.len = b.len) :
    ∀ x ∈ chunksOf (b, fmt) (v.viewRows g m (a, fmt)) (v.viewScales g m (a, fmt)), s.goesThrough g m dev b x.1 x.2.length := by
  intro x hx
  simp only [chunksOf, List.mem_append, List.mem_map] at hx
  rcases hx with ⟨⟨bs, r⟩, hmem, rfl⟩ | ⟨⟨bs, r⟩, hmem, rfl⟩
  · obtain ⟨hlt, hbs⟩ := List.mem_zipIdx' hmem
    simp only [State.viewRows, List.length_map, List.length_range] at hlt
    simp only [State.viewRows, List.getElem_map, State.viewRow] at hbs
    exact (ho.elems (hlt.trans_eq hrows)).mono (by rw [hbs, bread_length, hlen])
  · by_cases hn : scaleBytes fmt a.len = 0
    · simp [State.viewScales, hn] at hmem
    · simp only [State.viewScales, if_neg hn] at hmem
      obtain ⟨hlt, hbs⟩ := List.mem_zipIdx' hmem
      simp only [List.length_map, List.length_range] at hlt
      simp only [List.getElem_map, State.viewRow, if_neg hn] at hbs
      exact (ho.scales (hlt.trans_eq hrows) (by rw [← hlen]; exact hn)).mono (by rw [hbs, bread_length, hlen])

/-! ### WMOVE -/

variable {g : Hum} {e : Issued} {f : WeirFields}

theorem State.moveOk_shape (h : u.moveOk g e f = true) : e.da.rows = e.db.rows ∧ e.da.len = e.db.len ∧
    rowBytes (fCode f.sfmt) e.db.len ≤ e.db.stride := by
  simp only [State.moveOk, sameShape, State.descOk, Bool.and_eq_true, beq_iff_eq, decide_eq_true_eq] at h
  obtain ⟨⟨⟨-, hrows, hlen⟩, -⟩, ⟨-, hstride⟩, -⟩ := h
  exact ⟨hrows, hlen, hstride⟩

theorem State.startOp_wmove (u : State) (h : e.op = .wmove f) : u.startOp g e = u.startMove g e f := by rw [State.startOp, h]

/-- WMOVE whose operands open stores the rows of its source, and has finished. -/
theorem State.startMove_works (hok : u.moveOk g e f = true) (hopen : u.opensTo s1 g m [(e.da, f.sfmt)] [(e.db, f.sfmt)])
    (hs2 : s1.knock g [(e.db, f.sfmt)] = s2) (hs : s2.mem.err = [])
    (ho : ∀ o ∈ [(e.da, f.sfmt)] ++ [(e.db, f.sfmt)], s2.rowsOpen g m dev o) :
    ∃ t, u.startMove g e f = t.finish g e.id ∧ s2.Works g dev
      (s2.putChunks g m e.db (chunksOf (e.db, f.sfmt) (s2.viewRows g m (e.da, f.sfmt)) (s2.viewScales g m (e.da, f.sfmt)))) t := by
  obtain ⟨hrows, hlen, -⟩ := State.moveOk_shape hok
  obtain ⟨t1, hread, h1⟩ := State.readPlanes_works hs (ho (e.da, f.sfmt) (by simp)) ⟨.refl s2, .refl s2⟩
  obtain ⟨t, hwrite, ht⟩ := State.writeAll_works hs (if e.db.space = 1 then wholePages ((chunksOf (e.db, f.sfmt)
      (s2.viewRows g m (e.da, f.sfmt)) (s2.viewScales g m (e.da, f.sfmt))).map fun c => (c.1, c.2.length)) else [])
    ((ho (e.db, f.sfmt) (by simp)).movedChunks (v := s2) hrows hlen) h1
  refine ⟨t, ?_, ht⟩
  simp only [State.startMove, hok, State.runOp_opens hopen, hs2, hread, State.writeChunks, hwrite]
  rfl

/-! ### WMOVE inside the hummock's own Mere -/

theorem State.onlyHum.trans (h : s.onlyHum t g) (k : t.onlyHum u g) : s.onlyHum u g := by
  refine ⟨?_, fun n hn => (k.2 n hn).trans (h.2 n hn)⟩
  calc { u with hums := s.hums } = { ({ u with hums := t.hums } : State) with hums := s.hums } := rfl
    _ = s := by rw [k.1, h.1]

/-- Chunks stored in the hummock's own Mere change nothing but that. -/
theorem State.writeAll_mere {d : DescCap} (hd : d.space = 0) (m : List TlbEntry) (whole : List Nat) (cs : List (Nat × List Byte)) :
    ∀ s : State, s.mem.err = [] → ∃ t, s.writeAll g m d whole cs = (t, .none) ∧ s.onlyHum t g ∧
      t.hum g = { s.hum g with mere := storeAll (s.hum g).mere cs } := by
  induction cs with
  | nil => exact fun s _ => ⟨s, rfl, ⟨rfl, fun _ _ => rfl⟩, rfl⟩
  | cons c cs ih =>
    intro s hs
    let t1 := s.modHum g fun h => { h with mere := bwrite h.mere c.1 c.2 }
    have hw : s.writeAt g m d whole c.1 c.2 = (t1, .none) := by
      have hclean : t1.mem.err = [] := hs
      simp only [State.writeAt, State.mereOf, hd, State.settleSram_of_clean hs]
      exact congrArg (·, Trouble.none) (State.eccSramWrite_of_clean hclean g 1 c.1 c.2.length)
    have h1 : s.onlyHum t1 g := s.onlyHum_setHum g _
    obtain ⟨t, ht, honly, hmere⟩ := ih t1 (by rw [h1.mem, hs])
    refine ⟨t, ?_, h1.trans honly, ?_⟩
    · simpa only [State.writeAll, List.foldl_cons, hw] using ht
    · rw [hmere, State.hum_modHum_same]; rfl

/-- WMOVE inside its own Mere may start at once. -/
theorem exec_wmove_own (hi : s.idleIssue g) (hclean : s.mem.err = []) (he : e = s.entry g (.wmove g f) (.wmove f))
    (hm : (s.entered g e).mayStart g e = true) (hok : (s.entered g e).moveOk g e f = true)
    (hown : ownMere [(e.da, f.sfmt), (e.db, f.sfmt)]) :
    ∃ t, exec (.wmove g f) s = .next t ∧ s.onlyHum t g ∧ t.hum g = { (s.hum g) with
      mere := storeAll (s.hum g).mere
        (chunksOf (e.db, f.sfmt) (mereRows (s.hum g).mere (e.da, f.sfmt)) (mereScales (s.hum g).mere (e.da, f.sfmt)))
      unret := [{ e with phase := .done, held := 0 }], nextId := (s.hum g).nextId + 1
      seq := { (s.hum g).seq with pc := (s.hum g).seq.pc + 1 } } := by
  obtain ⟨hda, -⟩ := hown (e.da, f.sfmt) (by simp)
  obtain ⟨hdb, -⟩ := hown (e.db, f.sfmt) (by simp)
  have hread := State.readPlanes_mere (s := s.entered g e) (g := g) hclean [] (o := (e.da, f.sfmt)) hda
  rw [State.entered_hum_same] at hread
  obtain ⟨t, hwrite, honly, hmere⟩ := State.writeAll_mere (g := g) hdb [] [] (chunksOf (e.db, f.sfmt)
    (mereRows (s.hum g).mere (e.da, f.sfmt)) (mereScales (s.hum g).mere (e.da, f.sfmt))) (s.entered g e) hclean
  have hstart : (s.entered g e).startOp g e = t.finish g e.id := by
    have hop : e.op = .wmove f := by rw [he]; rfl
    have hspace : e.db.space ≠ 1 := by rw [hdb]; decide
    rw [State.startOp_wmove _ hop]
    simp only [State.startMove, hok, State.runOp_opens (hown.opensTo (rs := [_]) rfl (s.entered g e) g),
      State.knock_of_own (g := g.val) (s := s.entered g e) (ws := [(e.db, f.sfmt)]) (by simp [hdb]), hread, State.writeChunks,
      if_neg hspace, hwrite]
    rfl
  have hhum : (t.finish g e.id).hum g = { (s.hum g) with
      mere := storeAll (s.hum g).mere
        (chunksOf (e.db, f.sfmt) (mereRows (s.hum g).mere (e.da, f.sfmt)) (mereScales (s.hum g).mere (e.da, f.sfmt)))
      unret := [{ e with phase := .done, held := 0 }], nextId := (s.hum g).nextId + 1
      seq := { (s.hum g).seq with pc := (s.hum g).seq.pc + 1 } } := by
    have hidle : (s.hum g).unret = [] := hi.2.2.1
    rw [State.finish_hum_same, hmere, State.entered_hum_same]
    simp [hidle]
  refine ⟨_, exec_station_starts rfl hi he hm hstart ?_ ?_, ?_, hhum⟩
  · rw [hhum]
  · rw [hhum]
  · exact ((s.onlyHum_setHum g _).trans honly).modHum _

/-- WMOVE with operands in any space. -/
theorem exec_wmove_opens (hi : s.idleIssue g) (hclean : s.mem.err = []) (he : e = s.entry g (.wmove g f) (.wmove f))
    (hm : (s.entered g e).mayStart g e = true) (hok : (s.entered g e).moveOk g e f = true)
    (hopen : (s.entered g e).opensTo s1 g m [(e.da, f.sfmt)] [(e.db, f.sfmt)]) :
    ∃ t, exec (.wmove g f) s = .next t ∧ (t.hum g).unret = [{ e with phase := .done, held := 0 }] ∧
      (s1.putChunks g m e.db (chunksOf (e.db, f.sfmt) (s1.viewRows g m (e.da, f.sfmt)) (s1.viewScales g m (e.da, f.sfmt)))).memoriesOf t ∧
      s.memoriesOf s1 := by
  have hop : e.op = .wmove f := by rw [he]; rfl
  have hrun : ((s.entered g e).hum g).power = .running := by rw [State.entered_hum_same]; exact hi.1.1
  obtain ⟨hclean2, hg, hlook, hknock, ho⟩ := hopen.station hclean hrun
  obtain ⟨t, hstart, ht⟩ := State.startMove_works hok hopen rfl hclean2 ho
  obtain ⟨-, hseq, hholder, -⟩ := ht.hum_of_entered hg
  rw [hknock.viewRows, hknock.viewScales] at ht
  refine ⟨_, exec_station_starts rfl hi he hm (by rw [State.startOp_wmove _ hop, hstart]) ?_ ?_, (ht.finished hg hi.2.2.1).1, ?_,
    (State.entered_sameView.trans hlook).memories⟩
  · rw [State.finish_hum_same]; exact hseq
  · rw [State.finish_hum_same]; exact hholder
  · exact ((hknock.putChunks g m e.db _).trans (ht.view.trans (t.finish_sameView _ _))).memories

end

/-- Each row of an unscaled operand reads back from where the rows of another were stored under it. -/
theorem bread_movedRows (m : List Host.Cell) {a b : DescCap} {fmt : BitVec 12} (hrows : a.rows = b.rows) (hlen : a.len = b.len)
    (hstride : rowBytes (fCode fmt) b.len ≤ b.stride) (hf : fScaled fmt = false) {r : Nat} (hr : r < b.rows) :
    bread (storeAll m (chunksOf (b, fmt) (mereRows m (a, fmt)) (mereScales m (a, fmt)))) (b.ebase + r * b.stride)
      (rowBytes (fCode fmt) b.len) = bread m (a.ebase + r * a.stride) (rowBytes (fCode fmt) a.len) := by
  have hscales : mereScales m (a, fmt) = [] := by simp [mereScales, scaleBytes, hf]
  rw [hscales]
  simp only [chunksOf, List.zipIdx_nil, List.map_nil, List.append_nil]
  refine bread_storeAll_rows m b.ebase hstride (mereRows m (a, fmt)) (fun x hx => ?_) ?_
  · obtain ⟨k, -, rfl⟩ := List.mem_map.1 hx
    rw [bread_length, hlen]
  · have hra : r < a.rows := hr.trans_eq hrows.symm
    simp [mereRows, hra]

/-- Settles O12. The rows are read before any is stored; in the own Mere nothing else is touched (`State.writeAll_mere`), and the rows of
the destination lie apart (`bread_storeAll_rows`). -/
theorem wmoveResult : Obligations.WmoveResult := by
  unfold Obligations.WmoveResult
  refine ⟨fun s g f hi hclean => ?own, fun s s1 g f m hi hclean => ?opens⟩
  case own =>
    intro e mere hm hok hown
    obtain ⟨t, hexec, honly, hhum⟩ := exec_wmove_own hi hclean rfl hm hok hown
    obtain ⟨hrows, hlen, hstride⟩ := State.moveOk_shape hok
    refine ⟨t, hexec, honly, ⟨?_, ?_⟩, ?_, ?_, ?_, ?_, fun hf r hr => ?_⟩ <;> rw [hhum]
    exact bread_movedRows _ hrows hlen hstride hf hr
  case opens =>
    intro e u hm hok hopen
    exact exec_wmove_opens hi hclean rfl hm hok hopen

end Sys2Proof.Machine
end

section
/-!
PROOFS. CSEND (07 R170; 13 R317 to R319): what reading a source in device memory leaves alone, and the packets of a transfer, which
settles O15.
-/

namespace Sys2Proof.Machine

/-! ### What a read of device memory leaves alone -/

namespace State.ReadFrame

variable {s t : State}

theorem hum (h : s.ReadFrame t) (k : Nat) : t.hum k = s.hum k := by rw [State.hum, h.access.hums]; rfl

theorem ctxOf (h : s.ReadFrame t) (k : Nat) : t.ctxOf k = s.ctxOf k := by rw [State.ctxOf, h.hum]; rfl

theorem env (h : s.ReadFrame t) (k : Nat) : t.env k = s.env k := by rw [State.env, h.hum]; rfl

theorem ownId (h : s.ReadFrame t) : t.ownId = s.ownId := by rw [State.ownId, h.access.cwy]; rfl

theorem memberDev (h : s.ReadFrame t) (r : Nat) : t.memberDev r = s.memberDev r := by
  rw [State.memberDev, h.units.ep, h.ownId]; rfl

theorem isSealed (h : s.ReadFrame t) (c : Nat) : t.isSealed c = s.isSealed c := by rw [State.isSealed, h.loaded]; rfl

theorem sameView (h : s.ReadFrame t) : s.sameView t := ⟨h.hbm, h.recs, fun k => by rw [h.hum], fun k => by rw [h.hum]⟩

end State.ReadFrame

section
variable {s t : State} {g : Nat} {m : List TlbEntry} {d : DescCap}

theorem State.readAt_reads (hs : s.mem.err = []) (a n : Nat) : s.ReadFrame (s.readAt g m d a n).1 := by
  unfold State.readAt
  split
  · exact s.vaRead_reads m _ _ n
  · simp only [State.eccSram_of_clean hs]
    exact .refl s

theorem State.readRows_reads (hs : s.mem.err = []) (base stride n rows : Nat) : s.ReadFrame (s.readRows g m d base stride n rows).1 :=
  foldl_keeps (fun acc : State × List (List Byte) × Option Bad => s.ReadFrame acc.1) _
    (fun _ _ h => h.trans (State.readAt_reads (h.access.clean hs) _ _)) _ _ (.refl s)

theorem State.readPlanes_reads (hs : s.mem.err = []) (o : Opnd) (rows k : Nat) : s.ReadFrame (s.readPlanes g m o rows k).1 := by
  have hrows := State.readRows_reads (g := g) (m := m) (d := o.1) hs o.1.ebase o.1.stride (rowBytes (fCode o.2) (Nat.min k o.1.len)) rows
  by_cases hn : scaleBytes o.2 o.1.len = 0
  · simp only [State.readPlanes, if_pos hn]
    exact hrows
  · simp only [State.readPlanes, if_neg hn]
    exact hrows.trans (State.readRows_reads (hrows.access.clean hs) _ _ _ _)

end

/-! ### The packets of a transfer (R319) -/

section
variable {s t u s1 : State} {g : Hum} {e : Issued} {f : SendFields} {m : List TlbEntry}

/-- Packet k of a transfer of n packets, whose piece x is. -/
def State.sendPkt (s : State) (g : Hum) (i : Issued) (f : SendFields) (n k : Nat) (x : Nat × List Byte) : Packet :=
  let ordered := f.red && (s.env g).mode != 0
  let payload := if ordered then leBytes 8 i.va.toNat ++ x.2 else x.2
  { s.ownPacket (if f.red then 2 else 1) 0 (s.memberDev i.db.rank) with
    ctx := BitVec.ofNat 6 (s.ctxOf g), last := k + 1 == n, sig := f.sig, ord := ordered, enc := s.isSealed (s.ctxOf g)
    len := BitVec.ofNat 13 payload.length, xidx := BitVec.ofNat 32 k, xid := s.cwy.nextXid, slu := f.slu
    addr := BitVec.ofNat 64 (x.1 % 2 ^ 52 + (if f.red then (fCode f.fmt).toNat * 2 ^ 52 else 0)), payload := payload }

def State.sendPkts (s : State) (g : Hum) (i : Issued) (f : SendFields) (ps : List (Nat × List Byte)) : List Packet :=
  ps.zipIdx.map fun x => s.sendPkt g i f ps.length x.2 x.1

theorem State.sendPkts_length (ps : List (Nat × List Byte)) : (s.sendPkts g e f ps).length = ps.length := by simp [State.sendPkts]

theorem State.sendPkts_get {ps : List (Nat × List Byte)} {k : Nat} {p : Packet} {x : Nat × List Byte}
    (hp : (s.sendPkts g e f ps)[k]? = some p) (hx : ps[k]? = some x) : p = s.sendPkt g e f ps.length k x := by
  simpa [State.sendPkts, hx, eq_comm] using hp

theorem State.sendTransfer_frame (s : State) (g : Hum) (e : Issued) (f : SendFields) (ps : List (Nat × List Byte)) :
    let t := s.sendTransfer g e f ps
    t.cwy.inject = s.cwy.inject ++ s.sendPkts g e f ps ∧ t.cwy.nextXid = s.cwy.nextXid + 1 ∧ t.mem = s.mem ∧
      (∀ k, k ≠ g.val → t.hum k = s.hum k) ∧
      t.hum g = { s.hum g with
        unret := (s.hum g).unret.map fun j => if j.id == e.id then { j with phase := .running, outstanding := 1 } else j } :=
  ⟨rfl, rfl, rfl, fun _ hk => State.hum_modHum_ne _ _ hk, State.hum_modHum_same _ _ _⟩

theorem State.sendTransfer_sameView (s : State) (g : Hum) (e : Issued) (f : SendFields) (ps : List (Nat × List Byte)) :
    s.sameView (s.sendTransfer g e f ps) := by
  obtain ⟨-, -, hmem, hother, hhum⟩ := s.sendTransfer_frame g e f ps
  refine ⟨by rw [hmem], by rw [hmem], fun k => ?_, fun k => ?_⟩ <;> by_cases hk : k = g.val
  · rw [hk, hhum]
  · rw [hother k hk]
  · rw [hk, hhum]
  · rw [hother k hk]

/-- The facts of a packet, from a state that a read of memory has left. -/
theorem State.ReadFrame.sendPkt (h : s.ReadFrame t) (n k : Nat) (x : Nat × List Byte) :
    let p := t.sendPkt g e f n k x
    p.dst = s.memberDev e.db.rank ∧ p.src = s.ownId ∧ p.xid = s.cwy.nextXid ∧ p.ctx = BitVec.ofNat 6 (s.ctxOf g) ∧
      p.att = s.ep.att ∧ p.epoch = s.openEpoch.setWidth 32 ∧ p.ord = (f.red && (s.env g).mode != 0) ∧
      p.enc = s.isSealed (s.ctxOf g) ∧
      p.payload = (if f.red && (s.env g).mode != 0 then leBytes 8 e.va.toNat ++ x.2 else x.2) := by
  refine ⟨h.memberDev _, h.ownId, ?_, ?_, ?_, ?_, ?_, ?_, ?_⟩
  · exact congrArg Fabric.nextXid h.access.cwy
  · exact congrArg (BitVec.ofNat 6) (h.ctxOf g)
  · exact congrArg EpochState.att h.units.ep
  · exact congrArg (BitVec.setWidth 32) h.units.openEpoch
  · simp only [State.sendPkt, h.env]
  · simp only [State.sendPkt, h.ctxOf, h.isSealed]
  · simp only [State.sendPkt, h.env]

/-- CSEND whose source opens sends the pieces of its rows, from the state that the read leaves. -/
theorem State.startSend_sends (hok : u.sendOk g e f = true) (hopen : u.opensTo s1 g m [(e.da, f.fmt)] []) (hclean : u.mem.err = [])
    (hrun : (u.hum g).power = .running) :
    ∃ v, u.startSend g e f = v.sendTransfer g e f
        (sendPieces e f ((u.env g).mode != 0) (s1.viewRows g m (e.da, f.fmt)) (s1.viewScales g m (e.da, f.fmt))) ∧
      u.ReadFrame s1 ∧ s1.ReadFrame v ∧ (e.da.space = 0 → v = u) := by
  have hlook : u.ReadFrame s1 := by
    have h := u.xlateOpnds_reads g (u.ctxOf g) [(e.da, f.fmt)] []
    rwa [hopen.1] at h
  have hclean1 : s1.mem.err = [] := hlook.access.clean hclean
  obtain ⟨-, -, -, -, ho⟩ := hopen.station hclean hrun
  obtain ⟨v, hread, -⟩ := State.readPlanes_works hclean1 (ho (e.da, f.fmt) (by simp)) ⟨.refl s1, .refl s1⟩
  have hv : s1.ReadFrame v := by
    have h := State.readPlanes_reads (g := g) (m := m) hclean1 (e.da, f.fmt) e.da.rows e.da.len
    rwa [hread] at h
  refine ⟨v, ?_, hlook, hv, fun hd => ?_⟩
  · have hknock : s1.knock g [] = s1 := rfl
    simp only [State.startSend, hok, State.runOp_opens hopen, hknock, hread]
    rfl
  · have h1 : u = s1 := by
      have h := hopen.1
      simp only [State.xlateOpnds, hd, List.filter_cons, List.filter_nil] at h
      exact congrArg Prod.fst h
    have h2 := State.readPlanes_mere (g := g) hclean1 m (o := (e.da, f.fmt)) hd
    rw [hread] at h2
    exact (congrArg Prod.fst h2).trans h1.symm

theorem State.startOp_csend (u : State) (h : e.op = .csend f) : u.startOp g e = u.startSend g e f := by rw [State.startOp, h]

/-- CSEND that may start issues, and its transfer is outstanding. -/
theorem exec_csend_sends {ps : List (Nat × List Byte)} (hi : s.idleIssue g) (he : e = s.entry g (.csend g f) (.csend f))
    (hm : (s.entered g e).mayStart g e = true) (hv : (s.entered g e).ReadFrame t)
    (hstart : (s.entered g e).startSend g e f = t.sendTransfer g e f ps) :
    exec (.csend g f) s = .next (t.sendTransfer g e f ps) ∧
      ((t.sendTransfer g e f ps).hum g).unret = [{ e with phase := .running, outstanding := 1 }] := by
  have hop : e.op = .csend f := by rw [he]; rfl
  have hidle : (s.hum g).unret = [] := hi.2.2.1
  obtain ⟨-, -, -, -, hhum⟩ := t.sendTransfer_frame g e f ps
  rw [hv.hum, State.entered_hum_same] at hhum
  refine ⟨exec_station_starts rfl hi he hm (by rw [State.startOp_csend _ hop, hstart]) ?_ ?_, ?_⟩ <;> rw [hhum]
  simp [hidle]

end

/-- Settles O15. The read of the source leaves alone what the packets carry of the state (`State.ReadFrame.sendPkt`), and the transfer
changes the Causeway's queues and the instruction alone (`State.sendTransfer_frame`). -/
theorem csendResult : Obligations.CsendResult := by
  unfold Obligations.CsendResult
  intro s s1 g f m hi hclean e u ordered ps hm hok hopen
  have hrun : ((s.entered g e).hum g).power = .running := by rw [State.entered_hum_same]; exact hi.1.1
  obtain ⟨v, hstart, hlook, hread, hown⟩ := State.startSend_sends hok hopen hclean hrun
  have hv : u.ReadFrame v := hlook.trans hread
  have hin : s.sameView u := State.entered_sameView
  have hps : sendPieces e f ((u.env g).mode != 0) (s1.viewRows g m (e.da, f.fmt)) (s1.viewScales g m (e.da, f.fmt)) = ps := by
    rw [hin.env]
  rw [hps] at hstart
  obtain ⟨hexec, hunret⟩ := exec_csend_sends hi rfl hm hv hstart
  obtain ⟨hinject, hxid, hmem, hother, hhum⟩ := v.sendTransfer_frame g e f ps
  refine ⟨_, v.sendPkts g e f ps, hexec, ?_, State.sendPkts_length ps, fun k p x hp hx => ?_, ?_, hunret, ?_, ?_, fun hd => ?_,
    fun k hk => ?_⟩
  · rw [hinject, hv.access.cwy]; rfl
  · obtain rfl := State.sendPkts_get hp hx
    obtain ⟨hdst, hsrc, hx, hctx, hatt, hepoch, hord, henc, hpayload⟩ := hv.sendPkt (g := g) (e := e) (f := f) ps.length k x
    rw [hin.ctxOf] at hctx henc
    rw [hin.env] at hord hpayload
    exact ⟨rfl, rfl, hdst, hsrc, hx, rfl, rfl, rfl, rfl, rfl, hctx, hatt, hepoch, hord, henc, rfl, hpayload⟩
  · rw [hxid, hv.access.cwy]; rfl
  · exact (hin.trans (hv.sameView.trans (v.sendTransfer_sameView g e f ps))).memories
  · exact (hin.trans hlook.sameView).memories
  · rw [hmem, hown hd]; rfl
  · rw [hother k hk, hv.hum, State.entered_hum_ne hk]

end Sys2Proof.Machine
end

section
/-!
PROOFS. Writes of BAR0 at the bridge of a sector (14 R365; 18 R453, R454, R457): what is accepted goes on, what is refused is counted,
and what meets a sector in reset waits.
-/

namespace Sys2Proof.Machine

section
variable {s : State} {m : Master} {x : Sec} {off : Nat} {act : State → State}

/-- A register of a sector's block stands behind that sector's bridge. -/
theorem bridgeOf_sector {r : Nat} (hr : r < 0x100000) : bridgeOf (secBase x + r) = .sector x := by
  have hx : x.val < 8 := x.isLt
  have hlo : 0x800000 ≤ secBase x + r ∧ secBase x + r < 0x1000000 := by unfold secBase; omega
  have hsec : (secBase x + r - 0x800000) / 0x100000 = x.val := by unfold secBase; omega
  simp only [bridgeOf, dif_pos hlo, hsec]

theorem State.atBridge_open (hb : bridgeOf off = .sector x) (hr : s.inReset x = false) (v : BitVec 64) :
    s.atBridge m off v act = act s := by
  simp [State.atBridge, hb, hr]

theorem State.atBridge_waits (hb : bridgeOf off = .sector x) (hr : s.inReset x = true) (v : BitVec 64) :
    s.atBridge m off v act = s.stallReg ⟨m, BitVec.ofNat 26 off, none, .write v⟩ := by
  simp [State.atBridge, hb, hr]

/-- A master with the privilege that the strobe asks for commits it. -/
theorem State.strobe_acts {acc : Acc} (ha : s.arrives m = true) (hb : bridgeOf off = .sector x) (hr : s.inReset x = false)
    (hf : regFlds off = [⟨0, 1, acc⟩]) (hs : (⟨0, 1, acc⟩ : Fld).strobe = true) (hm : (⟨0, 1, acc⟩ : Fld).allowed m = true) :
    s.strobe m off act = act s := by
  have hbits : strobeBits m none off 1#64 = 1#64 := by
    simp only [strobeBits, hf, List.foldl_cons, List.foldl_nil, hs, hm, Fld.inHalf, Bool.and_self, if_true]
    simp [placeHalf, fldMask]
  simp [State.strobe, ha, State.atBridge_open hb hr, hbits]

theorem State.strobe_refused {f : Fld} (ha : s.arrives m = true) (hb : bridgeOf off = .sector x) (hr : s.inReset x = false)
    (hf : regFlds off = [f]) (hm : f.allowed m = false) : s.strobe m off act = s.violReg := by
  have hbits : strobeBits m none off 1#64 = 0#64 := by simp [strobeBits, hf, hm]
  simp [State.strobe, ha, State.atBridge_open hb hr, hbits]

theorem State.strobe_waits (ha : s.arrives m = true) (hb : bridgeOf off = .sector x) (hr : s.inReset x = true) :
    s.strobe m off act = s.stallReg ⟨m, BitVec.ofNat 26 off, none, .write 1⟩ := by
  simp [State.strobe, ha, State.atBridge_waits hb hr]

end

end Sys2Proof.Machine
end

section
/-!
PROOFS. The base dies (09 R216, R223, R227, R235): self-refresh, the scrub of a granule position with the errors that it meets, an
invalidation of translations and the ordered reduction buffer. Settles O32.
-/

namespace Sys2Proof.Machine

/-! ### Self-refresh (R216) -/

theorem State.stack_setStack_ne (s : State) (r : StackReg) {j k : Nat} (h : j ≠ k) : (s.setStack k r).stack j = s.stack j :=
  sget_sset_ne _ _ _ h

theorem exec_srefEntry_idle {s : State} {k : Stack} (hr : s.sectorRuns (k.val / 3) = true) (hs : (s.stack k).st = .ready)
    (hb : (s.reg (secBase (k.val / 3) + 0x200 + 8 * (k.val % 3))).getLsbD 0 = true) :
    exec (.srefEntry k) s = .next (s.setStack k { s.stack k with st := .srefIdle }) := by
  change execSrefEntry k s = _
  simp [execSrefEntry, hr, hs, hb]

/-! ### The scrub (R227) -/

/-- The scrub reads a unit whose stored word differs from its codeword by the pattern p.2. -/
def State.scrubUnit (s : State) (p : Nat × BitVec 288) : State :=
  let a := 32 * p.1
  match errVerdict p.2 with
  | .correctable i v => countEcc (s.setErr p.1 (errFix p.2 i v)) (dpaSector a) (dpaChan a) 1 0
  | .uncorrectable => (countEcc s (dpaSector a) (dpaChan a) 0 1).memEvent 1 (dpaSector a) (dpaChan a) 0 0xFF a 0
  | .none => s

/-- The scrub of a sector after a step. -/
def Scrub.next (z : Scrub) : Scrub :=
  if z.pos.toNat + 1 = granulesPerChan then ⟨0, satInc z.passes⟩ else ⟨z.pos + 1, z.passes⟩

/-- Sector x's scrub stands at z. -/
def State.setScrub (s : State) (x : Nat) (z : Scrub) : State := s.modMem fun m => { m with scrub := sset ⟨0, 0⟩ m.scrub x z }

@[simp] theorem State.setScrub_err (s : State) (x : Nat) (z : Scrub) : (s.setScrub x z).err = s.err := rfl
@[simp] theorem State.setScrub_mem_err (s : State) (x : Nat) (z : Scrub) : (s.setScrub x z).mem.err = s.mem.err := rfl
@[simp] theorem State.setScrub_chEcc (s : State) (x : Nat) (z : Scrub) : (s.setScrub x z).mem.chEcc = s.mem.chEcc := rfl

def State.scrubOf (s : State) (x : Nat) : Scrub := sget ⟨0, 0⟩ s.mem.scrub x

/-- The first unit of sector x's granule position (R213, R214). -/
def Scrub.firstUnit (z : Scrub) (x : Nat) : Nat := (x * sectorBytes + z.pos.toNat * 96 * 256) / 32

theorem exec_patrolScrubStep {s : State} {x : Sec} (hr : s.sectorRuns x = true) (hp : s.scrubPaused x = false) :
    exec (.patrolScrubStep x) s = .next
      (((srange s.mem.err ((s.scrubOf x).firstUnit x) ((s.scrubOf x).firstUnit x + 768)).foldl State.scrubUnit s).setScrub x
        (s.scrubOf x).next) := by
  change execPatrolScrubStep x s = _
  have hgo : (!s.sectorRuns x || s.scrubPaused x) = false := by simp [hr, hp]
  rw [execPatrolScrubStep, hgo]
  rfl

theorem countEcc_scrub (s : State) (sec chan ce ue : Nat) : (countEcc s sec chan ce ue).mem.scrub = s.mem.scrub := by
  unfold countEcc
  split <;> rfl

/-- The errors that a scrub step meets change neither device memory's bytes nor any sector's scrub. -/
theorem State.scrubUnit_keeps (s : State) (p : Nat × BitVec 288) :
    (s.scrubUnit p).mem.hbm = s.mem.hbm ∧ (s.scrubUnit p).mem.scrub = s.mem.scrub := by
  unfold State.scrubUnit
  dsimp only
  split
  case h_1 => exact ⟨countEcc_hbm _ _ _ _ _, countEcc_scrub _ _ _ _ _⟩
  case h_2 =>
    rw [State.memEvent_mem]
    exact ⟨countEcc_hbm _ _ _ _ _, countEcc_scrub _ _ _ _ _⟩
  case h_3 => exact ⟨rfl, rfl⟩

theorem State.scrubUnits_keep (s : State) (ps : List (Nat × BitVec 288)) :
    (ps.foldl State.scrubUnit s).mem.hbm = s.mem.hbm ∧ (ps.foldl State.scrubUnit s).mem.scrub = s.mem.scrub :=
  foldl_keeps (fun t : State => t.mem.hbm = s.mem.hbm ∧ t.mem.scrub = s.mem.scrub) _
    (fun t p h => ⟨(t.scrubUnit_keeps p).1.trans h.1, (t.scrubUnit_keeps p).2.trans h.2⟩) ps s ⟨rfl, rfl⟩

/-- The counts of corrected and uncorrectable errors of a channel (R225), by its number in the device. -/
def State.eccOf (s : State) (k : Nat) : EccCount := sget ⟨0, 0⟩ s.mem.chEcc k

theorem satAdd_zero {w : Nat} (c : BitVec w) : satAdd c 0 = c := by
  simp [satAdd, c.isLt]

theorem countEcc_eccOf {sec : Nat} (h : sec < 8) (s : State) (chan ce ue : Nat) :
    (countEcc s sec chan ce ue).eccOf (96 * sec + chan) =
      ⟨satAdd (s.eccOf (96 * sec + chan)).ce ce, satAdd (s.eccOf (96 * sec + chan)).ue ue⟩ := by
  simp only [countEcc, if_pos h, State.eccOf, sget_sset_same]

/-- R227: a correctable error is written back and counted. -/
theorem State.scrubUnit_correctable {s : State} {u i : Nat} {v : BitVec 8} {e : BitVec 288} {sec : Nat}
    (hv : errVerdict e = .correctable i v) (hsec : dpaSector (32 * u) = sec) (h8 : sec < 8) :
    let t := s.scrubUnit (u, e)
    let k := 96 * sec + dpaChan (32 * u)
    sget 0 t.mem.err u = errFix e i v ∧ t.err = s.err ∧ t.eccOf k = { s.eccOf k with ce := satInc (s.eccOf k).ce } := by
  have ht : s.scrubUnit (u, e) = countEcc (s.setErr u (errFix e i v)) sec (dpaChan (32 * u)) 1 0 := by
    simp only [State.scrubUnit, hv, hsec]
  have hfix : (countEcc (s.setErr u (errFix e i v)) sec (dpaChan (32 * u)) 1 0).mem.err = sset 0 s.mem.err u (errFix e i v) := by
    simp only [countEcc, if_pos h8]
    rfl
  refine ⟨?_, ?_, ?_⟩
  · rw [ht, hfix, sget_sset_same]
  · rw [ht]
    simp only [countEcc, if_pos h8]
    rfl
  · rw [ht, countEcc_eccOf h8, satAdd_zero]
    rfl

/-- R227: an uncorrectable error is counted, with an event, and left. -/
theorem State.scrubUnit_uncorrectable {s : State} {u : Nat} {e : BitVec 288} {sec : Nat} (hv : errVerdict e = .uncorrectable)
    (hsec : dpaSector (32 * u) = sec) (h8 : sec < 8) :
    let t := s.scrubUnit (u, e)
    let k := 96 * sec + dpaChan (32 * u)
    t.mem.err = s.mem.err ∧ t.err.eq0.eseq = s.err.eq0.eseq + 1 ∧ t.eccOf k = { s.eccOf k with ue := satInc (s.eccOf k).ue } := by
  have ht : s.scrubUnit (u, e) =
      (countEcc s sec (dpaChan (32 * u)) 0 1).memEvent 1 sec (dpaChan (32 * u)) 0 0xFF (32 * u) 0 := by
    simp only [State.scrubUnit, hv, hsec]
  have hcount : (countEcc s sec (dpaChan (32 * u)) 0 1).mem.err = s.mem.err ∧ (countEcc s sec (dpaChan (32 * u)) 0 1).err = s.err := by
    simp only [countEcc, if_pos h8, and_self]
  refine ⟨?_, ?_, ?_⟩
  · rw [ht, State.memEvent_mem, hcount.1]
  · rw [ht, ← hcount.2]
    exact EventQ.place_eseq _ _ _
  · rw [ht, State.eccOf, State.memEvent_mem, ← State.eccOf, countEcc_eccOf h8, satAdd_zero]
    rfl

/-- A granule position lies in its sector (R213, R214). -/
theorem Scrub.dpaSector_of_position {z : Scrub} {x : Sec} {u : Nat} (hlo : z.firstUnit x ≤ u) (hhi : u < z.firstUnit x + 768)
    (hz : z.pos.toNat < granulesPerChan) : dpaSector (32 * u) = x.val := by
  unfold Scrub.firstUnit sectorBytes granulesPerChan at *
  unfold dpaSector sectorBytes
  omega

/-- The one error that a step of the scrub meets. -/
theorem srange_singleton {α : Type} {u lo hi : Nat} (e : α) (hlo : lo ≤ u) (hhi : u < hi) : srange [(u, e)] lo hi = [(u, e)] := by
  simp [srange, hlo, hhi]

/-! ### Invalidation (R223) -/

theorem exec_trInvalidate {s : State} {m : Master} (hm : s.privileged m) (hr : s.inReset 0 = false) :
    exec (.trInvalidate m) s = .next s.trInvGo := by
  change Host.Outcome.next (s.strobe m 0x820210 State.trInvGo) = _
  have hb : bridgeOf 0x820210 = .sector 0 := bridgeOf_sector (x := 0) (r := 0x20210) (by decide)
  have hf : regFlds 0x820210 = [⟨0, 1, .cmp⟩] := by decide
  rw [State.strobe_acts hm.1 hb hr hf rfl hm.2]

theorem exec_trInvalidateDone_waits {s : State} {i : InvScope} {rest : List InvScope} (hi : s.mem.invs = i :: rest)
    (h : ∃ c ∈ s.mem.contribs, i.covers c.leaf = true) : exec .trInvalidateDone s = .next s := by
  have hany : (s.mem.contribs.any fun c => i.covers c.leaf) = true := List.any_eq_true.2 h
  change execTrInvalidateDone s = _
  simp only [execTrInvalidateDone, hi, hany, if_true]

theorem exec_trInvalidateDone_ends {s : State} {i : InvScope} {rest : List InvScope} (hi : s.mem.invs = i :: rest)
    (h : ∀ c ∈ s.mem.contribs, i.covers c.leaf = false) : exec .trInvalidateDone s =
      .next (s.modMem fun m => { m with invs := rest, tlb := m.tlb.filter fun e => !i.covers e.2 }) := by
  have hany : (s.mem.contribs.any fun c => i.covers c.leaf) = false := by simpa using h
  change execTrInvalidateDone s = _
  simp only [execTrInvalidateDone, hi, hany]
  rfl

/-! ### The ordered reduction buffer (R235) -/

theorem State.orbOf_setOrb_ne (s : State) (o : Orb) {x y : Nat} (h : y ≠ x) : (s.setOrb x o).orbOf y = s.orbOf y :=
  sget_sset_ne _ _ _ h

theorem exec_orbCommit {s : State} {m : Master} {x : Sec} (hm : s.privileged m) (hr : s.inReset x = false) :
    exec (.orbCommit m x) s = .next (s.orbGo x) := by
  have hf : ∀ y : Sec, regFlds (secBase y + 0x3010) = [⟨0, 1, .cmp⟩] := by decide
  change Host.Outcome.next (s.strobe m (secBase x + 0x3010) fun t => t.orbGo x) = _
  rw [State.strobe_acts hm.1 (bridgeOf_sector (by decide)) hr (hf x) rfl hm.2]

/-- R235: the buffer that a legal commit asks for. -/
theorem State.orbGo_of_legal {s : State} {x : Nat} {base : BitVec 21} {frames : BitVec 16}
    (hb : base = (s.reg (secBase x + 0x3000)).extractLsb' 21 21) (hf : frames = (s.reg (secBase x + 0x3008)).extractLsb' 0 16)
    (h : orbLegal x base.toNat frames.toNat = true) : s.orbGo x = s.setOrb x
      (if s.roundsOpen x = 0 then ⟨base, frames, none⟩ else { s.orbOf x with pend := some (base, frames) }) := by
  subst hb hf
  rw [State.orbGo]
  dsimp only
  simp only [h, Bool.not_true, Bool.false_eq_true, if_false]
  split <;> rfl

theorem exec_orbChangeTakesEffect {s : State} {x : Sec} {b : BitVec 21} {f : BitVec 16} (hp : (s.orbOf x).pend = some (b, f))
    (h0 : s.roundsOpen x = 0) : exec (.orbChangeTakesEffect x) s = .next (s.setOrb x ⟨b, f, none⟩) := by
  change execOrbChangeTakesEffect x s = _
  simp only [execOrbChangeTakesEffect, hp, h0, if_true]

/-- Settles O32. Each clause is one command, taken to the part of the memory's state that it sets (`exec_…`); an error that the scrub
meets is dealt with by its verdict (`State.scrubUnit_correctable`, `State.scrubUnit_uncorrectable`). -/
theorem baseDieResult : Obligations.BaseDieResult := by
  unfold Obligations.BaseDieResult
  intro s k x
  refine ⟨fun hr hs hb => ?sref, fun hr hp => ?scrub, fun m hm hr => ?invalidate, fun i rest hi => ⟨?waits, fun h => ?ends⟩,
    fun m hm hr => ?commit, fun b f hp h0 => ?takes⟩
  case sref =>
    exact ⟨_, exec_srefEntry_idle hr hs hb, State.stack_setStack_same _ _ _, fun j hj => State.stack_setStack_ne _ _ hj, rfl⟩
  case scrub =>
    intro z first
    obtain ⟨hhbm, hscrub⟩ := s.scrubUnits_keep (srange s.mem.err first (first + 768))
    refine ⟨_, exec_patrolScrubStep hr hp, hhbm, sget_sset_same _ _ _ _, fun y hy => ?_, fun hclean => ?_, fun u e he hlo hhi hz => ?_⟩
    · rw [← hscrub]
      exact sget_sset_ne _ _ _ hy
    · rw [hclean]
      rfl
    · have hsec : dpaSector (32 * u) = x.val := Scrub.dpaSector_of_position (z := z) hlo hhi hz
      have hmeets : srange s.mem.err ((s.scrubOf x).firstUnit x) ((s.scrubOf x).firstUnit x + 768) = [(u, e)] := by
        rw [he]
        exact srange_singleton e hlo hhi
      rw [hmeets, List.foldl_cons, List.foldl_nil, State.setScrub_err, State.setScrub_mem_err, State.setScrub_chEcc]
      exact ⟨fun i v hv => State.scrubUnit_correctable hv hsec x.isLt, fun hv => State.scrubUnit_uncorrectable hv hsec x.isLt⟩
  case invalidate => exact ⟨_, _, exec_trInvalidate hm hr, rfl, rfl, rfl, rfl, rfl, rfl⟩
  case waits => exact exec_trInvalidateDone_waits hi
  case ends =>
    refine ⟨_, exec_trInvalidateDone_ends hi h, rfl, fun e => ?_, rfl⟩
    simp [State.modMem]
  case commit =>
    intro base frames hl
    have hgo := State.orbGo_of_legal (base := base) (frames := frames) rfl rfl hl
    refine ⟨_, exec_orbCommit hm hr, ?_, fun y hy => ?_, ?_⟩ <;> rw [hgo]
    · exact State.orbOf_setOrb_same _ _ _
    · exact State.orbOf_setOrb_ne _ _ hy
    · rfl
  case takes =>
    exact ⟨_, exec_orbChangeTakesEffect hp h0, State.orbOf_setOrb_same _ _ _, fun y hy => State.orbOf_setOrb_ne _ _ hy, rfl⟩

end Sys2Proof.Machine
end

section
/-!
PROOFS. The frame ownership map, the ends of a zeroing and of a copy, and the page lookup (09 R229, R232; 10 R242, R249). Settles O33.
-/

namespace Sys2Proof.Machine

/-! ### A map entry written (R229, R232) -/

theorem State.wakeStacks_zeroing (s : State) (a n : Nat) : (s.wakeStacks a n).mem.zeroing = s.mem.zeroing := by
  unfold State.wakeStacks
  refine foldl_keeps (fun t : State => t.mem.zeroing = s.mem.zeroing) _ (fun t i h => ?_) _ _ rfl
  dsimp only
  split <;> exact h

theorem State.with_mem_of_rest {s t : State} (h : { t with mem := s.mem } = s) (m : MemState) : { t with mem := m } = { s with mem := m } :=
  congrArg (fun u : State => { u with mem := m }) h

section
variable (s : State) (f : Nat) (e : OwnEntry)

theorem State.setOwner_leaves : (s.setOwner f e).mem.zeroing = s.mem.zeroing ∧ (s.setOwner f e).mem.recs = s.mem.recs ∧
    { s.setOwner f e with mem := s.mem } = s := ⟨rfl, rfl, rfl⟩

theorem State.zeroFrame_leaves (m : MemState) : (s.zeroFrame f).mem.zeroing = s.mem.zeroing ++ [f] ∧
    (s.zeroFrame f).mem.recs = s.mem.recs ∧ { s.zeroFrame f with mem := m } = { s with mem := m } := ⟨rfl, rfl, rfl⟩

/-- Besides what `State.ownWrite_does` says, a write of a map entry lets the frame that it zeroes be busy, and leaves the page records and
all but device memory's state alone. -/
theorem State.ownWrite_leaves :
    (s.ownWrite f e).mem.zeroing = (if (s.owner f).isSealed && !e.isSealed then s.mem.zeroing ++ [f] else s.mem.zeroing) ∧
      (s.ownWrite f e).mem.recs = s.mem.recs ∧ { s.ownWrite f e with mem := s.mem } = s := by
  have hset := s.setOwner_leaves f e
  rw [State.ownWrite_eq]
  split
  case isFalse => exact hset
  case isTrue =>
    obtain ⟨hzeroing, hrecs, hrest⟩ := hset
    have hwake := (s.setOwner f e).wakeStacks_dev (f * frameBytes) frameBytes
    obtain ⟨zzeroing, zrecs, zrest⟩ := ((s.setOwner f e).wakeStacks (f * frameBytes) frameBytes).zeroFrame_leaves f s.mem
    rw [zzeroing, zrecs, zrest, State.wakeStacks_zeroing, hwake.recs, State.with_mem_of_rest hwake.rest, hzeroing]
    exact ⟨rfl, hrecs, hrest⟩

end

section
variable {s : State} {m : Master} {x : Sec} {frame : BitVec 18}

theorem regFlds_ownGo : ∀ y : Sec, regFlds (secBase y + 0x30008) = [⟨0, 1, .cms⟩] := by decide

theorem exec_ownMapWrite (hm : s.secured m) (hr : s.inReset x = false) : exec (.ownMapWrite m x) s = .next (s.ownGo x) := by
  change Host.Outcome.next (s.strobe m (secBase x + 0x30008) fun t => t.ownGo x) = _
  rw [State.strobe_acts hm.1 (bridgeOf_sector (by decide)) hr (regFlds_ownGo x) rfl hm.2]

/-- R9, R457: without the management processor's privilege the write is counted. -/
theorem exec_ownMapWrite_refused (ha : s.arrives m = true) (hm : masterSecure m = false) (hr : s.inReset x = false) :
    exec (.ownMapWrite m x) s = .next s.violReg := by
  change Host.Outcome.next (s.strobe m (secBase x + 0x30008) fun t => t.ownGo x) = _
  rw [State.strobe_refused ha (bridgeOf_sector (by decide)) hr (regFlds_ownGo x) hm]

theorem exec_ownMapWrite_waits (ha : s.arrives m = true) (hr : s.inReset x = true) : exec (.ownMapWrite m x) s =
    .next (s.stallReg ⟨m, BitVec.ofNat 26 (secBase x + 0x30008), none, .write 1⟩) := by
  change Host.Outcome.next (s.strobe m (secBase x + 0x30008) fun t => t.ownGo x) = _
  rw [State.strobe_waits ha (bridgeOf_sector (by decide)) hr]

/-- SEC_OWN_CMD names frame i of its sector, and the entry that it gives it. -/
theorem State.ownGo_of_frame {i : Nat} (hi : i = ((s.reg (secBase x + 0x30000)).extractLsb' 0 18).toNat) (hlt : i < framesPerSector) :
    s.ownGo x = s.ownWrite (x * framesPerSector + i) ⟨(s.reg (secBase x + 0x30000)).extractLsb' 18 6,
      (s.reg (secBase x + 0x30000)).getLsbD 24, (s.reg (secBase x + 0x30000)).getLsbD 25⟩ := by
  subst hi
  rw [State.ownGo]
  exact if_neg (Nat.not_le.2 hlt)

/-! ### The ends of a zeroing and of a copy (R232, R242) -/

/-- Without a packet that waits none is taken again. -/
theorem State.releaseLater_none (h : s.cwy.later = []) : s.releaseLater = s := by
  have hc : { s.cwy with later := [] } = s.cwy := by rw [← h]
  simp only [State.releaseLater, h, List.foldl_nil, State.modCwy, hc]

/-- The frames of l but for f. -/
def framesBut (l : List Nat) (f : Nat) : List Nat := l.filter fun x => x != f

theorem mem_framesBut {l : List Nat} {f g : Nat} : g ∈ framesBut l f ↔ g ∈ l ∧ g ≠ f := by simp [framesBut]

theorem exec_frameZeroDone (hs : s.noStalls) (hl : s.cwy.later = []) : exec (.frameZeroDone x frame) s =
    .next (s.modMem fun m => { m with zeroing := framesBut m.zeroing (x.val * framesPerSector + frame.toNat) }) := by
  change execFrameZeroDone x frame s = _
  rw [execFrameZeroDone, State.retryStalls_none (s := s.modMem _) hs, State.releaseLater_none (s := s.modMem _) hl]
  rfl

theorem exec_frameCopyDone (hl : s.cwy.later = []) : exec (.frameCopyDone x frame) s =
    .next (s.modMem fun m => { m with copying := framesBut m.copying (x.val * framesPerSector + frame.toNat) }) := by
  change execFrameCopyDone x frame s = _
  rw [execFrameCopyDone, State.releaseLater_none (s := s.modMem _) hl]
  rfl

/-! ### The page lookup (R249, R269) -/

theorem State.setReg_rest (s : State) (off : Nat) (v : BitVec 64) : { s.setReg off v with regs := s.regs } = s := rfl

/-- SEC_EP_LOOKUP holds a frame, and stands in no configuration region (R467). -/
theorem epLookup_register : ∀ y : Sec, regFlds (secBase y + 0x40028) = [⟨0, 18, .rwp⟩] ∧ cfgScope (secBase y + 0x40028) = none ∧
    0x100150 ≤ secBase y + 0x40028 := by decide

/-- SEC_EP_LOOKUP after a write of v. -/
def lookupStored (old v : BitVec 64) : BitVec 64 := (old &&& ~~~(fldMask ⟨0, 18, .rwp⟩)) ||| (v &&& fldMask ⟨0, 18, .rwp⟩)

theorem lookupStored_frame (old : BitVec 64) (frame : BitVec 18) : (lookupStored old (frame.setWidth 64)).extractLsb' 0 18 = frame := by
  refine BitVec.eq_of_getLsbD_eq fun i hi => ?_
  have hmask : (fldMask ⟨0, 18, .rwp⟩).getLsbD i = true := by revert i; decide
  rw [BitVec.getLsbD_extractLsb', lookupStored, getLsbD_merge _ _ _ (by omega), Nat.zero_add, if_pos hmask]
  simp [hi, show i < 64 by omega]

/-- R456: a privileged write of a register with one field that only privilege guards, in no configuration region. -/
theorem State.regStore_field {off lo w : Nat} (hf : regFlds off = [⟨lo, w, .rwp⟩]) (hc : cfgScope off = none) (hoff : 0x100150 ≤ off)
    (hm : masterPriv m = true) (v : BitVec 64) : (s.regStore m off none v).1 =
      s.setReg off ((s.reg off &&& ~~~(fldMask ⟨lo, w, .rwp⟩)) ||| (v &&& fldMask ⟨lo, w, .rwp⟩)) := by
  have href : ¬(0x100100 ≤ off ∧ off < 0x100150 ∧ (!s.regionOpen ((off - 0x100100) / 8)) = true) := fun h =>
    absurd h.2.1 (Nat.not_lt.2 hoff)
  have hpriv : refusedWrite m none [⟨lo, w, .rwp⟩] = false := by simp [refusedWrite, Fld.allowed, hm]
  simp only [State.regStore, hf, hc, closeCheck, placeHalf, hpriv, mergeFlds_cons hm, Bool.false_eq_true, if_false, if_neg href]
  rfl

theorem exec_epLookup (hm : s.privileged m) (hr : s.inReset x = false) : exec (.epLookup m x frame) s =
    .next (s.setReg (secBase x + 0x40028) (lookupStored (s.reg (secBase x + 0x40028)) (frame.setWidth 64))) := by
  change execEpLookup m x frame s = _
  simp only [execEpLookup, hm.1, Bool.not_true, Bool.false_eq_true, if_false]
  obtain ⟨hf, hc, hoff⟩ := epLookup_register x
  rw [State.atBridge_open (bridgeOf_sector (by decide)) hr, State.regStore_field hf hc hoff hm.2]
  rfl

theorem exec_epLookup_waits (ha : s.arrives m = true) (hr : s.inReset x = true) : exec (.epLookup m x frame) s =
    .next (s.stallReg ⟨m, BitVec.ofNat 26 (secBase x + 0x40028), none, .write (frame.setWidth 64)⟩) := by
  change execEpLookup m x frame s = _
  simp only [execEpLookup, ha, Bool.not_true, Bool.false_eq_true, if_false]
  rw [State.atBridge_waits (bridgeOf_sector (by decide)) hr]

end

/-- Settles O33. A write that its sector's bridge and its privilege let through acts on one entry of the map (`State.ownWrite_byte`,
`State.ownWrite_leaves`) or on the lookup register (`exec_epLookup`); the ends of a zeroing and of a copy take one frame from a list. -/
theorem ownershipResult : Obligations.OwnershipResult := by
  unfold Obligations.OwnershipResult
  intro s x frame
  refine ⟨fun m hm hr => ?written, fun m => exec_ownMapWrite_refused, fun hs hl => ?zeroed, fun hl => ?copied, fun m hm hr => ?looked,
    fun m ha hr => ⟨exec_ownMapWrite_waits ha hr, exec_epLookup_waits ha hr⟩⟩
  case written =>
    intro v f cleared hlt
    let e : OwnEntry := ⟨v.extractLsb' 18 6, v.getLsbD 24, v.getLsbD 25⟩
    obtain ⟨hzero, hrecs, hrest⟩ := s.ownWrite_leaves f e
    refine ⟨s.ownWrite f e, ?_, ?_, fun j hj => ?_, fun a => ?_, hzero, hrecs, hrest⟩
    · rw [exec_ownMapWrite hm hr, State.ownGo_of_frame rfl hlt]
    · rw [State.ownWrite_owner, if_pos rfl]
    · rw [State.ownWrite_owner, if_neg hj]
    · rw [State.ownWrite_byte]
      exact if_congr (by simp [cleared, e, and_comm]) rfl rfl
  case zeroed => exact ⟨_, exec_frameZeroDone hs hl, fun f => mem_framesBut, rfl⟩
  case copied => exact ⟨_, exec_frameCopyDone hl, fun f => mem_framesBut, rfl⟩
  case looked =>
    refine ⟨_, exec_epLookup hm hr, ?_, fun o ho => State.reg_setReg_ne _ _ ho, State.setReg_rest _ _ _⟩
    rw [State.reg_setReg_same, lookupStored_frame]

end Sys2Proof.Machine
end

section
/-!
PROOFS. The check of the contacts (20 R501): an open PROCHOT_N contact can have the FCP act on what waited for it, which refutes O54.
-/

namespace Sys2Proof.Machine

/-- ABORT of attempt 1 of epoch 1 with cause 6, from the coordinator. -/
def abortOfAttempt1 : CommitMsg := { info := 6, acause := 0, att := 1, cntm1 := 0, mepoch := 0, epoch := 1, src := 0 }

/-- The contact of PROCHOT_N is found open. -/
def openProchot : ContactFault := ⟨1, true, false, false⟩

/-- The member of rank 1 runs attempt 1, and its ABORT waits for the FCP, which is at the safe point of a handoff's step 1 (15 R388).
PROCHOT_N is low and package power is over its limit, while the clamp is not engaged. The obligation names every state, and this is one
of them; no claim that a run reaches it. -/
def overLimit : State :=
  { State.reset with
    board := { Board.reset with standby := true, coreOn := true, step := 8, prochotN := false }
    pwc := { Power.reset with eProchot := true, ePower := true }
    fw := { Firmware.reset with
      procs := [(fcpIx, ⟨.quiescing, 0, [], 0⟩), (mgpIx, ⟨.ready, 0, [], 0⟩)], handoff := some (1, true) }
    ep := { EpochState.reset with
      st := .running, launch := some 1, att := 1, members := [0, 1], rank := 1, waitMsgs := [(.abort, abortOfAttempt1)] } }

/-- The open contact ends one cause, and the other engages the clamp, which abandons the handoff (17 R440, 15 R390): the FCP runs again
and acts on the ABORT, whose local rollback starts a sweep of the page records (10 R245, R246). -/
theorem overLimit_sweeps {t : State} (ht : exec (.contactCheck [openProchot]) overLimit = .next t) : t.mem.sweep = some ⟨false, []⟩ := by
  have hrun : (match exec (.contactCheck [openProchot]) overLimit with
    | .next u => u.mem.sweep
    | _ => none) = some ⟨false, []⟩ := by decide +kernel
  rwa [ht] at hrun

/-- Refutes O54: its clause about a contact that was sound at the last check says that device memory's state stays as it was, whatever
the contact. An open PROCHOT_N changes the causes of an emergency, and with another cause left and the clamp not engaged
(`overLimit`) the clamp engages now; the processors that this takes out of a handoff serve what waited for them, and an ABORT among
that starts a sweep of page records. -/
theorem not_boardResult : ¬ Obligations.BoardResult := by
  unfold Obligations.BoardResult
  intro h
  obtain ⟨-, -, -, -, -, -, hcontact, -⟩ := h overLimit
  obtain ⟨-, -, hnew⟩ := hcontact rfl rfl (by decide)
  obtain ⟨t, ht, -, hmem, -⟩ := hnew openProchot (fun o ho => absurd ho (List.not_mem_nil)) (.inl rfl)
  have hsweep : t.mem.sweep = none := congrArg MemState.sweep hmem
  exact absurd (hsweep.symm.trans (overLimit_sweeps ht)) (by decide)

end Sys2Proof.Machine
end

section
/-!
PROOFS. The local commit and the local rollback (10 R244 to R246), which settle O24 and O25, and the messages that a member sends to its
children (R251, R252).
-/

namespace Sys2Proof.Machine

/-! ### Parts that change little -/

/-- An event stands in the error block (18 R461). -/
theorem State.event_err_only (s : State) (q ty : Nat) (payload : List Byte) : ∃ err, s.event q ty payload = { s with err } := by
  unfold State.event State.setEq
  split
  · exact ⟨_, rfl⟩
  · exact ⟨_, rfl⟩

/-- The end of a launch stands in the front end and in its journal (12 R304 to R307). -/
theorem State.endLaunch_eq (s : State) (id : Nat) (status : BitVec 16) (committed : Bool) :
    ∃ fe jnl, s.endLaunch id status committed = { s with fe, jnl } := ⟨_, _, rfl⟩

theorem State.dropWakes_eq (s : State) (gone : Nat → Bool) : ∃ pwc jnl, s.dropWakes gone = { s with pwc, jnl } := by
  unfold State.dropWakes
  dsimp only
  split
  · exact ⟨_, _, rfl⟩
  · exact ⟨_, _, rfl⟩

/-- The hummocks as they stand once those of launch id are Gated. -/
def State.humsGated (s : State) (id : Nat) : List (Nat × Hummock) :=
  s.hums.map fun p => if p.2.heldBy id then (p.1, p.2.gate) else p

/-- Gating a launch's hummocks also ends what waits on them: waiters of sluices, and wake requests (07 R177; 17 R438). -/
theorem State.gateHums_eq (s : State) (id : Nat) :
    ∃ sluices pwc jnl, s.gateHums id = { s with hums := s.humsGated id, sluices, pwc, jnl } := by
  obtain ⟨pwc, jnl, h⟩ := State.dropWakes_eq (({ s with hums := s.humsGated id } : State).unwait fun g => (s.hum g).heldBy id)
    fun g => (s.hum g).heldBy id
  exact ⟨_, pwc, jnl, h⟩

theorem sget_humsGated (s : State) (id g : Nat) :
    sget Hummock.reset (s.humsGated id) g = if (s.hum g).heldBy id then (s.hum g).gate else s.hum g := by
  unfold State.humsGated
  rw [sget_map (fun p => by split <;> rfl) (fun k => rfl)]
  unfold State.hum
  split <;> rfl

/-- R246: a sweep starts over the records first-written in the attempt, where none runs; one that finds a sweep running waits. -/
theorem State.startSweep_eq (s : State) (commit : Bool) : ∃ sweep sweepQ,
    s.startSweep commit = { s with mem := { s.mem with sweep, sweepQ, firsts := [], copying := [] } } ∧
      (s.mem.sweep = none → sweep = some ⟨commit, s.mem.firsts⟩) := by
  cases h : s.mem.sweep with
  | none => exact ⟨some ⟨commit, s.mem.firsts⟩, s.mem.sweepQ, by simp only [State.startSweep, State.modMem, h], fun _ => rfl⟩
  | some w => exact ⟨some w, s.mem.sweepQ ++ [⟨commit, s.mem.firsts⟩], by simp only [State.startSweep, State.modMem, h], nofun⟩

/-! ### Local commit (R244) -/

/-- What local commit makes of the commit state. -/
def EpochState.committed (e : EpochState) : EpochState :=
  { e with
    genLast := e.genOpen, genOpen := genNext e.genOpen, c := e.c + 1, st := .committing, commits := satInc e.commits
    sent := false, localPrep := false, reports := [], prepTimer := false, decideTimer := false, rejoin := false }

theorem State.localCommit_eq (s : State) : ∃ sweep sweepQ fe jnl,
    s.localCommit =
      { s with
        ep := s.ep.committed, fe, jnl
        mem := { s.mem with sweep, sweepQ, firsts := [], copying := [], closed := [] } } ∧
      (s.mem.sweep = none → sweep = some ⟨true, s.mem.firsts⟩) := by
  obtain ⟨sweep, sweepQ, h, hsweep⟩ := ({ s with ep := s.ep.committed } : State).startSweep_eq true
  refine ⟨sweep, sweepQ, s.localCommit.fe, s.localCommit.jnl, ?_, hsweep⟩
  unfold State.localCommit State.modEp
  unfold EpochState.committed at h
  dsimp only
  rw [h]
  split
  · rfl
  · rfl

theorem State.localCommit_commits (s : State) : s.commitsLocally s.localCommit := by
  obtain ⟨sweep, sweepQ, fe, jnl, h, hsweep⟩ := s.localCommit_eq
  rw [h]
  exact ⟨rfl, rfl, rfl, rfl, rfl, rfl, hsweep, rfl, rfl, rfl, rfl⟩

/-- Settles O24 (`State.localCommit_eq`). -/
theorem localCommitActs : Obligations.LocalCommitActs := State.localCommit_commits

/-! ### Local rollback (R245) -/

/-- What local rollback makes of the commit state. -/
def EpochState.rolledBack (e : EpochState) : EpochState :=
  { e with
    genOpen := genNext e.genOpen, st := .rollingBack, aborts := satInc e.aborts, sent := false, localPrep := false
    reports := [], prepTimer := false, decideTimer := false, contained := true }

/-- The Causeway without what the failed attempt had on its way (R129, R245): the messages of the other channels stay. -/
def Fabric.withoutAttempt (c : Fabric) : Fabric :=
  { c with inject := c.inject.filter fun p => p.vc != 0, outbound := [], inbound := [] }

/-- s once the failed attempt is discarded and its records are being swept; its hummocks are not Gated yet. -/
def State.attemptDropped (s : State) (err : ErrBlock) (sweep : Option Sweep) (sweepQ : List Sweep) : State :=
  { s with
    err, ep := s.ep.rolledBack, flight := [], cwy := s.cwy.withoutAttempt, fe := { s.fe with watch := [] }
    mem := { s.mem with contribs := [], rounds := [], closed := [], sweep, sweepQ, firsts := [], copying := [] } }

theorem State.localRollback_drops (s : State) : ∃ err sweep sweepQ,
    s.localRollback = (match s.ep.launch with
      | some id => ((s.attemptDropped err sweep sweepQ).jot fcpIx).gateHums id
      | none => (s.attemptDropped err sweep sweepQ).jot fcpIx) ∧
    (s.mem.sweep = none → sweep = some ⟨false, s.mem.firsts⟩) := by
  obtain ⟨err, he⟩ := s.event_err_only 0 0x07 (leBytes 1 0 ++
    leBytes 1 (match s.ep.after with | some c => c.toNat | none => 0xFF) ++ leBytes 2 s.ep.att.toNat ++ leBytes 4 0 ++
    leBytes 8 (s.ep.c.toNat + 1) ++ leBytes 8 s.runSeq)
  obtain ⟨sweep, sweepQ, h, hsweep⟩ := ({ s with
    err, ep := s.ep.rolledBack, flight := [], cwy := s.cwy.withoutAttempt, fe := { s.fe with watch := [] }
    mem := { s.mem with contribs := [], rounds := [], closed := [] } } : State).startSweep_eq false
  refine ⟨err, sweep, sweepQ, ?_, hsweep⟩
  have hswept : (((s.commitEvent 0 (match s.ep.after with | some c => c.toNat | none => 0xFF)).dropAttempt).modEp
      EpochState.rolledBack).startSweep false = s.attemptDropped err sweep sweepQ := by
    rw [State.commitEvent, he]
    exact h
  unfold State.localRollback
  dsimp only
  exact congrArg (fun u : State => match (u.jot fcpIx).ep.launch with
    | some id => (u.jot fcpIx).gateHums id
    | none => u.jot fcpIx) hswept

theorem State.localRollback_eq (s : State) : ∃ err sweep sweepQ hums sluices pwc jnl,
    s.localRollback = { s.attemptDropped err sweep sweepQ with hums, sluices, pwc, jnl } ∧
      (s.mem.sweep = none → sweep = some ⟨false, s.mem.firsts⟩) ∧ ∀ id, s.ep.launch = some id → hums = s.humsGated id := by
  obtain ⟨err, sweep, sweepQ, h, hsweep⟩ := s.localRollback_drops
  cases hl : s.ep.launch with
  | none =>
    simp only [hl] at h
    exact ⟨err, sweep, sweepQ, _, _, _, _, h, hsweep, nofun⟩
  | some id =>
    obtain ⟨sluices, pwc, jnl, hg⟩ := State.gateHums_eq ((s.attemptDropped err sweep sweepQ).jot fcpIx) id
    simp only [hl] at h
    exact ⟨err, sweep, sweepQ, s.humsGated id, sluices, pwc, jnl, h.trans hg, hsweep, fun k hk => by rw [Option.some.inj hk]⟩

theorem State.localRollback_rollsBack (s : State) : s.rollsBack s.localRollback := by
  obtain ⟨err, sweep, sweepQ, hums, sluices, pwc, jnl, h, hsweep, -⟩ := s.localRollback_eq
  rw [h]
  exact ⟨rfl, rfl, rfl, rfl, rfl, rfl, rfl, rfl, hsweep, rfl, rfl⟩

/-- Settles O25 (`State.localRollback_eq`). -/
theorem localRollbackActs : Obligations.LocalRollbackActs := State.localRollback_rollsBack

/-! ### Messages sent (R251, R252) -/

/-- The packet of a commit message to the member of rank k. -/
def State.msgPacket (s : State) (ty : MsgType) (m : CommitMsg) (k : Nat) : Packet :=
  { s.ownPacket 0x10 2 (s.memberDev k) with len := 32, payload := msgBytes ty m }

theorem State.sendMsg_sent (s : State) (ty : MsgType) (m : CommitMsg) (k : Nat) : sentMessage s ty m k (s.msgPacket ty m k) :=
  ⟨rfl, rfl, rfl, rfl, rfl⟩

/-- s with packets handed to the Causeway. -/
def State.injected (s : State) (ps : List Packet) : State := { s with cwy := { s.cwy with inject := s.cwy.inject ++ ps } }

theorem State.sendMsg_eq (s : State) (ty : MsgType) (m : CommitMsg) (k : Nat) :
    s.sendMsg ty m k = s.injected [s.msgPacket ty m k] := rfl

theorem State.foldl_sendMsg (s : State) (ty : MsgType) (m : CommitMsg) (ks : List Nat) (ps : List Packet) :
    ks.foldl (fun acc k => acc.sendMsg ty m k) (s.injected ps) = s.injected (ps ++ ks.map (s.msgPacket ty m)) := by
  induction ks generalizing ps with
  | nil => simp
  | cons k ks ih =>
    have hone : (s.injected ps).sendMsg ty m k = s.injected (ps ++ [s.msgPacket ty m k]) := by
      simp only [State.sendMsg_eq, State.injected, List.append_assoc]
      rfl
    rw [List.foldl_cons, hone, ih, List.map_cons, List.append_assoc, List.singleton_append]

/-- One message to each child, in order. -/
theorem State.toChildren_eq (s : State) (ty : MsgType) (m : CommitMsg) :
    s.toChildren ty m = s.injected (s.children.map (s.msgPacket ty m)) := by
  have h := s.foldl_sendMsg ty m s.children []
  rwa [State.injected, List.append_nil] at h

theorem State.injected_sendsTo (s : State) (ty : MsgType) (m : CommitMsg) (ks : List Nat) :
    s.sendsTo (s.injected (ks.map (s.msgPacket ty m))) ty m ks := rfl

/-- A commit discards no message: what was sent before it is on its way. -/
theorem State.localCommit_cwy (s : State) : s.localCommit.cwy = s.cwy := by
  obtain ⟨sweep, sweepQ, fe, jnl, h, -⟩ := s.localCommit_eq
  rw [h]

theorem State.localRollback_cwy (s : State) : s.localRollback.cwy = s.cwy.withoutAttempt := by
  obtain ⟨err, sweep, sweepQ, hums, sluices, pwc, jnl, h, -⟩ := s.localRollback_eq
  rw [h]
  rfl

/-- Commit messages are not of channel 0, and stay on their way when the attempt's packets are discarded. -/
theorem State.sendsKept_of_cwy {s t : State} {ty : MsgType} {m : CommitMsg} {ks : List Nat}
    (h : t.cwy = (s.injected (ks.map (s.msgPacket ty m))).cwy.withoutAttempt) : s.sendsKept t ty m ks := by
  have hmsgs : (ks.map (s.msgPacket ty m)).filter (fun p => p.vc != 0) = ks.map (s.msgPacket ty m) :=
    List.filter_eq_self.2 fun p hp => by
      obtain ⟨k, -, rfl⟩ := List.mem_map.1 hp
      rfl
  have hinject : t.cwy.inject = (s.cwy.inject ++ ks.map (s.msgPacket ty m)).filter fun p => p.vc != 0 := congrArg Fabric.inject h
  rw [List.filter_append, hmsgs] at hinject
  exact hinject

end Sys2Proof.Machine
end

section
/-!
PROOFS. Commit messages at their member, and the ABORT of an attempt (10 R252 to R258), which settle O26, O27 and O28.
-/

namespace Sys2Proof.Machine

/-! ### The first case of R257 that matches -/

section
variable {s : State} {ty : MsgType} {m : CommitMsg}

/-- A message reaches the FCP that runs. -/
theorem State.message_heard (hchip : s.err.chip = none) (hfcp : s.procReady fcpIx = true) (ty : MsgType) (m : CommitMsg) :
    s.message ty m = s.onMessage ty m := by
  simp [State.message, hchip, State.takeMsg, hfcp]

/-- The open epoch is not committed yet. -/
theorem State.hears.uncommitted (h : s.hears m) : s.ep.c.toNat < m.epoch.toNat := by
  obtain ⟨-, -, -, hepoch, -, hwrap⟩ := h
  have hlt : s.ep.c.toNat ≠ 2 ^ 64 - 1 := fun e => hwrap (BitVec.eq_of_toNat_eq (by simpa using e))
  have := s.ep.c.isLt
  rw [hepoch, BitVec.toNat_add_of_lt (by simp; omega)]
  simp

/-- A message for the running attempt that no earlier case of R257 takes is acted on. -/
theorem State.hears.acts (h : s.hears m) (hst : s.ep.st = .running ∨ s.ep.st = .prepared) (hq : (ty == .query) = false)
    (hreq : (ty == .abortReq && s.requestLate m) = false)
    (hrep : (ty == .prepare && s.ep.reports.any fun r => r.1 == m.src) = false) (hnew : s.applied ty m = false) :
    s.message ty m = s.actMsg ty m := by
  obtain ⟨hchip, hfcp, hmep, hepoch, hatt, -⟩ := h
  have hlast : s.lastAtt = m.att := by rcases hst with e | e <;> simp [State.lastAtt, e, hatt]
  have hepoch : m.epoch = s.openEpoch := hepoch
  rw [State.message_heard hchip hfcp, State.onMessage]
  simp [hmep, hq, hreq, hepoch, hatt, hrep, hnew, hlast]

end

/-! ### COMMIT (R255, R258) -/

/-- A member that sends to its children and then commits. -/
theorem State.toChildren_localCommit (s : State) (ty : MsgType) (m : CommitMsg) :
    s.commitsLocally (s.toChildren ty m).localCommit ∧ s.sendsTo (s.toChildren ty m).localCommit ty m s.children := by
  rw [State.toChildren_eq]
  refine ⟨(s.injected _).localCommit_commits, ?_⟩
  unfold State.sendsTo
  rw [State.localCommit_cwy]
  exact s.injected_sendsTo ty m s.children

section
variable {s : State} {m : CommitMsg}

theorem State.isCoord_of_rank (h : s.ep.rank ≠ 0) : s.isCoord = false := beq_false_of_ne h

theorem exec_commit_acts (h : s.hears m) (hst : s.ep.st = .prepared) (hr : s.ep.rank ≠ 0) :
    exec (.commit m) s = .next (s.toChildren .commit m).localCommit := by
  have hnew : s.applied .commit m = false := by simpa [State.applied] using h.uncommitted
  show Host.Outcome.next (s.message .commit m) = _
  rw [h.acts (.inr hst) rfl rfl rfl hnew]
  simp [State.actMsg, hst, State.isCoord_of_rank hr]

theorem exec_answer_commits (h : s.hears m) (hst : s.ep.st = .prepared) (hi : m.info = 1) :
    exec (.answer m) s = .next
      ((s.modEp fun e => { e with rejoin := false }).toChildren .commit { m with info := 0, acause := 0 }).localCommit := by
  have hnew : s.applied .answer m = false := by simp [State.applied, hi]
  show Host.Outcome.next (s.message .answer m) = _
  rw [h.acts (.inr hst) rfl rfl rfl hnew]
  simp [State.actMsg, hst, hi]

end

/-! ### A failed attempt (R256, R355) -/

/-- What the failure of the open attempt makes of the commit state. -/
def EpochState.failed (e : EpochState) : EpochState := { e with failedAtt := some e.att, prepTimer := false, decideTimer := false }

/-- What an ABORT of the open attempt makes of it before that. -/
def EpochState.aborting (e : EpochState) (cause : BitVec 8) (att : BitVec 16) : EpochState :=
  { e with acted := some (e.c + 1, att), after := some cause, afterSunder := if cause = 3 then true else e.afterSunder }

/-- A hummock in which every writer of launch id has stopped, if it holds any (R355). -/
def Hummock.quietFor (h : Hummock) (id : Nat) : Bool := !(h.heldBy id) || h.seq.st == .ended

/-- The hummock once the writers of launch id have been told to stop. -/
def Hummock.stopFor (h : Hummock) (id : Nat) : Hummock := if h.heldBy id && h.seq.st != .ended then h.stop else h

theorem Hummock.stop_holder (h : Hummock) : h.stop.holder = h.holder := by
  show h.cutTiles.holder = h.holder
  unfold Hummock.cutTiles
  refine foldl_keeps (fun k : Hummock => k.holder = h.holder) _ (fun k p e => ?_) _ _ rfl
  exact e

theorem Hummock.stopFor_of_quiet {h : Hummock} {id : Nat} (hq : h.quietFor id = true) : h.stopFor id = h :=
  if_neg (by cases hh : h.heldBy id <;> simp_all [Hummock.quietFor])

/-- Stopping the writers does not end their programs. -/
theorem Hummock.stopFor_quietFor (h : Hummock) (id : Nat) : (h.stopFor id).quietFor id = h.quietFor id := by
  unfold Hummock.stopFor
  split
  case isTrue hs =>
    obtain ⟨hheld, hst⟩ := Bool.and_eq_true_iff.1 hs
    have hstop : h.stop.heldBy id = true := by rwa [Hummock.heldBy, Hummock.stop_holder]
    have hidle : h.stop.seq.st = .idle := rfl
    simp_all [Hummock.quietFor]
  case isFalse => rfl

section
variable {s : State} {id : Nat} {cause : BitVec 8} {att : BitVec 16}

theorem State.quiet_eq (s : State) (id : Nat) : s.quiet id = s.hums.all fun p => p.2.quietFor id := rfl

theorem State.stopHums_eq (s : State) (id : Nat) :
    ∃ sluices, s.stopHums id = { s with hums := s.hums.map fun p => (p.1, p.2.stopFor id), sluices } := by
  have hums : (s.hums.map fun p => if p.2.heldBy id && p.2.seq.st != .ended then (p.1, p.2.stop) else p) =
      s.hums.map fun p => (p.1, p.2.stopFor id) :=
    List.map_congr_left fun p _ => by unfold Hummock.stopFor; split <;> rfl
  refine ⟨(s.stopHums id).sluices, ?_⟩
  rw [← hums]
  rfl

theorem State.stopHums_quiet (s : State) (id : Nat) : (s.stopHums id).quiet id = s.quiet id := by
  obtain ⟨sluices, h⟩ := s.stopHums_eq id
  simp only [h, State.quiet_eq, List.all_map, Function.comp_def, Hummock.stopFor_quietFor]

theorem State.failAttempt_eq (s : State) : ∃ hums sluices, s.failAttempt = { s with ep := s.ep.failed, hums, sluices } := by
  unfold State.failAttempt
  dsimp only
  split
  · exact ⟨_, _, rfl⟩
  · exact ⟨_, _, rfl⟩

theorem State.failAttempt_of_launch (hl : s.ep.launch = some id) :
    s.failAttempt = ({ s with ep := s.ep.failed } : State).stopHums id := by
  unfold State.failAttempt
  dsimp only
  split
  case h_1 k hk =>
    obtain rfl : id = k := Option.some.inj (hl.symm.trans hk)
    rfl
  case h_2 hk => exact absurd (hl.symm.trans hk) nofun

/-- Where every writer has stopped, none is left to stop. -/
theorem State.failAttempt_of_quiet (hl : s.ep.launch = some id) (hq : s.quiet id = true) :
    ∃ sluices, s.failAttempt = { s with ep := s.ep.failed, sluices } := by
  have hums : (s.hums.map fun p => (p.1, p.2.stopFor id)) = s.hums := by
    rw [State.quiet_eq, List.all_eq_true] at hq
    calc (s.hums.map fun p => (p.1, p.2.stopFor id))
      _ = s.hums.map fun p => p := List.map_congr_left fun p hp => Prod.ext rfl (Hummock.stopFor_of_quiet (hq p hp))
      _ = s.hums := List.map_id' _
  obtain ⟨sluices, h⟩ := ({ s with ep := s.ep.failed } : State).stopHums_eq id
  refine ⟨sluices, ?_⟩
  rw [State.failAttempt_of_launch hl, h]
  show ({ s with ep := s.ep.failed, hums := s.hums.map fun p => (p.1, p.2.stopFor id), sluices } : State) = _
  rw [hums]

/-- An ABORT of an attempt that runs or is prepared fails it (R256). -/
theorem State.abortHere_fails_attempt (hst : s.ep.st = .running ∨ s.ep.st = .prepared) (cause : BitVec 8) (att : BitVec 16) :
    s.abortHere cause att = ({ s with ep := s.ep.aborting cause att } : State).failAttempt.tryRollback := by
  by_cases hc : cause = 3
  · rcases hst with h | h <;> simp only [State.abortHere, State.modEp, EpochState.aborting, if_pos hc, h]
  · rcases hst with h | h <;> simp only [State.abortHere, State.modEp, EpochState.aborting, if_neg hc, h]

theorem State.tryRollback_of_unquiet (hl : s.ep.launch = some id) (hq : s.quiet id = false) : s.tryRollback = s := by
  unfold State.tryRollback
  split <;> simp_all

theorem State.tryRollback_of_quiet (hst : s.ep.st = .running ∨ s.ep.st = .prepared) (hl : s.ep.launch = some id)
    (hf : s.ep.failedAtt = some s.ep.att) (hx : s.err.ctxab = none) (hq : s.quiet id = true) : s.tryRollback = s.localRollback := by
  rcases hst with h | h <;> simp [State.tryRollback, h, hl, hf, hx, hq]

/-- While a writer still runs, an attempt that fails does not roll back yet (R355). -/
theorem State.failAttempt_waits (hl : s.ep.launch = some id) (hq : s.quiet id = false) :
    ∃ hums sluices, s.failAttempt.tryRollback = { s with ep := s.ep.failed, hums, sluices } := by
  have hrunning : (({ s with ep := s.ep.failed } : State).stopHums id).quiet id = false := (State.stopHums_quiet _ id).trans hq
  obtain ⟨sluices, h⟩ := ({ s with ep := s.ep.failed } : State).stopHums_eq id
  rw [State.failAttempt_of_launch hl, State.tryRollback_of_unquiet (by rw [h]; exact hl) hrunning, h]
  exact ⟨_, _, rfl⟩

theorem State.abortHere_of_unquiet (hst : s.ep.st = .running ∨ s.ep.st = .prepared) (hl : s.ep.launch = some id)
    (hq : s.quiet id = false) (cause : BitVec 8) (att : BitVec 16) :
    ∃ hums sluices, s.abortHere cause att = { s with ep := (s.ep.aborting cause att).failed, hums, sluices } := by
  rw [State.abortHere_fails_attempt hst]
  exact State.failAttempt_waits (s := { s with ep := s.ep.aborting cause att }) hl hq

/-- Once every writer has stopped, an ABORT has the attempt roll back (R256, R355). -/
theorem State.abortHere_of_quiet (hst : s.ep.st = .running ∨ s.ep.st = .prepared) (hl : s.ep.launch = some id)
    (hq : s.quiet id = true) (hx : s.err.ctxab = none) (cause : BitVec 8) (att : BitVec 16) :
    ∃ sluices, s.abortHere cause att = State.localRollback { s with ep := (s.ep.aborting cause att).failed, sluices } := by
  obtain ⟨sluices, h⟩ := State.failAttempt_of_quiet (s := { s with ep := s.ep.aborting cause att }) hl hq
  refine ⟨sluices, ?_⟩
  rw [State.abortHere_fails_attempt hst, h]
  exact State.tryRollback_of_quiet hst hl rfl hx hq

/-! ### ABORT at a member (R255 to R258) -/

theorem State.localRollback_ep (s : State) : s.localRollback.ep = s.ep.rolledBack := by
  obtain ⟨err, sweep, sweepQ, hums, sluices, pwc, jnl, h, -⟩ := s.localRollback_eq
  rw [h]
  rfl

theorem State.localRollback_hum (hl : s.ep.launch = some id) (g : Nat) :
    s.localRollback.hum g = if (s.hum g).heldBy id then (s.hum g).gate else s.hum g := by
  obtain ⟨err, sweep, sweepQ, hums, sluices, pwc, jnl, h, -, hgated⟩ := s.localRollback_eq
  rw [h, hgated id hl]
  exact sget_humsGated s id g

/-- What a rollback does is said of the numbers and the memory that it starts from. -/
theorem State.rollsBack.of_same {u t : State} (h : u.rollsBack t) (hopen : u.ep.genOpen = s.ep.genOpen) (hc : u.ep.c = s.ep.c)
    (hlast : u.ep.genLast = s.ep.genLast) (haborts : u.ep.aborts = s.ep.aborts) (hmem : u.mem = s.mem) : s.rollsBack t := by
  simpa only [State.rollsBack, hopen, hc, hlast, haborts, hmem] using h

/-- A member whose writers have stopped sends ABORT to its children and rolls back; what follows is the cause that it acts on. -/
theorem State.toChildren_abortHere (hst : s.ep.st = .running ∨ s.ep.st = .prepared) (hl : s.ep.launch = some id)
    (hq : s.quiet id = true) (hx : s.err.ctxab = none) (m : CommitMsg) (cause : BitVec 8) (att : BitVec 16) :
    let t := (s.toChildren .abort m).abortHere cause att
    s.rollsBack t ∧ s.sendsKept t .abort m s.children ∧ t.ep.after = some cause ∧ t.ep.acted = some (s.openEpoch, att) ∧
      ∀ g, (s.hum g).heldBy id = true → (t.hum g).power = .gated ∧ (t.hum g).holder = none := by
  obtain ⟨sluices, h⟩ := State.abortHere_of_quiet (s := s.toChildren .abort m) (by rwa [State.toChildren_ep])
    (by rwa [State.toChildren_ep]) (by rwa [State.toChildren_eq]) (by rwa [State.toChildren_eq]) cause att
  dsimp only
  rw [h, State.toChildren_eq]
  refine ⟨(State.localRollback_rollsBack _).of_same rfl rfl rfl rfl rfl, State.sendsKept_of_cwy (State.localRollback_cwy _), ?_, ?_,
    fun g hg => ?_⟩
  · rw [State.localRollback_ep]; rfl
  · rw [State.localRollback_ep]; rfl
  · generalize hu : { (s.injected (s.children.map (s.msgPacket .abort m))) with
      ep := ((s.injected (s.children.map (s.msgPacket .abort m))).ep.aborting cause att).failed, sluices } = u
    have hlu : u.ep.launch = some id := by rw [← hu]; exact hl
    have hgu : (u.hum g).heldBy id = true := by rw [← hu]; exact hg
    rw [State.localRollback_hum hlu, if_pos hgu]
    exact ⟨rfl, rfl⟩

variable {m : CommitMsg}

theorem exec_abort_acts (h : s.hears m) (hst : s.ep.st = .running ∨ s.ep.st = .prepared) (hr : s.ep.rank ≠ 0)
    (hnew : s.actedOn m.att = false) : exec (.abort m) s = .next ((s.toChildren .abort m).abortHere m.info m.att) := by
  have happlied : s.applied .abort m = false := by simp [State.applied, hnew]
  show Host.Outcome.next (s.message .abort m) = _
  rw [h.acts hst rfl rfl rfl happlied]
  rcases hst with e | e <;> simp [State.actMsg, e, State.isCoord_of_rank hr]

theorem exec_answer_aborts (h : s.hears m) (hst : s.ep.st = .running ∨ s.ep.st = .prepared) (hnew : s.actedOn m.att = false)
    (hi : m.info = 2) : exec (.answer m) s = .next
      (((s.toChildren .abort { m with info := m.acause, acause := 0 }).abortHere m.acause m.att).modEp fun e =>
        { e with rejoin := false }) := by
  have happlied : s.applied .answer m = false := by simp [State.applied, hnew]
  show Host.Outcome.next (s.message .answer m) = _
  rw [h.acts hst rfl rfl rfl happlied]
  simp [State.actMsg, hi]

end

/-- Settles O26. Each message is the one that R257 has the member act on (`State.hears.acts`); a COMMIT goes on to the children before
the local commit (`State.toChildren_localCommit`), an ABORT before the rollback (`State.toChildren_abortHere`). -/
theorem decisionResult : Obligations.DecisionResult := by
  unfold Obligations.DecisionResult
  refine ⟨fun s m h hst hr => ⟨?commit, fun hi => ?answer⟩, fun s m id h hst hr hnew hl hq hx => ⟨?abort, fun hi _ => ?answer2⟩⟩
  case commit => exact ⟨_, exec_commit_acts h hst hr, s.toChildren_localCommit .commit m⟩
  case answer =>
    obtain ⟨hcommits, hsent⟩ :=
      (s.modEp fun e => { e with rejoin := false }).toChildren_localCommit .commit { m with info := 0, acause := 0 }
    refine ⟨_, exec_answer_commits h hst hi, ?_⟩
    generalize ((s.modEp fun e => { e with rejoin := false }).toChildren .commit { m with info := 0, acause := 0 }).localCommit = t at *
    exact ⟨hcommits, hsent⟩
  case abort => exact ⟨_, exec_abort_acts h hst hr hnew, State.toChildren_abortHere hst hl hq hx m m.info m.att⟩
  case answer2 =>
    obtain ⟨hback, hsent, hafter, hacted, -⟩ :=
      State.toChildren_abortHere hst hl hq hx { m with info := m.acause, acause := 0 } m.acause m.att
    have hexec := exec_answer_aborts h hst hnew hi
    generalize (s.toChildren .abort { m with info := m.acause, acause := 0 }).abortHere m.acause m.att = t at *
    exact ⟨_, hexec, hback, hsent, hafter, hacted⟩

/-! ### The coordinator decides ABORT (R254, R256) -/

section
variable {s : State} {m : CommitMsg}

/-- The commit state once the coordinator has decided ABORT of the open attempt, and the attempt has failed with it. -/
def EpochState.decidedAbort (e : EpochState) (cause : BitVec 8) : EpochState :=
  (({ e with decision := some ⟨e.c + 1, e.att, false, cause⟩, oldDecision := false } : EpochState).aborting cause e.att).failed

/-- While a writer still runs, the decision is journalled and sent, and the attempt fails; the rollback waits. -/
theorem State.decideAbort_of_unquiet {id : Nat} (hst : s.ep.st = .running ∨ s.ep.st = .prepared) (hl : s.ep.launch = some id)
    (hq : s.quiet id = false) (cause : BitVec 8) : ∃ hums sluices jnl, s.decideAbort cause =
      { s.injected (s.children.map (s.msgPacket .abort { s.ownMsg with info := cause })) with
        ep := s.ep.decidedAbort cause, hums, sluices, jnl } := by
  unfold State.decideAbort
  dsimp only
  rw [State.toChildren_eq]
  obtain ⟨hums, sluices, h⟩ := State.abortHere_of_unquiet (id := id)
    (s := (((s.modEp fun e => { e with decision := some ⟨e.c + 1, e.att, false, cause⟩, oldDecision := false }).jot fcpIx).injected
      (s.children.map (s.msgPacket .abort { s.ownMsg with info := cause })))) hst hl hq cause s.ep.att
  exact ⟨hums, sluices, _, h⟩

theorem State.decideAbort_decides {id : Nat} (hst : s.ep.st = .running ∨ s.ep.st = .prepared) (hl : s.ep.launch = some id)
    (hq : s.quiet id = false) (cause : BitVec 8) :
    let t := s.decideAbort cause
    t.ep.decision = some ⟨s.ep.c + 1, s.ep.att, false, cause⟩ ∧ s.sendsTo t .abort { s.ownMsg with info := cause } s.children ∧
      t.ep.failedAtt = some s.ep.att ∧ t.mem.hbm = s.mem.hbm := by
  obtain ⟨hums, sluices, jnl, h⟩ := State.decideAbort_of_unquiet hst hl hq cause
  dsimp only
  rw [h]
  exact ⟨rfl, rfl, rfl, rfl⟩

theorem exec_prepareTimeout_decides (hfcp : s.procReady fcpIx = true) (hr : s.ep.rank = 0) (hd : s.decided = false)
    (hst : s.ep.st = .prepared) (ht : s.ep.prepTimer = true) (hports : allPorts.all (fun p => (s.port p).ds == .active) = true) :
    exec .prepareTimeout s = .next (s.decideAbort 0) := by
  show Host.Outcome.next _ = _
  simp only [hfcp, hd, hst, ht, hports, State.isCoord, hr]
  rfl

theorem exec_abortReq_decides (h : s.hears m) (hst : s.ep.st = .running ∨ s.ep.st = .prepared) (hr : s.ep.rank = 0)
    (hd : s.decided = false) (hlate : s.requestLate m = false) : exec (.abortReq m) s = .next (s.decideAbort m.info) := by
  show Host.Outcome.next (s.message .abortReq m) = _
  rw [h.acts (ty := .abortReq) hst rfl hlate rfl rfl]
  rcases hst with e | e <;> simp [State.actMsg, State.memberFault, State.isCoord, hr, hd, e]

/-! ### PREPARE of a child (R253) -/

theorem exec_prepare_records (h : s.hears m) (hst : s.ep.st = .running ∨ s.ep.st = .prepared) (hlocal : s.ep.localPrep = false)
    (hc : s.children.contains m.src.toNat = true) (hnew : ∀ r ∈ s.ep.reports, r.1 ≠ m.src) :
    exec (.prepare m) s = .next { s with ep := { s.ep with reports := s.ep.reports ++ [(m.src, m.cntm1.toNat + 1)] } } := by
  have hnone : (s.ep.reports.any fun r => r.1 == m.src) = false := by simpa using hnew
  show Host.Outcome.next (s.message .prepare m) = _
  rw [h.acts (ty := .prepare) hst rfl rfl hnone rfl]
  have hopen : (s.ep.st == .running || s.ep.st == .prepared) = true := by rcases hst with e | e <;> simp [e]
  simp only [State.actMsg, hc, hopen, Bool.and_self, if_true, State.checkPrepared, State.modEp, hlocal, Bool.false_and, Bool.not_false]

theorem exec_prepare_again (h : s.hears m) (hagain : ∃ r ∈ s.ep.reports, r.1 = m.src) : exec (.prepare m) s = .next s := by
  obtain ⟨hchip, hfcp, hmep, hepoch, hatt, -⟩ := h
  show Host.Outcome.next (s.message .prepare m) = _
  rw [State.message_heard hchip hfcp]
  have hany : (s.ep.reports.any fun r => r.1 == m.src) = true := by simpa using hagain
  simp [State.onMessage, hmep, hepoch, hatt, State.openEpoch, hany]

end

/-- Settles O27. The two ways in which the coordinator decides ABORT end in `State.decideAbort_decides`. -/
theorem prepareAndAbortRequest : Obligations.PrepareAndAbortRequest := by
  unfold Obligations.PrepareAndAbortRequest
  refine ⟨fun s m h hst hlocal => ⟨exec_prepare_records h hst hlocal, exec_prepare_again h⟩,
    fun s m h hr hd => ⟨?timer, ?request⟩⟩
  case timer =>
    rintro d rfl hst ht hports ⟨id, hl, hq⟩
    exact ⟨_, exec_prepareTimeout_decides h.2.1 hr hd hst ht hports, State.decideAbort_decides (.inr hst) hl hq 0⟩
  case request =>
    rintro d rfl hlate hst ⟨id, hl, hq⟩
    exact ⟨_, exec_abortReq_decides h hst hr hd hlate, State.decideAbort_decides hst hl hq m.info⟩

/-! ### QUERY (R258) -/

section
variable {s : State} {m : CommitMsg}

/-- The coordinator's ANSWER to a QUERY for epoch e, from what its journal says (R258). -/
def State.answerFor (s : State) (e : BitVec 64) : CommitMsg :=
  match s.decisionFor e with
  | some d => { s.ownMsg with
      epoch := e, info := if d.commit then 1 else 2, acause := if d.commit then 0 else d.cause, att := d.att }
  | none => { s.ownMsg with epoch := e }

theorem exec_query_answers (hchip : s.err.chip = none) (hfcp : s.procReady fcpIx = true) (hm : m.mepoch = s.ep.mepoch)
    (hr : s.ep.rank = 0) (hsrc : m.src.toNat ≠ 0) :
    exec (.query m) s = .next (s.injected [s.msgPacket .answer (s.answerFor m.epoch) m.src.toNat]) := by
  have hanswer : s.answerQuery m = s.sendMsg .answer (s.answerFor m.epoch) m.src.toNat := by
    have hcoord : s.isCoord = true := by simp [State.isCoord, hr]
    have hother : (s.ep.rank.toNat == m.src.toNat) = false := by simpa [hr] using hsrc.symm
    unfold State.answerQuery State.answerFor
    simp only [hcoord, hother, Bool.not_true, Bool.or_self, Bool.false_eq_true, if_false]
    cases s.decisionFor m.epoch <;> rfl
  show Host.Outcome.next (s.message .query m) = _
  rw [State.message_heard hchip hfcp, State.onMessage, hm, hanswer]
  simp [State.sendMsg_eq]

theorem exec_decideTimeout_asks (hfcp : s.procReady fcpIx = true) (hst : s.ep.st = .prepared) (ht : s.ep.decideTimer = true) :
    exec .decideTimeout s = .next (s.injected [s.msgPacket .query s.ownMsg 0]) := by
  show Host.Outcome.next _ = _
  simp only [hfcp, hst, ht]
  rfl

end

/-- Settles O28: each message is handed to the Causeway, and nothing else changes (`State.sendMsg_eq`). -/
theorem queryAnswered : Obligations.QueryAnswered := by
  unfold Obligations.QueryAnswered
  refine fun s m hchip hfcp => ⟨fun hm hr hsrc => ?query, fun hst ht => ?timeout⟩
  case query =>
    have hsent := s.sendMsg_sent .answer (s.answerFor m.epoch) m.src.toNat
    refine ⟨_, _, exec_query_answers hchip hfcp hm hr hsrc, rfl, fun d hd => ?_, fun hd => ?_⟩
    · simpa only [State.answerFor, hd] using hsent
    · simpa only [State.answerFor, hd] using hsent
  case timeout => exact ⟨_, _, exec_decideTimeout_asks hfcp hst ht, rfl, s.sendMsg_sent .query s.ownMsg 0⟩

end Sys2Proof.Machine
end

section
/-!
PROOFS. Local PREPARE (10 R253 to R255), which settles O30.
-/

namespace Sys2Proof.Machine

section
variable {s s1 : State}

/-- The members that a member's PREPARE covers: itself and those that its children have reported (R253). -/
def EpochState.covered (e : EpochState) : Nat := e.reports.foldl (fun acc r => acc + r.2) 1

/-- Every child has reported. -/
def State.heardAll (s : State) : Bool := s.children.all fun k => s.ep.reports.any fun r => r.1.toNat == k

/-- The commit state of a member that is prepared itself. -/
def EpochState.prepared (e : EpochState) : EpochState :=
  { e with st := .prepared, localPrep := true, prepTimer := e.rank == 0 }

/-- The commit state of the coordinator that has recorded COMMIT of the open attempt. -/
def EpochState.decidedCommit (e : EpochState) : EpochState :=
  { e with
    decision := some ⟨e.c + 1, e.att, true, 0⟩, oldDecision := false, lastCommit := some ⟨e.c + 1, e.att, true, 0⟩
    acted := some (e.c + 1, e.att) }

theorem State.localCommit_ep (s : State) : s.localCommit.ep = s.ep.committed := by
  obtain ⟨sweep, sweepQ, fe, jnl, h, -⟩ := s.localCommit_eq
  rw [h]

/-- What a commit does is said of the numbers, the memory and the hummocks that it starts from. -/
theorem State.commitsLocally.of_same {u t : State} (h : u.commitsLocally t) (hopen : u.ep.genOpen = s.ep.genOpen)
    (hc : u.ep.c = s.ep.c) (hcommits : u.ep.commits = s.ep.commits) (hmem : u.mem = s.mem) (hhums : u.hums = s.hums)
    (hsluices : u.sluices = s.sluices) : s.commitsLocally t := by
  simpa only [State.commitsLocally, hopen, hc, hcommits, hmem, hhums, hsluices] using h

theorem State.memberDev_of_members {u t : State} (hmembers : u.ep.members = t.ep.members) (hcwy : u.cwy = t.cwy) (k : Nat) :
    u.memberDev k = t.memberDev k := by
  rw [State.memberDev, State.memberDev, hmembers, State.ownId, State.ownId, hcwy]

theorem State.failedAtt_of_workDone {l : Launch} (h : s.workDone l = true) : s.ep.failedAtt = none := by
  simp only [State.workDone, Bool.and_eq_true, Option.isNone_iff_eq_none] at h
  obtain ⟨⟨⟨⟨-, hnone⟩, -⟩, -⟩, -⟩ := h
  exact hnone

theorem exec_localPrepare_done {l : Launch} (hrun : s.running = some l) (hwork : s.workDone l = true)
    (hwatch : s.writeWatch l = (s1, .done)) (hep : s1.ep = s.ep) :
    exec .localPrepare s = .next ({ s1 with ep := s1.ep.prepared } : State).checkPrepared := by
  have hattempt : s1.attemptFailed = false := by simp [State.attemptFailed, hep, State.failedAtt_of_workDone hwork]
  show execLocalPrepare s = _
  simp only [execLocalPrepare, hrun, hwork, hwatch, hattempt]
  rfl

/-- A member whose own PREPARE stands, and whose attempt has not failed, waits, decides or reports by what its children have said. -/
theorem State.checkPrepared_of_uncovered (h : s.ep.covered ≠ s.subtree ∨ s.heardAll = false) : s.checkPrepared = s := by
  have hoff : (s.heardAll && s.ep.covered == s.subtree) = false := by
    rcases h with h | h
    · rw [beq_false_of_ne h, Bool.and_false]
    · rw [h, Bool.false_and]
  unfold State.checkPrepared
  unfold State.heardAll EpochState.covered at hoff
  simp only [Bool.and_assoc, hoff, Bool.and_false, Bool.not_false, if_true]

theorem State.checkPrepared_decides (hst : s.ep.st = .prepared) (hlocal : s.ep.localPrep = true) (hf : s.ep.failedAtt = none)
    (hsum : s.ep.covered = s.subtree) (hheard : s.heardAll = true) (hr : s.ep.rank = 0) (hd : s.decided = false) :
    ∃ jnl, s.checkPrepared = (({ s with ep := s.ep.decidedCommit, jnl } : State).toChildren .commit s.ownMsg).localCommit := by
  unfold State.heardAll at hheard
  unfold EpochState.covered at hsum
  have hcoord : s.isCoord = true := by simp [State.isCoord, hr]
  unfold State.checkPrepared
  rw [if_neg (by simp [hst, hlocal, hf, hheard, hsum]), if_pos hcoord, if_neg (by simp [hd])]
  exact ⟨_, rfl⟩

theorem State.checkPrepared_reports (hst : s.ep.st = .prepared) (hlocal : s.ep.localPrep = true) (hf : s.ep.failedAtt = none)
    (hsum : s.ep.covered = s.subtree) (hheard : s.heardAll = true) (hr : s.ep.rank ≠ 0) (hsent : s.ep.sent = false) :
    ∃ fe jnl, s.checkPrepared =
      { s.injected [s.msgPacket .prepare { s.ownMsg with cntm1 := BitVec.ofNat 16 (s.ep.covered - 1) } s.parentRank] with
        ep := { s.ep with sent := true, decideTimer := true }, fe, jnl } := by
  unfold State.heardAll at hheard
  unfold EpochState.covered at hsum
  have hcoord : s.isCoord = false := beq_false_of_ne hr
  unfold State.checkPrepared
  rw [if_neg (by simp [hst, hlocal, hf, hheard, hsum]), if_neg (by simp [hcoord]), if_neg (by simp [hsent])]
  dsimp only
  split
  · exact ⟨_, _, rfl⟩
  · exact ⟨_, _, rfl⟩

end

/-- Settles O30. The three outcomes are those of `State.checkPrepared` at a member that is prepared itself. -/
theorem localPrepareResult : Obligations.LocalPrepareResult := by
  unfold Obligations.LocalPrepareResult
  intro s s1 l hrun hwork hwatch hep sum heard
  have hexec := exec_localPrepare_done hrun hwork hwatch hep
  have hf := State.failedAtt_of_workDone hwork
  rw [hep] at hexec
  refine ⟨fun hwaits => ?waits, fun hsum hheard hr hd => ?decides, fun hsum hheard hr hsent => ?reports⟩
  case waits =>
    rw [State.checkPrepared_of_uncovered (s := { s1 with ep := s.ep.prepared }) hwaits] at hexec
    exact ⟨_, hexec, rfl, rfl, rfl, rfl, rfl, rfl⟩
  case decides =>
    obtain ⟨jnl, h⟩ := State.checkPrepared_decides (s := { s1 with ep := s.ep.prepared }) rfl rfl hf hsum hheard hr hd
    rw [h] at hexec
    refine ⟨_, hexec, ?_, ?_⟩
    · rw [State.toChildren_eq, State.localCommit_ep]
      rfl
    · rw [State.toChildren_eq]
      exact (State.localCommit_commits _).of_same (congrArg EpochState.genOpen hep).symm (congrArg EpochState.c hep).symm
        (congrArg EpochState.commits hep).symm rfl rfl rfl
  case reports =>
    obtain ⟨fe, jnl, h⟩ := State.checkPrepared_reports (s := { s1 with ep := s.ep.prepared }) rfl rfl hf hsum hheard hr hsent
    rw [h] at hexec
    refine ⟨_, _, hexec, rfl, rfl, rfl, rfl, ?_, rfl⟩
    have hmembers : s.ep.prepared.members = s1.ep.members := (congrArg EpochState.members hep).symm
    exact ⟨rfl, rfl, State.memberDev_of_members (u := { s1 with ep := s.ep.prepared }) hmembers rfl _, rfl, rfl⟩

end Sys2Proof.Machine
end

section
/-!
PROOFS. The sweep of the page records (10 R246) and the ends of local commit and rollback (10 R244, R245, R256, R260), which settle O31.
-/

namespace Sys2Proof.Machine

/-! ### Launches looked up -/

section
variable {s : State} {id : Nat} {l : Launch}

theorem State.launchOf_of_fe {t : State} (h : t.fe = s.fe) (id : Nat) : t.launchOf id = s.launchOf id := by
  rw [State.launchOf, State.launchOf, h]

theorem State.launchOf_modLaunch {f : Launch → Launch} (hf : ∀ x, (f x).id = x.id) (h : s.launchOf id = some l) :
    (s.modLaunch id f).launchOf id = some (f l) := by
  have hid : (fun x : Launch => (if x.id == id then f x else x).id == id) = fun x => x.id == id :=
    funext fun x => by split <;> simp [hf]
  obtain ⟨-, hl⟩ : l ∈ s.fe.launches ∧ l.id = id := ⟨List.mem_of_find?_eq_some h, by simpa using List.find?_some h⟩
  unfold State.launchOf State.modLaunch
  rw [List.find?_map]
  simp only [Function.comp_def, hid]
  rw [show s.fe.launches.find? (fun x => x.id == id) = some l from h, Option.map_some, if_pos (by simpa using hl)]

/-- The launch that has ended holds its record (12 R304 to R306). -/
theorem State.launchOf_endLaunch (h : s.launchOf id = some l) (status : BitVec 16) (committed : Bool) :
    ∃ l', (s.endLaunch id status committed).launchOf id = some l' ∧ l'.record.map CplRec.status = some status := by
  exact ⟨_, State.launchOf_modLaunch (fun _ => rfl) h, rfl⟩

end

/-! ### Commit done (R244, R260) -/

section
variable {s : State} {id : Nat}

/-- Which members are reachable is said by the Causeway's tables and identity. -/
theorem State.reachable_of_cwy {t : State} (h : t.cwy = s.cwy) : t.reachable = s.reachable := by
  funext d
  unfold State.reachable State.routeOf State.ownId
  rw [h]

theorem State.checkReach_of_reachable (h : s.ep.members.all s.reachable = true) : s.checkReach = s := if_pos h

theorem State.releaseHums_hum (s : State) (id g : Nat) :
    (s.releaseHums id).hum g = if (s.hum g).heldBy id then (s.hum g).release else s.hum g := by
  unfold State.releaseHums State.hum
  rw [sget_map (fun p => by split <;> rfl) (fun k => rfl)]
  split <;> rfl

theorem exec_localCommitComplete_releases (hst : s.ep.st = .committing) (hl : s.ep.launch = some id)
    (hreach : s.ep.members.all s.reachable = true) :
    exec .localCommitComplete s = .next ((s.releaseHums id).modEp fun e => { e with st := .idle }).leaveEpoch := by
  show execLocalCommitComplete s = _
  unfold execLocalCommitComplete
  rw [hst, hl]
  exact congrArg Host.Outcome.next (State.checkReach_of_reachable hreach)

theorem State.leaveEpoch_holder (g : Nat) (h : (s.hum g).heldBy id = true) :
    ((s.releaseHums id).hum g).holder = none := by
  rw [State.releaseHums_hum, if_pos h]
  rfl

/-! ### Rollback done (R245, R256, R260) -/

/-- t is s with its open epoch left: device memory, the group and what the Causeway holds are as they were. -/
def State.leavesTo (s t : State) : Prop :=
  t.ep.launch = none ∧ t.ep.st = s.ep.st ∧ t.ep.c = s.ep.c ∧ t.ep.members = s.ep.members ∧ t.mem = s.mem ∧ t.cwy = s.cwy

/-- The launch ends with a status after the attempt that failed, and its hummocks are Gated (R256). -/
def State.endAfter (s : State) (id : Nat) (att : BitVec 16) (st : BitVec 16) : State :=
  (((s.modLaunch id fun l => { l with att := att }).endLaunch id st false).gateHums id).leaveEpoch

theorem State.requeue_leavesTo (s : State) (id : Nat) (att : BitVec 16) (cause : Option (BitVec 8)) : s.leavesTo (s.requeue id att cause) :=
  ⟨rfl, rfl, rfl, rfl, rfl, rfl⟩

theorem State.endAfter_leavesTo (s : State) (id : Nat) (att st : BitVec 16) : s.leavesTo (s.endAfter id att st) := by
  obtain ⟨fe, jnl, he⟩ := (s.modLaunch id fun l => { l with att := att }).endLaunch_eq id st false
  rw [State.endAfter, he]
  obtain ⟨sluices, pwc, jnl, h⟩ := State.gateHums_eq { s.modLaunch id (fun l => { l with att := att }) with fe, jnl } id
  rw [h]
  exact ⟨rfl, rfl, rfl, rfl, rfl, rfl⟩

theorem State.launchOf_requeue {l : Launch} (h : s.launchOf id = some l) (att : BitVec 16) (cause : Option (BitVec 8)) :
    ∃ l', (s.requeue id att cause).launchOf id = some l' ∧ l'.js = .admitted ∧ l'.att = att + 1 ∧ l'.record = l.record :=
  ⟨_, State.launchOf_modLaunch (fun _ => rfl) h, rfl, rfl, rfl⟩

theorem State.launchOf_endAfter {l : Launch} (h : s.launchOf id = some l) (att st : BitVec 16) :
    ∃ l', (s.endAfter id att st).launchOf id = some l' ∧ l'.record.map CplRec.status = some st := by
  obtain ⟨sluices, pwc, jnl, hg⟩ := ((s.modLaunch id fun l => { l with att := att }).endLaunch id st false).gateHums_eq id
  have hfe : (s.endAfter id att st).fe = ((s.modLaunch id fun l => { l with att := att }).endLaunch id st false).fe := by
    rw [State.endAfter, hg]
    rfl
  rw [State.launchOf_of_fe hfe]
  exact State.launchOf_endLaunch (State.launchOf_modLaunch (f := fun l => { l with att := att }) (fun _ => rfl) h) st false

/-- A launch that CTX_ABORT has not named waits for the next attempt after causes 0 and 1; it ends with the status of causes 2, 4, 5 and 6,
and what it does after any other cause is one of the two. -/
theorem State.actOn_cases {l : Launch} (hl : s.ep.launch = some id) (h : s.launchOf id = some l) (hasked : l.abortAsked = false)
    (c : BitVec 8) (att : BitVec 16) :
    (∃ cause, s.actOn c att = s.requeue id att cause ∧ c ≠ 2 ∧ c ≠ 4 ∧ c ≠ 5 ∧ c ≠ 6) ∨
      ∃ st, s.actOn c att = s.endAfter id att st ∧ c ≠ 0 ∧ c ≠ 1 ∧
        (c = 2 → st = stExpired) ∧ (c = 4 → st = stProgramFault) ∧ (c = 5 → st = stDataLost) ∧ (c = 6 → st = stAborted) := by
  have hnot : ((s.launchOf id).any fun l => l.abortAsked) = false := by rw [h]; exact hasked
  unfold State.actOn State.decidedLaunch
  simp only [hl, hnot, Bool.false_eq_true, if_false]
  by_cases hreplay : c = 0 ∨ c = 1
  · rw [if_pos hreplay]
    refine .inl ⟨_, rfl, ?_⟩
    rcases hreplay with rfl | rfl <;> decide
  rw [if_neg hreplay]
  rw [not_or] at hreplay
  split_ifs with h2 h4 h5 h6 hlate
  · exact .inr ⟨stExpired, rfl, hreplay.1, hreplay.2, by subst h2; decide⟩
  · exact .inr ⟨stProgramFault, rfl, hreplay.1, hreplay.2, by subst h4; decide⟩
  · exact .inr ⟨stDataLost, rfl, hreplay.1, hreplay.2, by subst h5; decide⟩
  · exact .inr ⟨stAborted, rfl, hreplay.1, hreplay.2, by subst h6; decide⟩
  · exact .inr ⟨stExpired, rfl, hreplay.1, hreplay.2, fun _ => rfl, (absurd · h4), (absurd · h5), (absurd · h6)⟩
  · exact .inl ⟨none, rfl, h2, h4, h5, h6⟩

theorem exec_localRollbackComplete_acts {e : BitVec 64} {a : BitVec 16} {c : BitVec 8} (hst : s.ep.st = .rollingBack)
    (hacted : s.ep.acted = some (e, a)) (hafter : s.ep.after = some c) (hsunder : s.ep.afterSunder = false) :
    exec .localRollbackComplete s =
      .next ((s.modEp fun e => { e with st := .idle, after := none }).actOn c a).checkReach := by
  show execLocalRollbackComplete s = _
  unfold execLocalRollbackComplete
  simp only [hst, hacted]
  rw [if_neg (by simp [hsunder]), hafter]

/-- Every member of the group is still reachable once the epoch is left. -/
theorem State.leavesTo.checkReach {t : State} (h : s.leavesTo t) (hreach : s.ep.members.all s.reachable = true) : t.checkReach = t := by
  obtain ⟨-, -, -, hmembers, -, hcwy⟩ := h
  refine State.checkReach_of_reachable ?_
  rwa [hmembers, State.reachable_of_cwy hcwy]

end

/-! ### The sweep (R246) -/

theorem exec_sweepDone_settles {s : State} {w : Sweep} (h : s.mem.sweep = some w) :
    exec .sweepDone s = .next { s with mem := { s.mem with
      recs := w.recs.foldl (fun m f => sset PageRec.reset m f (sweepRec s w.commit (s.pageRec f))) s.mem.recs
      sweep := s.mem.sweepQ.head?, sweepQ := s.mem.sweepQ.tail } } := by
  show execSweepDone s = _
  unfold execSweepDone State.modMem
  simp only [h]
  cases hq : s.mem.sweepQ <;> rfl

/-- Settles O31. A sweep sets each record on its list once (`sget_foldl_sset`); a rollback that is done ends in one of the two ways of
`State.actOn_cases`. -/
theorem sweepAndEpochEnd : Obligations.SweepAndEpochEnd := by
  unfold Obligations.SweepAndEpochEnd
  refine ⟨fun s w h => ?sweep, fun s id hl hreach => ⟨fun hst => ?commit,
    fun e a c l hst hacted hafter hsunder hlaunch hasked => ?rollback⟩⟩
  case sweep =>
    refine ⟨_, exec_sweepDone_settles h, rfl, rfl, rfl, fun f => ?_⟩
    refine (sget_foldl_sset ..).trans ?_
    unfold sweepRec State.pageRec
    split_ifs <;> rfl
  case commit =>
    exact ⟨_, exec_localCommitComplete_releases hst hl hreach, rfl, rfl, rfl, rfl, fun g hg => State.leaveEpoch_holder g hg⟩
  case rollback =>
    have hexec := exec_localRollbackComplete_acts hst hacted hafter hsunder
    generalize hu : (s.modEp fun e => { e with st := .idle, after := none }) = u at hexec
    have hsame : u.ep.st = .idle ∧ u.ep.c = s.ep.c ∧ u.mem = s.mem := by rw [← hu]; exact ⟨rfl, rfl, rfl⟩
    obtain ⟨hst', hc, hmem⟩ := hsame
    have hreachu : u.ep.members.all u.reachable = true := by rw [← hu]; exact hreach
    rcases State.actOn_cases (s := u) (by rw [← hu]; exact hl) (by rw [← hu]; exact hlaunch) hasked c a with
      ⟨cause, hact, h2, h4, h5, h6⟩ | ⟨st, hact, h0, h1, hst⟩
    · obtain ⟨l', hl', hjs, hatt, hrec⟩ := State.launchOf_requeue (s := u) (by rw [← hu]; exact hlaunch) a cause
      have hleft := u.requeue_leavesTo id a cause
      rw [hact, hleft.checkReach hreachu] at hexec
      obtain ⟨hnone, hidle, hcu, -, hmemu, -⟩ := hleft
      exact ⟨_, l', hexec, hidle.trans hst', hnone, hcu.trans hc, hmemu.trans hmem, hl', fun _ => ⟨hjs, hatt, hrec⟩, (absurd · h2),
        (absurd · h4), (absurd · h5), (absurd · h6)⟩
    · obtain ⟨l', hl', hrec⟩ := State.launchOf_endAfter (s := u) (by rw [← hu]; exact hlaunch) a st
      have hleft := u.endAfter_leavesTo id a st
      rw [hact, hleft.checkReach hreachu] at hexec
      obtain ⟨hnone, hidle, hcu, -, hmemu, -⟩ := hleft
      obtain ⟨h2, h4, h5, h6⟩ := hst
      exact ⟨_, l', hexec, hidle.trans hst', hnone, hcu.trans hc, hmemu.trans hmem, hl', fun h => (h.elim h0 h1).elim,
        fun h => h2 h ▸ hrec, fun h => h4 h ▸ hrec, fun h => h5 h ▸ hrec, fun h => h6 h ▸ hrec⟩

end Sys2Proof.Machine
end

section
/-!
PROOFS. Accesses to device memory (09 R213 to R226) leave what is not memory's alone, and meet no poison where memory has no errors.
-/

namespace Sys2Proof.Machine

/-- From s to t, accesses to device memory have changed its state, drawn free values, and counted violations and events at most. -/
structure State.MemOnly (s t : State) : Prop where
  rest : { t with mem := s.mem, freeCtr := s.freeCtr, cip := s.cip, err := s.err } = s

namespace State.MemOnly

theorem refl (s : State) : s.MemOnly s := ⟨rfl⟩

theorem trans {s t u : State} (h : s.MemOnly t) (k : t.MemOnly u) : s.MemOnly u where
  rest := by
    calc ({ u with mem := s.mem, freeCtr := s.freeCtr, cip := s.cip, err := s.err } : State)
        = { ({ u with mem := t.mem, freeCtr := t.freeCtr, cip := t.cip, err := t.err } : State) with
            mem := s.mem, freeCtr := s.freeCtr, cip := s.cip, err := s.err } := rfl
      _ = s := by rw [k.rest, h.rest]

section
variable {s t : State}

theorem ep (h : s.MemOnly t) : t.ep = s.ep := by simpa using congrArg State.ep h.rest
theorem fe (h : s.MemOnly t) : t.fe = s.fe := by simpa using congrArg State.fe h.rest
theorem cwy (h : s.MemOnly t) : t.cwy = s.cwy := by simpa using congrArg State.cwy h.rest
theorem hums (h : s.MemOnly t) : t.hums = s.hums := by simpa using congrArg State.hums h.rest
theorem fw (h : s.MemOnly t) : t.fw = s.fw := by simpa using congrArg State.fw h.rest
theorem mss (h : s.MemOnly t) : t.mss = s.mss := by simpa using congrArg State.mss h.rest

end
end State.MemOnly

/-! ### Physical accesses -/

theorem countEcc_memOnly (s : State) (sec chan ce ue : Nat) : s.MemOnly (countEcc s sec chan ce ue) := by
  unfold countEcc
  split
  · exact ⟨rfl⟩
  · exact .refl s

theorem State.memEvent_memOnly (s : State) (kind sector chan src ctx addr seq : Nat) :
    s.MemOnly (s.memEvent kind sector chan src ctx addr seq) := by
  obtain ⟨err, h⟩ := s.event_err_only 0 0x01 (leBytes 1 kind ++ leBytes 1 sector ++ leBytes 1 chan ++ leBytes 1 src ++
    leBytes 1 ctx ++ leBytes 3 0 ++ leBytes 8 addr ++ leBytes 8 seq)
  rw [State.memEvent, h]
  exact ⟨rfl⟩

theorem State.eccHbm_memOnly (s : State) (lo hi ctx : Nat) : s.MemOnly (s.eccHbm lo hi ctx).1 := by
  unfold State.eccHbm
  refine foldl_keeps (fun r : State × Option Nat => s.MemOnly r.1) _ (fun r p h => ?_) _ _ (.refl s)
  dsimp only
  split
  · exact h.trans (.trans (t := r.1.setErr p.1 _) ⟨rfl⟩ (countEcc_memOnly _ _ _ _ _))
  · exact h.trans ((countEcc_memOnly _ _ _ _ _).trans (State.memEvent_memOnly _ _ _ _ _ _ _ _))
  · exact h

theorem State.DevFrame.memOnly {s t : State} (h : s.DevFrame t) : s.MemOnly t := by
  refine ⟨?_⟩
  calc ({ t with mem := s.mem, freeCtr := s.freeCtr, cip := s.cip, err := s.err } : State)
      = { ({ t with mem := s.mem } : State) with freeCtr := s.freeCtr, cip := s.cip, err := s.err } := rfl
    _ = s := by rw [h.rest]

theorem State.physRead_memOnly (s : State) (who : Accessor) (a n ctx : Nat) : s.MemOnly (s.physRead who a n ctx).s := by
  unfold State.physRead
  split
  · exact .refl s
  split
  · exact ⟨rfl⟩
  · exact (s.beforeAccess_dev (dpaFrame a) a n).memOnly.trans (State.eccHbm_memOnly _ _ _ _)

theorem State.physRead_poison {s : State} (h : s.mem.err = []) (who : Accessor) (a n ctx : Nat) :
    (s.physRead who a n ctx).poison = none := by
  unfold State.physRead
  split
  · rfl
  split
  · rfl
  · dsimp only
    rw [State.eccHbm_of_clean ((s.beforeAccess_dev (dpaFrame a) a n).clean h)]

theorem State.settleErr_memOnly (s : State) (lo hi : Nat) : s.MemOnly (s.settleErr lo hi) := by
  unfold State.settleErr
  split
  · exact .refl s
  · exact ⟨rfl⟩

theorem State.physWrite_memOnly (s : State) (who : Accessor) (a : Nat) (bs : List Byte) : s.MemOnly (s.physWrite who a bs) := by
  unfold State.physWrite
  split
  · exact .refl s
  split
  · exact ⟨rfl⟩
  · exact (s.beforeAccess_dev (dpaFrame a) a bs.length).memOnly.trans
      ((State.settleErr_memOnly _ (a / 32) ((a + bs.length + 31) / 32)).trans ⟨rfl⟩)

/-! ### Translation -/

theorem State.walk_memOnly (s : State) (c va fuel level t : Nat) : s.MemOnly (s.walk c va fuel level t).1 := by
  induction fuel generalizing s level t with
  | zero => exact .refl s
  | succ n ih =>
    have hread (i : Nat) : s.MemOnly (s.readEntry c t i).1 := s.physRead_memOnly _ _ _ _
    grind [State.walk, State.MemOnly.refl, State.MemOnly.trans]

/-- A walk meets no poison where memory has no errors. -/
theorem State.walk_ne_poison {s : State} (h : s.mem.err = []) (c va fuel level t d : Nat) :
    (s.walk c va fuel level t).2 ≠ .poison d := by
  induction fuel generalizing s level t with
  | zero => simp [State.walk]
  | succ n ih =>
    have hread (i : Nat) : (s.readEntry c t i).2.2 = none := State.physRead_poison h _ _ _ _
    have hclean (i : Nat) : (s.readEntry c t i).1.mem.err = [] := (s.readEntry_frame c t i).clean h
    grind [State.walk]

theorem State.xlate_memOnly (s : State) (u c va : Nat) (write : Bool) : s.MemOnly (s.xlate u c va write).1 := by
  have hdraw (t : State) : t.MemOnly t.draw.2 := ⟨rfl⟩
  have htlb (t : State) (l : List (Nat × TlbEntry)) : t.MemOnly { t with mem := { t.mem with tlb := l } } := ⟨rfl⟩
  grind [State.xlate, State.walk_memOnly, State.MemOnly.refl, State.MemOnly.trans]

theorem State.xlate_ne_poison {s : State} (h : s.mem.err = []) (u c va : Nat) (write : Bool) (d : Nat) :
    (s.xlate u c va write).2 ≠ .poison d := by
  have hwalk (root : Nat) := State.walk_ne_poison h c va 4 0 root d
  grind [State.xlate]

theorem State.xlateVia_memOnly (s : State) (unit : Option Nat) (c a n : Nat) (write : Bool) :
    s.MemOnly (s.xlateVia unit c a n write).1 := by
  unfold State.xlateVia
  refine foldl_keeps (fun r : State × List TlbEntry × Xlat => s.MemOnly r.1) _ (fun r p hr => ?_) _ _ (.refl s)
  have hx := r.1.xlate_memOnly (unit.getD (vaSector p.1)) c p.1 write
  split
  · split
    · exact hr
    · split <;> rename_i heq <;> rw [heq] at hx <;> exact hr.trans hx
  · exact hr

theorem State.xlateVia_ne_poison {s : State} (h : s.mem.err = []) (unit : Option Nat) (c a n : Nat) (write : Bool) (d : Nat) :
    (s.xlateVia unit c a n write).2.2 ≠ .poison d := by
  unfold State.xlateVia
  refine (foldl_keeps (fun r : State × List TlbEntry × Xlat => r.1.mem.err = [] ∧ r.2.2 ≠ .poison d) _ (fun r p hr => ?_) _ _
    ⟨h, by simp⟩).2
  have hx := State.xlate_ne_poison hr.1 (unit.getD (vaSector p.1)) c p.1 write d
  have hclean := (r.1.xlate_frame (unit.getD (vaSector p.1)) c p.1 write).clean hr.1
  split
  · split
    · exact hr
    · split
      · rename_i heq
        rw [heq] at hclean
        exact ⟨hclean, by simp⟩
      · rename_i heq
        rw [heq] at hx hclean
        exact ⟨hclean, hx⟩
  · exact hr

/-! ### Accesses of the front end -/

theorem State.feGet_memOnly (s : State) (c va n : Nat) : s.MemOnly (s.feGet c va n).1 := by
  have hx := s.xlateVia_memOnly none c va n false
  unfold State.feGet State.xlateSpan
  split <;> rename_i heq <;> rw [heq] at hx
  · exact foldl_keeps (fun r : State × Option (List Byte) => s.MemOnly r.1) _
      (fun r p hr => hr.trans (State.physRead_memOnly _ _ _ _ _)) _ _ hx
  · exact hx.trans (State.memEvent_memOnly _ _ _ _ _ _ _ _)
  · exact hx

/-- Without memory errors, a read of the front end finds its bytes or faults, and there are still no errors. -/
theorem State.feGet_of_clean {s : State} (h : s.mem.err = []) (c va n : Nat) :
    (s.feGet c va n).1.mem.err = [] ∧ ((s.feGet c va n).2 = .fault ∨ ∃ bs, (s.feGet c va n).2 = .bytes bs) := by
  have hclean : (s.xlateVia none c va n false).1.mem.err = [] := (s.xlateVia_reads none c va n false).access.clean h
  have hsound := State.xlateVia_ne_poison h none c va n false
  unfold State.feGet State.xlateSpan
  split <;> rename_i heq <;> rw [heq] at hclean hsound
  · obtain ⟨he, hbs⟩ := foldl_keeps (fun r : State × Option (List Byte) => r.1.mem.err = [] ∧ r.2.isSome = true)
      (fun acc p =>
        let x := acc.1.physRead (.ctx c) (acc.1.cmdDpa (leafAt _ c p.1) p.1) p.2 c
        (x.s, if x.poison.isSome then none else acc.2.map fun b => b ++ x.bytes))
      (fun r p hr => ⟨(State.physRead_frame _ _ _ _ _).clean hr.1, by
        simp [State.physRead_poison hr.1, hr.2]⟩) (piecesOf va n) (_, some []) ⟨hclean, rfl⟩
    obtain ⟨bs, hbs⟩ := Option.isSome_iff_exists.1 hbs
    dsimp only at he hbs ⊢
    exact ⟨he, .inr ⟨bs, by rw [hbs]⟩⟩
  · exact ⟨hclean, .inl rfl⟩
  · exact absurd rfl (hsound _)

end Sys2Proof.Machine
end

section
/-!
PROOFS. Dispatch (10 R250, R260), which settles O29.
-/

namespace Sys2Proof.Machine

section
variable {s : State} {l : Launch}

/-- The bytes of an image are read by accesses alone, and poison that memory does not hold ends no launch (R226). -/
theorem State.imageRead_of_clean (h : s.mem.err = []) (l : Launch) (cls inst off n : Nat) :
    s.MemOnly (s.imageRead l cls inst off n).1 ∧ (s.imageRead l cls inst off n).1.mem.err = [] ∧
      (s.imageRead l cls inst off n).1.mem.hbm = s.mem.hbm := by
  have hget := s.feGet_memOnly l.imgCtx.toNat (l.image.toNat + off) n
  have hhbm := s.feGet_hbm l.imgCtx.toNat (l.image.toNat + off) n
  obtain ⟨hclean, hres⟩ := State.feGet_of_clean h l.imgCtx.toNat (l.image.toNat + off) n
  unfold State.imageRead
  split <;> rename_i heq <;> rw [heq] at hget hhbm hclean hres
  · exact ⟨hget, hclean, hhbm⟩
  · exact ⟨hget, hclean, hhbm⟩
  · simp at hres
  · simp at hres

/-- What setting the launch's sluices leaves as it was (07 R181): the commit state, the front end, the Causeway, the hummocks and
the bytes of device memory. -/
structure State.SluicesSet (s t : State) : Prop where
  ep : t.ep = s.ep
  fe : t.fe = s.fe
  cwy : t.cwy = s.cwy
  hums : t.hums = s.hums
  hbm : t.mem.hbm = s.mem.hbm

theorem State.setSluices_of_clean (h : s.mem.err = []) (l : Launch) : s.SluicesSet (s.setSluices l) := by
  have kept {t : State} (ht : s.MemOnly t) (hhbm : t.mem.hbm = s.mem.hbm) : s.SluicesSet t := ⟨ht.ep, ht.fe, ht.cwy, ht.hums, hhbm⟩
  obtain ⟨hread, hclean, hbytes⟩ := State.imageRead_of_clean h l 0x30 0 0 128
  unfold State.setSluices
  split <;> rename_i heq <;> rw [heq] at hread hclean hbytes
  · rename_i s1 header
    obtain ⟨hread2, -, hbytes2⟩ := State.imageRead_of_clean hclean l 0x30 0 (field header 0x34 4) (8 * field header 0x16 2)
    have htable := kept (hread.trans hread2) (hbytes2.trans hbytes)
    dsimp only
    split <;> rename_i heq2 <;> rw [heq2] at htable
    · refine foldl_keeps s.SluicesSet _ (fun t i ht => ?_) _ _ htable
      split
      · exact ⟨ht.ep, ht.fe, ht.cwy, ht.hums, ht.hbm⟩
      · exact ht
    · exact htable
  · exact kept hread hbytes

theorem State.deliverHeld_none (h : s.ep.held = []) : s.deliverHeld = s := by
  have he : { s.ep with held := [] } = s.ep := by rw [← h]
  simp only [State.deliverHeld, h, List.filter_nil, List.foldl_nil, State.modEp, he]

theorem exec_dispatch_opens (hmay : s.mayDispatch = true) (hnext : s.nextLaunch = some l) (hcause : l.cause = none)
    (hheld : s.ep.held = []) (hlater : s.cwy.later = []) (herr : s.mem.err = []) (hreach : s.ep.members.all s.reachable = true) :
    exec .dispatch s = .next ((s.openAttempt l).setSluices l) := by
  have hset := State.setSluices_of_clean (s := s.openAttempt l) herr l
  show execDispatch s = _
  unfold execDispatch
  simp only [hmay, hnext, hcause]
  generalize (s.openAttempt l).setSluices l = t at *
  obtain ⟨hep, -, hcwy, -, -⟩ := hset
  rw [State.deliverHeld_none (by rw [hep]; exact hheld), State.releaseLater_none (by rw [hcwy]; exact hlater),
    State.checkReach_of_reachable (by rw [State.reachable_of_cwy (s := s) hcwy, hep]; exact hreach)]

end

/-- Settles O29. The epoch is opened by `State.openAttempt`, and setting the launch's sluices keeps what it has opened. -/
theorem dispatchResult : Obligations.DispatchResult := by
  unfold Obligations.DispatchResult
  intro s l hmay hnext hcause hheld hlater herr hreach
  have hexec := exec_dispatch_opens hmay hnext hcause hheld hlater herr hreach
  obtain ⟨hep, hfe, -, hhums, hhbm⟩ := State.setSluices_of_clean (s := s.openAttempt l) herr l
  refine ⟨_, hexec, ?_⟩
  rw [hep, hfe, hhums, hhbm]
  exact ⟨rfl, rfl, rfl, rfl, rfl, rfl, rfl, rfl, rfl⟩

end Sys2Proof.Machine
end

section
/-!
PROOFS. The command ring's enable, failures and resumption (11 R284, R288), completion records and their rings (12 R305 to R312), and
deadlines (12 R302, 10 R262), which settle O45.
-/

namespace Sys2Proof.Machine

/-! ### Writes of a ring's control register (R456, R469) -/

section
variable {s : State} {m : Master} {v : BitVec 64}

/-- What a privileged write leaves of a register whose fields make up a mask. -/
def masked (mask old v : BitVec 64) : BitVec 64 := (old &&& ~~~mask) ||| (v &&& mask)

theorem getLsbD_masked {mask : BitVec 64} {i : Nat} (hi : i < 64) (hmask : mask.getLsbD i = true) (old : BitVec 64) :
    (masked mask old v).getLsbD i = v.getLsbD i := by
  rw [masked, getLsbD_merge _ _ _ hi, if_pos hmask]

/-- A privileged write reaches every field of a register that privilege alone guards; the region of its bits in scope is open. -/
theorem State.regStore_open {off r : Nat} {mask : BitVec 64} (hm : masterPriv m = true) (hrwp : ∀ f ∈ regFlds off, f.acc = .rwp)
    (hscope : cfgScope off = some (r, mask)) (hopen : s.regionOpen r = true) (hoff : off < 0x100100) :
    s.regStore m off none v = (s.setReg off (mergeFlds m none (regFlds off) (s.reg off) v), s.reg off) := by
  have hrefused : refusedWrite m none (regFlds off) = false := by
    simpa [refusedWrite, Fld.inHalf] using fun f hf => by simp [Fld.allowed, hrwp f hf, hm]
  have hcfg : ¬(0x100100 ≤ off ∧ off < 0x100150 ∧ (!s.regionOpen ((off - 0x100100) / 8)) = true) := fun h =>
    absurd h.1 (Nat.not_le.2 hoff)
  simp only [State.regStore, hrefused, closeCheck, hscope, hopen, placeHalf, if_neg hcfg, Bool.false_eq_true, if_false, Bool.true_or,
    if_true]

theorem State.regStore_ringCtl (hm : masterPriv m = true) (hopen : s.regionOpen 8 = true) :
    s.regStore m 0x40 none v = (s.setReg 0x40 (masked 0x7FF1 (s.reg 0x40) v), s.reg 0x40) := by
  have hf : regFlds 0x40 = [⟨0, 1, .rwp⟩, ⟨4, 11, .rwp⟩] := rfl
  rw [State.regStore_open hm (by simp [hf]) (mask := 0x7FF0) rfl hopen (by decide), hf, mergeFlds_cons hm, mergeFlds_cons hm]
  exact congrArg (fun x => (s.setReg 0x40 x, s.reg 0x40)) (merge_merge _ _ _ _)

/-- The control register of a completion ring: its fields, and its bits in scope (R312, R467). -/
theorem cplCtl_register (c : BitVec 6) : regFlds (0x2008 + 32 * c.toNat) = [⟨0, 1, .rwp⟩, ⟨1, 5, .rwp⟩, ⟨6, 11, .rwp⟩] ∧
    cfgScope (0x2008 + 32 * c.toNat) = some (8, 0x1FFFE) := by
  have each : ∀ k : Fin 64, regFlds (0x2008 + 32 * k.val) = [⟨0, 1, .rwp⟩, ⟨1, 5, .rwp⟩, ⟨6, 11, .rwp⟩] ∧
    cfgScope (0x2008 + 32 * k.val) = some (8, 0x1FFFE) := by decide
  exact each c.toFin

theorem State.regStore_cplCtl (hm : masterPriv m = true) (hopen : s.regionOpen 8 = true) (c : BitVec 6) :
    s.regStore m (0x2008 + 32 * c.toNat) none v =
      (s.setReg (0x2008 + 32 * c.toNat) (masked 0x1FFFF (s.reg (0x2008 + 32 * c.toNat)) v), s.reg (0x2008 + 32 * c.toNat)) := by
  obtain ⟨hf, hscope⟩ := cplCtl_register c
  have hoff : 0x2008 + 32 * c.toNat < 0x100100 := by have := c.isLt; omega
  rw [State.regStore_open hm (by simp [hf]) hscope hopen hoff, hf, mergeFlds_cons hm, mergeFlds_cons hm, mergeFlds_cons hm,
    merge_merge, mergeFlds]
  exact congrArg (fun x => (s.setReg _ x, s.reg (0x2008 + 32 * c.toNat))) (merge_merge _ _ _ _)

/-! ### FE_RING_CTL (R288) -/

theorem State.ringEn_enabled (hen : v.getLsbD 0 = true) : (s.setReg 0x40 (masked 0x7FF1 (s.reg 0x40) v)).ringEn =
    ((ringSize (s.regField 0x08 0 5)).isSome && (ringSize (s.regField 0x28 0 5)).isSome) := by
  unfold State.ringEn State.regField
  rw [State.reg_setReg_same, State.reg_setReg_ne _ _ (by decide), State.reg_setReg_ne _ _ (by decide),
    getLsbD_masked (by decide) (by decide), hen, Bool.true_and]

theorem State.modFe_reg (s : State) (f : FrontEnd → FrontEnd) (o : Nat) : (s.modFe f).reg o = s.reg o := rfl

/-- Without a doorbell that waits, none is taken. -/
theorem State.freeDoorbells_none (h : s.fe.dbq = []) : s.freeDoorbells = s := by
  have hfe : { s.fe with dbq := [] } = s.fe := by rw [← h]
  simp only [State.freeDoorbells, State.modFe, h, List.map_nil, hfe, State.drainDoorbells, State.takeBefore, List.length_nil,
    State.takeDoorbells]

theorem exec_feRingEnable_starts (hm : s.privileged m) (hen : v.getLsbD 0 = true) (hoff : (s.reg 0x40).getLsbD 0 = false)
    (hopen : s.regionOpen 8 = true) (hcmd : ringSize (s.regField 0x08 0 5) ≠ none) (hrpl : ringSize (s.regField 0x28 0 5) ≠ none) :
    exec (.feRingEnable m v) s = .next
      ((((s.setReg 0x40 (masked 0x7FF1 (s.reg 0x40) v)).setReg 0x10 0).setReg 0x30 0).modFe fun f =>
        { f with head := 0, rplTail := 0, phase := true }) := by
  have hring : (s.setReg 0x40 (masked 0x7FF1 (s.reg 0x40) v)).ringEn = true := by
    rw [State.ringEn_enabled hen, Option.isSome_iff_ne_none.2 hcmd, Option.isSome_iff_ne_none.2 hrpl, Bool.and_self]
  show execFeRingEnable m v s = _
  simp only [execFeRingEnable, hm.1, if_true, State.ringCtlStore, State.regStore_ringCtl hm.2 hopen, hring, hoff]
  rfl

theorem exec_feRingEnable_illegal (hm : s.privileged m) (hen : v.getLsbD 0 = true) (hopen : s.regionOpen 8 = true)
    (hsize : ringSize (s.regField 0x08 0 5) = none ∨ ringSize (s.regField 0x28 0 5) = none) (hdbq : s.fe.dbq = []) :
    exec (.feRingEnable m v) s = .next (s.setReg 0x40 (masked 0x7FF1 (s.reg 0x40) v)) := by
  have hring : (s.setReg 0x40 (masked 0x7FF1 (s.reg 0x40) v)).ringEn = false := by
    rw [State.ringEn_enabled hen]
    rcases hsize with h | h <;> simp [h]
  show execFeRingEnable m v s = _
  simp only [execFeRingEnable, hm.1, if_true, State.ringCtlStore, State.regStore_ringCtl hm.2 hopen, hring, Bool.false_and,
    Bool.false_eq_true, if_false]
  rw [State.freeDoorbells_none (s := s.setReg _ _) hdbq]

/-! ### A ring access whose DMA fails (R284) -/

/-- An event of the front end takes the next ESEQ of queue 1 (18 R461). -/
theorem State.feEvent_eq (s : State) (ty kind ctx resp count addr seq : Nat) :
    ∃ err, s.feEvent ty kind ctx resp count addr seq = { s with err } ∧ err.eq1.eseq = s.err.eq1.eseq + 1 :=
  ⟨_, rfl, EventQ.place_eseq _ _ _⟩

/-- The event and the interrupt of a failure leave all else as it was. -/
theorem State.feEvent_msix (s : State) (ty kind ctx resp count addr seq : Nat) (vec : State → BitVec 11) : ∃ err out pba,
    (s.feEvent ty kind ctx resp count addr seq).msix (vec (s.feEvent ty kind ctx resp count addr seq)) =
      { s with err, out, link := { s.link with pba } } ∧ err.eq1.eseq = s.err.eq1.eseq + 1 := by
  obtain ⟨err, h, hseq⟩ := s.feEvent_eq ty kind ctx resp count addr seq
  obtain ⟨out, pba, hm⟩ := ({ s with err } : State).msix_eq (vec { s with err })
  rw [h]
  exact ⟨err, out, pba, hm, hseq⟩

theorem exec_ringDmaFailed_slot {resp : DmaResp} (hready : s.feReady = true) (hring : s.ringEn = true) (havail : s.ringAvail ≠ 0) :
    ∃ err out pba, exec (.ringDmaFailed false resp) s =
      .next { s with fe := { s.fe with rdblk := true }, err, out, link := { s.link with pba } } ∧
        err.eq1.eseq = s.err.eq1.eseq + 1 := by
  have hhost : s.hostOk = true := by
    simp only [State.feReady, Bool.and_eq_true] at hready
    tauto
  obtain ⟨err, out, pba, h, hseq⟩ := (s.modFe fun f => { f with rdblk := true }).feEvent_msix 0x11 0 0 (respCode resp) 0
    ((s.reg 0x00).toNat + 64 * s.fe.head.toNat) s.fe.seq.toNat fun u => (u.reg 0x40).extractLsb' 4 11
  refine ⟨err, out, pba, ?_, hseq⟩
  have havail : (s.ringAvail != 0) = true := by simpa using havail
  show execRingDmaFailed false resp s = _
  simp only [execRingDmaFailed, hring, hhost, hready, havail]
  exact congrArg Host.Outcome.next h

theorem exec_ringDmaFailed_reply {resp : DmaResp} {r : Reply} (hhost : s.hostOk = true) (hring : s.ringEn = true)
    (hheld : s.fe.heldReply = some r) (htail : s.fe.rplTail ≠ 0) (hblk : s.fe.wrblk = false) :
    ∃ err out pba, exec (.ringDmaFailed true resp) s =
      .next { s with fe := { s.fe with rplTail := s.fe.rplTail - 1, wrblk := true }, err, out, link := { s.link with pba } } ∧
        err.eq1.eseq = s.err.eq1.eseq + 1 := by
  have hpos : 0 < s.fe.rplTail.toNat := Nat.pos_of_ne_zero fun e => htail (BitVec.eq_of_toNat_eq e)
  have hback : BitVec.ofNat 16 (s.fe.rplTail.toNat - 1) = s.fe.rplTail - 1 := by bv_omega
  obtain ⟨err, out, pba, h, hseq⟩ := (s.modFe fun f => { f with rplTail := s.fe.rplTail - 1, wrblk := true }).feEvent_msix 0x11 1 0
    (respCode resp) 0 ((s.reg 0x20).toNat + 32 * (s.fe.rplTail.toNat - 1)) s.fe.seq.toNat fun u => (u.reg 0x40).extractLsb' 4 11
  refine ⟨err, out, pba, Eq.trans ?_ (congrArg Host.Outcome.next h), hseq⟩
  show execRingDmaFailed true resp s = _
  simp only [execRingDmaFailed, hring, hhost, hheld, hblk, if_neg htail, hback]
  rfl

theorem exec_ringDmaFailed_blocked {resp : DmaResp} (hblk : s.fe.wrblk = true) : exec (.ringDmaFailed true resp) s = .next s := by
  show execRingDmaFailed true resp s = _
  unfold execRingDmaFailed
  rw [hblk]
  split
  · rfl
  · cases s.fe.heldReply <;> rfl

/-! ### FE_RING_RESUME (R284) -/

/-- FE_RING_RESUME's GO is a strobe of a master with privilege, and stands behind no sector's bridge. -/
theorem exec_ringResume (hm : s.privileged m) : exec (.ringResume m) s = .next s.ringRetry := by
  have hbits : strobeBits m none 0x58 1#64 = 1#64 := by
    have hf : regFlds 0x58 = [⟨0, 1, .cmp⟩] := rfl
    simp [strobeBits, hf, Fld.strobe, Fld.allowed, hm.2, Fld.inHalf, placeHalf, fldMask]
  show Host.Outcome.next (s.strobe m 0x58 State.ringRetry) = _
  simp [State.strobe, hm.1, State.atBridge, bridgeOf, hbits]

/-! ### Completion records (R305, R306, R308) -/

section
variable {c : BitVec 6} {l : Launch} {r : CplRec} {resp : DmaResp}

theorem exec_completionRecordWrite_due (hst : (s.ctx c.toNat).st ≠ .blocked) (hdue : s.recordDue c.toNat = some (l, r)) :
    exec (.completionRecordWrite c) s = .next (s.writeRecord c.toNat l r) := by
  show execCompletionRecordWrite c s = _
  unfold execCompletionRecordWrite State.ctxSt
  rw [hdue]
  generalize (s.ctx c.toNat).st = st at hst
  cases st with
  | blocked => exact absurd rfl hst
  | _ => rfl

theorem exec_completionWriteFailed_due (hst : (s.ctx c.toNat).st ≠ .blocked) (hdue : s.recordDue c.toNat = some (l, r)) :
    exec (.completionWriteFailed c resp) s = .next (s.failRecord c.toNat l resp 0) := by
  show execCompletionWriteFailed c resp s = _
  unfold execCompletionWriteFailed State.ctxSt
  rw [hdue]
  generalize (s.ctx c.toNat).st = st at hst
  cases st with
  | blocked => exact absurd rfl hst
  | _ => rfl

/-- The context once a record has been written at a position of its ring: the tail is the next one (R305). -/
def Ctx.past (x : Ctx) (size : Nat) (pos : BitVec 16 × Bool) : Ctx :=
  { x with
    tail := if pos.1.toNat + 1 = size then 0 else pos.1 + 1, phase := if pos.1.toNat + 1 = size then !pos.2 else pos.2 }

theorem State.writeRecord_eq (s : State) (c : Nat) (l : Launch) (r : CplRec) :
    let pos := l.pos.getD ((s.ctx c).tail, (s.ctx c).phase)
    ∃ jnl, s.writeRecord c l r =
      { (s.dropLaunch l.id).setCtx c ((s.ctx c).past ((s.cplSize c).getD 128) pos) with
        out := s.out ++ [.hostWrite (s.reg (0x2000 + 32 * c) + BitVec.ofNat 64 (32 * pos.1.toNat)) (recordBytes l r pos.2)], jnl } :=
  ⟨_, rfl⟩

theorem State.failRecord_eq (s : State) (c : Nat) (l : Launch) (resp : DmaResp) (kind : Nat) : ∃ err out pba jnl,
    s.failRecord c l resp kind =
      { (s.modLaunch l.id fun x => { x with pos := none, record := x.record.map fun r => { r with held := true } }).setCtx c
          { s.ctx c with st := .blocked } with err, out, link := { s.link with pba }, jnl } ∧
      err.eq1.eseq = s.err.eq1.eseq + 1 := by
  obtain ⟨err, out, pba, h, hseq⟩ := (((s.modLaunch l.id fun x =>
    { x with pos := none, record := x.record.map fun r => { r with held := true } }).modCtx c fun x =>
      { x with st := .blocked }).jot fepIx).feEvent_msix 0x12 kind c (respCode resp) _ _ _
        fun u => (u.reg (0x2008 + 32 * c)).extractLsb' 6 11
  exact ⟨err, out, pba, _, h, hseq⟩

end

/-! ### FE_CPL_CTL (R305, R312) -/

/-- LOG2 of the written value is what the control register holds then. -/
theorem State.cplSize_setReg (s : State) (c : Nat) (old : BitVec 64) :
    (s.setReg (0x2008 + 32 * c) (masked 0x1FFFF old v)).cplSize c =
      if 7 ≤ v.toNat / 2 % 32 ∧ v.toNat / 2 % 32 ≤ 16 then some (2 ^ (v.toNat / 2 % 32)) else none := by
  have hlog : (masked 0x1FFFF old v).extractLsb' 1 5 = v.extractLsb' 1 5 := by
    refine BitVec.eq_of_getLsbD_eq fun i hi => ?_
    have hmask : (0x1FFFF : BitVec 64).getLsbD (1 + i) = true := by revert i; decide
    simp only [BitVec.getLsbD_extractLsb', getLsbD_masked (show 1 + i < 64 by omega) hmask]
  have hfield : (s.setReg (0x2008 + 32 * c) (masked 0x1FFFF old v)).regField (0x2008 + 32 * c) 1 5 = v.toNat / 2 % 32 := by
    rw [regField_eq, State.reg_setReg_same, hlog, BitVec.extractLsb'_toNat, Nat.shiftRight_eq_div_pow, Nat.pow_one]
  simp only [State.cplSize, hfield]

theorem State.unplace_none (h : ∀ l ∈ s.fe.launches, l.pos = none) (c : Nat) : s.unplace c = s.jot fepIx := by
  have hsame : s.fe.launches.map (fun l => if l.ctx.toNat == c && l.pos.isSome then
      { l with pos := none, record := l.record.map fun r => { r with held := true } } else l) = s.fe.launches :=
    (List.map_congr_left fun l hl => by simp [h l hl]).trans (List.map_id' _)
  unfold State.unplace State.modFe
  dsimp only
  rw [hsame]

/-- EN of a completion ring rises while no record has a place in it: with a legal size the ring starts at entry 0 (R312). -/
theorem exec_cplRingEnable_raised {c : BitVec 6} (hm : s.privileged m) (hen : v.getLsbD 0 = true)
    (hoff : (s.reg (0x2008 + 32 * c.toNat)).getLsbD 0 = false) (hopen : s.regionOpen 8 = true)
    (hpos : ∀ l ∈ s.fe.launches, l.pos = none) :
    let u := (s.setReg (0x2008 + 32 * c.toNat) (masked 0x1FFFF (s.reg (0x2008 + 32 * c.toNat)) v)).jot fepIx
    exec (.cplRingEnable m c v) s = .next (if 7 ≤ v.toNat / 2 % 32 ∧ v.toNat / 2 % 32 ≤ 16 then
      (u.setReg (0x2010 + 32 * c.toNat) 0).modCtx c.toNat fun x => { x with tail := 0, phase := true } else u) := by
  intro u
  have hbit : (masked 0x1FFFF (s.reg (0x2008 + 32 * c.toNat)) v).getLsbD 0 = true := by
    rw [getLsbD_masked (by decide) (by decide), hen]
  have hsize := State.cplSize_setReg (v := v) s c.toNat (s.reg (0x2008 + 32 * c.toNat))
  have hunplace : (s.setReg (0x2008 + 32 * c.toNat) (masked 0x1FFFF (s.reg (0x2008 + 32 * c.toNat)) v)).unplace c.toNat = u :=
    State.unplace_none (s := s.setReg _ _) hpos c.toNat
  show execCplRingEnable m c v s = _
  simp only [execCplRingEnable, hm.1, if_true, State.cplCtlStore, State.regStore_cplCtl hm.2 hopen, State.reg_setReg_same, hbit, hoff,
    hunplace, hsize]
  by_cases hlegal : 7 ≤ v.toNat / 2 % 32 ∧ v.toNat / 2 % 32 ≤ 16
  · rw [if_pos hlegal, if_pos hlegal]
    rfl
  · rw [if_neg hlegal, if_neg hlegal]
    rfl

/-! ### Deadlines (R302, R303, R262) -/

theorem exec_deadlineExpiry_noted {id : Nat} {l : Launch} (h : s.launchOf id = some l) (hlive : l.live = true)
    (hfep : s.procReady fepIx = false) : exec (.deadlineExpiry id) s = .next (s.modLaunch l.id fun y => { y with late := true }) := by
  show execDeadlineExpiry id s = _
  simp [execDeadlineExpiry, h, hlive, hfep]

theorem exec_deadlineExpiry_expires {id : Nat} {l : Launch} (h : s.launchOf id = some l) (hlive : l.live = true)
    (hfep : s.procReady fepIx = true) : exec (.deadlineExpiry id) s = .next (s.expire l) := by
  show execDeadlineExpiry id s = _
  simp [execDeadlineExpiry, h, hlive, hfep]

/-- A rollback keeps which attempt has failed, and every byte of device memory. -/
theorem State.tryRollback_keeps (s : State) : s.tryRollback.ep.failedAtt = s.ep.failedAtt ∧ s.tryRollback.mem.hbm = s.mem.hbm := by
  have hback : s.localRollback.ep.failedAtt = s.ep.failedAtt ∧ s.localRollback.mem.hbm = s.mem.hbm := by
    obtain ⟨err, sweep, sweepQ, hums, sluices, pwc, jnl, h, -⟩ := s.localRollback_eq
    rw [h]
    exact ⟨rfl, rfl⟩
  unfold State.tryRollback
  split
  · split
    · exact hback
    · exact ⟨rfl, rfl⟩
  · split
    · exact hback
    · exact ⟨rfl, rfl⟩
  · exact ⟨rfl, rfl⟩

/-- An attempt that fails has failed, whether it rolls back at once or waits for its writers. -/
theorem State.failAttempt_tryRollback_fails (s : State) :
    s.failAttempt.tryRollback.ep.failedAtt = some s.ep.att ∧ s.failAttempt.tryRollback.mem.hbm = s.mem.hbm := by
  obtain ⟨hfailed, hhbm⟩ := s.failAttempt.tryRollback_keeps
  obtain ⟨hums, sluices, h⟩ := s.failAttempt_eq
  rw [hfailed, hhbm, h]
  exact ⟨rfl, rfl⟩

/-- A fault of a member that has not sent PREPARE fails the attempt: the coordinator decides ABORT, another member requests it (R256). -/
theorem State.Abortable.memberFault (ha : s.Abortable) (cause : BitVec 8) :
    (s.memberFault cause).ep.failedAtt = some s.ep.att ∧ (s.memberFault cause).mem.hbm = s.mem.hbm := by
  have hfault : s.memberFault cause = if s.isCoord then s.decideAbort cause else
      (s.failAttempt.sendMsg .abortReq { s.failAttempt.ownMsg with info := cause } 0).tryRollback := by
    rcases ha.st with e | e <;> simp [State.memberFault, e, ha.decided, ha.sent, ha.fresh]
  rw [hfault]
  split
  · unfold State.decideAbort
    dsimp only
    rw [State.toChildren_eq, State.abortHere_fails_attempt (by exact ha.st)]
    exact State.failAttempt_tryRollback_fails _
  · obtain ⟨hfailed, hhbm⟩ := (s.failAttempt.sendMsg .abortReq { s.failAttempt.ownMsg with info := cause } 0).tryRollback_keeps
    obtain ⟨hums, sluices, h⟩ := s.failAttempt_eq
    rw [hfailed, hhbm, State.sendMsg_eq, h]
    exact ⟨rfl, rfl⟩

theorem State.expire_apart {l : Launch} (hl : s.ep.launch ≠ some l.id) (h : s.ep.st = .sundered ∨ l.att = 1) :
    s.expire l = s.endLaunch l.id stExpired false := by
  have hl : (s.ep.launch == some l.id) = false := beq_false_of_ne hl
  unfold State.expire
  dsimp only
  rw [hl]
  rcases h with h | h
  · rw [h]
    rfl
  · rw [if_neg (by decide : ¬(false = true))]
    split
    · rfl
    · exact if_pos h

theorem State.expire_sundered {l : Launch} (hl : s.ep.launch = some l.id) (hst : s.ep.st = .sundered) :
    s.expire l = ((s.endLaunch l.id stExpired false).gateHums l.id).leaveEpoch := by
  have hl : (s.ep.launch == some l.id) = true := beq_iff_eq.2 hl
  unfold State.expire
  rw [hl, hst]
  rfl

/-- A launch that has sent PREPARE is late at most. -/
theorem State.expire_sent {l : Launch} (hl : s.ep.launch = some l.id) (hst : s.ep.st = .running ∨ s.ep.st = .prepared)
    (hsent : s.ep.sent = true) : s.expire l = s.modLaunch l.id fun y => { y with late := true } := by
  have hl : (s.ep.launch == some l.id) = true := beq_iff_eq.2 hl
  unfold State.expire
  rw [hl, hsent]
  rcases hst with h | h <;> rw [h] <;> rfl

theorem State.expire_fails {l : Launch} (hl : s.ep.launch = some l.id) (ha : s.Abortable) :
    (s.expire l).ep.failedAtt = some s.ep.att ∧ (s.expire l).mem.hbm = s.mem.hbm := by
  have hl : (s.ep.launch == some l.id) = true := beq_iff_eq.2 hl
  have hexpire : s.expire l =
      (s.modLaunch l.id fun x => { x with late := true, cause := x.cause.orElse fun _ => some 2 }).memberFault 2 := by
    unfold State.expire
    rw [hl, ha.sent]
    rcases ha.st with h | h <;> rw [h] <;> rfl
  rw [hexpire]
  exact (ha.of_ep (t := s.modLaunch l.id _) rfl).memberFault 2

end

/-- Settles O45, clause by clause: FE_RING_CTL, the two failures and the resumption of the ring, the oldest record due and its failed
write, FE_CPL_CTL, and the deadline of a launch (`State.expire`). -/
theorem ringResult : Obligations.RingResult := by
  unfold Obligations.RingResult
  intro s m c v resp x
  refine ⟨fun hm _ hen hoff hopen => ⟨fun hcmd hrpl => ?starts, fun hsize hdbq => ?illegal⟩, fun hready hring havail => ?slot,
    fun r hhost hring hheld htail hblk => ?reply, exec_ringDmaFailed_blocked,
    fun hm => ⟨fun hblk => ?resume, fun r hblk hheld => ?rewrite⟩, fun l r hst hdue => ⟨?written, ?failed⟩,
    fun hm _ hen hoff hopen hpos => ?completion, fun id l h hlive hfep => exec_deadlineExpiry_noted h hlive hfep,
    fun id l h hlive hfep => ?deadline⟩
  case starts =>
    refine ⟨_, exec_feRingEnable_starts hm hen hoff hopen hcmd hrpl, rfl, ?_, ?_, ?_, rfl⟩
    · rw [State.modFe_reg, State.reg_setReg_ne _ _ (by decide), State.reg_setReg_same]
    · rw [State.modFe_reg, State.reg_setReg_same]
    · rw [State.modFe_reg, State.reg_setReg_ne _ _ (by decide), State.reg_setReg_ne _ _ (by decide), State.reg_setReg_same,
        getLsbD_masked (by decide) (by decide), hen]
  case illegal => exact ⟨_, exec_feRingEnable_illegal hm hen hopen hsize hdbq, rfl, rfl⟩
  case slot =>
    obtain ⟨err, out, pba, hexec, hseq⟩ := exec_ringDmaFailed_slot (resp := resp) hready hring havail
    exact ⟨_, hexec, rfl, hseq, by simp [State.feReady], rfl, rfl⟩
  case reply =>
    obtain ⟨err, out, pba, hexec, hseq⟩ := exec_ringDmaFailed_reply (resp := resp) hhost hring hheld htail hblk
    exact ⟨_, hexec, rfl, hseq, rfl, rfl⟩
  case resume =>
    rw [exec_ringResume hm, State.ringRetry, hblk]
    rfl
  case rewrite =>
    rw [exec_ringResume hm, State.ringRetry, hblk, hheld]
    rfl
  case written =>
    obtain ⟨jnl, h⟩ := s.writeRecord_eq c.toNat l r
    refine ⟨_, exec_completionRecordWrite_due hst hdue, ?_⟩
    rw [h]
    refine ⟨rfl, fun y => ?_, State.ctx_setCtx_same _ _ _, fun k hk => State.ctx_setCtx_ne _ _ hk, rfl⟩
    show y ∈ s.fe.launches.filter (fun l' => l'.id != l.id) ↔ _
    simp
  case failed =>
    obtain ⟨err, out, pba, jnl, h, hseq⟩ := s.failRecord_eq c.toNat l resp 0
    refine ⟨_, exec_completionWriteFailed_due hst hdue, ?_⟩
    rw [h]
    refine ⟨?_, ?_, hseq, rfl, rfl, rfl⟩
    · exact congrArg Ctx.st (State.ctx_setCtx_same _ _ _)
    · exact (congrArg Ctx.tail (State.ctx_setCtx_same _ c.toNat { s.ctx c.toNat with st := .blocked }) :)
  case completion =>
    have hctl : ((s.setReg (0x2008 + 32 * c.toNat) (masked 0x1FFFF (s.reg (0x2008 + 32 * c.toNat)) v)).reg
        (0x2008 + 32 * c.toNat)).getLsbD 0 = true := by
      rw [State.reg_setReg_same, getLsbD_masked (by decide) (by decide), hen]
    refine ⟨_, exec_cplRingEnable_raised hm hen hoff hopen hpos, ?_⟩
    split_ifs with hlegal
    · refine ⟨?_, rfl, rfl, fun _ => ⟨State.ctx_setCtx_same _ _ _, ?_⟩, fun hnot => by omega⟩
      · refine (congrArg (BitVec.getLsbD · 0) ?_).trans hctl
        exact State.reg_setReg_ne _ _ (by omega)
      · exact State.reg_setReg_same (State.jot (s.setReg _ _) fepIx) _ _
    · exact ⟨hctl, rfl, rfl, fun h => absurd h hlegal, fun _ => ⟨rfl, State.reg_setReg_ne _ _ (by omega)⟩⟩
  case deadline =>
    rw [exec_deadlineExpiry_expires h hlive hfep]
    refine ⟨fun hl hend => by rw [State.expire_apart hl hend], fun hl hst => by rw [State.expire_sundered hl hst],
      fun hl hst hsent => ⟨_, rfl, ?_⟩, fun hl hst hsent hd hf => ⟨_, rfl, State.expire_fails hl ⟨hst, hsent, hd, hf⟩⟩⟩
    rw [State.expire_sent hl hst hsent]
    exact ⟨rfl, rfl, rfl, rfl⟩

end Sys2Proof.Machine
end

section
/-!
PROOFS. MEMBERSHIP (10 R263, R264), a part of O44.
-/

namespace Sys2Proof.Machine

/-! ### The record's fields -/

theorem leNat_lt (bs : List Byte) : leNat bs < 256 ^ bs.length := by
  induction bs with
  | nil => decide
  | cons b bs ih =>
    have hb := b.isLt
    rw [leNat, List.length_cons, Nat.pow_succ]
    omega

theorem field_lt (bs : List Byte) (off n : Nat) : field bs off n < 256 ^ n := by
  have hlen : (slice bs off n).length = n := by simp [slice]
  have h := leNat_lt (slice bs off n)
  rwa [hlen] at h

theorem indexOf_lt {x : Nat} {l : List Nat} (h : x ∈ l) : indexOf x l < l.length := by
  induction l with
  | nil => cases h
  | cons y ys ih =>
    unfold indexOf
    split
    · exact Nat.zero_lt_succ _
    · exact Nat.succ_lt_succ (ih ((List.mem_cons.1 h).resolve_left ‹_›))

theorem getElem?_indexOf {x : Nat} {l : List Nat} (h : x ∈ l) : l[indexOf x l]? = some x := by
  induction l with
  | nil => cases h
  | cons y ys ih =>
    unfold indexOf
    split
    case isTrue hx => rw [hx]; rfl
    case isFalse hx => exact ih ((List.mem_cons.1 h).resolve_left hx)

theorem memberIds_length (r : List Byte) (n : Nat) : (memberIds r n).length = n := by simp [memberIds]

/-! ### The partners of the UP ports (13 R336) -/

theorem State.foldl_emit (s : State) (c : PortIx → Bool) (o : PortIx → Out) (ps : List PortIx) :
    ps.foldl (fun acc p => if c p then acc.emit (o p) else acc) s = { s with out := s.out ++ (ps.filter c).map o } := by
  induction ps generalizing s with
  | nil => simp
  | cons p ps ih =>
    rw [List.foldl_cons, ih]
    cases h : c p <;> simp [h, State.emit, List.append_assoc]

theorem State.tellPartners_eq (s : State) : s.tellPartners =
    { s with out := s.out ++ ((List.finRange 16).filter fun p : PortIx => (s.port p).ls == .up).map fun p => .mep p s.ep.mepoch } :=
  s.foldl_emit _ _ _

/-! ### A record accepted -/

section
variable {s t : State} {h : Hdr} {r : List Byte} {n : Nat}

/-- The commit state with a record's group in force (R263, R264). -/
def EpochState.inGroup (e : EpochState) (r : List Byte) (n : Nat) (own : BitVec 15) : EpochState :=
  { e with
    mepoch := BitVec.ofNat 64 (field r 8 8), members := (memberIds r n).map fun i => BitVec.ofNat 15 i
    rank := BitVec.ofNat 15 (indexOf own.toNat (memberIds r n)), held := [], rejoin := false, afterSunder := false }

/-- t with the record's group in force and the partners told. -/
def State.joins (t : State) (r : List Byte) (n : Nat) : State :=
  (({ t with ep := t.ep.inGroup r n t.ownId } : State).jot fcpIx).tellPartners

theorem State.takeMember_refused (h : s.memberRecordOk r (field r 6 2 + 1) = false) : s.takeMember r = s.refuseMember := by
  simp [State.takeMember, h]

theorem State.takeMember_inconsistent (h : s.resolveMember (BitVec.ofNat 64 (field r 0x10 8)) = none) :
    s.takeMember r = s.refuseMember := by
  simp [State.takeMember, h]

theorem State.takeMember_accepted (h : s.memberRecordOk r (field r 6 2 + 1) = true)
    (ht : s.resolveMember (BitVec.ofNat 64 (field r 0x10 8)) = some t) : s.takeMember r = t.joins r (field r 6 2 + 1) := by
  simp only [State.takeMember, h, ht]
  rfl

/-- What the group in force says of its members and of this device's rank. -/
theorem State.memberRecordOk_ids (h : s.memberRecordOk r n = true) :
    n ≤ 32768 ∧ s.ownId.toNat ∈ memberIds r n ∧ ∀ i ∈ memberIds r n, i < 32768 := by
  simp only [State.memberRecordOk, Bool.and_eq_true, decide_eq_true_eq, List.all_eq_true, beq_iff_eq] at h
  obtain ⟨⟨⟨⟨⟨⟨⟨-, hn⟩, -⟩, -⟩, hcount⟩, hids⟩, -⟩, -⟩ := h
  refine ⟨hn, ?_, hids⟩
  obtain ⟨i, hi, he⟩ := List.countP_pos_iff.1 (by rw [hcount]; exact Nat.one_pos)
  rwa [← beq_iff_eq.1 he]

theorem State.joins_eq (t : State) (r : List Byte) (n : Nat) : ∃ jnl, t.joins r n =
    { t with
      ep := t.ep.inGroup r n t.ownId, jnl
      out := t.out ++ ((List.finRange 16).filter fun p : PortIx => (t.port p).ls == .up).map fun p =>
        .mep p (BitVec.ofNat 64 (field r 8 8)) } := by
  unfold State.joins
  rw [State.tellPartners_eq]
  exact ⟨_, rfl⟩

theorem EpochState.inGroup_mepoch (e : EpochState) (r : List Byte) (n : Nat) (own : BitVec 15) :
    (e.inGroup r n own).mepoch.toNat = field r 8 8 := by
  have h := field_lt r 8 8
  simp only [EpochState.inGroup, BitVec.toNat_ofNat]
  exact Nat.mod_eq_of_lt h

theorem EpochState.inGroup_length (e : EpochState) (r : List Byte) (n : Nat) (own : BitVec 15) :
    (e.inGroup r n own).members.length = n := by
  simp [EpochState.inGroup, memberIds_length]

theorem EpochState.inGroup_member {e : EpochState} {own : BitVec 15} (hids : ∀ i ∈ memberIds r n, i < 32768) {j : Nat} {d : BitVec 15}
    (hd : (e.inGroup r n own).members[j]? = some d) : d.toNat = field r (0x20 + 2 * j) 2 := by
  simp only [EpochState.inGroup, List.getElem?_map, Option.map_eq_some_iff] at hd
  obtain ⟨i, hi, rfl⟩ := hd
  have hlt := hids i (List.mem_of_getElem? hi)
  obtain ⟨k, hk, rfl⟩ : ∃ k, (List.range n)[j]? = some k ∧ field r (0x20 + 2 * k) 2 = i := by
    simpa [memberIds] using hi
  obtain ⟨hj, rfl⟩ := List.getElem?_eq_some_iff.1 hk
  rw [List.getElem_range] at hlt ⊢
  rw [BitVec.toNat_ofNat]
  exact Nat.mod_eq_of_lt hlt

/-- The record names this device at the rank that it takes from the record. -/
theorem EpochState.inGroup_own {e : EpochState} {own : BitVec 15} (hn : n ≤ 32768) (hown : own.toNat ∈ memberIds r n) :
    (e.inGroup r n own).members[(e.inGroup r n own).rank.toNat]? = some own := by
  have hrank : (e.inGroup r n own).rank.toNat = indexOf own.toNat (memberIds r n) := by
    have hlt := indexOf_lt hown
    rw [memberIds_length] at hlt
    simp only [EpochState.inGroup, BitVec.toNat_ofNat]
    exact Nat.mod_eq_of_lt (Nat.lt_of_lt_of_le hlt hn)
  rw [hrank]
  simp only [EpochState.inGroup, List.getElem?_map, getElem?_indexOf hown, Option.map_some, BitVec.ofNat_toNat, BitVec.setWidth_eq]

/-- u is w with the record's group in force, its partners told, and nothing else of it changed (R263, R264). -/
structure State.JoinedTo (w u : State) (r : List Byte) (n : Nat) (own : BitVec 15) : Prop where
  mepoch : u.ep.mepoch.toNat = field r 8 8
  length : u.ep.members.length = n
  members : ∀ j d, u.ep.members[j]? = some d → d.toNat = field r (0x20 + 2 * j) 2
  own : u.ep.members[u.ep.rank.toNat]? = some own
  c : u.ep.c = w.ep.c
  st : u.ep.st = w.ep.st
  after : u.ep.after = w.ep.after
  genOpen : u.ep.genOpen = w.ep.genOpen
  genLast : u.ep.genLast = w.ep.genLast
  rejoin : u.ep.rejoin = false
  out : u.out = w.out ++ ((List.finRange 16).filter fun p : PortIx => (w.port p).ls == .up).map fun p => .mep p u.ep.mepoch
  rest : { u with ep := w.ep, jnl := w.jnl, out := w.out } = w

theorem State.joins_joinedTo (hok : s.memberRecordOk r n = true) (hid : t.ownId = s.ownId) : t.JoinedTo (t.joins r n) r n s.ownId := by
  obtain ⟨hn, hown, hids⟩ := State.memberRecordOk_ids hok
  obtain ⟨jnl, h⟩ := t.joins_eq r n
  rw [h]
  rw [← hid] at hown ⊢
  exact ⟨EpochState.inGroup_mepoch _ _ _ _, EpochState.inGroup_length _ _ _ _, fun _ _ => EpochState.inGroup_member hids,
    EpochState.inGroup_own hn hown, rfl, rfl, rfl, rfl, rfl, rfl, rfl, rfl⟩

/-! ### The rows of R264's table -/

theorem State.resolveMember_first (hst : s.ep.st = .idle) (hm : s.ep.mepoch = 0) (decided : BitVec 64) :
    s.resolveMember decided = some { s with ep := { s.ep with c := decided } } := by
  simp [State.resolveMember, hst, hm, State.modEp]

theorem State.resolveMember_idle (hst : s.ep.st = .idle) (hm : s.ep.mepoch ≠ 0) (decided : BitVec 64) :
    s.resolveMember decided = if decided = s.ep.c then some s else none := by
  simp only [State.resolveMember, hst, if_neg hm]

theorem State.resolveMember_sundered (hst : s.ep.st = .sundered) (decided : BitVec 64) :
    s.resolveMember decided = if decided = s.ep.c then some { s with ep := { s.ep with st := .idle } } else none := by
  simp [State.resolveMember, hst, State.modEp]

theorem State.resolveMember_doubt (hst : s.ep.st = .doubt) (decided : BitVec 64) :
    s.resolveMember decided = if decided = s.openEpoch then some s.localCommit else if decided = s.ep.c then
      some (({ s with ep := { s.ep with after := none } } : State).localRollback.modEp fun e => { e with after := some 2 }) else none := by
  simp only [State.resolveMember, hst]
  rfl

/-- A decided epoch of the record is the number that it is compared with. -/
theorem decided_eq_iff (r : List Byte) (e : BitVec 64) : BitVec.ofNat 64 (field r 0x10 8) = e ↔ field r 0x10 8 = e.toNat := by
  have hlt : field r 0x10 8 < 2 ^ 64 := field_lt r 0x10 8
  rw [← BitVec.toNat_inj, BitVec.toNat_ofNat, Nat.mod_eq_of_lt hlt]

/-! ### MEMBERSHIP (R279) -/

theorem exec_membership_taken {s1 s2 s3 : State} {rec : BitVec 64} {hd : List Byte} (ht : s.takesCmd s1 h 0x20) (hflow : s.flows)
    (hctx : h.ctx = 0) (hlen : h.len = 8) (hrec : addrOk rec 8 = true) (hlegal : memberLegal s1 = true)
    (hhead : s1.feRead 0 rec.toNat 32 = (s2, some hd))
    (hbody : s2.feRead 0 rec.toNat (memberBody (field hd 6 2 + 1) + sigLen) = (s3, some r)) :
    exec (.membership h rec) s = .next (s1.answers (s3.takeMember r) h 0x20 h.ctx.toNat 0 (s3.takeMember r).ep.mepoch.toNat) := by
  show execMembership h rec s = _
  refine congrArg Host.Outcome.next (State.command_now ht (List.any_eq_false.2 fun x _ => by simp [hflow x])
    ⟨by simp [classBroken, hctx], by simp [hlen], hrec, hlegal⟩ ?_)
  simp only [hhead, hbody]

/-- Once the record is accepted, w is what R264's table makes of the state, and the group is in force in it. -/
theorem State.takeMember_joinedTo {w : State} (hok : s.memberRecordOk r (field r 6 2 + 1) = true)
    (hres : s.resolveMember (BitVec.ofNat 64 (field r 0x10 8)) = some w) (hid : w.ownId = s.ownId) :
    w.JoinedTo (s.takeMember r) r (field r 6 2 + 1) s.ownId := by
  rw [State.takeMember_accepted hok hres]
  exact State.joins_joinedTo hok hid

theorem State.localCommit_ownId (s : State) : s.localCommit.ownId = s.ownId := congrArg Fabric.idInForce s.localCommit_cwy

theorem State.localRollback_ownId (s : State) : s.localRollback.ownId = s.ownId := by
  rw [State.ownId, State.localRollback_cwy]
  rfl

end

end Sys2Proof.Machine
end

section
/-!
PROOFS. SENSOR_READ and LOG_READ (11 R279, 16 R402, 15 R395), a part of O44: what a command writes to device memory.
-/

namespace Sys2Proof.Machine

section
variable {s s1 s2 : State} {h : Hdr} {c va d : Nat} {e : TlbEntry} {bs : List Byte}

/-- A command's access to a page that is not protected lies where its leaf says (10 R249). -/
theorem State.cmdDpa_flat (s : State) (hflat : e.big = true → e.leaf.getLsbD 3 = false) (va : Nat) : s.cmdDpa e va = elemDpa e va :=
  if_neg (by simpa using hflat)

/-- A page has no place for a span of no bytes. -/
theorem State.xlateSpan_pos {m : List TlbEntry} {x : Xlat} {n : Nat} {write : Bool} (h : s.xlateSpan c va n write = (s1, m, x))
    (hm : m ≠ []) : 0 < n := by
  rcases Nat.eq_zero_or_pos n with rfl | hn
  · exact absurd (congrArg (fun r => r.2.1) h).symm hm
  · exact hn

/-- A command's write on one plain page writes its bytes there, and leaves what is not memory's alone. -/
theorem State.feWrite_plain (hclean : s.mem.err = []) (hx : s.xlateSpan c va bs.length true = (s2, [e], .ok e))
    (hp : s2.plainAt c va bs.length e d) :
    ∃ u, s.feWrite c va bs = (u, true) ∧ s.MemOnly u ∧ u.mem.hbm = bwrite s.mem.hbm d bs := by
  have hpos := State.xlateSpan_pos hx (List.cons_ne_nil _ _)
  obtain ⟨hhit, hflat, hva, hpage, rfl, hres, hframe, hsealed⟩ := hp
  have hclean2 : s2.mem.err = [] := by
    have := (s.xlateVia_reads none c va bs.length true).access.clean hclean
    rwa [← State.xlateSpan, hx] at this
  have hhbm : s2.mem.hbm = s.mem.hbm := by
    have := s.xlateSpan_hbm c va bs.length true
    rwa [hx] at this
  have honly : s.MemOnly s2 := by
    have := s.xlateVia_memOnly none c va bs.length true
    rwa [← State.xlateSpan, hx] at this
  have hpieces : s2.writePieces [e] c va bs = s2.physWrite (.ctx c) (elemDpa e va) bs := by
    simp [State.writePieces, piecesOf_onePage hva hpos hpage, hhit, leafAt, s2.cmdDpa_flat hflat]
  refine ⟨s2.physWrite (.ctx c) (elemDpa e va) bs, ?_, honly.trans (State.physWrite_memOnly _ _ _ _), ?_⟩
  · simp only [State.feWrite, hx, hpieces]
  · rw [State.physWrite_plain hclean2 hres hframe hsealed, hhbm]

theorem flashRead_length (m : Store Byte) (a n : Nat) : (flashRead m a n).length = n := by
  induction n generalizing a with
  | zero => rfl
  | succ n ih => rw [flashRead, List.length_cons, ih]

/-- The samples of a range of sensors (16 R402). -/
def State.sensorBytes (s : State) (first count : Nat) : List Byte :=
  (List.range count).flatMap fun i => leBytes 8 (sget 0 s.mss.sens (first + i)).toNat

theorem State.sensorBytes_length (s : State) (first count : Nat) : (s.sensorBytes first count).length = 8 * count := by
  simp [State.sensorBytes, List.length_flatMap, leBytes_length, Nat.mul_comm]

theorem exec_sensorRead_writes {first count : BitVec 8} {dst : BitVec 64} (ht : s.takesCmd s1 h 0x80) (hflow : s.flows) (hctx : h.ctx = 0)
    (hlen : h.len = 16) (hfirst : first.toNat ≤ 139) (hcount : first.toNat + count.toNat ≤ 140) (hdst : addrOk dst 8 = true)
    (hclean : s1.mem.err = []) (hx : s1.xlateSpan 0 dst.toNat (8 * count.toNat) true = (s2, [e], .ok e))
    (hp : s2.plainAt 0 dst.toNat (8 * count.toNat) e d) :
    ∃ u, exec (.sensorRead h first count dst) s = .next (s1.answers u h 0x80 h.ctx.toNat 0 count.toNat) ∧
      s1.MemOnly u ∧ u.mem.hbm = bwrite s1.mem.hbm d (s1.sensorBytes first.toNat count.toNat) := by
  rw [← s1.sensorBytes_length first.toNat count.toNat] at hx hp
  obtain ⟨u, hwrite, honly, hhbm⟩ := State.feWrite_plain hclean hx hp
  refine ⟨u, ?_, honly, hhbm⟩
  show execSensorRead h first count dst s = _
  refine congrArg Host.Outcome.next (State.command_now ht (List.any_eq_false.2 fun x _ => by simp [hflow x])
    ⟨by simp [classBroken, hctx], by simp [hlen], by simp [hfirst, hcount, hdst], rfl⟩ ?_)
  have hzero : h.ctx.toNat = 0 := by rw [hctx]; rfl
  unfold State.sensorBytes at hwrite
  simp only [hzero, hwrite]
  rfl

theorem exec_logRead_writes {offset dst : BitVec 64} {size : BitVec 32} (ht : s.takesCmd s1 h 0x81) (hflow : s.flows) (hctx : h.ctx = 0)
    (hlen : h.len = 24) (hrange : offset.toNat + size.toNat ≤ 2 ^ 24) (hdst : addrOk dst 1 = true)
    (hclean : s1.mem.err = []) (hx : s1.xlateSpan 0 dst.toNat size.toNat true = (s2, [e], .ok e))
    (hp : s2.plainAt 0 dst.toNat size.toNat e d) :
    ∃ u, exec (.logRead h offset size dst) s = .next (s1.answers u h 0x81 h.ctx.toNat 0 size.toNat) ∧
      s1.MemOnly u ∧ u.mem.hbm = bwrite s1.mem.hbm d (flashRead s1.fw.flash (logBase + offset.toNat) size.toNat) := by
  rw [← flashRead_length s1.fw.flash (logBase + offset.toNat) size.toNat] at hx hp
  obtain ⟨u, hwrite, honly, hhbm⟩ := State.feWrite_plain hclean hx hp
  refine ⟨u, ?_, honly, hhbm⟩
  show execLogRead h offset size dst s = _
  refine congrArg Host.Outcome.next (State.command_now ht (List.any_eq_false.2 fun x _ => by simp [hflow x])
    ⟨by simp [classBroken, hctx], by simp [hlen], by simpa [hdst] using hrange, rfl⟩ ?_)
  have hzero : h.ctx.toNat = 0 := by rw [hctx]; rfl
  simp only [hzero, hwrite]
  rfl

end

end Sys2Proof.Machine
end

section
/-!
PROOFS. BIST_RUN (16 R420), FW_ACTIVATE (15 R386 to R388), and the sealing commands (16 R415; 09 R229 to R232), a part of O44.
-/

namespace Sys2Proof.Machine

/-! ### BIST_RUN of one hummock -/

section
variable {s s1 : State} {h : Hdr} {k : Chk} {act : State → Done} {f : Reply → State}

/-- A packet that passes, and whose reply a self-test holds, has no reply yet. -/
theorem State.command_held (ht : s.takesCmd s1 h k.opc) (hfree : (k.spans s).any s.spanHeld = false) (hp : k.Passes h s1)
    (ha : act s1 = .held f) : s.command h k act = (f (mkReply stOK k.opc (s1.stateCode k.named (k.graph s1)) h 0)).concluded h := by
  rw [State.command_judged ht hfree]
  obtain ⟨-, -, hpath, hrsvd⟩ := ht
  simp [State.judgePacket, hpath, hrsvd, hp.cls, hp.len, hp.args, hp.legal, ha]

/-- A hummock under test holds nothing (R420). -/
def Hummock.underTest (h : Hummock) : Hummock :=
  { Hummock.reset with power := .inReset, nextId := h.nextId, sealedLast := h.lastSealed, ue := h.ue }

theorem State.bistStart_hummock (s : State) (g : Nat) : s.bistStart 0 g = s.modHum g Hummock.underTest := rfl

theorem exec_bistRun_starts {kind : BitVec 8} {g : Hum} {dst : BitVec 64} (ht : s.takesCmd s1 h 0x82) (hctx : h.ctx = 0)
    (hlen : h.len = 16) (hkind : kind.toNat ≤ 1) (hdst : addrOk dst 32 = true) (hfree : (s1.hum g).holder = none) :
    exec (.bistRun h kind 0 (BitVec.ofNat 8 g.val) dst) s = .next
      (((s1.modHum g Hummock.underTest).modMss fun m =>
        { m with bist := m.bist ++
          [⟨kind, 0, BitVec.ofNat 8 g.val, h.ctx, dst, mkReply stOK 0x82 (s1.stateCode h.ctx.toNat 0) h 0⟩] }).concluded h) := by
  have hg : (BitVec.ofNat 8 g.val).toNat = g.val := by
    rw [BitVec.toNat_ofNat]
    exact Nat.mod_eq_of_lt (by omega)
  show execBistRun h kind 0 (BitVec.ofNat 8 g.val) dst s = _
  refine congrArg Host.Outcome.next ((State.command_held ht rfl
    ⟨kernel_unbroken hctx, by simp [hlen], by simp [hkind, hdst, hg], ?_⟩ rfl).trans ?_)
  · simp [bistLegal, bistHums, bistUnits, hg, hfree]
  · dsimp only
    rw [hg, show (0 : BitVec 8).toNat = 0 from rfl, State.bistStart_hummock]

end

/-! ### FW_ACTIVATE -/

section
variable {s s1 : State} {h : Hdr} {b : Bool}

theorem State.holdActivation_eq (s : State) (b : Bool) : ∃ fw jnl err freeCtr,
    s.holdActivation b = { s with fw, jnl, err, freeCtr } ∧
      fw.procs = s.fw.procs ∧ fw.handoff = s.fw.handoff ∧ fw.pend = some b := by
  obtain ⟨fw, jnl, err, freeCtr, h, hprocs, hhandoff, hpend⟩ :=
    ((s.modFw fun f => { f with pend := some b }).jot mgpIx).fwEvent_eq 4 0xFF (slotCode b) 0 0
  exact ⟨fw, jnl, err, freeCtr, h, hprocs, hhandoff, hpend⟩

/-- A processor that is ready goes to its safe point, and no other changes (R388). -/
theorem State.quiesce_proc (s : State) (i k : Nat) : (s.quiesce i).proc k =
    if k = i ∧ s.procReady i = true then { s.proc i with st := .quiescing } else s.proc k := by
  unfold State.quiesce
  split
  case isTrue hr =>
    by_cases hk : k = i
    · subst hk
      rw [State.proc_setProc_same, if_pos ⟨rfl, hr⟩]
    · rw [State.proc_setProc_ne _ _ hk, if_neg fun e => hk e.1]
  case isFalse hr => rw [if_neg fun e => hr e.2]

/-- Each of the first n processors that is ready has gone to its safe point. -/
theorem State.quiesceAll (s : State) (n : Nat) : (∃ procs, (List.range n).foldl State.quiesce s = s.modFw fun f => { f with procs }) ∧
    ∀ k, ((List.range n).foldl State.quiesce s).proc k =
      if k < n ∧ s.procReady k = true then { s.proc k with st := .quiescing } else s.proc k := by
  induction n with
  | zero => exact ⟨⟨s.fw.procs, rfl⟩, fun k => (if_neg (by omega)).symm⟩
  | succ n ih =>
    obtain ⟨⟨procs, he⟩, hproc⟩ := ih
    rw [List.range_succ, List.foldl_append, List.foldl_cons, List.foldl_nil]
    generalize (List.range n).foldl State.quiesce s = t at he hproc
    have hready : t.procReady n = s.procReady n := by
      rw [State.procReady, hproc, if_neg (by omega), he]
      rfl
    refine ⟨?_, fun k => ?_⟩
    · rw [he]
      unfold State.quiesce
      split
      · exact ⟨_, rfl⟩
      · exact ⟨procs, rfl⟩
    · rw [State.quiesce_proc, hready, hproc, hproc]
      grind

theorem State.startHandoff_eq (s : State) (b : Bool) : ∃ fw jnl, s.startHandoff b = { s with fw, jnl } ∧
    fw.handoff = some (1, b) ∧ fw.pend = none ∧ ∀ k, sget ProcReg.reset fw.procs k =
      if k < 11 ∧ s.procReady k = true then { s.proc k with st := .quiescing } else s.proc k := by
  obtain ⟨⟨procs, he⟩, hproc⟩ := s.quiesceAll 11
  unfold State.startHandoff
  dsimp only
  rw [he]
  rw [he] at hproc
  exact ⟨_, _, rfl, rfl, rfl, hproc⟩

theorem exec_fwActivate_activates (ht : s.takesCmd s1 h 0x83) (hctx : h.ctx = 0) (hlen : h.len = 8) (hfit : s.slotFit b = true) :
    exec (.fwActivate h (if b then 1 else 0)) s =
      .next (s1.answers (s1.activate b).1 h 0x83 h.ctx.toNat 0 (s1.activate b).2) := by
  have hslot : ((if b then 1 else 0 : BitVec 8) == 1) = b := by cases b <;> rfl
  have hle : (if b then 1 else 0 : BitVec 8).toNat ≤ 1 := by cases b <;> decide
  show execFwActivate h (if b then 1 else 0) s = _
  refine congrArg Host.Outcome.next (State.command_now ht rfl
    ⟨kernel_unbroken hctx, by simp [hlen], ?_, rfl⟩ ?_)
  · rw [hslot, hfit, Bool.and_true]
    exact decide_eq_true hle
  · simp only [hslot]

end

/-! ### SEAL and UNSEAL -/

section
variable {s s1 : State} {h : Hdr} {tctx : BitVec 8}

theorem secure_unbroken (hring : h.path ≠ .ring) (hmb : h.path ≠ .mailbox) : classBroken .secure h = false := by
  unfold classBroken
  dsimp only
  split <;> simp_all

theorem exec_sealCtx_answers {kref : BitVec 32} {key : BitVec 512} {sid : Nat} (ht : s.takesCmd s1 h 0x90) (hpath : h.path = .session sid)
    (hlen : h.len = 8) (hc : tctx.toNat < 64) (hkey1 : s1.sessionKey h.path kref = some key) (hkey : s.sessionKey h.path kref = some key)
    (hst : (s1.ctx tctx.toNat).st = .opened) (hlive : s1.liveOf tctx.toNat = 0) :
    exec (.sealCtx h tctx kref) s = .next (s1.answers (s1.sealCtx tctx.toNat key) h 0x90 tctx.toNat 0 0) := by
  show execSealCtx h tctx kref s = _
  refine congrArg Host.Outcome.next (State.command_now ht rfl
    ⟨by simp [classBroken, hpath], by simp [hlen], by simp [hc, hkey], closable_of_opened hst hlive⟩ ?_)
  simp only [hkey1]

theorem exec_unsealCtx_answers (ht : s.takesCmd s1 h 0x91) (hring : h.path ≠ .ring) (hmb : h.path ≠ .mailbox) (hlen : h.len = 8)
    (hc : tctx.toNat < 64) (hst : (s1.ctx tctx.toNat).st = .opened) (hlive : s1.liveOf tctx.toNat = 0) :
    exec (.unsealCtx h tctx) s = .next (s1.answers (s1.unsealCtx tctx.toNat) h 0x91 tctx.toNat 0 0) :=
  congrArg Host.Outcome.next (State.command_now ht rfl
    ⟨secure_unbroken hring hmb, by simp [hlen], by simp [hc], closable_of_opened hst hlive⟩ rfl)

/-- Unsealing a context changes device memory's state alone. -/
theorem State.unsealCtx_rest (s : State) (c : Nat) : { s.unsealCtx c with mem := s.mem } = s := by
  have hfold : { s.mem.own.foldl (State.unsealFrame c) s with mem := s.mem } = s := by
    refine foldl_keeps (fun t : State => { t with mem := s.mem } = s) (State.unsealFrame c) (fun t p ht => ?_) _ _ rfl
    unfold State.unsealFrame
    split
    · obtain ⟨-, -, hrest⟩ := t.ownWrite_leaves p.1 { p.2 with isSealed := false }
      exact (State.with_mem_of_rest hrest s.mem).trans ht
    · exact ht
  have hkeys (t : State) (f : MemState → MemState) : { t.modMem f with mem := s.mem } = { t with mem := s.mem } := rfl
  rw [State.unsealCtx_eq, hkeys]
  exact hfold

end

/-! ### FRAME_OWN -/

section
variable {s s1 : State} {h : Hdr}

theorem State.ownRun_succ (s : State) (sec first n : Nat) (e : OwnEntry) :
    s.ownRun sec first (n + 1) e = (s.ownRun sec first n e).ownWrite (sec * framesPerSector + first + n) e := by
  simp only [State.ownRun, List.range_succ, List.foldl_append, List.foldl_cons, List.foldl_nil]

/-- Frame f is one of the n from first on in a sector. -/
def inRun (sec first n f : Nat) : Bool :=
  decide (sec * framesPerSector + first ≤ f) && decide (f < sec * framesPerSector + first + n)

/-- Every frame of the run takes the entry; one that it unseals reads zero; nothing but device memory's state changes (R229, R232). -/
theorem State.ownRun_does (s : State) (sec first n : Nat) (e : OwnEntry) :
    (∀ f, (s.ownRun sec first n e).owner f = if inRun sec first n f then e else s.owner f) ∧
      (∀ a, bget (s.ownRun sec first n e).mem.hbm a =
        if inRun sec first n (dpaFrame a) && (s.owner (dpaFrame a)).isSealed && !e.isSealed then 0 else bget s.mem.hbm a) ∧
      { s.ownRun sec first n e with mem := s.mem } = s := by
  induction n with
  | zero =>
    have hnone (f : Nat) : inRun sec first 0 f = false := by simp [inRun]
    exact ⟨fun f => by rw [hnone]; rfl, fun a => by rw [hnone]; rfl, rfl⟩
  | succ n ih =>
    obtain ⟨howner, hbyte, hrest⟩ := ih
    have hnext (f : Nat) : inRun sec first (n + 1) f = (inRun sec first n f || f == sec * framesPerSector + first + n) := by
      rw [Bool.eq_iff_iff]
      simp only [inRun, Bool.and_eq_true, decide_eq_true_eq, Bool.or_eq_true, beq_iff_eq]
      omega
    have hlast : inRun sec first n (sec * framesPerSector + first + n) = false := by simp [inRun]
    rw [State.ownRun_succ]
    refine ⟨fun f => ?_, fun a => ?_, ?_⟩
    · rw [State.ownWrite_owner, howner, hnext]
      grind
    · rw [State.ownWrite_byte, hbyte, howner, hlast, hnext]
      grind
    · obtain ⟨-, -, hleaves⟩ := (s.ownRun sec first n e).ownWrite_leaves (sec * framesPerSector + first + n) e
      exact (State.with_mem_of_rest hleaves s.mem).trans hrest

theorem exec_frameOwn_answers {x tctx fl : BitVec 8} {first count : BitVec 32} (ht : s.takesCmd s1 h 0x92) (hring : h.path ≠ .ring)
    (hmb : h.path ≠ .mailbox) (hlen : h.len = 16) (hx : x.toNat < 8) (hc : tctx.toNat < 64) (hfl : fl.toNat < 4)
    (hrange : first.toNat + count.toNat ≤ framesPerSector) :
    exec (.frameOwn h x tctx fl first count) s = .next (s1.answers
      (s1.ownRun x.toNat first.toNat count.toNat ⟨tctx.setWidth 6, fl.getLsbD 0, fl.getLsbD 1⟩) h 0x92 tctx.toNat 0 count.toNat) :=
  congrArg Host.Outcome.next (State.command_now ht rfl
    ⟨secure_unbroken hring hmb, by simp [hlen], by simpa [hx, hc, hfl] using hrange, rfl⟩ rfl)

end

end Sys2Proof.Machine
end

section
/-!
PROOFS. RESET (11 R283, 14 R351, R352), a part of O44: an engine reset and a sector reset where no launch is open.
-/

namespace Sys2Proof.Machine

/-! ### A packet of the ring concluded (12 R296) -/

/-- t is s but for the front end and what it sends. -/
def State.submits (s t : State) : Prop := ∃ fe out pba jnl, t = { s with fe, out, link := { s.link with pba }, jnl }

theorem State.submits.trans {s t u : State} (h : s.submits t) (k : t.submits u) : s.submits u := by
  obtain ⟨fe0, out0, pba0, jnl0, rfl⟩ := h
  obtain ⟨fe, out, pba, jnl, rfl⟩ := k
  exact ⟨fe, out, pba, jnl, rfl⟩

theorem State.takeSlot_submits (s : State) (c : BitVec 6) (i : BitVec 4) : s.submits (s.takeSlot c i) := by
  obtain ⟨fe, hd⟩ := s.decideSlot_fe c i
  have ends (f : Ctx → Ctx) : s.submits ((({ s with fe } : State).modCtx c.toNat f).jot fepIx) := ⟨_, _, _, _, rfl⟩
  have interrupts (t : State) (v : BitVec 11) : t.submits (t.msix v) := by
    obtain ⟨out, pba, hm⟩ := t.msix_eq v
    exact ⟨_, out, pba, _, hm⟩
  unfold State.decideSlot at hd
  unfold State.takeSlot
  dsimp only at hd ⊢
  simp only [hd]
  exact iteInduction (motive := s.submits) (fun _ => (ends _).trans (interrupts _ _)) (fun _ => ends _)

theorem State.takeDoorbells_submits (s : State) (k fuel : Nat) : s.submits (s.takeDoorbells k fuel) := by
  induction fuel generalizing s with
  | zero => exact ⟨_, _, _, _, rfl⟩
  | succ fuel ih =>
    unfold State.takeDoorbells
    split
    case h_1 => exact ⟨_, _, _, _, rfl⟩
    case h_2 c i ahead rest _ =>
      have hpop : s.submits (s.modFe fun f => { f with dbq := rest }) := ⟨_, _, _, _, rfl⟩
      split
      case isTrue => exact (hpop.trans (State.takeSlot_submits _ c i)).trans (ih _)
      case isFalse => exact ⟨_, _, _, _, rfl⟩

/-- What follows a packet of the ring is the front end's, and what it sends. -/
theorem State.concluded_submits (s : State) (h : Hdr) : s.submits (s.concluded h) := by
  unfold State.concluded
  split
  · exact State.submits.trans ⟨_, _, _, _, rfl⟩ (State.takeDoorbells_submits (s.jot fepIx) _ _)
  · exact ⟨_, _, _, _, rfl⟩

/-! ### The start of a level -/

section
variable {s s1 : State} {r : LevelRun}

/-- The start of a level is marked in the error block alone (R361, R364). -/
theorem State.startMark_eq (s : State) (r : LevelRun) : ∃ err, s.startMark r = { s with err } := by
  unfold State.startMark
  dsimp only
  obtain ⟨err, h⟩ := State.event_err_only _ 0 0x03 _
  exact ⟨err, h⟩

theorem State.assembleDump_eq (s : State) (trig : BitVec 32) : ∃ err fw jnl freeCtr,
    s.assembleDump trig = { s with err, fw, jnl, freeCtr } := by
  unfold State.assembleDump State.persistDump
  dsimp only
  obtain ⟨fw, jnl, h, -⟩ := State.save_eq _ _
  rw [h]
  exact ⟨_, fw, jnl, _, rfl⟩

theorem State.raiseWait_eq (s : State) (level target level' target' : Nat) :
    ∃ fe, s.raiseWait level target level' target' = { s with fe } := by
  unfold State.raiseWait
  split
  · split
    · exact ⟨_, rfl⟩
    · exact ⟨_, rfl⟩
  · exact ⟨_, rfl⟩

/-- Without a launch, an attempt that a level fails has no hummocks to stop and none to roll back (R355). -/
theorem State.tryRollback_of_none (h : s.ep.launch = none) : s.tryRollback = s := by
  unfold State.tryRollback
  split <;> simp_all

theorem State.contain_of_none (h : s.ep.launch = none) : s.contain = s := by
  unfold State.contain
  rw [h]

theorem State.failAttempt_of_none (h : s.ep.launch = none) : s.failAttempt = { s with ep := s.ep.failed } := by
  unfold State.failAttempt
  dsimp only
  split
  case h_1 k hk => exact absurd (h.symm.trans hk) nofun
  case h_2 => rfl

theorem State.decideAbort_of_none (h : s.ep.launch = none) (hst : s.ep.st = .running ∨ s.ep.st = .prepared) (cause : BitVec 8) :
    ∃ ep cwy jnl, s.decideAbort cause = { s with ep, cwy, jnl } ∧ ep.launch = none := by
  unfold State.decideAbort
  dsimp only
  rw [State.toChildren_eq, State.abortHere_fails_attempt (by exact hst), State.failAttempt_of_none (by exact h),
    State.tryRollback_of_none (by exact h)]
  exact ⟨_, _, _, rfl, h⟩

theorem State.memberFault_of_none (h : s.ep.launch = none) (cause : BitVec 8) : ∃ ep cwy jnl,
    s.memberFault cause = { s with ep, cwy, jnl } ∧ ep.launch = none := by
  have same : ∃ ep cwy jnl, s = { s with ep, cwy, jnl } ∧ ep.launch = none := ⟨_, _, _, rfl, h⟩
  unfold State.memberFault
  split
  case h_3 => exact same
  all_goals
    split
    · split
      · exact same
      · exact State.decideAbort_of_none h (by simp [*]) cause
    · split
      · exact same
      · dsimp only
        rw [State.failAttempt_of_none h, State.sendMsg_eq, State.tryRollback_of_none (by exact h)]
        exact ⟨_, _, _, rfl, h⟩

theorem State.levelFault_of_none (h : s.ep.launch = none) (cause : BitVec 8) : ∃ ep cwy jnl,
    s.levelFault cause = { s with ep, cwy, jnl } ∧ ep.launch = none := by
  unfold State.levelFault
  split
  · exact State.memberFault_of_none h cause
  · exact ⟨_, _, _, rfl, h⟩

/-! ### An engine reset (R351) -/

theorem State.levelRun_of_none (h : s.ep.launch = none) (code : BitVec 32) : s.levelRun code = noRun code := by
  simp [State.levelRun, State.running, h]

/-- Where no launch is open, an engine reset starts its level and empties the hummock. -/
theorem State.engineReset_eq {g : Hum} (hl : s.ep.launch = none) (hchip : s.err.chip = none) (hbeyond : s.beyond = false)
    (hsec : s.sectorRun (secOf g) = none) (heng : s.engineRun g = none) (code : BitVec 32) : ∃ err sluices,
    s.engineReset g code = { s.modHum g Hummock.underTest with err, sluices } ∧ sget none err.engines g.val = some (noRun code) := by
  obtain ⟨err, hmark⟩ := s.startMark_eq (noRun code)
  have hheld : s.heldRunning g = false := by simp [State.heldRunning, hl]
  unfold State.engineReset State.engineResetAs
  simp only [hheld, hchip, hsec, heng, hbeyond, hmark, Bool.false_eq_true, if_false]
  rw [State.contain_of_none (by exact hl)]
  refine ⟨{ err with engines := sset none err.engines g.val (some (noRun code)) }, _, rfl, ?_⟩
  rw [sget_sset_same]

/-! ### A sector reset (R352) -/

theorem State.restartCore_eq (s : State) (b : Bool) (i : Nat) : ∃ fw, s.restartCore b i = { s with fw } ∧
    (sget ProcReg.reset fw.procs i).st = .starting := by
  have hload : ∃ fw, (if (s.coreOf i).codeOk then s else s.loadCore b i) = { s with fw } := by
    split
    · exact ⟨s.fw, rfl⟩
    · exact ⟨_, rfl⟩
  obtain ⟨fw, h⟩ := hload
  unfold State.restartCore
  rw [h]
  refine ⟨_, rfl, ?_⟩
  dsimp only
  rw [sget_sset_same]

/-- What a sector reset leaves of device memory's state: bytes, page records, the ownership map and keys. -/
def MemState.sameHeld (m m' : MemState) : Prop := m'.hbm = m.hbm ∧ m'.recs = m.recs ∧ m'.own = m.own ∧ m'.keys = m.keys

/-- The hummocks as they stand once those of sector x are reset. -/
def State.humsWiped (s : State) (x : Nat) : List (Nat × Hummock) := s.hums.map fun p => if secOf p.1 = x then (p.1, p.2.underTest) else p

theorem sget_humsWiped (s : State) {x g : Nat} (h : secOf g ≠ x) : sget Hummock.reset (s.humsWiped x) g = s.hum g := by
  unfold State.humsWiped State.hum
  induction s.hums with
  | nil => rfl
  | cons p m ih =>
    obtain ⟨j, hum⟩ := p
    by_cases hj : j = g
    · subst hj
      simp [sget, h]
    · by_cases hx : secOf j = x <;> simp [sget, hj, hx, ih]

theorem State.sectorWipe_eq (s : State) (x : Nat) : ∃ sluices mem regs fw, s.sectorWipe x =
      { s with hums := s.humsWiped x, sluices, mem, regs, fw } ∧ s.mem.sameHeld mem ∧
        (sget ProcReg.reset fw.procs x).st = .starting ∧
        sluices = ({ s with sluices := sclear s.sluices (4096 * x) (4096 * (x + 1)) }.unwait fun g => secOf g == x).sluices := by
  unfold State.sectorWipe
  dsimp only
  obtain ⟨fw, h, hstart⟩ := State.restartCore_eq _ _ _
  rw [h]
  exact ⟨_, _, _, fw, rfl, ⟨rfl, rfl, rfl, rfl⟩, hstart, rfl⟩

theorem State.raiseWaits_eq (s : State) (f : Nat → Nat × Nat × Nat × Nat) (ks : List Nat) : ∃ fe,
    ks.foldl (fun (acc : State) k => acc.raiseWait (f k).1 (f k).2.1 (f k).2.2.1 (f k).2.2.2) s = { s with fe } := by
  refine foldl_keeps (fun t : State => ∃ fe, t = { s with fe }) _ (fun t k ht => ?_) _ _ ⟨s.fe, rfl⟩
  obtain ⟨fe, rfl⟩ := ht
  obtain ⟨fe', h⟩ := State.raiseWait_eq { s with fe } (f k).1 (f k).2.1 (f k).2.2.1 (f k).2.2.2
  exact ⟨fe', h⟩

/-- The sluices once sector x is reset: its own are 0, and its hummocks wait at no other (R352). -/
def State.sluicesWiped (s : State) (x : Nat) : Store Sluice :=
  ({ s with sluices := sclear s.sluices (4096 * x) (4096 * (x + 1)) }.unwait fun g => secOf g == x).sluices

/-- A sector reset runs in sector x, and contains the engine resets there (R358). -/
def ErrBlock.sectorRuns (e : ErrBlock) (x : Nat) (r : LevelRun) : ErrBlock :=
  { e with sectors := sset none e.sectors x (some r), engines := sclear e.engines (12 * x) (12 * (x + 1)) }

theorem ErrBlock.sectorRuns_run (e : ErrBlock) (x : Nat) (r : LevelRun) : sget none (e.sectorRuns x r).sectors x = some r := by
  unfold ErrBlock.sectorRuns
  rw [sget_sset_same]

/-- The replies that wait for an engine reset of the sector wait for the sector's; the attempt, without a launch here, fails. -/
theorem State.sectorWaits_eq (s : State) (x : Nat) (hl : s.ep.launch = none) : ∃ fe ep cwy jnl,
    ((List.range 12).foldl (fun (acc : State) k => acc.raiseWait 2 (12 * x + k) 3 x) s).levelFault 1 = { s with fe, ep, cwy, jnl } ∧
      ep.launch = none := by
  obtain ⟨fe, h⟩ := s.raiseWaits_eq (fun k => (2, 12 * x + k, 3, x)) (List.range 12)
  rw [h]
  obtain ⟨ep, cwy, jnl, hf, hnone⟩ := State.levelFault_of_none (s := { s with fe }) hl 1
  exact ⟨fe, ep, cwy, jnl, hf, hnone⟩

/-- Where no launch is open, a sector reset starts its level and wipes the sector. -/
theorem State.sectorReset_wipes {x : Sec} (hl : s.ep.launch = none) (hchip : s.err.chip = none) (hbeyond : s.beyond = false)
    (hsec : s.sectorRun x = none) (code : BitVec 32) : ∃ err fw jnl freeCtr fe ep cwy, s.sectorReset x code =
      ({ s with err, fw, jnl, freeCtr, fe, ep, cwy } : State).sectorWipe x ∧
        sget none err.sectors x.val = some (noRun code) ∧ ep.launch = none := by
  obtain ⟨err1, hmark⟩ := s.startMark_eq (noRun code)
  obtain ⟨err, fw, jnl1, freeCtr, hdump⟩ := ({ s with err := err1 } : State).assembleDump_eq (noRun code).code
  obtain ⟨fe, ep, cwy, jnl, hwaits, hnone⟩ :=
    State.sectorWaits_eq { s with err := err.sectorRuns x (noRun code), fw, jnl := jnl1, freeCtr } x hl
  refine ⟨err.sectorRuns x (noRun code), fw, jnl, freeCtr, fe, ep, cwy, ?_, ErrBlock.sectorRuns_run _ _ _, hnone⟩
  unfold State.sectorReset State.sectorResetAs
  rw [State.levelRun_of_none hl]
  simp only [hchip, hsec, hbeyond, Bool.false_eq_true, if_false, hmark, hdump]
  refine (congrArg (fun t : State => (t.sectorWipe x).contain) hwaits).trans (State.contain_of_none ?_)
  obtain ⟨sluices, mem, regs, fw', hwipe, -⟩ := State.sectorWipe_eq
    { s with err := err.sectorRuns x (noRun code), fw, jnl, freeCtr, fe, ep, cwy } x
  rw [hwipe]
  exact hnone

/-! ### RESET (R283) -/

section
variable {h : Hdr} {level target : BitVec 8}

/-- The state in which the reply of a RESET waits for its level. -/
def State.awaitsLevel (t : State) (r : Reply) : State := t.modFe fun f => { f with wait := some r }

theorem exec_reset_engine {g : Hum} (ht : s.takesCmd s1 h 0x23) (hctx : h.ctx = 0) (hlen : h.len = 8) (hlevel : level = 2)
    (hg : target.toNat = g.val) (hruns : ((s1.engineReset g (errCode 2 0x40 h.ctx.toNat 0x061)).engineRun g).isSome = true) :
    exec (.reset h level target) s = .next (((s1.engineReset g (errCode 2 0x40 h.ctx.toNat 0x061)).awaitsLevel
      (mkReply stOK 0x23 (s1.stateCode h.ctx.toNat 0) h (2 + 256 * g.val))).concluded h) := by
  subst hlevel
  refine congrArg Host.Outcome.next (State.command_later ht rfl ⟨kernel_unbroken hctx, by simp [hlen], by simp [hg], rfl⟩ ?_)
  unfold State.resetAct
  rw [if_pos (by rfl), hg]
  exact if_pos hruns

theorem exec_reset_sector {x : Sec} (ht : s.takesCmd s1 h 0x23) (hctx : h.ctx = 0) (hlen : h.len = 8) (hlevel : level = 3)
    (hx : target.toNat = x.val) : exec (.reset h level target) s = .next
      (((s1.sectorReset x (errCode 3 0x40 h.ctx.toNat 0x061)).awaitsLevel
        (mkReply stOK 0x23 (s1.stateCode h.ctx.toNat 0) h (3 + 256 * x.val))).concluded h) := by
  subst hlevel
  refine congrArg Host.Outcome.next (State.command_later ht rfl ⟨kernel_unbroken hctx, by simp [hlen], by simp [hx], rfl⟩ ?_)
  unfold State.resetAct
  rw [if_neg (by decide), hx]

end

end

end Sys2Proof.Machine
end

section
/-!
PROOFS. The management and sealing commands put together, which settles O44.
-/

namespace Sys2Proof.Machine

section
variable {s s1 s3 : State} {h : Hdr}

/-! ### What the host's side of a packet's end leaves alone -/

theorem State.submits.keeps {s t : State} (h : s.submits t) : t.hums = s.hums ∧ t.sluices = s.sluices ∧ t.fw = s.fw ∧ t.err = s.err ∧
    t.mem = s.mem := by
  obtain ⟨fe, out, pba, jnl, rfl⟩ := h
  exact ⟨rfl, rfl, rfl, rfl, rfl⟩

/-! ### RESET (R283, R351, R352) -/

theorem exec_reset_hummock {level target : BitVec 8} {g : Hum} (ht : s.takesCmd s1 h 0x23) (hctx : h.ctx = 0) (hlen : h.len = 8)
    (hl : s1.ep.launch = none) (hchip : s1.err.chip = none) (hbeyond : s1.beyond = false) (hlevel : level = 2)
    (hg : target.toNat = g.val) (hsec : s1.sectorRun (secOf g) = none) (heng : s1.engineRun g = none) :
    ∃ t, exec (.reset h level target) s = .next t ∧ t.engineRun g = some (noRun (errCode 2 0x40 h.ctx.toNat 0x061)) ∧
      (∀ k, t.hum k = if k = g.val then (s1.hum g).underTest else s1.hum k) ∧ t.mem = s1.mem ∧
      t.fe.wait = some (mkReply stOK 0x23 (s1.stateCode h.ctx.toNat 0) h (2 + 256 * g.val)) := by
  obtain ⟨err, sluices, hreset, hrun⟩ := State.engineReset_eq hl hchip hbeyond hsec heng (errCode 2 0x40 h.ctx.toNat 0x061)
  have hexec := exec_reset_engine ht hctx hlen hlevel hg (by rw [hreset, State.engineRun, hrun]; rfl)
  rw [hreset] at hexec
  generalize hu : State.awaitsLevel { s1.modHum g Hummock.underTest with err, sluices } _ = u at hexec
  obtain ⟨hums, -, -, herr, hmem⟩ := (u.concluded_submits h).keeps
  have hwait := (u.concluded_submitFrame h).wait
  refine ⟨_, hexec, ?_, fun k => ?_, ?_, ?_⟩
  · rw [State.engineRun, herr, ← hu]
    exact hrun
  · rw [State.hum, hums, ← hu]
    exact sget_sset Hummock.reset s1.hums g.val k (s1.hum g).underTest
  · rw [hmem, ← hu]
    rfl
  · rw [hwait, ← hu]
    rfl

theorem State.sluicesWiped_own {t : State} {x n : Nat} (ht : t.sluices = s.sluicesWiped x) (h : n / 4096 = x) :
    t.sluice n = Sluice.reset := by
  have hcleared : ({ s with sluices := sclear s.sluices (4096 * x) (4096 * (x + 1)) } : State).sluice n = Sluice.reset := by
    rw [State.sluice, sget_sclear, if_pos (by omega)]
  rw [State.sluice, ht]
  refine (State.unwait_sluice _ _ n).trans ?_
  rw [hcleared]
  rfl

theorem State.sluicesWiped_other {t : State} {x n : Nat} (ht : t.sluices = s.sluicesWiped x) (h : n / 4096 ≠ x) :
    s.waitersGone t n fun g => secOf g == x := by
  have hkept : ({ s with sluices := sclear s.sluices (4096 * x) (4096 * (x + 1)) } : State).sluice n = s.sluice n := by
    rw [State.sluice, sget_sclear, if_neg (by omega)]
    rfl
  rw [State.waitersGone, State.sluice, ht]
  refine (State.unwait_sluice _ _ n).trans ?_
  rw [hkept]
  refine congrArg (fun ws => { s.sluice n with waiters := ws }) (List.filter_congr fun w _ => ?_)
  cases w.hum <;> rfl

theorem exec_reset_wholeSector {level target : BitVec 8} {x : Sec} (ht : s.takesCmd s1 h 0x23) (hctx : h.ctx = 0) (hlen : h.len = 8)
    (hl : s1.ep.launch = none) (hchip : s1.err.chip = none) (hbeyond : s1.beyond = false) (hlevel : level = 3)
    (hx : target.toNat = x.val) (hsec : s1.sectorRun x = none) :
    ∃ t, exec (.reset h level target) s = .next t ∧ t.sectorRun x = some (noRun (errCode 3 0x40 h.ctx.toNat 0x061)) ∧
      (t.proc x).st = .starting ∧ t.sluices = s1.sluicesWiped x ∧ t.hums = s1.humsWiped x ∧ s1.mem.sameHeld t.mem ∧
      t.fe.wait = some (mkReply stOK 0x23 (s1.stateCode h.ctx.toNat 0) h (3 + 256 * x.val)) := by
  obtain ⟨err, fw1, jnl, freeCtr, fe, ep, cwy, hreset, hrun, -⟩ :=
    State.sectorReset_wipes hl hchip hbeyond hsec (errCode 3 0x40 h.ctx.toNat 0x061)
  obtain ⟨sluices, mem, regs, fw, hwipe, hheld, hstart, hsluices⟩ :=
    State.sectorWipe_eq { s1 with err, fw := fw1, jnl, freeCtr, fe, ep, cwy } x
  have hexec := exec_reset_sector ht hctx hlen hlevel hx
  rw [hreset, hwipe] at hexec
  generalize hu : State.awaitsLevel _ _ = u at hexec
  obtain ⟨hums, hsl, hfw, herr, hmem⟩ := (u.concluded_submits h).keeps
  have hwait := (u.concluded_submitFrame h).wait
  refine ⟨_, hexec, ?_, ?_, ?_, ?_, ?_, ?_⟩
  · rw [State.sectorRun, herr, ← hu]
    exact hrun
  · rw [State.proc, hfw, ← hu]
    exact hstart
  · rw [hsl, ← hu]
    exact hsluices
  · rw [hums, ← hu]
    rfl
  · rw [hmem, ← hu]
    exact hheld
  · rw [hwait, ← hu]
    rfl

end

/-- Settles O44, command by command: the rows of R264's table (`State.takeMember_joinedTo`), the two levels of RESET, the writes of
SENSOR_READ and LOG_READ (`State.feWrite_plain`), BIST_RUN, FW_ACTIVATE, and the ownership map under SEAL, UNSEAL and FRAME_OWN. -/
theorem managementCommandResult : Obligations.ManagementCommandResult := by
  unfold Obligations.ManagementCommandResult
  intro s s1 h own
  refine ⟨?membership, ?reset, ?sensors, ?log, ?bist, ?activate, ?sealing, ?unsealing, ?frames⟩
  case membership =>
    intro rec s2 hd s3 r ht hflow hctx hlen hrec hlegal hhead hbody n decided refused taken
    have hexec := exec_membership_taken ht hflow hctx hlen hrec hlegal hhead hbody
    have hrefused (hno : s3.takeMember r = s3.refuseMember) : refused := by
      rw [hno] at hexec
      exact hexec
    have htaken {w : State} (hok : s3.memberRecordOk r n = true) (hres : s3.resolveMember (BitVec.ofNat 64 decided) = some w)
        (hid : w.ownId = s3.ownId) : taken w := by
      obtain ⟨hmepoch, hlength, hmembers, hown, hc, hst, hafter, hopen, hlast, hrejoin, hout, hrest⟩ :=
        State.takeMember_joinedTo hok hres hid
      exact ⟨_, hexec, hmepoch, hlength, hmembers, hown, hc, hst, hafter, hopen, hlast, hrejoin, hout, hrest⟩
    refine ⟨fun hbad => hrefused (State.takeMember_refused hbad), fun hok => ⟨fun hst hm => ?first, fun hst hm => ?idle,
      fun hst => ?sundered, fun hst => ?doubt⟩⟩
    case first => exact htaken hok (State.resolveMember_first hst hm _) rfl
    case idle =>
      have hres := State.resolveMember_idle hst hm (BitVec.ofNat 64 decided)
      exact ⟨fun e => htaken hok (hres.trans (if_pos ((decided_eq_iff r _).2 e))) rfl,
        fun e => hrefused (State.takeMember_inconsistent (hres.trans (if_neg (mt (decided_eq_iff r _).1 e))))⟩
    case sundered =>
      have hres := State.resolveMember_sundered hst (BitVec.ofNat 64 decided)
      exact ⟨fun e => htaken hok (hres.trans (if_pos ((decided_eq_iff r _).2 e))) rfl,
        fun e => hrefused (State.takeMember_inconsistent (hres.trans (if_neg (mt (decided_eq_iff r _).1 e))))⟩
    case doubt =>
      have hres := State.resolveMember_doubt hst (BitVec.ofNat 64 decided)
      have hnext : s3.ep.c ≠ s3.openEpoch := by
        unfold State.openEpoch
        simp
      refine ⟨fun e => htaken hok (hres.trans (if_pos ((decided_eq_iff r _).2 e))) s3.localCommit_ownId, fun e => ?_, fun e1 e2 => ?_⟩
      · have hd : BitVec.ofNat 64 decided = s3.ep.c := (decided_eq_iff r _).2 e
        refine ⟨_, rfl, htaken hok (hres.trans ?_) (State.localRollback_ownId { s3 with ep := { s3.ep with after := none } })⟩
        rw [if_neg (by rw [hd]; exact hnext), if_pos hd]
        rfl
      · exact hrefused (State.takeMember_inconsistent (hres.trans (by
          rw [if_neg (mt (decided_eq_iff r _).1 e1), if_neg (mt (decided_eq_iff r _).1 e2)])))
  case reset =>
    intro level target ht hctx hlen hl hchip hbeyond
    refine ⟨fun g hlevel hg hsec heng => ?_, fun x hlevel hx hsec => ?_⟩
    · obtain ⟨t, hexec, hrun, hhums, hmem, hwait⟩ := exec_reset_hummock ht hctx hlen hl hchip hbeyond hlevel hg hsec heng
      have hg := (hhums g).trans (if_pos rfl)
      refine ⟨t, _, hexec, hrun, rfl, ?_, ?_, ?_, ?_, ?_, ?_, ?_, fun k hk => (hhums k).trans (if_neg hk), hmem, hwait⟩ <;>
        rw [hg] <;> rfl
    · obtain ⟨t, hexec, hrun, hstart, hsluices, hhums, ⟨hhbm, hrecs, hown, hkeys⟩, hwait⟩ :=
        exec_reset_wholeSector ht hctx hlen hl hchip hbeyond hlevel hx hsec
      refine ⟨t, _, hexec, hrun, rfl, hstart, fun n => State.sluicesWiped_own hsluices, fun n => State.sluicesWiped_other hsluices,
        fun g hg => ?_, hhbm, hrecs, hown, hkeys, hwait⟩
      rw [State.hum, hhums, sget_humsWiped s1 hg]
  case sensors =>
    intro first count dst s2 e d ht hflow hctx hlen hfirst hcount hdst hclean hx hp
    obtain ⟨u, hexec, honly, hhbm⟩ := exec_sensorRead_writes ht hflow hctx hlen hfirst hcount hdst hclean hx hp
    refine ⟨u, hexec, ?_, honly.mss, honly.hums⟩
    rw [hhbm]
    exact storedAt_bwrite _ _ _
  case log =>
    intro offset size dst s2 e d ht hflow hctx hlen hrange hdst hclean hx hp
    obtain ⟨u, hexec, honly, hhbm⟩ := exec_logRead_writes ht hflow hctx hlen hrange hdst hclean hx hp
    refine ⟨u, hexec, ?_, honly.fw, honly.hums⟩
    rw [hhbm]
    exact storedAt_bwrite _ _ _
  case bist =>
    intro kind g dst ht hctx hlen hkind hdst hfree
    have hhum (k : Nat) : (s1.modHum g Hummock.underTest).hum k = if k = g.val then (s1.hum g).underTest else s1.hum k :=
      sget_sset Hummock.reset s1.hums g.val k (s1.hum g).underTest
    refine ⟨_, exec_bistRun_starts ht hctx hlen hkind hdst hfree, ?_, ?_, fun k hk => (hhum k).trans (if_neg hk), rfl, rfl⟩
    · exact congrArg Hummock.power ((hhum g).trans (if_pos rfl))
    · exact congrArg Hummock.mere ((hhum g).trans (if_pos rfl))
  case activate =>
    intro b ht hctx hlen hfit
    have hexec := exec_fwActivate_activates ht hctx hlen hfit
    refine ⟨fun hheld => ?_, fun hfree => ?_⟩
    · have hact : s1.activate b = (s1.holdActivation b, 1) := if_pos hheld
      rw [hact] at hexec
      obtain ⟨fw, jnl, err, freeCtr, hu, hprocs, hhandoff, hpend⟩ := s1.holdActivation_eq b
      rw [hu] at hexec
      exact ⟨_, hexec, hpend, hhandoff, hprocs, rfl, rfl⟩
    · have hact : s1.activate b = (s1.startHandoff b, 0) := if_neg (by simp [hfree])
      rw [hact] at hexec
      obtain ⟨fw, jnl, hu, hhandoff, hpend, hprocs⟩ := s1.startHandoff_eq b
      rw [hu] at hexec
      refine ⟨_, hexec, hhandoff, hpend, fun i hi hready => ?_, fun i hready => ?_, rfl⟩
      · exact congrArg ProcReg.st ((hprocs i).trans (if_pos ⟨hi, hready⟩))
      · exact (hprocs i).trans (if_neg (by simp [hready]))
  case sealing =>
    intro tctx kref key sid ht hpath hlen hc hkey1 hkey hst hlive
    refine ⟨_, exec_sealCtx_answers ht hpath hlen hc hkey1 hkey hst hlive, sget_sset_same _ _ _ _, ?_,
      fun k hk => sget_sset_ne _ _ _ hk, rfl⟩
    show (s1.mem.loaded ||| (1#64 <<< tctx.toNat)).getLsbD tctx.toNat = true
    simp [hc]
  case unsealing =>
    intro tctx ht hring hmb hlen hc hst hlive
    exact ⟨_, exec_unsealCtx_answers ht hring hmb hlen hc hst hlive, s1.unsealCtx_unsealsTo hc, s1.unsealCtx_fe _,
      by simpa using congrArg State.hums (s1.unsealCtx_rest tctx.toNat)⟩
  case frames =>
    intro x tctx fl first count ht hring hmb hlen hx hc hfl hrange lo hit
    obtain ⟨howner, hbyte, hrest⟩ :=
      s1.ownRun_does x.toNat first.toNat count.toNat ⟨tctx.setWidth 6, fl.getLsbD 0, fl.getLsbD 1⟩
    exact ⟨_, exec_frameOwn_answers ht hring hmb hlen hx hc hfl hrange, howner, hbyte, hrest⟩

end Sys2Proof.Machine
end
